-- ==== Sys2Proof/Word.lean ====
section
/-! DEFINITION. The word types of the DX-LM24A (R15, R41, R88, R91, R93) and the plain data that operands and
events carry. No meaning stands here. -/

namespace Sys2Proof

/-- A scalar register's contents (R41). -/
abbrev Word := BitVec 64

/-- An instruction word (R15). -/
abbrev IWord := BitVec 32

/-- A vector register's, or a scratchpad row's, 512 bytes (R88, R115). -/
abbrev Vec := BitVec 4096

/-- A domain tag (R93). -/
abbrev Tag := BitVec 4

/-- A mask register (R91). -/
abbrev Mask := BitVec 512

/-- A scalar register number x0..x63 (R27, R41). -/
abbrev XReg := BitVec 6

/-- A vector operand code: v0..v55 are 0..55, q0..q7 are 56..63 (R27). -/
abbrev VCode := BitVec 6

/-- The signature of a register result that a variable-latency producer delivers (R33): a scalar value, or a
vector with its tag. -/
inductive Arrival where
  | x (r : XReg) (w : Word)
  | v (r : VCode) (d : Vec) (t : Tag)
  deriving DecidableEq, Repr

/-- The atomic operations of R197. -/
inductive AtomicOp where
  | add | max | min | maxn | minn | and | or | xor | swp | cas | fadd | fmax | fmin
  deriving DecidableEq, Repr

/-- One atomic on one element (R197), addressed by its physical byte address (R178, key id included). -/
structure AtomicReq where
  core    : Nat
  op      : AtomicOp
  addr    : Nat
  width   : Nat
  fmt     : Nat
  operand : Word
  newVal  : Word
  ret     : Bool
  dest    : XReg
  /-- HOME of the element's page (R279). -/
  home    : Nat := 0
  deriving DecidableEq, Repr

/-- One landing row on its way to a zone (R251). `cmd` names the sender's `clz` among its core's commands, so that an answer
finds the command that sent the row. -/
structure LandingRow where
  fromPkg  : Nat
  fromCore : Nat
  fromCh   : Nat
  cmd      : Nat
  zone     : Nat
  slot     : Nat
  off      : Nat
  gen      : BitVec 8
  data     : Vec
  tag      : Tag
  deriving DecidableEq, Repr

/-- The sender of an `evsig.b` arrival (R221, R254): its core, the partition of its task, and the number of the release among its
package's. -/
structure Sender where
  core : Nat
  part : Nat
  rel  : Nat
  deriving DecidableEq, Repr

/-- A request for landing-zone rows (R250), with the partition of the requester's task. `dest` is where its grant goes. -/
structure ResReq where
  fromPkg  : Nat
  fromCore : Nat
  part     : Nat
  zone     : Nat
  slen     : Nat
  pkg      : Nat
  core     : Nat
  dest     : Option XReg
  deriving DecidableEq, Repr

/-- Where a kick comes from (R302): a host link, or a core's `gkick`, with the region of its task and the register that receives
the status while the task is there. -/
inductive KickSource where
  | iow
  | ioe
  | core (id rid : Nat) (dest : Option XReg)
  deriving DecidableEq, Repr

/-- The kinds of requester that a violation entry names (R190). -/
inductive ReqKind where
  | core | fetch | copy | fabric | host | weight | spill
  deriving DecidableEq, Repr

/-- An access to object memory by the host or by another package (R189, R184): a handle, a linear byte offset, and
the bytes to write (none for a read). -/
structure OuterAccess where
  part   : Nat
  kind   : ReqKind
  pkg    : Nat
  core   : Nat
  handle : Word
  offset : Nat
  write  : Option (List (BitVec 8))
  len    : Nat
  deriving DecidableEq, Repr

/-- What a fabric packet asks of this package (R375, R209). `element` is a class-8 access that the object's home, or the holder of
a shard (by the slot of its descriptor), resolves, under a version where the task has pinned one; `bits` carries the coordinates of
its first element and bits (offset, width, value) that it writes (R184); `value` (for a partition, in bytes) and `refused` answer an
access. A release sends a `marker` on each of n live paths (R209); `alone` marks one that no further packet follows. `arrival`,
`publish`, `subscribe` and `pin` ask what R221, R215, R217 and R218 give the target to do; a pin's holder goes by a number of its
package. `done` and `nacked` answer a release by its number. `published` is the news of a publish at an object's home (slot with home)
by a core, `changed` the descriptor of an object homed there as it now is (none: it is destroyed), and `replica` a copy of a replicated
object that Lovage places here, its pages by number (R188). -/
inductive PacketBody where
  | landing (core : Nat) (r : LandingRow)
  | reserve (core : Nat) (q : ResReq)
  | grant (core : Nat) (dest : XReg) (w : Word)
  | release (core : Nat) (rel : Word)
  | arrival (core : Nat) (sender : Sender) (pair : Nat) (bgen : BitVec 8) (paths : Nat)
  | answer (core : Nat) (ch : Nat) (cmd : Nat) (ok : Bool)
  | marker (core rel path paths : Nat) (alone : Bool)
  | publish (part core : Nat) (handle : Word) (ver : Option Nat) (rel paths : Nat)
  | subscribe (part core : Nat) (handle : Word) (ver : Nat)
  | pin (part core : Nat) (handle : Word) (ver : Option Nat) (holder : Nat)
  | done (core rel : Nat)
  | nacked (core rel : Nat) (cause : BitVec 8)
  | published (key ver pkg core : Nat)
  | access (a : OuterAccess)
  | element (part core : Nat) (handle : Word) (slot : Nat) (coords : List Word) (op : Nat) (data : Vec) (ver : Option Nat)
  | bits (part core : Nat) (kind : ReqKind) (handle : Word) (slot : Nat) (coords : List Nat) (pieces : List (Nat × Nat × Nat))
  | feedback (part core : Nat) (handle : Word) (offset : Nat) (adds : List Nat)
  | value (core part bytes v : Nat)
  | refused (core : Nat) (cause : BitVec 8)
  | changed (key : Nat) (desc : Option (BitVec 512))
  | replica (key : Nat) (desc : BitVec 512) (pages : List (Nat × List (BitVec 512)))
  deriving DecidableEq, Repr

/-- A fabric packet: its sender, its sequence number and its body (R375). -/
structure Packet where
  src  : Nat
  srcCore : Nat
  seq  : Nat
  body : PacketBody
  deriving DecidableEq, Repr

/-- The two host links (R377). -/
inductive HostLink where
  | iow | ioe
  deriving DecidableEq, Repr

/-- The ways to the SPDM responder: a host link, by DOE or MCTP, and the module's SMBus management port (R361, R377). -/
inductive MgmtPath where
  | pcie (link : HostLink)
  | smbus
  deriving DecidableEq, Repr

/-- What the host asks for over a link: an access to object memory (R189), or a write of bytes at an offset in BAR0 of the system's
function (0) or of a partition's, which holds the command window and, from 0x1000 on, the kick page (R300, R347, R348). -/
inductive HostRequest where
  | object (link : HostLink) (a : OuterAccess)
  | window (link : HostLink) (win offset : Nat) (bytes : List (BitVec 8))
  deriving DecidableEq, Repr

/-- What the package answers the host over PCIe: the bytes of a read, or a completer abort (R189). -/
inductive HostReply where
  | bytes (l : List (BitVec 8))
  | abort
  deriving DecidableEq, Repr

/-- What a sleeping cache is (R273): a core's L1, or an unused way group of a die's L2. -/
inductive CacheId where
  | l1 (core : Nat)
  | l2 (die : Nat) (way : Nat)
  deriving DecidableEq, Repr

/-- The outcome of an accepted row of a weight load (R168): the slot becomes READY with its image, or FAILED with a
cause. -/
inductive MatrixErr where
  | parity | residue | accEcc
  deriving DecidableEq, Repr

end Sys2Proof
end

