-- ==== Sys2Proof/Syntax.lean ====
section
/-! DEFINITION. The instructions and the machine events of the DX-LM24A: one constructor for every row of the opcode
table. A word's operands are its table fields (R23..R26), by the names the table gives them; the chain bit (R15) is no
operand: it delimits issue groups. The rows without an encoding are the indivisible steps of the part outside a core's
instruction stream (engines, memory system, dispatcher, control commands, host); their arguments name the unit acted on. -/

namespace Sys2Proof

/-- One step of the part: an instruction word, or a machine event. -/
inductive Instr where
  /-- ADD (R50). Adds two scalar registers modulo 2^64. -/
  | add (d : XReg) (a : XReg) (b : XReg) (e : Bool) (f : Bool)
  /-- SUB (R50). Subtracts xb from xa modulo 2^64. -/
  | sub (d : XReg) (a : XReg) (b : XReg) (e : Bool) (f : Bool)
  /-- AND (R50). Bitwise AND of two scalar registers. -/
  | and (d : XReg) (a : XReg) (b : XReg) (e : Bool) (f : Bool)
  /-- OR (R50). Bitwise OR of two scalar registers. -/
  | or (d : XReg) (a : XReg) (b : XReg) (e : Bool) (f : Bool)
  /-- XOR (R50). Bitwise XOR of two scalar registers. -/
  | xor (d : XReg) (a : XReg) (b : XReg) (e : Bool) (f : Bool)
  /-- ANDN (R50). xa AND NOT xb. -/
  | andn (d : XReg) (a : XReg) (b : XReg) (e : Bool) (f : Bool)
  /-- SHL (R50). Shifts xa left by xb[5:0]. -/
  | shl (d : XReg) (a : XReg) (b : XReg) (e : Bool) (f : Bool)
  /-- SHR (R50). Logical right shift of xa by xb[5:0]. -/
  | shr (d : XReg) (a : XReg) (b : XReg) (e : Bool) (f : Bool)
  /-- SRA (R50). Arithmetic right shift of xa by xb[5:0]. -/
  | sra (d : XReg) (a : XReg) (b : XReg) (e : Bool) (f : Bool)
  /-- ROL (R50). Rotates xa left by xb[5:0]. -/
  | rol (d : XReg) (a : XReg) (b : XReg) (e : Bool) (f : Bool)
  /-- MUL (R50). Low 64 bits of the product, latency 3. -/
  | mul (d : XReg) (a : XReg) (b : XReg) (e : Bool) (f : Bool)
  /-- MULH (R50). High 64 bits of the signed 128-bit product. -/
  | mulh (d : XReg) (a : XReg) (b : XReg) (e : Bool) (f : Bool)
  /-- MULHN (R50). High 64 bits of the unsigned 128-bit product. -/
  | mulhn (d : XReg) (a : XReg) (b : XReg) (e : Bool) (f : Bool)
  /-- DIV (R51). Signed truncating divide with variable latency, marking xd empty. -/
  | div (d : XReg) (a : XReg) (b : XReg) (e : Bool) (f : Bool)
  /-- DIVN (R51). Unsigned divide with variable latency. -/
  | divn (d : XReg) (a : XReg) (b : XReg) (e : Bool) (f : Bool)
  /-- REM (R51). Signed remainder with variable latency. -/
  | rem (d : XReg) (a : XReg) (b : XReg) (e : Bool) (f : Bool)
  /-- REMN (R51). Unsigned remainder with variable latency. -/
  | remn (d : XReg) (a : XReg) (b : XReg) (e : Bool) (f : Bool)
  /-- MIN (R50). Signed minimum. -/
  | min (d : XReg) (a : XReg) (b : XReg) (e : Bool) (f : Bool)
  /-- MAX (R50). Signed maximum. -/
  | max (d : XReg) (a : XReg) (b : XReg) (e : Bool) (f : Bool)
  /-- MINN (R50). Unsigned minimum. -/
  | minn (d : XReg) (a : XReg) (b : XReg) (e : Bool) (f : Bool)
  /-- MAXN (R50). Unsigned maximum. -/
  | maxn (d : XReg) (a : XReg) (b : XReg) (e : Bool) (f : Bool)
  /-- SLT (R50). Sets xd to 1 when xa < xb signed. -/
  | slt (d : XReg) (a : XReg) (b : XReg) (e : Bool) (f : Bool)
  /-- SLTN (R50). Sets xd to 1 when xa < xb unsigned. -/
  | sltn (d : XReg) (a : XReg) (b : XReg) (e : Bool) (f : Bool)
  /-- SEQ (R50). Sets xd to 1 when xa equals xb. -/
  | seq (d : XReg) (a : XReg) (b : XReg) (e : Bool) (f : Bool)
  /-- CLZ (R50). Counts leading zeros of xa. -/
  | clz (d : XReg) (a : XReg) (e : Bool)
  /-- CTZ (R50). Counts trailing zeros of xa. -/
  | ctz (d : XReg) (a : XReg) (e : Bool)
  /-- POPC (R50). Counts one bits of xa. -/
  | popc (d : XReg) (a : XReg) (e : Bool)
  /-- SEXT (R50). Sign-extends xa from bit xb[5:0]. -/
  | sext (d : XReg) (a : XReg) (b : XReg) (e : Bool) (f : Bool)
  /-- BEXT (R50). Extracts a bit field of xa. -/
  | bext (d : XReg) (a : XReg) (b : XReg) (e : Bool) (f : Bool)
  /-- BINS (R50). Inserts a bit field of xa into xd. -/
  | bins (d : XReg) (a : XReg) (b : XReg) (e : Bool) (f : Bool)
  /-- FSET (R50). Returns FLAGS and ORs xa[6:0] into it. -/
  | fset (d : XReg) (a : XReg) (e : Bool)
  /-- FCLR (R50). Returns FLAGS and clears the bits of xa[6:0]. -/
  | fclr (d : XReg) (a : XReg) (e : Bool)
  /-- FADD (R52). Scalar FP32 add. -/
  | fadd (d : XReg) (a : XReg) (b : XReg) (e : Bool) (f : Bool)
  /-- FSUB (R52). Scalar FP32 subtract. -/
  | fsub (d : XReg) (a : XReg) (b : XReg) (e : Bool) (f : Bool)
  /-- FMUL (R52). Scalar FP32 multiply. -/
  | fmul (d : XReg) (a : XReg) (b : XReg) (e : Bool) (f : Bool)
  /-- FMIN (R52). Scalar FP32 minimum under R70. -/
  | fmin (d : XReg) (a : XReg) (b : XReg) (e : Bool) (f : Bool)
  /-- FMAX (R52). Scalar FP32 maximum under R70. -/
  | fmax (d : XReg) (a : XReg) (b : XReg) (e : Bool) (f : Bool)
  /-- FCVTI (R52). Converts FP32 to INT64 toward zero. -/
  | fcvti (d : XReg) (a : XReg) (e : Bool)
  /-- ICVTF (R52). Converts INT64 to FP32. -/
  | icvtf (d : XReg) (a : XReg) (e : Bool)
  /-- ADDI (R53). Adds a sign-extended immediate. -/
  | addi (d : XReg) (a : XReg) (i : BitVec 10)
  /-- ANDI (R53). ANDs a zero-extended immediate. -/
  | andi (d : XReg) (a : XReg) (i : BitVec 10)
  /-- ORI (R53). ORs a zero-extended immediate. -/
  | ori (d : XReg) (a : XReg) (i : BitVec 10)
  /-- XORI (R53). XORs a zero-extended immediate. -/
  | xori (d : XReg) (a : XReg) (i : BitVec 10)
  /-- SHLI (R53). Shifts left by an immediate. -/
  | shli (d : XReg) (a : XReg) (s : XReg)
  /-- SHRI (R53). Logical right shift by an immediate. -/
  | shri (d : XReg) (a : XReg) (s : XReg)
  /-- SRAI (R53). Arithmetic right shift by an immediate. -/
  | srai (d : XReg) (a : XReg) (s : XReg)
  /-- SLTI (R53). Signed compare with an immediate. -/
  | slti (d : XReg) (a : XReg) (i : BitVec 10)
  /-- SLTNI (R53). Unsigned compare with an immediate. -/
  | sltni (d : XReg) (a : XReg) (i : BitVec 10)
  /-- LIS (R53). Loads a sign-extended 16-bit immediate. -/
  | lis (d : XReg) (i : BitVec 16)
  /-- LIH (R53). Shifts xd left 16 and ORs a 16-bit immediate. -/
  | lih (d : XReg) (i : BitVec 16)
  /-- MFCR (R43). Reads a control register. -/
  | mfcr (d : XReg) (n : BitVec 10)
  /-- MTCR (R43). Writes a writable control register. -/
  | mtcr (a : XReg) (n : BitVec 10)
  /-- STG (R48). Writes an engine staging register. -/
  | stg (a : XReg) (e : BitVec 3) (x : BitVec 4)
  /-- LDG (R48). Reads an engine staging register. -/
  | ldg (d : XReg) (e : BitVec 3) (x : BitVec 4)
  /-- SETFMT (R54). Writes VFMT, effective four cycles later. -/
  | setfmt (a : XReg) (i : BitVec 10)
  /-- SETMFMT (R54). Writes MFMT, effective four cycles later. -/
  | setmfmt (a : XReg) (i : BitVec 10)
  /-- SETTHR (R54). Writes a wavelet threshold register. -/
  | setthr (n : XReg) (a : XReg)
  /-- BR (R55). Unconditional relative branch. -/
  | br (o : BitVec 23)
  /-- CALL (R56). Branches and writes the link into x63. -/
  | call (o : BitVec 23)
  /-- BEQ (R55). Branches when xa equals xb. -/
  | beq (a : XReg) (b : XReg) (o : BitVec 11)
  /-- BNE (R55). Branches when xa differs from xb. -/
  | bne (a : XReg) (b : XReg) (o : BitVec 11)
  /-- BLT (R55). Branches when xa < xb signed. -/
  | blt (a : XReg) (b : XReg) (o : BitVec 11)
  /-- BGE (R55). Branches when xa >= xb signed. -/
  | bge (a : XReg) (b : XReg) (o : BitVec 11)
  /-- BLTN (R55). Branches when xa < xb unsigned. -/
  | bltn (a : XReg) (b : XReg) (o : BitVec 11)
  /-- BGEN (R55). Branches when xa >= xb unsigned. -/
  | bgen (a : XReg) (b : XReg) (o : BitVec 11)
  /-- BZ (R55). Branches when xa is zero. -/
  | bz (a : XReg) (o : BitVec 17)
  /-- BNZ (R55). Branches when xa is nonzero. -/
  | bnz (a : XReg) (o : BitVec 17)
  /-- JR (R55). Jumps to the instruction address in xa. -/
  | jr (a : XReg)
  /-- LOOP (R57). Pushes a hardware loop entry or skips the body. -/
  | loop (a : XReg) (o : BitVec 17)
  /-- VADD (R97). Vector add. -/
  | vadd (d : XReg) (a : XReg) (b : XReg) (m : BitVec 2)
  /-- VSUB (R97). Vector subtract. -/
  | vsub (d : XReg) (a : XReg) (b : XReg) (m : BitVec 2)
  /-- VMUL (R97). Vector multiply. -/
  | vmul (d : XReg) (a : XReg) (b : XReg) (m : BitVec 2)
  /-- VFMA (R97). Vector fused multiply-add into vd. -/
  | vfma (d : XReg) (a : XReg) (b : XReg) (m : BitVec 2)
  /-- VFMS (R97). Vector fused multiply-subtract from vd. -/
  | vfms (d : XReg) (a : XReg) (b : XReg) (m : BitVec 2)
  /-- VMIN (R97). Vector minimum. -/
  | vmin (d : XReg) (a : XReg) (b : XReg) (m : BitVec 2)
  /-- VMAX (R97). Vector maximum. -/
  | vmax (d : XReg) (a : XReg) (b : XReg) (m : BitVec 2)
  /-- VABS (R97). Vector absolute value. -/
  | vabs (d : XReg) (a : XReg) (m : BitVec 2)
  /-- VNEG (R97). Vector negation. -/
  | vneg (d : XReg) (a : XReg) (m : BitVec 2)
  /-- VAND (R97). Vector bitwise AND. -/
  | vand (d : XReg) (a : XReg) (b : XReg) (m : BitVec 2)
  /-- VOR (R97). Vector bitwise OR. -/
  | vor (d : XReg) (a : XReg) (b : XReg) (m : BitVec 2)
  /-- VXOR (R97). Vector bitwise XOR. -/
  | vxor (d : XReg) (a : XReg) (b : XReg) (m : BitVec 2)
  /-- VSHL (R97). Vector shift left. -/
  | vshl (d : XReg) (a : XReg) (b : XReg) (m : BitVec 2)
  /-- VSHR (R97). Vector logical shift right. -/
  | vshr (d : XReg) (a : XReg) (b : XReg) (m : BitVec 2)
  /-- VSRA (R97). Vector arithmetic shift right. -/
  | vsra (d : XReg) (a : XReg) (b : XReg) (m : BitVec 2)
  /-- VADDS (R97). Saturating integer vector add. -/
  | vadds (d : XReg) (a : XReg) (b : XReg) (m : BitVec 2)
  /-- VSUBS (R97). Saturating integer vector subtract. -/
  | vsubs (d : XReg) (a : XReg) (b : XReg) (m : BitVec 2)
  /-- VMULH (R97). High half of integer vector products. -/
  | vmulh (d : XReg) (a : XReg) (b : XReg) (m : BitVec 2)
  /-- VDOT4 (R98). Four-way 8-bit dot product accumulated into 32-bit lanes. -/
  | vdot4 (d : XReg) (a : XReg) (b : XReg) (m : BitVec 2)
  /-- VCMPEQ (R99). Writes a mask of equal positions. -/
  | vcmpeq (d : XReg) (a : XReg) (b : XReg) (m : BitVec 2)
  /-- VCMPLT (R99). Writes a mask of less-than positions. -/
  | vcmplt (d : XReg) (a : XReg) (b : XReg) (m : BitVec 2)
  /-- VCMPLE (R99). Writes a mask of less-or-equal positions. -/
  | vcmple (d : XReg) (a : XReg) (b : XReg) (m : BitVec 2)
  /-- VSEL (R99). Selects va or vb per position by a mask. -/
  | vsel (d : XReg) (a : XReg) (b : XReg) (m : BitVec 2)
  /-- VMOV (R97). Copies a vector with its tag. -/
  | vmov (d : XReg) (a : XReg) (m : BitVec 2)
  /-- VCVT (R100). Converts vector elements to another format. -/
  | vcvt (d : XReg) (a : XReg) (b : XReg) (m : BitVec 2)
  /-- VABSD (R97). Vector absolute difference. -/
  | vabsd (d : XReg) (a : XReg) (b : XReg) (m : BitVec 2)
  /-- VCLAMP (R97). Clamps va between vd and vb. -/
  | vclamp (d : XReg) (a : XReg) (b : XReg) (m : BitVec 2)
  /-- CASCADE_EXTENSION (R101). Adds stages B and C to the preceding vector word. -/
  | cascadeExtension (p : BitVec 5) (q : BitVec 5) (s : XReg) (t : XReg) (u : Bool) (v : Bool)
  /-- VBCAST (R105). Broadcasts a scalar to every position, tag C. -/
  | vbcast (d : XReg) (b : XReg)
  /-- VADDX (R105). Adds a scalar to every position. -/
  | vaddx (d : XReg) (a : XReg) (b : XReg)
  /-- VMULX (R105). Multiplies every position by a scalar. -/
  | vmulx (d : XReg) (a : XReg) (b : XReg)
  /-- VFMAX (R105). Fused multiply by a scalar and add into vd. -/
  | vfmax (d : XReg) (a : XReg) (b : XReg)
  /-- VIMM (R106). Broadcasts a converted 12-bit immediate. -/
  | vimm (d : XReg) (i : BitVec 12)
  /-- VIDX (R106). Writes xb + i at each position, tag S. -/
  | vidx (d : XReg) (b : XReg)
  /-- VPERM (R107). Permutes elements within each cluster. -/
  | vperm (d : XReg) (a : XReg) (b : XReg)
  /-- VROT (R107). Rotates elements within each cluster. -/
  | vrot (d : XReg) (a : XReg) (b : XReg)
  /-- XCL (R108). Moves whole clusters. -/
  | xcl (d : XReg) (a : XReg) (b : XReg)
  /-- XRED (R109). Reduces across the clusters position by position. -/
  | xred (d : XReg) (a : XReg) (b : XReg)
  /-- VRED (R109). Sums each cluster's elements. -/
  | vred (d : XReg) (a : XReg)
  /-- VREDMAX (R109). Takes each cluster's maximum. -/
  | vredmax (d : XReg) (a : XReg)
  /-- VEXT (R110). Extracts one element into a scalar register. -/
  | vext (d : XReg) (a : XReg) (b : XReg)
  /-- VINS (R110). Inserts a scalar into one vector position. -/
  | vins (d : XReg) (a : XReg) (b : XReg)
  /-- MAND (R111). ANDs two masks. -/
  | mand (d : XReg) (a : XReg) (b : XReg)
  /-- MOR (R111). ORs two masks. -/
  | mor (d : XReg) (a : XReg) (b : XReg)
  /-- MNOT (R111). Inverts a mask. -/
  | mnot (d : XReg) (a : XReg)
  /-- MPOP (R111). Counts set mask bits into a scalar. -/
  | mpop (d : XReg) (a : XReg)
  /-- VTAG (R112). Copies a vector and sets its domain tag. -/
  | vtag (d : XReg) (a : XReg) (t : BitVec 4)
  /-- VTAGX (R112). Reads a vector's tag into a scalar. -/
  | vtagx (d : XReg) (a : XReg)
  /-- VPOP (R113). Pops the oldest result-queue row into a vector. -/
  | vpop (d : XReg) (a : XReg)
  /-- FEXP2 (R114). Special function 2^x. -/
  | fexp2 (d : XReg) (a : XReg)
  /-- FLOG2 (R114). Special function log2 x. -/
  | flog2 (d : XReg) (a : XReg)
  /-- FRCP (R114). Special function 1/x. -/
  | frcp (d : XReg) (a : XReg)
  /-- FRSQRT (R114). Special function 1/sqrt x. -/
  | frsqrt (d : XReg) (a : XReg)
  /-- FSQRT (R114). Special function sqrt x. -/
  | fsqrt (d : XReg) (a : XReg)
  /-- FSIN (R114). Special function sin 2 pi x. -/
  | fsin (d : XReg) (a : XReg)
  /-- FCOS (R114). Special function cos 2 pi x. -/
  | fcos (d : XReg) (a : XReg)
  /-- FTANH (R87). Special function tanh by the stated sequence. -/
  | ftanh (d : XReg) (a : XReg)
  /-- FSIGM (R87). Special function sigmoid. -/
  | fsigm (d : XReg) (a : XReg)
  /-- FGELU (R87). Special function GELU. -/
  | fgelu (d : XReg) (a : XReg)
  /-- FSILU (R87). Special function SiLU. -/
  | fsilu (d : XReg) (a : XReg)
  /-- FDIV (R87). Special-function divide va by vb. -/
  | fdiv (d : XReg) (a : XReg) (b : XReg)
  /-- VLD (R126). Loads a scratchpad row and its tag into a vector. -/
  | vld (d : XReg) (a : XReg) (o : BitVec 10)
  /-- VST (R126). Stores a vector and its tag to a scratchpad row. -/
  | vst (d : XReg) (a : XReg) (o : BitVec 10)
  /-- RMG (R127). Builds an unaligned row from two neighbours. -/
  | rmg (d : XReg) (a : XReg) (o : BitVec 10)
  /-- SLD (R128). Loads a scalar spill slot. -/
  | sld (d : XReg) (o : BitVec 16)
  /-- SST (R128). Stores a scalar spill slot. -/
  | sst (d : XReg) (o : BitVec 16)
  /-- VSLD (R128). Loads a vector spill slot with its tag. -/
  | vsld (d : XReg) (o : BitVec 16)
  /-- VSST (R128). Stores a vector spill slot with its tag. -/
  | vsst (d : XReg) (o : BitVec 16)
  /-- VFILL (R129). Writes n consecutive rows with copies of a vector. -/
  | vfill (d : XReg) (a : XReg) (n : BitVec 10)
  /-- RTAGW (R130). Writes a row's tag. -/
  | rtagw (d : XReg) (a : XReg) (o : BitVec 10)
  /-- RTAGR (R130). Reads a row's tag. -/
  | rtagr (d : XReg) (a : XReg) (o : BitVec 10)
  /-- QST (R131). Pops a result-queue row and stores it to a scratchpad row. -/
  | qst (q : XReg) (a : XReg) (o : BitVec 10)
  /-- HLD (R195). Loads a 4096-bit run of an object into a vector. -/
  | hld (d : XReg) (h : XReg) (i : XReg) (e : Bool)
  /-- HST (R195). Stores a vector as a 4096-bit run of an object. -/
  | hst (d : XReg) (h : XReg) (i : XReg) (e : Bool)
  /-- HLDS (R195). Loads one object element into a scalar. -/
  | hlds (d : XReg) (h : XReg) (i : XReg) (e : Bool)
  /-- HSTS (R195). Stores one object element from a scalar. -/
  | hsts (d : XReg) (h : XReg) (i : XReg) (e : Bool)
  /-- HPF (R196). Prefetches a run into the L1 object cache. -/
  | hpf (h : XReg) (i : XReg) (e : Bool)
  /-- HAADD (R197). Atomic integer add on an element. -/
  | haadd (d : XReg) (h : XReg) (i : XReg) (r : Bool) (e : Bool)
  /-- HAMAX (R197). Atomic signed maximum. -/
  | hamax (d : XReg) (h : XReg) (i : XReg) (r : Bool) (e : Bool)
  /-- HAMIN (R197). Atomic signed minimum. -/
  | hamin (d : XReg) (h : XReg) (i : XReg) (r : Bool) (e : Bool)
  /-- HAMAXN (R197). Atomic unsigned maximum. -/
  | hamaxn (d : XReg) (h : XReg) (i : XReg) (r : Bool) (e : Bool)
  /-- HAMINN (R197). Atomic unsigned minimum. -/
  | haminn (d : XReg) (h : XReg) (i : XReg) (r : Bool) (e : Bool)
  /-- HAAND (R197). Atomic AND. -/
  | haand (d : XReg) (h : XReg) (i : XReg) (r : Bool) (e : Bool)
  /-- HAOR (R197). Atomic OR. -/
  | haor (d : XReg) (h : XReg) (i : XReg) (r : Bool) (e : Bool)
  /-- HAXOR (R197). Atomic XOR. -/
  | haxor (d : XReg) (h : XReg) (i : XReg) (r : Bool) (e : Bool)
  /-- HASWP (R197). Atomic swap. -/
  | haswp (d : XReg) (h : XReg) (i : XReg) (r : Bool) (e : Bool)
  /-- HACAS (R197). Atomic compare and swap with x(d+1). -/
  | hacas (d : XReg) (h : XReg) (i : XReg) (r : Bool) (e : Bool)
  /-- HFADD (R197). Atomic floating-point add. -/
  | hfadd (d : XReg) (h : XReg) (i : XReg) (r : Bool) (e : Bool)
  /-- HFAMAX (R197). Atomic floating-point maximum under R70. -/
  | hfamax (d : XReg) (h : XReg) (i : XReg) (r : Bool) (e : Bool)
  /-- HFAMIN (R197). Atomic floating-point minimum under R70. -/
  | hfamin (d : XReg) (h : XReg) (i : XReg) (r : Bool) (e : Bool)
  /-- HVADD (R198). Per-element no-return atomic add over a run. -/
  | hvadd (d : XReg) (h : XReg) (i : XReg) (e : Bool)
  /-- HVMAX (R198). Per-element no-return atomic maximum over a run. -/
  | hvmax (d : XReg) (h : XReg) (i : XReg) (e : Bool)
  /-- HINFO (R200). Reads a descriptor word selected by xs. -/
  | hinfo (d : XReg) (h : XReg) (s : XReg) (e : Bool)
  /-- MMUL (R163). Runs P matrix passes over M A rows into an accumulator bank. -/
  | mmul (b : BitVec 2) (q : BitVec 2) (c : Bool) (p : Bool) (z : Bool) (s : XReg)
  /-- MZERO (R166). Zeroes a span of accumulator rows. -/
  | mzero (b : BitVec 2)
  /-- MDRAIN (R166). Pushes a span of accumulator rows to a result queue. -/
  | mdrain (b : BitVec 2) (q : BitVec 2)
  /-- MWLD (R167). Loads a weight slot from scratchpad image rows. -/
  | mwld (s : XReg)
  /-- MWSTR (R168). Loads a weight slot from a weight object over the stream path. -/
  | mwstr (s : XReg)
  /-- MTILE (R169). Runs depth-stepping passes with streamed weight tiles. -/
  | mtile (b : BitVec 2) (q : BitVec 2) (c : Bool) (p : Bool) (z : Bool) (s : XReg)
  /-- MSTAT (R170). Returns a slot, queue or engine status word. -/
  | mstat (w : Bool) (d : XReg) (s : BitVec 8)
  /-- FGET (R227). Fetches a pattern of object runs into scratchpad rows. -/
  | fget (n : BitVec 4) (c : Bool)
  /-- FPREF (R232). Prefetches a pattern's sectors into L2. -/
  | fpref (n : BitVec 4)
  /-- FCANCEL (R233). Removes unstarted commands of a fetch channel. -/
  | fcancel (n : BitVec 4)
  /-- SBIND (R241). Binds a stream register to a fetch pattern. -/
  | sbind (n : BitVec 4)
  /-- SFREE (R244). Unbinds a stream register. -/
  | sfree (n : BitVec 4)
  /-- CPUT (R235). Writes scratchpad rows into an object. -/
  | cput (n : BitVec 4) (c : Bool)
  /-- CMOV (R236). Copies elements object to object. -/
  | cmov (n : BitVec 4)
  /-- CLZ_COPY (R237). Sends scratchpad rows to a landing zone slot. -/
  | clzCopy (n : BitVec 4)
  /-- CDRAIN (R238). Joins a channel and reports its status word. -/
  | cdrain (n : BitVec 4) (t : Bool) (f : Bool) (d : XReg)
  /-- CSTAT (R239). Reports a channel status word without joining. -/
  | cstat (n : BitVec 4) (f : Bool) (d : XReg)
  /-- WFWD (R146). Forward Haar transform of n rows without threshold. -/
  | wfwd (L : BitVec 8)
  /-- WST (R147). Transforms, thresholds and stores a compacted tile. -/
  | wst (L : BitVec 8)
  /-- WCNT (R151). Reads a tile header's first 32 bits. -/
  | wcnt (a : XReg) (d : XReg)
  /-- OSUB (R217). Arms a task event on an object version. -/
  | osub (e : BitVec 8)
  /-- EVSIG (R220). Fires a replay event after a package-scope release. -/
  | evsig (e : BitVec 8)
  /-- EVSIG_B (R221). Sends one arrival to a barrier of a target core. -/
  | evsigB (n : BitVec 8)
  /-- GKICK (R313). Sends a kick packet from a scratchpad row to the launch unit. -/
  | gkick (d : XReg)
  /-- LZOPEN (R263). Opens a landing zone and arms its barrier. -/
  | lzopen (n : BitVec 4)
  /-- LZCLOSE (R263). Closes a landing zone. -/
  | lzclose (n : BitVec 4)
  /-- LZRES (R264). Requests a slot in a remote landing zone. -/
  | lzres (d : XReg)
  /-- LZCLR (R263). Clears a zone's slots, raises GEN and idles its barrier. -/
  | lzclr (n : BitVec 4)
  /-- LZSTAT (R265). Returns a zone, slot or missing-bitmap word. -/
  | lzstat (n : BitVec 4) (d : XReg) (s : XReg)
  /-- BARINIT (R263). Arms a barrier and frees its zone's slots. -/
  | barinit (n : BitVec 4)
  /-- BARSTAT (R265). Returns a barrier word. -/
  | barstat (n : BitVec 4) (d : XReg)
  /-- TRAP (R335). Raises a software trap, cause 0x13. -/
  | trap (i : BitVec 16)
  /-- CHK (R337). Faults when two scalar registers differ. -/
  | chk (a : XReg) (b : XReg)
  /-- VCHK (R337). Faults when two vectors or their tags differ. -/
  | vchk (a : XReg) (b : XReg)
  /-- SYSC (R335). Requests a Lovage service, cause 0x13 with bit 16. -/
  | sysc (i : BitVec 16)
  /-- MFSR (R339). Reads a system register. -/
  | mfsr (d : XReg) (s : BitVec 12)
  /-- MTSR (R339). Writes a system register. -/
  | mtsr (d : XReg) (s : BitVec 12)
  /-- PLD (R340). Loads 8 bytes from a package physical address. -/
  | pld (d : XReg) (a : XReg)
  /-- PST (R340). Stores 8 bytes to a package physical address. -/
  | pst (a : XReg) (b : XReg)
  /-- HINV (R341). Drops descriptor-cache and L1 translation entries package-wide. -/
  | hinv (a : XReg)
  /-- IDENT (R338). Writes the identity word into xd. -/
  | ident (d : XReg)
  /-- BRK (R335). Raises a breakpoint, cause 0x12. -/
  | brk (i : BitVec 16)
  /-- WPSET (R342). Sets a partition watchpoint over a lin range. -/
  | wpset (a : XReg) (b : XReg)
  /-- WPCLR (R342). Clears a partition watchpoint. -/
  | wpclr (a : XReg)
  /-- VALUE_ARRIVES (R33). A variable-latency producer delivers its value and marks its register full. -/
  | valueArrives (core : Nat) (a : Arrival)
  /-- RESOLUTION_COMPLETE (R193). The handle unit finishes resolving a class-8, 10 or 11 word, which then issues or faults. -/
  | resolutionComplete (core : Nat)
  /-- SYNC_REQUEST_ACCEPTED (R214). A sync-engine request is accepted or performed at its destination and the group issues. -/
  | syncRequestAccepted (core : Nat)
  /-- RESULT_ROW_PUSH (R163). The matrix engine finalises an accumulator row and pushes it to a result queue. -/
  | resultRowPush (core seq k : Nat)
  /-- HELD_ROW_ENTERS_QUEUE (R159). The held row enters its queue once it has room. -/
  | heldRowEntersQueue (core : Nat) (q : BitVec 2)
  /-- WEIGHT_LOAD_COMPLETE (R168). A weight load ends with the slot READY or FAILED. -/
  | weightLoadComplete (core slot : Nat)
  /-- MTILE_PASS_START (R169). An mtile pass starts once its slot is ready. -/
  | mtilePassStart (core : Nat)
  /-- WAVELET_COMMAND_WRITE (R141). A wavelet command writes its destination rows and frees the engine. -/
  | waveletCommandWrite (core : Nat)
  /-- CHANNEL_COMMAND_START (R222). A queued fetch or copy command starts. -/
  | channelCommandStart (core : Nat) (copy : Bool) (ch : Nat)
  /-- FETCH_ROW_WRITTEN (R227). A fetch command writes one destination row. -/
  | fetchRowWritten (core ch seq run : Nat)
  /-- FETCH_COMMAND_COMPLETE (R229). A fetch command completes, with or without error. -/
  | fetchCommandComplete (core ch : Nat)
  /-- COPY_COMMAND_COMPLETE (R235). A cput or cmov completes, with or without error. -/
  | copyCommandComplete (core ch : Nat)
  /-- CLZ_COMPLETE (R266). A clz completes when every row is answered or undelivered. -/
  | clzComplete (core ch : Nat)
  /-- STREAM_VECTOR_FETCHED (R241). A stream walker fetches the next vector into its buffer. -/
  | streamVectorFetched (core q : Nat)
  /-- RESERVATION_REQUEST (R250). The receiving core serves an lzres request and returns a grant word. -/
  | reservationRequest (core : Nat) (q : ResReq)
  /-- LZRES_TIMEOUT (R250). An lzres unanswered within 65,536 cycles returns RESULT 11. -/
  | lzresTimeout (core : Nat) (dest : XReg) (zone target : Nat)
  /-- SLOT_RELEASE_AT_TARGET (R264). An lzrel release is performed at the target zone. -/
  | slotReleaseAtTarget (core fromPkg fromCore : Nat) (rel : Word)
  /-- LANDING_ROW_ARRIVAL (R251). An arriving row is decided and written, counted, dropped or refused. -/
  | landingRowArrival (core : Nat) (r : LandingRow)
  /-- BARRIER_ARRIVAL (R254). An evsig.b arrival is decided at the receiving core. -/
  | barrierArrival (core fromPkg : Nat) (sender : Sender) (pair : Nat) (bgen : BitVec 8)
  /-- BARRIER_DEADLINE (R255). An armed barrier's deadline passes and it becomes TIMEDOUT. -/
  | barrierDeadline (core pair : Nat)
  /-- ROW_UNDELIVERED (R258). A landing row not delivered within 65,536 cycles is declared undelivered. -/
  | rowUndelivered (core ch : Nat)
  /-- KICK (R302). The launch unit takes a kick packet and creates a replay or refuses it. -/
  | kick (part : Nat) (src : KickSource) (pkt : List Word)
  /-- NODE_CREATE (R305). A node's tasks are created when its dependences hold, or it is abandoned. -/
  | nodeCreate (rid replay node : Nat)
  /-- TASK_TAKE (R306). A free core's dispatcher takes a task and allots its rows. -/
  | taskTake (core : Nat)
  /-- PRIORITY_AGING (R306). A waiting region's effective priority rises every 2^20 cycles. -/
  | priorityAging (core rid : Nat)
  /-- PHASE_INPUT_FETCH (R307). The dispatcher begins fetching a phase's declared tile inputs. -/
  | phaseInputFetch (core input : Nat)
  /-- PHASE_START (R307). A phase starts once its inputs, barriers and events are ready. -/
  | phaseStart (core : Nat)
  /-- MIGRATION_LINE_COPY (R278). One line of a migrating page is copied every 4 cycles. -/
  | migrationLineCopy (home page : Nat)
  /-- KEY_SCRUB_COMPLETE (R287). A die finishes dropping the lines of a killed key. -/
  | keyScrubComplete (die : Nat)
  /-- COLLECTOR_DONE (R319). The last unit acknowledges; the core is STOPPED and checkpointed. -/
  | collectorDone (core : Nat)
  /-- SAVE_COMPLETE (R323). The context save finishes and the core is SAVED. -/
  | saveComplete (core : Nat)
  /-- RESTORE_COMPLETE (R323). The context restore finishes and the core enters its saved state. -/
  | restoreComplete (core : Nat)
  /-- DISCARD_COMPLETE (R318). Started commands of a discarded task complete and the core becomes IDLE. -/
  | discardComplete (core : Nat)
  /-- RECOVERY_COMPLETE (R327). The two re-runs end and agree, or the core halts RETIRED. -/
  | recoveryComplete (core : Nat) (agree : Bool)
  /-- METER_ADD (R357). A hardware event report is added to a partition meter. -/
  | meterAdd (part rid meter n : Nat)
  /-- MISSING_OBJECT_RESOLVED (R186). Lovage's resolution lets a waiting load or fetch continue. -/
  | missingObjectResolved (core : Nat)
  /-- REGION_STOP_TIME_LIMIT (R355). REGION_STOP reaches its time limit and completes with code 0x0A. -/
  | regionStopTimeLimit (win : Nat)
  /-- PATTERN_TEST_END (R371). A pattern test ends and held PHY writes are performed. -/
  | patternTestEnd (ch : Nat)
  /-- RET (R56). Jumps to the address in x63. -/
  | ret
  /-- PHASE (R59). Commits the current phase and waits for the next. -/
  | phase
  /-- TEND (R60). Retires the task after joining its engines and closing its zones. -/
  | tend
  /-- CKPT (R61). Takes a rollback checkpoint. -/
  | ckpt
  /-- WINV (R148). Reconstructs spatial rows from a coefficient tile. -/
  | winv
  /-- WST_C (R147). Rethresholds and recompacts an existing tile. -/
  | wstC
  /-- WEXP (R149). Expands a compacted tile to all n rows. -/
  | wexp
  /-- WBIAS (R150). Adds a bias row to a tile's approximation rows. -/
  | wbias
  /-- OPUB (R215). Publishes the next version of an object. -/
  | opub
  /-- OPIN (R218). Pins a version of an object for the task. -/
  | opin
  /-- OUNPIN (R219). Releases the task's pin on an object. -/
  | ounpin
  /-- OVER (R215). Publishes a chosen version number when larger than VCUR. -/
  | over
  /-- LZREL (R264). Joins earlier clz commands and releases a slot. -/
  | lzrel
  /-- TFENCE (R336). Waits for results and raises enabled arithmetic traps. -/
  | tfence
  /-- ERET (R339). Returns from a system-core trap. -/
  | eret
  /-- WFI (R339). Waits for an enabled pending interrupt. -/
  | wfi
  /-- PORD (R340). Waits until earlier pld and pst are performed. -/
  | pord
  /-- ATOMIC_PERFORMED (R285). An atomic is performed at its place in the memory system. -/
  | atomicPerformed (q : AtomicReq)
  /-- MARKER_TIMEOUT (R209). Flush markers not gathered within 65,536 cycles; the release fails. -/
  | markerTimeout (core : Nat)
  /-- LZREL_TIMEOUT (R262). An lzrel unanswered within 65,536 cycles faults with 0x0F. -/
  | lzrelTimeout (core : Nat)
  /-- LTIME_TICK (R271). Every 256th cycle every core's LTIME rises by 1. -/
  | ltimeTick
  /-- REBASE (R272). A die rebases its timestamps when an LTIME reaches 2^39. -/
  | rebase (die : Nat)
  /-- DIRECTORY_READ (R275). A die's read request at a line's home directory. -/
  | directoryRead (die line : Nat)
  /-- DIRECTORY_OWNERSHIP (R275). A write or atomic obtains ownership after invalidating other dies. -/
  | directoryOwnership (die line : Nat)
  /-- INVALIDATION (R275). An invalidated die writes back, drops its lines and acknowledges. -/
  | invalidation (die base k : Nat)
  /-- DIRECTORY_MERGE (R276). Idle buddy entries merge after 65,536 cycles. -/
  | directoryMerge (home base : Nat)
  /-- PAGE_MIGRATION (R278). Lovage sets a page MIG and the migration engine recalls it. -/
  | pageMigration (home page dest : Nat)
  /-- CACHE_SLEEP (R273). An idle L1 or unused L2 way group enters retention sleep. -/
  | cacheSleep (c : CacheId)
  /-- CACHE_WAKE (R273). A sleeping cache wakes and checks the REBASE count. -/
  | cacheWake (c : CacheId)
  /-- MEMORY_CONTROLLER_WRITE (R332). A memory controller applies a line write, logging it in an open undo interval. -/
  | memoryControllerWrite (line : Nat) (data : Mask)
  /-- KSCRUB_GO (R287). Writing GO in KSCRUB starts key destruction on a die. -/
  | kscrubGo (die : Nat)
  /-- L2WAY_WRITE (R283). Clearing L2WAY bits writes back and drops lines in removed ways. -/
  | l2wayWrite (die key : Nat) (w : Word)
  /-- MSCWAY_WRITE (R283). Clearing MSCWAY bits writes back and drops lines in removed ways. -/
  | mscwayWrite (die key cls : Nat) (w : Word)
  /-- REGISTER_WRITE (R340). A pst to a control-space register without its own row. -/
  | registerWrite (addr : Nat) (w : Word)
  /-- FAULT_QUEUE_READ (R317). A pld of the fault queue removes and returns its oldest entry. -/
  | faultQueueRead (dest : XReg)
  /-- XREG_WRITE (R318). A write to XREG sets a halted core's scalar register full. -/
  | xregWrite (core : Nat) (r : XReg) (w : Word)
  /-- STOP (R319). CCTL STOP begins pre-emption at the next group boundary. -/
  | stop (core : Nat)
  /-- CCTL_RESUME (R318). CCTL RESUME restarts issue at PC. -/
  | cctlResume (core : Nat)
  /-- RESUME_NEXT (R318). CCTL RESUME_NEXT restarts issue at NPC. -/
  | resumeNext (core : Nat)
  /-- RESUME_AT (R318). CCTL RESUME_AT restarts issue at RPC. -/
  | resumeAt (core : Nat)
  /-- ROLLBACK (R318). CCTL ROLLBACK restores the last checkpoint and resumes after it. -/
  | rollback (core : Nat)
  /-- SAVE (R322). CCTL SAVE writes the context image to CTXA. -/
  | save (core : Nat)
  /-- RESTORE (R318). CCTL RESTORE reads a context image from CTXA. -/
  | restore (core : Nat)
  /-- DISCARD (R318). CCTL DISCARD ends the task unretired. -/
  | discard (core : Nat)
  /-- MATRIX_DATA_ERROR (R327). A matrix command retires with a datapath error and recovery starts. -/
  | matrixDataError (core : Nat) (kind : MatrixErr) (addr : Word)
  /-- LOCKSTEP_MISMATCH (R330). The delayed-lockstep comparison differs and recovery starts. -/
  | lockstepMismatch (core cluster : Nat) (addr : Word)
  /-- INTERRUPT (R339). A system core takes an enabled pending interrupt. -/
  | interrupt (core : Nat)
  /-- IDENT_CMD (R352). Host command returning the identity word and record version. -/
  | identCmd (win : Nat)
  /-- STATUS (R352). Host command returning readiness and quota state. -/
  | status (win : Nat)
  /-- PART_CREATE (R353). Creates a partition with its region, masks and meters. -/
  | partCreate (win : Nat)
  /-- PART_DESTROY (R353). Aborts, frees and writes the final record of a partition. -/
  | partDestroy (win : Nat)
  /-- PART_QUOTA (R352). Sets a partition meter quota. -/
  | partQuota (win : Nat)
  /-- KEY_LOAD (R353). Installs a staged key for a key id. -/
  | keyLoad (win : Nat)
  /-- KEY_GEN (R346). Installs a DRBG-generated key. -/
  | keyGen (win : Nat)
  /-- KEY_KILL (R287). Destroys a key id on every die. -/
  | keyKill (win : Nat)
  /-- OBJ_CREATE (R354). Creates an object and returns its handle. -/
  | objCreate (win : Nat)
  /-- OBJ_DESTROY (R354). Destroys an object and raises its generation. -/
  | objDestroy (win : Nat)
  /-- OBJ_SHARE (R354). Grants rights on an object to another partition. -/
  | objShare (win : Nat)
  /-- GRAPH_LOAD (R355). Binds a graph image to a region. -/
  | graphLoad (win : Nat)
  /-- REGION_STOP (R311). Drains or aborts a region and its subtree. -/
  | regionStop (win : Nat)
  /-- PREEMPT (R355). Saves every running task of a region. -/
  | preempt (win : Nat)
  /-- RESUME (R355). Restores every SAVED task of a region's subtree. -/
  | resume (win : Nat)
  /-- CKPT_BEGIN (R332). Opens an undo-log interval. -/
  | ckptBegin (win : Nat)
  /-- CKPT_ROLLBACK (R333). Rolls a partition's memory back from the undo log. -/
  | ckptRollback (win : Nat)
  /-- METER_SNAP (R360). Returns a signed meter snapshot. -/
  | meterSnap (win : Nat)
  /-- VLOG_READ (R363). Returns violation-log entries. -/
  | vlogRead (win : Nat)
  /-- FABRIC_JOIN (R376). Sets the package id and brings up fabric ports. -/
  | fabricJoin (win : Nat)
  /-- FABRIC_LEAVE (R376). Stops remote requests and takes ports down. -/
  | fabricLeave (win : Nat)
  /-- GET_CERTIFICATE (R361). SPDM certificate retrieval. -/
  | getCertificate (path : MgmtPath)
  /-- CHALLENGE (R361). SPDM challenge. -/
  | challenge (path : MgmtPath) (nonce : Nat)
  /-- GET_MEASUREMENTS (R361). SPDM signed measurement request. -/
  | getMeasurements (path : MgmtPath) (index : Nat)
  /-- KEY_EXCHANGE (R361). SPDM key exchange establishing a session. -/
  | keyExchange (path : MgmtPath)
  /-- KEY_DELIVERY (R362). Vendor-defined request staging key bytes in a secured session. -/
  | keyDelivery (session : Nat) (key : Nat) (bytes : Mask)
  /-- SESSION_END (R362). An SPDM session ends and staged key bytes are erased. -/
  | sessionEnd (session : Nat)
  /-- POWER_GOOD (R364). Power good starts the boot sequence. -/
  | powerGood
  /-- BOOT_STEP_TIMEOUT (R364). A boot step exceeds its budget and the boot stops. -/
  | bootStepTimeout (detail : BitVec 16)
  /-- PATTERN_TEST_START (R371). Writing GO in PATCTL starts a PRBS pattern test. -/
  | patternTestStart (ch : Nat) (w : Word)
  /-- RDALL_WRITE (R369). Sets the read delay of every lane. -/
  | rdallWrite (ch : Nat) (w : Word)
  /-- WDALL_WRITE (R369). Sets the write delay of every lane. -/
  | wdallWrite (ch : Nat) (w : Word)
  /-- MODE_REGISTER_WRITE (R373). A write to MRW sends a mode-register write to the stack. -/
  | modeRegisterWrite (ch : Nat) (w : Word)
  /-- PORT_ENABLE_WRITE (R375). Writing a port's EN takes it DOWN or starts its training. -/
  | portEnableWrite (port : Nat) (en : Bool)
  /-- PORT_TRAINING_COMPLETE (R376). A port finishes bring-up and is UP. -/
  | portTrainingComplete (port : Nat) (ok : Bool) (peer : Nat)
  /-- PORT_FAILURE (R375). A port loses lane lock or exceeds its error limit and fails. -/
  | portFailure (port : Nat)
  /-- FABRIC_PACKET (R375). A fabric packet is received, deduplicated and acted on. -/
  | fabricPacket (p : Packet)
  /-- REMOTE_ACCESS (R184). A forwarded access is resolved at the shard's package. -/
  | remoteAccess (a : OuterAccess)
  /-- HOST_LINK_DOWN (R377). A host link goes down and the other serves every window. -/
  | hostLinkDown (link : HostLink)
  /-- THERMAL_GATE (R379). A die passing 105 C gates its cores to half rate. -/
  | thermalGate (die : Nat)
  /-- THERMAL_UNGATE (R379). A die below 100 C ends gating. -/
  | thermalUngate (die : Nat)
  /-- THERMAL_SHUTDOWN (R379). A die at 115 C removes power from the package's dies. -/
  | thermalShutdown
  /-- HOST_WRITE (R189). A host request over a PCIe link reads or writes object memory, is checked for violations and is performed or answered with a completer abort. -/
  | hostWrite (r : HostRequest)
  /-- DOORBELL (R350). A doorbell write whose opcode is unassigned, or which arrives while the window is BUSY, completes with code 0x01 or is ignored and counted in REJECT. -/
  | doorbell (link : HostLink) (win : Nat) (op : BitVec 8)
  /-- HOST_LINK_UP (R377). A host link that was down comes up again and resumes presenting its functions and windows. -/
  | hostLinkUp (link : HostLink)
  deriving DecidableEq, Repr

end Sys2Proof
end

