-- ==== Sys2Proof/WellFormed.lean ====
section
/-! DEFINITION. Which operand values an instruction word may hold whatever the registers hold (R27, R29, R42, R48, R54,
R99..R104, R125, R143, R170, R192, R197, R212, R231, R337, R339, R342): a word that breaks them raises an illegal
instruction, cause 0x01. -/

namespace Sys2Proof

/-- The control registers that R42 assigns. -/
def crAssigned (n : Nat) : Bool :=
  n == 0 || n == 1 || (decide (8 ≤ n) && decide (n ≤ 15)) || n == 0x10 || (decide (0x18 ≤ n) && decide (n ≤ 0x1A)) ||
  n == 0x1C || n == 0x1D || (decide (0x20 ≤ n) && decide (n ≤ 0x24)) || (decide (0x28 ≤ n) && decide (n ≤ 0x2B)) ||
  (decide (0x40 ≤ n) && decide (n ≤ 0x7F))

/-- The control registers that `mtcr` may write: FLAGS and OVFPTR (R42). -/
def crWritable (n : Nat) : Bool := n == 0x10 || n == 0x24

/-- The system registers that R339 assigns. -/
def srAssigned (n : Nat) : Bool := decide (n ≤ 7) || (decide (0x10 ≤ n) && decide (n ≤ 0x13))

/-- The system registers that `mtsr` may write (R339): SIPEND and SCYC are read only. -/
def srWritable (n : Nat) : Bool := srAssigned n && n != 5 && n != 7

/-- A cascade stage (R28, R102): an assigned code, and no source field where the stage takes none. -/
def stageOk (op : BitVec 5) (src : XReg) (sw : Bool) : Bool :=
  decide (op.toNat < 13) &&
  (!(op.toNat == 0 || op.toNat == 11 || op.toNat == 12) || (src.toNat == 0 && !sw))

/-- The operand limits of every instruction. -/
def Instr.wf : Instr → Bool
  | .mfcr _ n => crAssigned n.toNat
  | .mtcr _ n => crWritable n.toNat
  | .stg _ e _ => decide (e.toNat < 5)
  | .ldg _ e _ => decide (e.toNat < 5)
  | .setthr n _ => decide (n.toNat < 8)
  | .vadd d .. | .vsub d .. | .vmul d .. | .vfma d .. | .vfms d .. | .vmin d .. | .vmax d .. | .vabs d ..
  | .vneg d .. | .vand d .. | .vor d .. | .vxor d .. | .vshl d .. | .vshr d .. | .vsra d .. | .vadds d ..
  | .vsubs d .. | .vmulh d .. | .vdot4 d .. | .vsel d .. | .vmov d .. | .vabsd d .. | .vclamp d ..
  | .vbcast d .. | .vaddx d .. | .vmulx d .. | .vfmax d .. | .vimm d .. | .vidx d .. | .vperm d .. | .vrot d ..
  | .xcl d .. | .vred d .. | .vredmax d .. | .vins d .. | .fexp2 d .. | .flog2 d .. | .frcp d .. | .frsqrt d ..
  | .fsqrt d .. | .fsin d .. | .fcos d .. | .ftanh d .. | .fsigm d .. | .fgelu d .. | .fsilu d .. | .fdiv d ..
  | .vld d .. | .vst d .. | .rmg d .. | .vsld d .. | .vsst d .. | .vfill d .. | .hld d .. | .hst d ..
  | .hvadd d .. | .hvmax d .. => decide (d.toNat < 56)
  | .vcmpeq d _ _ _ => decide (d.toNat < 8)
  | .vcmplt d _ _ _ => decide (d.toNat < 8)
  | .vcmple d _ _ _ => decide (d.toNat < 8)
  | .vcvt d _ b _ => decide (d.toNat < 56) && decide (b.toNat % 16 < 11)
  | .cascadeExtension p q s t u v => stageOk p s u && stageOk q t v
  | .xred d _ b => decide (d.toNat < 56) && decide (b.toNat < 3)
  | .mand d a b => decide (d.toNat < 8) && decide (a.toNat < 8) && decide (b.toNat < 8)
  | .mor d a b => decide (d.toNat < 8) && decide (a.toNat < 8) && decide (b.toNat < 8)
  | .mnot d a => decide (d.toNat < 8) && decide (a.toNat < 8)
  | .mpop _ a => decide (a.toNat < 8)
  | .vtag d _ t => decide (d.toNat < 56) && (decide (t.toNat < 9) || decide (t.toNat = 15))
  | .vpop d a => decide (d.toNat < 56) && decide (a.toNat < 4)
  | .qst q _ _ => decide (q.toNat < 4)
  | .hacas d _ _ _ _ => decide (d.toNat < 63)
  | .mmul _ q _ p _ _ => (p || decide (q.toNat = 0))
  | .mtile _ q _ p _ _ => (p || decide (q.toNat = 0))
  | .mstat _ _ s => (decide (s.toNat < 68) || decide (s.toNat = 128))
  | .sbind n => decide (n.toNat < 8)
  | .sfree n => decide (n.toNat < 8)
  | .wfwd L => decide (0 < L.toNat) && decide (L.toNat < 8)
  | .wst L => decide (0 < L.toNat) && decide (L.toNat < 8)
  | .osub e => decide (e.toNat < 64)
  | .evsig e => decide (64 ≤ e.toNat)
  | .evsigB n => decide (n.toNat < 16)
  | .vchk a b => decide (a.toNat < 56) && decide (b.toNat < 56)
  | .mfsr _ s => srAssigned s.toNat
  | .mtsr _ s => srWritable s.toNat
  | .wpset _ b => decide (b.toNat < 63)
  | .add .. | .sub .. | .and .. | .or .. | .xor .. | .andn .. | .shl .. | .shr .. | .sra .. | .rol .. | .mul ..
  | .mulh .. | .mulhn .. | .div .. | .divn .. | .rem .. | .remn .. | .min .. | .max .. | .minn .. | .maxn .. | .slt ..
  | .sltn .. | .seq .. | .clz .. | .ctz .. | .popc .. | .sext .. | .bext .. | .bins .. | .fset .. | .fclr ..
  | .fadd .. | .fsub .. | .fmul .. | .fmin .. | .fmax .. | .fcvti .. | .icvtf .. | .addi .. | .andi .. | .ori ..
  | .xori .. | .shli .. | .shri .. | .srai .. | .slti .. | .sltni .. | .lis .. | .lih .. | .setfmt .. | .setmfmt ..
  | .br .. | .call .. | .beq .. | .bne .. | .blt .. | .bge .. | .bltn .. | .bgen .. | .bz .. | .bnz .. | .jr .. | .ret
  | .loop .. | .phase | .tend | .ckpt | .vext .. | .vtagx .. | .sld .. | .sst .. | .rtagw .. | .rtagr .. | .hlds ..
  | .hsts .. | .hpf .. | .haadd .. | .hamax .. | .hamin .. | .hamaxn .. | .haminn .. | .haand .. | .haor ..
  | .haxor .. | .haswp .. | .hfadd .. | .hfamax .. | .hfamin .. | .hinfo .. | .mzero .. | .mdrain .. | .mwld ..
  | .mwstr .. | .fget .. | .fpref .. | .fcancel .. | .cput .. | .cmov .. | .clzCopy .. | .cdrain .. | .cstat ..
  | .winv | .wstC | .wexp | .wcnt .. | .wbias | .opub | .opin | .ounpin | .over | .gkick .. | .lzopen .. | .lzclose ..
  | .lzres .. | .lzrel | .lzclr .. | .lzstat .. | .barinit .. | .barstat .. | .trap .. | .tfence | .chk .. | .sysc ..
  | .eret | .wfi | .pld .. | .pst .. | .pord | .hinv .. | .ident .. | .brk .. | .wpclr .. | .valueArrives ..
  | .resolutionComplete .. | .atomicPerformed .. | .syncRequestAccepted .. | .markerTimeout .. | .resultRowPush ..
  | .heldRowEntersQueue .. | .weightLoadComplete .. | .mtilePassStart .. | .waveletCommandWrite ..
  | .channelCommandStart .. | .fetchRowWritten .. | .fetchCommandComplete .. | .copyCommandComplete ..
  | .clzComplete .. | .streamVectorFetched .. | .reservationRequest .. | .lzresTimeout .. | .slotReleaseAtTarget ..
  | .lzrelTimeout .. | .landingRowArrival .. | .barrierArrival .. | .barrierDeadline .. | .rowUndelivered ..
  | .kick .. | .nodeCreate .. | .taskTake .. | .priorityAging .. | .phaseInputFetch .. | .phaseStart .. | .ltimeTick
  | .rebase .. | .directoryRead .. | .directoryOwnership .. | .invalidation .. | .directoryMerge ..
  | .pageMigration .. | .migrationLineCopy .. | .cacheSleep .. | .cacheWake .. | .memoryControllerWrite ..
  | .kscrubGo .. | .keyScrubComplete .. | .l2wayWrite .. | .mscwayWrite .. | .registerWrite .. | .faultQueueRead ..
  | .xregWrite .. | .stop .. | .collectorDone .. | .cctlResume .. | .resumeNext .. | .resumeAt .. | .rollback ..
  | .save .. | .saveComplete .. | .restore .. | .restoreComplete .. | .discard .. | .discardComplete ..
  | .matrixDataError .. | .lockstepMismatch .. | .recoveryComplete .. | .meterAdd .. | .interrupt ..
  | .missingObjectResolved .. | .identCmd .. | .status .. | .partCreate .. | .partDestroy .. | .partQuota ..
  | .keyLoad .. | .keyGen .. | .keyKill .. | .objCreate .. | .objDestroy .. | .objShare .. | .graphLoad ..
  | .regionStop .. | .regionStopTimeLimit .. | .preempt .. | .resume .. | .ckptBegin .. | .ckptRollback ..
  | .meterSnap .. | .vlogRead .. | .fabricJoin .. | .fabricLeave .. | .getCertificate .. | .challenge ..
  | .getMeasurements .. | .keyExchange .. | .keyDelivery .. | .sessionEnd .. | .powerGood | .bootStepTimeout ..
  | .patternTestStart .. | .patternTestEnd .. | .rdallWrite .. | .wdallWrite .. | .modeRegisterWrite ..
  | .portEnableWrite .. | .portTrainingComplete .. | .portFailure .. | .fabricPacket .. | .remoteAccess ..
  | .hostLinkDown .. | .thermalGate .. | .thermalUngate .. | .thermalShutdown | .hostWrite .. | .doorbell ..
  | .hostLinkUp .. => true

end Sys2Proof
end

