-- ==== Sys2Proof/Decode.lean ====
section
/-! DEFINITION. The decoder of instruction words (R15, R23..R29), total on any word and rejecting by name, and the encoder
written from the same layouts. Fields are taken from the word as a number: field [lo+n-1:lo] is w / 2^lo mod 2^n. -/

namespace Sys2Proof

/-- Why a word is no instruction (R29). -/
inductive DecodeError where
  /-- Class 15 (R15, R29). -/
  | reservedClass
  /-- A value past the last one its class assigns (R28, R29). -/
  | unassignedOpcode
  /-- A field marked zero, a field the instruction does not use, or a flag it does not define, is not zero (R29). -/
  | reservedField
  deriving DecidableEq, Repr

/-- Bits [lo+n-1:lo] of a word. -/
def fld (w lo n : Nat) : Nat := w / 2 ^ lo % 2 ^ n

namespace Dec

/-- The words of class 0 (R23, R28), less chain and class. -/
def class0 (w : Nat) : Except DecodeError Instr :=
  match fld w 20 7 with
  | 0 => .ok (.add (.ofNat 6 (fld w 14 6)) (.ofNat 6 (fld w 8 6)) (.ofNat 6 (fld w 2 6)) (fld w 1 1 == 1) (fld w 0 1 == 1))
  | 1 => .ok (.sub (.ofNat 6 (fld w 14 6)) (.ofNat 6 (fld w 8 6)) (.ofNat 6 (fld w 2 6)) (fld w 1 1 == 1) (fld w 0 1 == 1))
  | 2 => .ok (.and (.ofNat 6 (fld w 14 6)) (.ofNat 6 (fld w 8 6)) (.ofNat 6 (fld w 2 6)) (fld w 1 1 == 1) (fld w 0 1 == 1))
  | 3 => .ok (.or (.ofNat 6 (fld w 14 6)) (.ofNat 6 (fld w 8 6)) (.ofNat 6 (fld w 2 6)) (fld w 1 1 == 1) (fld w 0 1 == 1))
  | 4 => .ok (.xor (.ofNat 6 (fld w 14 6)) (.ofNat 6 (fld w 8 6)) (.ofNat 6 (fld w 2 6)) (fld w 1 1 == 1) (fld w 0 1 == 1))
  | 5 => .ok (.andn (.ofNat 6 (fld w 14 6)) (.ofNat 6 (fld w 8 6)) (.ofNat 6 (fld w 2 6)) (fld w 1 1 == 1) (fld w 0 1 == 1))
  | 6 => .ok (.shl (.ofNat 6 (fld w 14 6)) (.ofNat 6 (fld w 8 6)) (.ofNat 6 (fld w 2 6)) (fld w 1 1 == 1) (fld w 0 1 == 1))
  | 7 => .ok (.shr (.ofNat 6 (fld w 14 6)) (.ofNat 6 (fld w 8 6)) (.ofNat 6 (fld w 2 6)) (fld w 1 1 == 1) (fld w 0 1 == 1))
  | 8 => .ok (.sra (.ofNat 6 (fld w 14 6)) (.ofNat 6 (fld w 8 6)) (.ofNat 6 (fld w 2 6)) (fld w 1 1 == 1) (fld w 0 1 == 1))
  | 9 => .ok (.rol (.ofNat 6 (fld w 14 6)) (.ofNat 6 (fld w 8 6)) (.ofNat 6 (fld w 2 6)) (fld w 1 1 == 1) (fld w 0 1 == 1))
  | 10 => .ok (.mul (.ofNat 6 (fld w 14 6)) (.ofNat 6 (fld w 8 6)) (.ofNat 6 (fld w 2 6)) (fld w 1 1 == 1) (fld w 0 1 == 1))
  | 11 => .ok (.mulh (.ofNat 6 (fld w 14 6)) (.ofNat 6 (fld w 8 6)) (.ofNat 6 (fld w 2 6)) (fld w 1 1 == 1) (fld w 0 1 == 1))
  | 12 => .ok (.mulhn (.ofNat 6 (fld w 14 6)) (.ofNat 6 (fld w 8 6)) (.ofNat 6 (fld w 2 6)) (fld w 1 1 == 1) (fld w 0 1 == 1))
  | 13 => .ok (.div (.ofNat 6 (fld w 14 6)) (.ofNat 6 (fld w 8 6)) (.ofNat 6 (fld w 2 6)) (fld w 1 1 == 1) (fld w 0 1 == 1))
  | 14 => .ok (.divn (.ofNat 6 (fld w 14 6)) (.ofNat 6 (fld w 8 6)) (.ofNat 6 (fld w 2 6)) (fld w 1 1 == 1) (fld w 0 1 == 1))
  | 15 => .ok (.rem (.ofNat 6 (fld w 14 6)) (.ofNat 6 (fld w 8 6)) (.ofNat 6 (fld w 2 6)) (fld w 1 1 == 1) (fld w 0 1 == 1))
  | 16 => .ok (.remn (.ofNat 6 (fld w 14 6)) (.ofNat 6 (fld w 8 6)) (.ofNat 6 (fld w 2 6)) (fld w 1 1 == 1) (fld w 0 1 == 1))
  | 17 => .ok (.min (.ofNat 6 (fld w 14 6)) (.ofNat 6 (fld w 8 6)) (.ofNat 6 (fld w 2 6)) (fld w 1 1 == 1) (fld w 0 1 == 1))
  | 18 => .ok (.max (.ofNat 6 (fld w 14 6)) (.ofNat 6 (fld w 8 6)) (.ofNat 6 (fld w 2 6)) (fld w 1 1 == 1) (fld w 0 1 == 1))
  | 19 => .ok (.minn (.ofNat 6 (fld w 14 6)) (.ofNat 6 (fld w 8 6)) (.ofNat 6 (fld w 2 6)) (fld w 1 1 == 1) (fld w 0 1 == 1))
  | 20 => .ok (.maxn (.ofNat 6 (fld w 14 6)) (.ofNat 6 (fld w 8 6)) (.ofNat 6 (fld w 2 6)) (fld w 1 1 == 1) (fld w 0 1 == 1))
  | 21 => .ok (.slt (.ofNat 6 (fld w 14 6)) (.ofNat 6 (fld w 8 6)) (.ofNat 6 (fld w 2 6)) (fld w 1 1 == 1) (fld w 0 1 == 1))
  | 22 => .ok (.sltn (.ofNat 6 (fld w 14 6)) (.ofNat 6 (fld w 8 6)) (.ofNat 6 (fld w 2 6)) (fld w 1 1 == 1) (fld w 0 1 == 1))
  | 23 => .ok (.seq (.ofNat 6 (fld w 14 6)) (.ofNat 6 (fld w 8 6)) (.ofNat 6 (fld w 2 6)) (fld w 1 1 == 1) (fld w 0 1 == 1))
  | 24 => bif fld w 0 1 == 0 && fld w 2 6 == 0 then .ok (.clz (.ofNat 6 (fld w 14 6)) (.ofNat 6 (fld w 8 6)) (fld w 1 1 == 1)) else .error .reservedField
  | 25 => bif fld w 0 1 == 0 && fld w 2 6 == 0 then .ok (.ctz (.ofNat 6 (fld w 14 6)) (.ofNat 6 (fld w 8 6)) (fld w 1 1 == 1)) else .error .reservedField
  | 26 => bif fld w 0 1 == 0 && fld w 2 6 == 0 then .ok (.popc (.ofNat 6 (fld w 14 6)) (.ofNat 6 (fld w 8 6)) (fld w 1 1 == 1)) else .error .reservedField
  | 27 => .ok (.sext (.ofNat 6 (fld w 14 6)) (.ofNat 6 (fld w 8 6)) (.ofNat 6 (fld w 2 6)) (fld w 1 1 == 1) (fld w 0 1 == 1))
  | 28 => .ok (.bext (.ofNat 6 (fld w 14 6)) (.ofNat 6 (fld w 8 6)) (.ofNat 6 (fld w 2 6)) (fld w 1 1 == 1) (fld w 0 1 == 1))
  | 29 => .ok (.bins (.ofNat 6 (fld w 14 6)) (.ofNat 6 (fld w 8 6)) (.ofNat 6 (fld w 2 6)) (fld w 1 1 == 1) (fld w 0 1 == 1))
  | 30 => bif fld w 0 1 == 0 && fld w 2 6 == 0 then .ok (.fset (.ofNat 6 (fld w 14 6)) (.ofNat 6 (fld w 8 6)) (fld w 1 1 == 1)) else .error .reservedField
  | 31 => bif fld w 0 1 == 0 && fld w 2 6 == 0 then .ok (.fclr (.ofNat 6 (fld w 14 6)) (.ofNat 6 (fld w 8 6)) (fld w 1 1 == 1)) else .error .reservedField
  | 32 => .ok (.fadd (.ofNat 6 (fld w 14 6)) (.ofNat 6 (fld w 8 6)) (.ofNat 6 (fld w 2 6)) (fld w 1 1 == 1) (fld w 0 1 == 1))
  | 33 => .ok (.fsub (.ofNat 6 (fld w 14 6)) (.ofNat 6 (fld w 8 6)) (.ofNat 6 (fld w 2 6)) (fld w 1 1 == 1) (fld w 0 1 == 1))
  | 34 => .ok (.fmul (.ofNat 6 (fld w 14 6)) (.ofNat 6 (fld w 8 6)) (.ofNat 6 (fld w 2 6)) (fld w 1 1 == 1) (fld w 0 1 == 1))
  | 35 => .ok (.fmin (.ofNat 6 (fld w 14 6)) (.ofNat 6 (fld w 8 6)) (.ofNat 6 (fld w 2 6)) (fld w 1 1 == 1) (fld w 0 1 == 1))
  | 36 => .ok (.fmax (.ofNat 6 (fld w 14 6)) (.ofNat 6 (fld w 8 6)) (.ofNat 6 (fld w 2 6)) (fld w 1 1 == 1) (fld w 0 1 == 1))
  | 37 => bif fld w 0 1 == 0 && fld w 2 6 == 0 then .ok (.fcvti (.ofNat 6 (fld w 14 6)) (.ofNat 6 (fld w 8 6)) (fld w 1 1 == 1)) else .error .reservedField
  | 38 => bif fld w 0 1 == 0 && fld w 2 6 == 0 then .ok (.icvtf (.ofNat 6 (fld w 14 6)) (.ofNat 6 (fld w 8 6)) (fld w 1 1 == 1)) else .error .reservedField
  | _ => .error .unassignedOpcode

/-- The words of class 1 (R23, R28), less chain and class. -/
def class1 (w : Nat) : Except DecodeError Instr :=
  match fld w 22 5 with
  | 0 => .ok (.addi (.ofNat 6 (fld w 16 6)) (.ofNat 6 (fld w 10 6)) (.ofNat 10 (fld w 0 10)))
  | 1 => .ok (.andi (.ofNat 6 (fld w 16 6)) (.ofNat 6 (fld w 10 6)) (.ofNat 10 (fld w 0 10)))
  | 2 => .ok (.ori (.ofNat 6 (fld w 16 6)) (.ofNat 6 (fld w 10 6)) (.ofNat 10 (fld w 0 10)))
  | 3 => .ok (.xori (.ofNat 6 (fld w 16 6)) (.ofNat 6 (fld w 10 6)) (.ofNat 10 (fld w 0 10)))
  | 4 => bif fld w 6 4 == 0 then .ok (.shli (.ofNat 6 (fld w 16 6)) (.ofNat 6 (fld w 10 6)) (.ofNat 6 (fld w 0 6))) else .error .reservedField
  | 5 => bif fld w 6 4 == 0 then .ok (.shri (.ofNat 6 (fld w 16 6)) (.ofNat 6 (fld w 10 6)) (.ofNat 6 (fld w 0 6))) else .error .reservedField
  | 6 => bif fld w 6 4 == 0 then .ok (.srai (.ofNat 6 (fld w 16 6)) (.ofNat 6 (fld w 10 6)) (.ofNat 6 (fld w 0 6))) else .error .reservedField
  | 7 => .ok (.slti (.ofNat 6 (fld w 16 6)) (.ofNat 6 (fld w 10 6)) (.ofNat 10 (fld w 0 10)))
  | 8 => .ok (.sltni (.ofNat 6 (fld w 16 6)) (.ofNat 6 (fld w 10 6)) (.ofNat 10 (fld w 0 10)))
  | 9 => .ok (.lis (.ofNat 6 (fld w 16 6)) (.ofNat 16 (fld w 0 16)))
  | 10 => .ok (.lih (.ofNat 6 (fld w 16 6)) (.ofNat 16 (fld w 0 16)))
  | 11 => bif fld w 10 6 == 0 then .ok (.mfcr (.ofNat 6 (fld w 16 6)) (.ofNat 10 (fld w 0 10))) else .error .reservedField
  | 12 => bif fld w 16 6 == 0 then .ok (.mtcr (.ofNat 6 (fld w 10 6)) (.ofNat 10 (fld w 0 10))) else .error .reservedField
  | 13 => bif fld w 7 3 == 0 && fld w 16 6 == 0 then .ok (.stg (.ofNat 6 (fld w 10 6)) (.ofNat 3 (fld w 4 3)) (.ofNat 4 (fld w 0 4))) else .error .reservedField
  | 14 => bif fld w 7 9 == 0 then .ok (.ldg (.ofNat 6 (fld w 16 6)) (.ofNat 3 (fld w 4 3)) (.ofNat 4 (fld w 0 4))) else .error .reservedField
  | 15 => bif fld w 16 6 == 0 then .ok (.setfmt (.ofNat 6 (fld w 10 6)) (.ofNat 10 (fld w 0 10))) else .error .reservedField
  | 16 => bif fld w 16 6 == 0 then .ok (.setmfmt (.ofNat 6 (fld w 10 6)) (.ofNat 10 (fld w 0 10))) else .error .reservedField
  | 17 => bif fld w 0 10 == 0 then .ok (.setthr (.ofNat 6 (fld w 16 6)) (.ofNat 6 (fld w 10 6))) else .error .reservedField
  | _ => .error .unassignedOpcode

/-- The words of class 2 (R23, R28), less chain and class. -/
def class2 (w : Nat) : Except DecodeError Instr :=
  match fld w 23 4 with
  | 0 => .ok (.br (.ofNat 23 (fld w 0 23)))
  | 1 => .ok (.call (.ofNat 23 (fld w 0 23)))
  | 2 => .ok (.beq (.ofNat 6 (fld w 17 6)) (.ofNat 6 (fld w 11 6)) (.ofNat 11 (fld w 0 11)))
  | 3 => .ok (.bne (.ofNat 6 (fld w 17 6)) (.ofNat 6 (fld w 11 6)) (.ofNat 11 (fld w 0 11)))
  | 4 => .ok (.blt (.ofNat 6 (fld w 17 6)) (.ofNat 6 (fld w 11 6)) (.ofNat 11 (fld w 0 11)))
  | 5 => .ok (.bge (.ofNat 6 (fld w 17 6)) (.ofNat 6 (fld w 11 6)) (.ofNat 11 (fld w 0 11)))
  | 6 => .ok (.bltn (.ofNat 6 (fld w 17 6)) (.ofNat 6 (fld w 11 6)) (.ofNat 11 (fld w 0 11)))
  | 7 => .ok (.bgen (.ofNat 6 (fld w 17 6)) (.ofNat 6 (fld w 11 6)) (.ofNat 11 (fld w 0 11)))
  | 8 => .ok (.bz (.ofNat 6 (fld w 17 6)) (.ofNat 17 (fld w 0 17)))
  | 9 => .ok (.bnz (.ofNat 6 (fld w 17 6)) (.ofNat 17 (fld w 0 17)))
  | 10 => bif fld w 0 17 == 0 then .ok (.jr (.ofNat 6 (fld w 17 6))) else .error .reservedField
  | 11 => bif fld w 0 23 == 0 then .ok .ret else .error .reservedField
  | 12 => .ok (.loop (.ofNat 6 (fld w 17 6)) (.ofNat 17 (fld w 0 17)))
  | 13 => bif fld w 0 23 == 0 then .ok .phase else .error .reservedField
  | 14 => bif fld w 0 23 == 0 then .ok .tend else .error .reservedField
  | 15 => bif fld w 0 23 == 0 then .ok .ckpt else .error .reservedField
  | _ => .error .unassignedOpcode

/-- The words of class 3 (R23, R28), less chain and class. -/
def class3 (w : Nat) : Except DecodeError Instr :=
  match fld w 20 7 with
  | 0 => .ok (.vadd (.ofNat 6 (fld w 14 6)) (.ofNat 6 (fld w 8 6)) (.ofNat 6 (fld w 2 6)) (.ofNat 2 (fld w 0 2)))
  | 1 => .ok (.vsub (.ofNat 6 (fld w 14 6)) (.ofNat 6 (fld w 8 6)) (.ofNat 6 (fld w 2 6)) (.ofNat 2 (fld w 0 2)))
  | 2 => .ok (.vmul (.ofNat 6 (fld w 14 6)) (.ofNat 6 (fld w 8 6)) (.ofNat 6 (fld w 2 6)) (.ofNat 2 (fld w 0 2)))
  | 3 => .ok (.vfma (.ofNat 6 (fld w 14 6)) (.ofNat 6 (fld w 8 6)) (.ofNat 6 (fld w 2 6)) (.ofNat 2 (fld w 0 2)))
  | 4 => .ok (.vfms (.ofNat 6 (fld w 14 6)) (.ofNat 6 (fld w 8 6)) (.ofNat 6 (fld w 2 6)) (.ofNat 2 (fld w 0 2)))
  | 5 => .ok (.vmin (.ofNat 6 (fld w 14 6)) (.ofNat 6 (fld w 8 6)) (.ofNat 6 (fld w 2 6)) (.ofNat 2 (fld w 0 2)))
  | 6 => .ok (.vmax (.ofNat 6 (fld w 14 6)) (.ofNat 6 (fld w 8 6)) (.ofNat 6 (fld w 2 6)) (.ofNat 2 (fld w 0 2)))
  | 7 => bif fld w 2 6 == 0 then .ok (.vabs (.ofNat 6 (fld w 14 6)) (.ofNat 6 (fld w 8 6)) (.ofNat 2 (fld w 0 2))) else .error .reservedField
  | 8 => bif fld w 2 6 == 0 then .ok (.vneg (.ofNat 6 (fld w 14 6)) (.ofNat 6 (fld w 8 6)) (.ofNat 2 (fld w 0 2))) else .error .reservedField
  | 9 => .ok (.vand (.ofNat 6 (fld w 14 6)) (.ofNat 6 (fld w 8 6)) (.ofNat 6 (fld w 2 6)) (.ofNat 2 (fld w 0 2)))
  | 10 => .ok (.vor (.ofNat 6 (fld w 14 6)) (.ofNat 6 (fld w 8 6)) (.ofNat 6 (fld w 2 6)) (.ofNat 2 (fld w 0 2)))
  | 11 => .ok (.vxor (.ofNat 6 (fld w 14 6)) (.ofNat 6 (fld w 8 6)) (.ofNat 6 (fld w 2 6)) (.ofNat 2 (fld w 0 2)))
  | 12 => .ok (.vshl (.ofNat 6 (fld w 14 6)) (.ofNat 6 (fld w 8 6)) (.ofNat 6 (fld w 2 6)) (.ofNat 2 (fld w 0 2)))
  | 13 => .ok (.vshr (.ofNat 6 (fld w 14 6)) (.ofNat 6 (fld w 8 6)) (.ofNat 6 (fld w 2 6)) (.ofNat 2 (fld w 0 2)))
  | 14 => .ok (.vsra (.ofNat 6 (fld w 14 6)) (.ofNat 6 (fld w 8 6)) (.ofNat 6 (fld w 2 6)) (.ofNat 2 (fld w 0 2)))
  | 15 => .ok (.vadds (.ofNat 6 (fld w 14 6)) (.ofNat 6 (fld w 8 6)) (.ofNat 6 (fld w 2 6)) (.ofNat 2 (fld w 0 2)))
  | 16 => .ok (.vsubs (.ofNat 6 (fld w 14 6)) (.ofNat 6 (fld w 8 6)) (.ofNat 6 (fld w 2 6)) (.ofNat 2 (fld w 0 2)))
  | 17 => .ok (.vmulh (.ofNat 6 (fld w 14 6)) (.ofNat 6 (fld w 8 6)) (.ofNat 6 (fld w 2 6)) (.ofNat 2 (fld w 0 2)))
  | 18 => .ok (.vdot4 (.ofNat 6 (fld w 14 6)) (.ofNat 6 (fld w 8 6)) (.ofNat 6 (fld w 2 6)) (.ofNat 2 (fld w 0 2)))
  | 19 => .ok (.vcmpeq (.ofNat 6 (fld w 14 6)) (.ofNat 6 (fld w 8 6)) (.ofNat 6 (fld w 2 6)) (.ofNat 2 (fld w 0 2)))
  | 20 => .ok (.vcmplt (.ofNat 6 (fld w 14 6)) (.ofNat 6 (fld w 8 6)) (.ofNat 6 (fld w 2 6)) (.ofNat 2 (fld w 0 2)))
  | 21 => .ok (.vcmple (.ofNat 6 (fld w 14 6)) (.ofNat 6 (fld w 8 6)) (.ofNat 6 (fld w 2 6)) (.ofNat 2 (fld w 0 2)))
  | 22 => .ok (.vsel (.ofNat 6 (fld w 14 6)) (.ofNat 6 (fld w 8 6)) (.ofNat 6 (fld w 2 6)) (.ofNat 2 (fld w 0 2)))
  | 23 => bif fld w 2 6 == 0 then .ok (.vmov (.ofNat 6 (fld w 14 6)) (.ofNat 6 (fld w 8 6)) (.ofNat 2 (fld w 0 2))) else .error .reservedField
  | 24 => .ok (.vcvt (.ofNat 6 (fld w 14 6)) (.ofNat 6 (fld w 8 6)) (.ofNat 6 (fld w 2 6)) (.ofNat 2 (fld w 0 2)))
  | 25 => .ok (.vabsd (.ofNat 6 (fld w 14 6)) (.ofNat 6 (fld w 8 6)) (.ofNat 6 (fld w 2 6)) (.ofNat 2 (fld w 0 2)))
  | 26 => .ok (.vclamp (.ofNat 6 (fld w 14 6)) (.ofNat 6 (fld w 8 6)) (.ofNat 6 (fld w 2 6)) (.ofNat 2 (fld w 0 2)))
  | _ => .error .unassignedOpcode

/-- The words of class 4 (R23, R28), less chain and class. -/
def class4 (w : Nat) : Except DecodeError Instr :=
  bif fld w 0 3 == 0 then .ok (.cascadeExtension (.ofNat 5 (fld w 22 5)) (.ofNat 5 (fld w 17 5)) (.ofNat 6 (fld w 11 6)) (.ofNat 6 (fld w 5 6)) (fld w 4 1 == 1) (fld w 3 1 == 1)) else .error .reservedField

/-- The words of class 5 (R23, R28), less chain and class. -/
def class5 (w : Nat) : Except DecodeError Instr :=
  match fld w 20 7 with
  | 0 => bif fld w 0 2 == 0 && fld w 8 6 == 0 then .ok (.vbcast (.ofNat 6 (fld w 14 6)) (.ofNat 6 (fld w 2 6))) else .error .reservedField
  | 1 => bif fld w 0 2 == 0 then .ok (.vaddx (.ofNat 6 (fld w 14 6)) (.ofNat 6 (fld w 8 6)) (.ofNat 6 (fld w 2 6))) else .error .reservedField
  | 2 => bif fld w 0 2 == 0 then .ok (.vmulx (.ofNat 6 (fld w 14 6)) (.ofNat 6 (fld w 8 6)) (.ofNat 6 (fld w 2 6))) else .error .reservedField
  | 3 => bif fld w 0 2 == 0 then .ok (.vfmax (.ofNat 6 (fld w 14 6)) (.ofNat 6 (fld w 8 6)) (.ofNat 6 (fld w 2 6))) else .error .reservedField
  | 4 => bif fld w 0 2 == 0 then .ok (.vimm (.ofNat 6 (fld w 14 6)) (.ofNat 12 (fld w 2 12))) else .error .reservedField
  | 5 => bif fld w 0 2 == 0 && fld w 8 6 == 0 then .ok (.vidx (.ofNat 6 (fld w 14 6)) (.ofNat 6 (fld w 2 6))) else .error .reservedField
  | 6 => bif fld w 0 2 == 0 then .ok (.vperm (.ofNat 6 (fld w 14 6)) (.ofNat 6 (fld w 8 6)) (.ofNat 6 (fld w 2 6))) else .error .reservedField
  | 7 => bif fld w 0 2 == 0 then .ok (.vrot (.ofNat 6 (fld w 14 6)) (.ofNat 6 (fld w 8 6)) (.ofNat 6 (fld w 2 6))) else .error .reservedField
  | 8 => bif fld w 0 2 == 0 then .ok (.xcl (.ofNat 6 (fld w 14 6)) (.ofNat 6 (fld w 8 6)) (.ofNat 6 (fld w 2 6))) else .error .reservedField
  | 9 => bif fld w 0 2 == 0 then .ok (.xred (.ofNat 6 (fld w 14 6)) (.ofNat 6 (fld w 8 6)) (.ofNat 6 (fld w 2 6))) else .error .reservedField
  | 10 => bif fld w 0 8 == 0 then .ok (.vred (.ofNat 6 (fld w 14 6)) (.ofNat 6 (fld w 8 6))) else .error .reservedField
  | 11 => bif fld w 0 8 == 0 then .ok (.vredmax (.ofNat 6 (fld w 14 6)) (.ofNat 6 (fld w 8 6))) else .error .reservedField
  | 12 => bif fld w 0 2 == 0 then .ok (.vext (.ofNat 6 (fld w 14 6)) (.ofNat 6 (fld w 8 6)) (.ofNat 6 (fld w 2 6))) else .error .reservedField
  | 13 => bif fld w 0 2 == 0 then .ok (.vins (.ofNat 6 (fld w 14 6)) (.ofNat 6 (fld w 8 6)) (.ofNat 6 (fld w 2 6))) else .error .reservedField
  | 14 => bif fld w 0 2 == 0 then .ok (.mand (.ofNat 6 (fld w 14 6)) (.ofNat 6 (fld w 8 6)) (.ofNat 6 (fld w 2 6))) else .error .reservedField
  | 15 => bif fld w 0 2 == 0 then .ok (.mor (.ofNat 6 (fld w 14 6)) (.ofNat 6 (fld w 8 6)) (.ofNat 6 (fld w 2 6))) else .error .reservedField
  | 16 => bif fld w 0 8 == 0 then .ok (.mnot (.ofNat 6 (fld w 14 6)) (.ofNat 6 (fld w 8 6))) else .error .reservedField
  | 17 => bif fld w 0 8 == 0 then .ok (.mpop (.ofNat 6 (fld w 14 6)) (.ofNat 6 (fld w 8 6))) else .error .reservedField
  | 18 => bif fld w 0 2 == 0 && fld w 6 2 == 0 then .ok (.vtag (.ofNat 6 (fld w 14 6)) (.ofNat 6 (fld w 8 6)) (.ofNat 4 (fld w 2 4))) else .error .reservedField
  | 19 => bif fld w 0 8 == 0 then .ok (.vtagx (.ofNat 6 (fld w 14 6)) (.ofNat 6 (fld w 8 6))) else .error .reservedField
  | 20 => bif fld w 0 8 == 0 then .ok (.vpop (.ofNat 6 (fld w 14 6)) (.ofNat 6 (fld w 8 6))) else .error .reservedField
  | _ => .error .unassignedOpcode

/-- The words of class 6 (R23, R28), less chain and class. -/
def class6 (w : Nat) : Except DecodeError Instr :=
  match fld w 21 6 with
  | 0 => bif fld w 0 9 == 0 then .ok (.fexp2 (.ofNat 6 (fld w 15 6)) (.ofNat 6 (fld w 9 6))) else .error .reservedField
  | 1 => bif fld w 0 9 == 0 then .ok (.flog2 (.ofNat 6 (fld w 15 6)) (.ofNat 6 (fld w 9 6))) else .error .reservedField
  | 2 => bif fld w 0 9 == 0 then .ok (.frcp (.ofNat 6 (fld w 15 6)) (.ofNat 6 (fld w 9 6))) else .error .reservedField
  | 3 => bif fld w 0 9 == 0 then .ok (.frsqrt (.ofNat 6 (fld w 15 6)) (.ofNat 6 (fld w 9 6))) else .error .reservedField
  | 4 => bif fld w 0 9 == 0 then .ok (.fsqrt (.ofNat 6 (fld w 15 6)) (.ofNat 6 (fld w 9 6))) else .error .reservedField
  | 5 => bif fld w 0 9 == 0 then .ok (.fsin (.ofNat 6 (fld w 15 6)) (.ofNat 6 (fld w 9 6))) else .error .reservedField
  | 6 => bif fld w 0 9 == 0 then .ok (.fcos (.ofNat 6 (fld w 15 6)) (.ofNat 6 (fld w 9 6))) else .error .reservedField
  | 7 => bif fld w 0 9 == 0 then .ok (.ftanh (.ofNat 6 (fld w 15 6)) (.ofNat 6 (fld w 9 6))) else .error .reservedField
  | 8 => bif fld w 0 9 == 0 then .ok (.fsigm (.ofNat 6 (fld w 15 6)) (.ofNat 6 (fld w 9 6))) else .error .reservedField
  | 9 => bif fld w 0 9 == 0 then .ok (.fgelu (.ofNat 6 (fld w 15 6)) (.ofNat 6 (fld w 9 6))) else .error .reservedField
  | 10 => bif fld w 0 9 == 0 then .ok (.fsilu (.ofNat 6 (fld w 15 6)) (.ofNat 6 (fld w 9 6))) else .error .reservedField
  | 11 => bif fld w 0 3 == 0 then .ok (.fdiv (.ofNat 6 (fld w 15 6)) (.ofNat 6 (fld w 9 6)) (.ofNat 6 (fld w 3 6))) else .error .reservedField
  | _ => .error .unassignedOpcode

/-- The words of class 7 (R23, R28), less chain and class. -/
def class7 (w : Nat) : Except DecodeError Instr :=
  match fld w 22 5 with
  | 0 => .ok (.vld (.ofNat 6 (fld w 16 6)) (.ofNat 6 (fld w 10 6)) (.ofNat 10 (fld w 0 10)))
  | 1 => .ok (.vst (.ofNat 6 (fld w 16 6)) (.ofNat 6 (fld w 10 6)) (.ofNat 10 (fld w 0 10)))
  | 2 => .ok (.rmg (.ofNat 6 (fld w 16 6)) (.ofNat 6 (fld w 10 6)) (.ofNat 10 (fld w 0 10)))
  | 3 => .ok (.sld (.ofNat 6 (fld w 16 6)) (.ofNat 16 (fld w 0 16)))
  | 4 => .ok (.sst (.ofNat 6 (fld w 16 6)) (.ofNat 16 (fld w 0 16)))
  | 5 => .ok (.vsld (.ofNat 6 (fld w 16 6)) (.ofNat 16 (fld w 0 16)))
  | 6 => .ok (.vsst (.ofNat 6 (fld w 16 6)) (.ofNat 16 (fld w 0 16)))
  | 7 => .ok (.vfill (.ofNat 6 (fld w 16 6)) (.ofNat 6 (fld w 10 6)) (.ofNat 10 (fld w 0 10)))
  | 8 => .ok (.rtagw (.ofNat 6 (fld w 16 6)) (.ofNat 6 (fld w 10 6)) (.ofNat 10 (fld w 0 10)))
  | 9 => .ok (.rtagr (.ofNat 6 (fld w 16 6)) (.ofNat 6 (fld w 10 6)) (.ofNat 10 (fld w 0 10)))
  | 10 => .ok (.qst (.ofNat 6 (fld w 16 6)) (.ofNat 6 (fld w 10 6)) (.ofNat 10 (fld w 0 10)))
  | _ => .error .unassignedOpcode

/-- The words of class 8 (R23, R28), less chain and class. -/
def class8 (w : Nat) : Except DecodeError Instr :=
  match fld w 21 6 with
  | 0 => bif fld w 0 1 == 0 && fld w 2 1 == 0 then .ok (.hld (.ofNat 6 (fld w 15 6)) (.ofNat 6 (fld w 9 6)) (.ofNat 6 (fld w 3 6)) (fld w 1 1 == 1)) else .error .reservedField
  | 1 => bif fld w 0 1 == 0 && fld w 2 1 == 0 then .ok (.hst (.ofNat 6 (fld w 15 6)) (.ofNat 6 (fld w 9 6)) (.ofNat 6 (fld w 3 6)) (fld w 1 1 == 1)) else .error .reservedField
  | 2 => bif fld w 0 1 == 0 && fld w 2 1 == 0 then .ok (.hlds (.ofNat 6 (fld w 15 6)) (.ofNat 6 (fld w 9 6)) (.ofNat 6 (fld w 3 6)) (fld w 1 1 == 1)) else .error .reservedField
  | 3 => bif fld w 0 1 == 0 && fld w 2 1 == 0 then .ok (.hsts (.ofNat 6 (fld w 15 6)) (.ofNat 6 (fld w 9 6)) (.ofNat 6 (fld w 3 6)) (fld w 1 1 == 1)) else .error .reservedField
  | 4 => bif fld w 0 1 == 0 && fld w 2 1 == 0 && fld w 15 6 == 0 then .ok (.hpf (.ofNat 6 (fld w 9 6)) (.ofNat 6 (fld w 3 6)) (fld w 1 1 == 1)) else .error .reservedField
  | 5 => bif fld w 0 1 == 0 then .ok (.haadd (.ofNat 6 (fld w 15 6)) (.ofNat 6 (fld w 9 6)) (.ofNat 6 (fld w 3 6)) (fld w 2 1 == 1) (fld w 1 1 == 1)) else .error .reservedField
  | 6 => bif fld w 0 1 == 0 then .ok (.hamax (.ofNat 6 (fld w 15 6)) (.ofNat 6 (fld w 9 6)) (.ofNat 6 (fld w 3 6)) (fld w 2 1 == 1) (fld w 1 1 == 1)) else .error .reservedField
  | 7 => bif fld w 0 1 == 0 then .ok (.hamin (.ofNat 6 (fld w 15 6)) (.ofNat 6 (fld w 9 6)) (.ofNat 6 (fld w 3 6)) (fld w 2 1 == 1) (fld w 1 1 == 1)) else .error .reservedField
  | 8 => bif fld w 0 1 == 0 then .ok (.hamaxn (.ofNat 6 (fld w 15 6)) (.ofNat 6 (fld w 9 6)) (.ofNat 6 (fld w 3 6)) (fld w 2 1 == 1) (fld w 1 1 == 1)) else .error .reservedField
  | 9 => bif fld w 0 1 == 0 then .ok (.haminn (.ofNat 6 (fld w 15 6)) (.ofNat 6 (fld w 9 6)) (.ofNat 6 (fld w 3 6)) (fld w 2 1 == 1) (fld w 1 1 == 1)) else .error .reservedField
  | 10 => bif fld w 0 1 == 0 then .ok (.haand (.ofNat 6 (fld w 15 6)) (.ofNat 6 (fld w 9 6)) (.ofNat 6 (fld w 3 6)) (fld w 2 1 == 1) (fld w 1 1 == 1)) else .error .reservedField
  | 11 => bif fld w 0 1 == 0 then .ok (.haor (.ofNat 6 (fld w 15 6)) (.ofNat 6 (fld w 9 6)) (.ofNat 6 (fld w 3 6)) (fld w 2 1 == 1) (fld w 1 1 == 1)) else .error .reservedField
  | 12 => bif fld w 0 1 == 0 then .ok (.haxor (.ofNat 6 (fld w 15 6)) (.ofNat 6 (fld w 9 6)) (.ofNat 6 (fld w 3 6)) (fld w 2 1 == 1) (fld w 1 1 == 1)) else .error .reservedField
  | 13 => bif fld w 0 1 == 0 then .ok (.haswp (.ofNat 6 (fld w 15 6)) (.ofNat 6 (fld w 9 6)) (.ofNat 6 (fld w 3 6)) (fld w 2 1 == 1) (fld w 1 1 == 1)) else .error .reservedField
  | 14 => bif fld w 0 1 == 0 then .ok (.hacas (.ofNat 6 (fld w 15 6)) (.ofNat 6 (fld w 9 6)) (.ofNat 6 (fld w 3 6)) (fld w 2 1 == 1) (fld w 1 1 == 1)) else .error .reservedField
  | 15 => bif fld w 0 1 == 0 then .ok (.hfadd (.ofNat 6 (fld w 15 6)) (.ofNat 6 (fld w 9 6)) (.ofNat 6 (fld w 3 6)) (fld w 2 1 == 1) (fld w 1 1 == 1)) else .error .reservedField
  | 16 => bif fld w 0 1 == 0 then .ok (.hfamax (.ofNat 6 (fld w 15 6)) (.ofNat 6 (fld w 9 6)) (.ofNat 6 (fld w 3 6)) (fld w 2 1 == 1) (fld w 1 1 == 1)) else .error .reservedField
  | 17 => bif fld w 0 1 == 0 then .ok (.hfamin (.ofNat 6 (fld w 15 6)) (.ofNat 6 (fld w 9 6)) (.ofNat 6 (fld w 3 6)) (fld w 2 1 == 1) (fld w 1 1 == 1)) else .error .reservedField
  | 18 => bif fld w 0 1 == 0 && fld w 2 1 == 0 then .ok (.hvadd (.ofNat 6 (fld w 15 6)) (.ofNat 6 (fld w 9 6)) (.ofNat 6 (fld w 3 6)) (fld w 1 1 == 1)) else .error .reservedField
  | 19 => bif fld w 0 1 == 0 && fld w 2 1 == 0 then .ok (.hvmax (.ofNat 6 (fld w 15 6)) (.ofNat 6 (fld w 9 6)) (.ofNat 6 (fld w 3 6)) (fld w 1 1 == 1)) else .error .reservedField
  | 20 => bif fld w 0 1 == 0 && fld w 2 1 == 0 then .ok (.hinfo (.ofNat 6 (fld w 15 6)) (.ofNat 6 (fld w 9 6)) (.ofNat 6 (fld w 3 6)) (fld w 1 1 == 1)) else .error .reservedField
  | _ => .error .unassignedOpcode

/-- The words of class 9 (R23, R28), less chain and class. -/
def class9 (w : Nat) : Except DecodeError Instr :=
  match fld w 21 6 with
  | 0 => bif fld w 6 2 == 0 && fld w 11 6 == 0 then .ok (.mmul (.ofNat 2 (fld w 19 2)) (.ofNat 2 (fld w 17 2)) (fld w 10 1 == 1) (fld w 9 1 == 1) (fld w 8 1 == 1) (.ofNat 6 (fld w 0 6))) else .error .reservedField
  | 1 => bif fld w 0 19 == 0 then .ok (.mzero (.ofNat 2 (fld w 19 2))) else .error .reservedField
  | 2 => bif fld w 0 17 == 0 then .ok (.mdrain (.ofNat 2 (fld w 19 2)) (.ofNat 2 (fld w 17 2))) else .error .reservedField
  | 3 => bif fld w 6 15 == 0 then .ok (.mwld (.ofNat 6 (fld w 0 6))) else .error .reservedField
  | 4 => bif fld w 6 15 == 0 then .ok (.mwstr (.ofNat 6 (fld w 0 6))) else .error .reservedField
  | 5 => bif fld w 6 2 == 0 && fld w 11 6 == 0 then .ok (.mtile (.ofNat 2 (fld w 19 2)) (.ofNat 2 (fld w 17 2)) (fld w 10 1 == 1) (fld w 9 1 == 1) (fld w 8 1 == 1) (.ofNat 6 (fld w 0 6))) else .error .reservedField
  | 6 => bif fld w 15 6 == 0 then .ok (.mstat (fld w 14 1 == 1) (.ofNat 6 (fld w 8 6)) (.ofNat 8 (fld w 0 8))) else .error .reservedField
  | _ => .error .unassignedOpcode

/-- The words of class 10 (R23, R28), less chain and class. -/
def class10 (w : Nat) : Except DecodeError Instr :=
  match fld w 21 6 with
  | 0 => bif fld w 0 8 == 0 && fld w 9 8 == 0 then .ok (.fget (.ofNat 4 (fld w 17 4)) (fld w 8 1 == 1)) else .error .reservedField
  | 1 => bif fld w 0 17 == 0 then .ok (.fpref (.ofNat 4 (fld w 17 4))) else .error .reservedField
  | 2 => bif fld w 0 17 == 0 then .ok (.fcancel (.ofNat 4 (fld w 17 4))) else .error .reservedField
  | 3 => bif fld w 0 17 == 0 then .ok (.sbind (.ofNat 4 (fld w 17 4))) else .error .reservedField
  | 4 => bif fld w 0 17 == 0 then .ok (.sfree (.ofNat 4 (fld w 17 4))) else .error .reservedField
  | _ => .error .unassignedOpcode

/-- The words of class 11 (R23, R28), less chain and class. -/
def class11 (w : Nat) : Except DecodeError Instr :=
  match fld w 21 6 with
  | 0 => bif fld w 0 8 == 0 && fld w 9 8 == 0 then .ok (.cput (.ofNat 4 (fld w 17 4)) (fld w 8 1 == 1)) else .error .reservedField
  | 1 => bif fld w 0 17 == 0 then .ok (.cmov (.ofNat 4 (fld w 17 4))) else .error .reservedField
  | 2 => bif fld w 0 17 == 0 then .ok (.clzCopy (.ofNat 4 (fld w 17 4))) else .error .reservedField
  | 3 => bif fld w 6 2 == 0 && fld w 10 7 == 0 then .ok (.cdrain (.ofNat 4 (fld w 17 4)) (fld w 9 1 == 1) (fld w 8 1 == 1) (.ofNat 6 (fld w 0 6))) else .error .reservedField
  | 4 => bif fld w 6 2 == 0 && fld w 9 8 == 0 then .ok (.cstat (.ofNat 4 (fld w 17 4)) (fld w 8 1 == 1) (.ofNat 6 (fld w 0 6))) else .error .reservedField
  | _ => .error .unassignedOpcode

/-- The words of class 12 (R23, R28), less chain and class. -/
def class12 (w : Nat) : Except DecodeError Instr :=
  match fld w 21 6 with
  | 0 => bif fld w 8 13 == 0 then .ok (.wfwd (.ofNat 8 (fld w 0 8))) else .error .reservedField
  | 1 => bif fld w 0 21 == 0 then .ok .winv else .error .reservedField
  | 2 => bif fld w 8 13 == 0 then .ok (.wst (.ofNat 8 (fld w 0 8))) else bif fld w 0 21 == 256 then .ok .wstC else .error .reservedField
  | 3 => bif fld w 0 21 == 0 then .ok .wexp else .error .reservedField
  | 4 => bif fld w 6 2 == 0 && fld w 14 7 == 0 then .ok (.wcnt (.ofNat 6 (fld w 8 6)) (.ofNat 6 (fld w 0 6))) else .error .reservedField
  | 5 => bif fld w 0 21 == 0 then .ok .wbias else .error .reservedField
  | _ => .error .unassignedOpcode

/-- The words of class 13 (R23, R28), less chain and class. -/
def class13 (w : Nat) : Except DecodeError Instr :=
  match fld w 21 6 with
  | 0 => bif fld w 0 21 == 0 then .ok .opub else .error .reservedField
  | 1 => bif fld w 8 13 == 0 then .ok (.osub (.ofNat 8 (fld w 0 8))) else .error .reservedField
  | 2 => bif fld w 0 21 == 0 then .ok .opin else .error .reservedField
  | 3 => bif fld w 0 21 == 0 then .ok .ounpin else .error .reservedField
  | 4 => bif fld w 0 21 == 0 then .ok .over else .error .reservedField
  | 5 => bif fld w 8 13 == 0 then .ok (.evsig (.ofNat 8 (fld w 0 8))) else bif fld w 8 13 == 1 then .ok (.evsigB (.ofNat 8 (fld w 0 8))) else .error .reservedField
  | 6 => bif fld w 0 8 == 0 && fld w 14 7 == 0 then .ok (.gkick (.ofNat 6 (fld w 8 6))) else .error .reservedField
  | 7 => bif fld w 0 17 == 0 then .ok (.lzopen (.ofNat 4 (fld w 17 4))) else .error .reservedField
  | 8 => bif fld w 0 17 == 0 then .ok (.lzclose (.ofNat 4 (fld w 17 4))) else .error .reservedField
  | 9 => bif fld w 0 8 == 0 && fld w 14 7 == 0 then .ok (.lzres (.ofNat 6 (fld w 8 6))) else .error .reservedField
  | 10 => bif fld w 0 21 == 0 then .ok .lzrel else .error .reservedField
  | 11 => bif fld w 0 17 == 0 then .ok (.lzclr (.ofNat 4 (fld w 17 4))) else .error .reservedField
  | 12 => bif fld w 6 2 == 0 && fld w 14 3 == 0 then .ok (.lzstat (.ofNat 4 (fld w 17 4)) (.ofNat 6 (fld w 8 6)) (.ofNat 6 (fld w 0 6))) else .error .reservedField
  | 13 => bif fld w 0 17 == 0 then .ok (.barinit (.ofNat 4 (fld w 17 4))) else .error .reservedField
  | 14 => bif fld w 0 8 == 0 && fld w 14 3 == 0 then .ok (.barstat (.ofNat 4 (fld w 17 4)) (.ofNat 6 (fld w 8 6))) else .error .reservedField
  | _ => .error .unassignedOpcode

/-- The words of class 14 (R23, R28), less chain and class. -/
def class14 (w : Nat) : Except DecodeError Instr :=
  match fld w 21 6 with
  | 0 => bif fld w 16 5 == 0 then .ok (.trap (.ofNat 16 (fld w 0 16))) else .error .reservedField
  | 1 => bif fld w 0 21 == 0 then .ok .tfence else .error .reservedField
  | 2 => bif fld w 0 3 == 0 && fld w 15 6 == 0 then .ok (.chk (.ofNat 6 (fld w 9 6)) (.ofNat 6 (fld w 3 6))) else .error .reservedField
  | 3 => bif fld w 0 3 == 0 && fld w 15 6 == 0 then .ok (.vchk (.ofNat 6 (fld w 9 6)) (.ofNat 6 (fld w 3 6))) else .error .reservedField
  | 4 => bif fld w 16 5 == 0 then .ok (.sysc (.ofNat 16 (fld w 0 16))) else .error .reservedField
  | 5 => bif fld w 0 21 == 0 then .ok .eret else .error .reservedField
  | 6 => bif fld w 0 21 == 0 then .ok .wfi else .error .reservedField
  | 7 => bif fld w 0 3 == 0 then .ok (.mfsr (.ofNat 6 (fld w 15 6)) (.ofNat 12 (fld w 3 12))) else .error .reservedField
  | 8 => bif fld w 0 3 == 0 then .ok (.mtsr (.ofNat 6 (fld w 15 6)) (.ofNat 12 (fld w 3 12))) else .error .reservedField
  | 9 => bif fld w 0 9 == 0 then .ok (.pld (.ofNat 6 (fld w 15 6)) (.ofNat 6 (fld w 9 6))) else .error .reservedField
  | 10 => bif fld w 0 3 == 0 && fld w 15 6 == 0 then .ok (.pst (.ofNat 6 (fld w 9 6)) (.ofNat 6 (fld w 3 6))) else .error .reservedField
  | 11 => bif fld w 0 21 == 0 then .ok .pord else .error .reservedField
  | 12 => bif fld w 0 9 == 0 && fld w 15 6 == 0 then .ok (.hinv (.ofNat 6 (fld w 9 6))) else .error .reservedField
  | 13 => bif fld w 0 15 == 0 then .ok (.ident (.ofNat 6 (fld w 15 6))) else .error .reservedField
  | 14 => bif fld w 16 5 == 0 then .ok (.brk (.ofNat 16 (fld w 0 16))) else .error .reservedField
  | 15 => bif fld w 0 3 == 0 && fld w 15 6 == 0 then .ok (.wpset (.ofNat 6 (fld w 9 6)) (.ofNat 6 (fld w 3 6))) else .error .reservedField
  | 16 => bif fld w 0 9 == 0 && fld w 15 6 == 0 then .ok (.wpclr (.ofNat 6 (fld w 9 6))) else .error .reservedField
  | _ => .error .unassignedOpcode

end Dec

/-- The instruction in bits [30:0] of a word (R15, R23). -/
def decodeBody (w : Nat) : Except DecodeError Instr :=
  match fld w 27 4 with
  | 0 => Dec.class0 w
  | 1 => Dec.class1 w
  | 2 => Dec.class2 w
  | 3 => Dec.class3 w
  | 4 => Dec.class4 w
  | 5 => Dec.class5 w
  | 6 => Dec.class6 w
  | 7 => Dec.class7 w
  | 8 => Dec.class8 w
  | 9 => Dec.class9 w
  | 10 => Dec.class10 w
  | 11 => Dec.class11 w
  | 12 => Dec.class12 w
  | 13 => Dec.class13 w
  | 14 => Dec.class14 w
  | _ => .error .reservedClass

/-- A word's chain bit and its instruction (R15). -/
def decodeWord (w : IWord) : Except DecodeError (Bool × Instr) :=
  match decodeBody w.toNat with
  | .ok i => .ok (fld w.toNat 31 1 == 1, i)
  | .error e => .error e

/-- The word of an instruction with chain 0, as a number; an event has none. -/
def encodeNat : Instr → Option Nat
  | .add d a b e f => some (0 + d.toNat * 16384 + a.toNat * 256 + b.toNat * 4 + e.toNat * 2 + f.toNat)
  | .sub d a b e f => some (1048576 + d.toNat * 16384 + a.toNat * 256 + b.toNat * 4 + e.toNat * 2 + f.toNat)
  | .and d a b e f => some (2097152 + d.toNat * 16384 + a.toNat * 256 + b.toNat * 4 + e.toNat * 2 + f.toNat)
  | .or d a b e f => some (3145728 + d.toNat * 16384 + a.toNat * 256 + b.toNat * 4 + e.toNat * 2 + f.toNat)
  | .xor d a b e f => some (4194304 + d.toNat * 16384 + a.toNat * 256 + b.toNat * 4 + e.toNat * 2 + f.toNat)
  | .andn d a b e f => some (5242880 + d.toNat * 16384 + a.toNat * 256 + b.toNat * 4 + e.toNat * 2 + f.toNat)
  | .shl d a b e f => some (6291456 + d.toNat * 16384 + a.toNat * 256 + b.toNat * 4 + e.toNat * 2 + f.toNat)
  | .shr d a b e f => some (7340032 + d.toNat * 16384 + a.toNat * 256 + b.toNat * 4 + e.toNat * 2 + f.toNat)
  | .sra d a b e f => some (8388608 + d.toNat * 16384 + a.toNat * 256 + b.toNat * 4 + e.toNat * 2 + f.toNat)
  | .rol d a b e f => some (9437184 + d.toNat * 16384 + a.toNat * 256 + b.toNat * 4 + e.toNat * 2 + f.toNat)
  | .mul d a b e f => some (10485760 + d.toNat * 16384 + a.toNat * 256 + b.toNat * 4 + e.toNat * 2 + f.toNat)
  | .mulh d a b e f => some (11534336 + d.toNat * 16384 + a.toNat * 256 + b.toNat * 4 + e.toNat * 2 + f.toNat)
  | .mulhn d a b e f => some (12582912 + d.toNat * 16384 + a.toNat * 256 + b.toNat * 4 + e.toNat * 2 + f.toNat)
  | .div d a b e f => some (13631488 + d.toNat * 16384 + a.toNat * 256 + b.toNat * 4 + e.toNat * 2 + f.toNat)
  | .divn d a b e f => some (14680064 + d.toNat * 16384 + a.toNat * 256 + b.toNat * 4 + e.toNat * 2 + f.toNat)
  | .rem d a b e f => some (15728640 + d.toNat * 16384 + a.toNat * 256 + b.toNat * 4 + e.toNat * 2 + f.toNat)
  | .remn d a b e f => some (16777216 + d.toNat * 16384 + a.toNat * 256 + b.toNat * 4 + e.toNat * 2 + f.toNat)
  | .min d a b e f => some (17825792 + d.toNat * 16384 + a.toNat * 256 + b.toNat * 4 + e.toNat * 2 + f.toNat)
  | .max d a b e f => some (18874368 + d.toNat * 16384 + a.toNat * 256 + b.toNat * 4 + e.toNat * 2 + f.toNat)
  | .minn d a b e f => some (19922944 + d.toNat * 16384 + a.toNat * 256 + b.toNat * 4 + e.toNat * 2 + f.toNat)
  | .maxn d a b e f => some (20971520 + d.toNat * 16384 + a.toNat * 256 + b.toNat * 4 + e.toNat * 2 + f.toNat)
  | .slt d a b e f => some (22020096 + d.toNat * 16384 + a.toNat * 256 + b.toNat * 4 + e.toNat * 2 + f.toNat)
  | .sltn d a b e f => some (23068672 + d.toNat * 16384 + a.toNat * 256 + b.toNat * 4 + e.toNat * 2 + f.toNat)
  | .seq d a b e f => some (24117248 + d.toNat * 16384 + a.toNat * 256 + b.toNat * 4 + e.toNat * 2 + f.toNat)
  | .clz d a e => some (25165824 + d.toNat * 16384 + a.toNat * 256 + e.toNat * 2)
  | .ctz d a e => some (26214400 + d.toNat * 16384 + a.toNat * 256 + e.toNat * 2)
  | .popc d a e => some (27262976 + d.toNat * 16384 + a.toNat * 256 + e.toNat * 2)
  | .sext d a b e f => some (28311552 + d.toNat * 16384 + a.toNat * 256 + b.toNat * 4 + e.toNat * 2 + f.toNat)
  | .bext d a b e f => some (29360128 + d.toNat * 16384 + a.toNat * 256 + b.toNat * 4 + e.toNat * 2 + f.toNat)
  | .bins d a b e f => some (30408704 + d.toNat * 16384 + a.toNat * 256 + b.toNat * 4 + e.toNat * 2 + f.toNat)
  | .fset d a e => some (31457280 + d.toNat * 16384 + a.toNat * 256 + e.toNat * 2)
  | .fclr d a e => some (32505856 + d.toNat * 16384 + a.toNat * 256 + e.toNat * 2)
  | .fadd d a b e f => some (33554432 + d.toNat * 16384 + a.toNat * 256 + b.toNat * 4 + e.toNat * 2 + f.toNat)
  | .fsub d a b e f => some (34603008 + d.toNat * 16384 + a.toNat * 256 + b.toNat * 4 + e.toNat * 2 + f.toNat)
  | .fmul d a b e f => some (35651584 + d.toNat * 16384 + a.toNat * 256 + b.toNat * 4 + e.toNat * 2 + f.toNat)
  | .fmin d a b e f => some (36700160 + d.toNat * 16384 + a.toNat * 256 + b.toNat * 4 + e.toNat * 2 + f.toNat)
  | .fmax d a b e f => some (37748736 + d.toNat * 16384 + a.toNat * 256 + b.toNat * 4 + e.toNat * 2 + f.toNat)
  | .fcvti d a e => some (38797312 + d.toNat * 16384 + a.toNat * 256 + e.toNat * 2)
  | .icvtf d a e => some (39845888 + d.toNat * 16384 + a.toNat * 256 + e.toNat * 2)
  | .addi d a i => some (134217728 + d.toNat * 65536 + a.toNat * 1024 + i.toNat)
  | .andi d a i => some (138412032 + d.toNat * 65536 + a.toNat * 1024 + i.toNat)
  | .ori d a i => some (142606336 + d.toNat * 65536 + a.toNat * 1024 + i.toNat)
  | .xori d a i => some (146800640 + d.toNat * 65536 + a.toNat * 1024 + i.toNat)
  | .shli d a s => some (150994944 + d.toNat * 65536 + a.toNat * 1024 + s.toNat)
  | .shri d a s => some (155189248 + d.toNat * 65536 + a.toNat * 1024 + s.toNat)
  | .srai d a s => some (159383552 + d.toNat * 65536 + a.toNat * 1024 + s.toNat)
  | .slti d a i => some (163577856 + d.toNat * 65536 + a.toNat * 1024 + i.toNat)
  | .sltni d a i => some (167772160 + d.toNat * 65536 + a.toNat * 1024 + i.toNat)
  | .lis d i => some (171966464 + d.toNat * 65536 + i.toNat)
  | .lih d i => some (176160768 + d.toNat * 65536 + i.toNat)
  | .mfcr d n => some (180355072 + d.toNat * 65536 + n.toNat)
  | .mtcr a n => some (184549376 + a.toNat * 1024 + n.toNat)
  | .stg a e x => some (188743680 + a.toNat * 1024 + e.toNat * 16 + x.toNat)
  | .ldg d e x => some (192937984 + d.toNat * 65536 + e.toNat * 16 + x.toNat)
  | .setfmt a i => some (197132288 + a.toNat * 1024 + i.toNat)
  | .setmfmt a i => some (201326592 + a.toNat * 1024 + i.toNat)
  | .setthr n a => some (205520896 + n.toNat * 65536 + a.toNat * 1024)
  | .br o => some (268435456 + o.toNat)
  | .call o => some (276824064 + o.toNat)
  | .beq a b o => some (285212672 + a.toNat * 131072 + b.toNat * 2048 + o.toNat)
  | .bne a b o => some (293601280 + a.toNat * 131072 + b.toNat * 2048 + o.toNat)
  | .blt a b o => some (301989888 + a.toNat * 131072 + b.toNat * 2048 + o.toNat)
  | .bge a b o => some (310378496 + a.toNat * 131072 + b.toNat * 2048 + o.toNat)
  | .bltn a b o => some (318767104 + a.toNat * 131072 + b.toNat * 2048 + o.toNat)
  | .bgen a b o => some (327155712 + a.toNat * 131072 + b.toNat * 2048 + o.toNat)
  | .bz a o => some (335544320 + a.toNat * 131072 + o.toNat)
  | .bnz a o => some (343932928 + a.toNat * 131072 + o.toNat)
  | .jr a => some (352321536 + a.toNat * 131072)
  | .ret => some (360710144)
  | .loop a o => some (369098752 + a.toNat * 131072 + o.toNat)
  | .phase => some (377487360)
  | .tend => some (385875968)
  | .ckpt => some (394264576)
  | .vadd d a b m => some (402653184 + d.toNat * 16384 + a.toNat * 256 + b.toNat * 4 + m.toNat)
  | .vsub d a b m => some (403701760 + d.toNat * 16384 + a.toNat * 256 + b.toNat * 4 + m.toNat)
  | .vmul d a b m => some (404750336 + d.toNat * 16384 + a.toNat * 256 + b.toNat * 4 + m.toNat)
  | .vfma d a b m => some (405798912 + d.toNat * 16384 + a.toNat * 256 + b.toNat * 4 + m.toNat)
  | .vfms d a b m => some (406847488 + d.toNat * 16384 + a.toNat * 256 + b.toNat * 4 + m.toNat)
  | .vmin d a b m => some (407896064 + d.toNat * 16384 + a.toNat * 256 + b.toNat * 4 + m.toNat)
  | .vmax d a b m => some (408944640 + d.toNat * 16384 + a.toNat * 256 + b.toNat * 4 + m.toNat)
  | .vabs d a m => some (409993216 + d.toNat * 16384 + a.toNat * 256 + m.toNat)
  | .vneg d a m => some (411041792 + d.toNat * 16384 + a.toNat * 256 + m.toNat)
  | .vand d a b m => some (412090368 + d.toNat * 16384 + a.toNat * 256 + b.toNat * 4 + m.toNat)
  | .vor d a b m => some (413138944 + d.toNat * 16384 + a.toNat * 256 + b.toNat * 4 + m.toNat)
  | .vxor d a b m => some (414187520 + d.toNat * 16384 + a.toNat * 256 + b.toNat * 4 + m.toNat)
  | .vshl d a b m => some (415236096 + d.toNat * 16384 + a.toNat * 256 + b.toNat * 4 + m.toNat)
  | .vshr d a b m => some (416284672 + d.toNat * 16384 + a.toNat * 256 + b.toNat * 4 + m.toNat)
  | .vsra d a b m => some (417333248 + d.toNat * 16384 + a.toNat * 256 + b.toNat * 4 + m.toNat)
  | .vadds d a b m => some (418381824 + d.toNat * 16384 + a.toNat * 256 + b.toNat * 4 + m.toNat)
  | .vsubs d a b m => some (419430400 + d.toNat * 16384 + a.toNat * 256 + b.toNat * 4 + m.toNat)
  | .vmulh d a b m => some (420478976 + d.toNat * 16384 + a.toNat * 256 + b.toNat * 4 + m.toNat)
  | .vdot4 d a b m => some (421527552 + d.toNat * 16384 + a.toNat * 256 + b.toNat * 4 + m.toNat)
  | .vcmpeq d a b m => some (422576128 + d.toNat * 16384 + a.toNat * 256 + b.toNat * 4 + m.toNat)
  | .vcmplt d a b m => some (423624704 + d.toNat * 16384 + a.toNat * 256 + b.toNat * 4 + m.toNat)
  | .vcmple d a b m => some (424673280 + d.toNat * 16384 + a.toNat * 256 + b.toNat * 4 + m.toNat)
  | .vsel d a b m => some (425721856 + d.toNat * 16384 + a.toNat * 256 + b.toNat * 4 + m.toNat)
  | .vmov d a m => some (426770432 + d.toNat * 16384 + a.toNat * 256 + m.toNat)
  | .vcvt d a b m => some (427819008 + d.toNat * 16384 + a.toNat * 256 + b.toNat * 4 + m.toNat)
  | .vabsd d a b m => some (428867584 + d.toNat * 16384 + a.toNat * 256 + b.toNat * 4 + m.toNat)
  | .vclamp d a b m => some (429916160 + d.toNat * 16384 + a.toNat * 256 + b.toNat * 4 + m.toNat)
  | .cascadeExtension p q s t u v => some (536870912 + p.toNat * 4194304 + q.toNat * 131072 + s.toNat * 2048 + t.toNat * 32 + u.toNat * 16 + v.toNat * 8)
  | .vbcast d b => some (671088640 + d.toNat * 16384 + b.toNat * 4)
  | .vaddx d a b => some (672137216 + d.toNat * 16384 + a.toNat * 256 + b.toNat * 4)
  | .vmulx d a b => some (673185792 + d.toNat * 16384 + a.toNat * 256 + b.toNat * 4)
  | .vfmax d a b => some (674234368 + d.toNat * 16384 + a.toNat * 256 + b.toNat * 4)
  | .vimm d i => some (675282944 + d.toNat * 16384 + i.toNat * 4)
  | .vidx d b => some (676331520 + d.toNat * 16384 + b.toNat * 4)
  | .vperm d a b => some (677380096 + d.toNat * 16384 + a.toNat * 256 + b.toNat * 4)
  | .vrot d a b => some (678428672 + d.toNat * 16384 + a.toNat * 256 + b.toNat * 4)
  | .xcl d a b => some (679477248 + d.toNat * 16384 + a.toNat * 256 + b.toNat * 4)
  | .xred d a b => some (680525824 + d.toNat * 16384 + a.toNat * 256 + b.toNat * 4)
  | .vred d a => some (681574400 + d.toNat * 16384 + a.toNat * 256)
  | .vredmax d a => some (682622976 + d.toNat * 16384 + a.toNat * 256)
  | .vext d a b => some (683671552 + d.toNat * 16384 + a.toNat * 256 + b.toNat * 4)
  | .vins d a b => some (684720128 + d.toNat * 16384 + a.toNat * 256 + b.toNat * 4)
  | .mand d a b => some (685768704 + d.toNat * 16384 + a.toNat * 256 + b.toNat * 4)
  | .mor d a b => some (686817280 + d.toNat * 16384 + a.toNat * 256 + b.toNat * 4)
  | .mnot d a => some (687865856 + d.toNat * 16384 + a.toNat * 256)
  | .mpop d a => some (688914432 + d.toNat * 16384 + a.toNat * 256)
  | .vtag d a t => some (689963008 + d.toNat * 16384 + a.toNat * 256 + t.toNat * 4)
  | .vtagx d a => some (691011584 + d.toNat * 16384 + a.toNat * 256)
  | .vpop d a => some (692060160 + d.toNat * 16384 + a.toNat * 256)
  | .fexp2 d a => some (805306368 + d.toNat * 32768 + a.toNat * 512)
  | .flog2 d a => some (807403520 + d.toNat * 32768 + a.toNat * 512)
  | .frcp d a => some (809500672 + d.toNat * 32768 + a.toNat * 512)
  | .frsqrt d a => some (811597824 + d.toNat * 32768 + a.toNat * 512)
  | .fsqrt d a => some (813694976 + d.toNat * 32768 + a.toNat * 512)
  | .fsin d a => some (815792128 + d.toNat * 32768 + a.toNat * 512)
  | .fcos d a => some (817889280 + d.toNat * 32768 + a.toNat * 512)
  | .ftanh d a => some (819986432 + d.toNat * 32768 + a.toNat * 512)
  | .fsigm d a => some (822083584 + d.toNat * 32768 + a.toNat * 512)
  | .fgelu d a => some (824180736 + d.toNat * 32768 + a.toNat * 512)
  | .fsilu d a => some (826277888 + d.toNat * 32768 + a.toNat * 512)
  | .fdiv d a b => some (828375040 + d.toNat * 32768 + a.toNat * 512 + b.toNat * 8)
  | .vld d a o => some (939524096 + d.toNat * 65536 + a.toNat * 1024 + o.toNat)
  | .vst d a o => some (943718400 + d.toNat * 65536 + a.toNat * 1024 + o.toNat)
  | .rmg d a o => some (947912704 + d.toNat * 65536 + a.toNat * 1024 + o.toNat)
  | .sld d o => some (952107008 + d.toNat * 65536 + o.toNat)
  | .sst d o => some (956301312 + d.toNat * 65536 + o.toNat)
  | .vsld d o => some (960495616 + d.toNat * 65536 + o.toNat)
  | .vsst d o => some (964689920 + d.toNat * 65536 + o.toNat)
  | .vfill d a n => some (968884224 + d.toNat * 65536 + a.toNat * 1024 + n.toNat)
  | .rtagw d a o => some (973078528 + d.toNat * 65536 + a.toNat * 1024 + o.toNat)
  | .rtagr d a o => some (977272832 + d.toNat * 65536 + a.toNat * 1024 + o.toNat)
  | .qst q a o => some (981467136 + q.toNat * 65536 + a.toNat * 1024 + o.toNat)
  | .hld d h i e => some (1073741824 + d.toNat * 32768 + h.toNat * 512 + i.toNat * 8 + e.toNat * 2)
  | .hst d h i e => some (1075838976 + d.toNat * 32768 + h.toNat * 512 + i.toNat * 8 + e.toNat * 2)
  | .hlds d h i e => some (1077936128 + d.toNat * 32768 + h.toNat * 512 + i.toNat * 8 + e.toNat * 2)
  | .hsts d h i e => some (1080033280 + d.toNat * 32768 + h.toNat * 512 + i.toNat * 8 + e.toNat * 2)
  | .hpf h i e => some (1082130432 + h.toNat * 512 + i.toNat * 8 + e.toNat * 2)
  | .haadd d h i r e => some (1084227584 + d.toNat * 32768 + h.toNat * 512 + i.toNat * 8 + r.toNat * 4 + e.toNat * 2)
  | .hamax d h i r e => some (1086324736 + d.toNat * 32768 + h.toNat * 512 + i.toNat * 8 + r.toNat * 4 + e.toNat * 2)
  | .hamin d h i r e => some (1088421888 + d.toNat * 32768 + h.toNat * 512 + i.toNat * 8 + r.toNat * 4 + e.toNat * 2)
  | .hamaxn d h i r e => some (1090519040 + d.toNat * 32768 + h.toNat * 512 + i.toNat * 8 + r.toNat * 4 + e.toNat * 2)
  | .haminn d h i r e => some (1092616192 + d.toNat * 32768 + h.toNat * 512 + i.toNat * 8 + r.toNat * 4 + e.toNat * 2)
  | .haand d h i r e => some (1094713344 + d.toNat * 32768 + h.toNat * 512 + i.toNat * 8 + r.toNat * 4 + e.toNat * 2)
  | .haor d h i r e => some (1096810496 + d.toNat * 32768 + h.toNat * 512 + i.toNat * 8 + r.toNat * 4 + e.toNat * 2)
  | .haxor d h i r e => some (1098907648 + d.toNat * 32768 + h.toNat * 512 + i.toNat * 8 + r.toNat * 4 + e.toNat * 2)
  | .haswp d h i r e => some (1101004800 + d.toNat * 32768 + h.toNat * 512 + i.toNat * 8 + r.toNat * 4 + e.toNat * 2)
  | .hacas d h i r e => some (1103101952 + d.toNat * 32768 + h.toNat * 512 + i.toNat * 8 + r.toNat * 4 + e.toNat * 2)
  | .hfadd d h i r e => some (1105199104 + d.toNat * 32768 + h.toNat * 512 + i.toNat * 8 + r.toNat * 4 + e.toNat * 2)
  | .hfamax d h i r e => some (1107296256 + d.toNat * 32768 + h.toNat * 512 + i.toNat * 8 + r.toNat * 4 + e.toNat * 2)
  | .hfamin d h i r e => some (1109393408 + d.toNat * 32768 + h.toNat * 512 + i.toNat * 8 + r.toNat * 4 + e.toNat * 2)
  | .hvadd d h i e => some (1111490560 + d.toNat * 32768 + h.toNat * 512 + i.toNat * 8 + e.toNat * 2)
  | .hvmax d h i e => some (1113587712 + d.toNat * 32768 + h.toNat * 512 + i.toNat * 8 + e.toNat * 2)
  | .hinfo d h s e => some (1115684864 + d.toNat * 32768 + h.toNat * 512 + s.toNat * 8 + e.toNat * 2)
  | .mmul b q c p z s => some (1207959552 + b.toNat * 524288 + q.toNat * 131072 + c.toNat * 1024 + p.toNat * 512 + z.toNat * 256 + s.toNat)
  | .mzero b => some (1210056704 + b.toNat * 524288)
  | .mdrain b q => some (1212153856 + b.toNat * 524288 + q.toNat * 131072)
  | .mwld s => some (1214251008 + s.toNat)
  | .mwstr s => some (1216348160 + s.toNat)
  | .mtile b q c p z s => some (1218445312 + b.toNat * 524288 + q.toNat * 131072 + c.toNat * 1024 + p.toNat * 512 + z.toNat * 256 + s.toNat)
  | .mstat w d s => some (1220542464 + w.toNat * 16384 + d.toNat * 256 + s.toNat)
  | .fget n c => some (1342177280 + n.toNat * 131072 + c.toNat * 256)
  | .fpref n => some (1344274432 + n.toNat * 131072)
  | .fcancel n => some (1346371584 + n.toNat * 131072)
  | .sbind n => some (1348468736 + n.toNat * 131072)
  | .sfree n => some (1350565888 + n.toNat * 131072)
  | .cput n c => some (1476395008 + n.toNat * 131072 + c.toNat * 256)
  | .cmov n => some (1478492160 + n.toNat * 131072)
  | .clzCopy n => some (1480589312 + n.toNat * 131072)
  | .cdrain n t f d => some (1482686464 + n.toNat * 131072 + t.toNat * 512 + f.toNat * 256 + d.toNat)
  | .cstat n f d => some (1484783616 + n.toNat * 131072 + f.toNat * 256 + d.toNat)
  | .wfwd L => some (1610612736 + L.toNat)
  | .winv => some (1612709888)
  | .wst L => some (1614807040 + L.toNat)
  | .wstC => some (1614807296)
  | .wexp => some (1616904192)
  | .wcnt a d => some (1619001344 + a.toNat * 256 + d.toNat)
  | .wbias => some (1621098496)
  | .opub => some (1744830464)
  | .osub e => some (1746927616 + e.toNat)
  | .opin => some (1749024768)
  | .ounpin => some (1751121920)
  | .over => some (1753219072)
  | .evsig e => some (1755316224 + e.toNat)
  | .evsigB n => some (1755316480 + n.toNat)
  | .gkick d => some (1757413376 + d.toNat * 256)
  | .lzopen n => some (1759510528 + n.toNat * 131072)
  | .lzclose n => some (1761607680 + n.toNat * 131072)
  | .lzres d => some (1763704832 + d.toNat * 256)
  | .lzrel => some (1765801984)
  | .lzclr n => some (1767899136 + n.toNat * 131072)
  | .lzstat n d s => some (1769996288 + n.toNat * 131072 + d.toNat * 256 + s.toNat)
  | .barinit n => some (1772093440 + n.toNat * 131072)
  | .barstat n d => some (1774190592 + n.toNat * 131072 + d.toNat * 256)
  | .trap i => some (1879048192 + i.toNat)
  | .tfence => some (1881145344)
  | .chk a b => some (1883242496 + a.toNat * 512 + b.toNat * 8)
  | .vchk a b => some (1885339648 + a.toNat * 512 + b.toNat * 8)
  | .sysc i => some (1887436800 + i.toNat)
  | .eret => some (1889533952)
  | .wfi => some (1891631104)
  | .mfsr d s => some (1893728256 + d.toNat * 32768 + s.toNat * 8)
  | .mtsr d s => some (1895825408 + d.toNat * 32768 + s.toNat * 8)
  | .pld d a => some (1897922560 + d.toNat * 32768 + a.toNat * 512)
  | .pst a b => some (1900019712 + a.toNat * 512 + b.toNat * 8)
  | .pord => some (1902116864)
  | .hinv a => some (1904214016 + a.toNat * 512)
  | .ident d => some (1906311168 + d.toNat * 32768)
  | .brk i => some (1908408320 + i.toNat)
  | .wpset a b => some (1910505472 + a.toNat * 512 + b.toNat * 8)
  | .wpclr a => some (1912602624 + a.toNat * 512)
  | .valueArrives .. | .resolutionComplete .. | .atomicPerformed .. | .syncRequestAccepted .. | .markerTimeout ..
  | .resultRowPush .. | .heldRowEntersQueue .. | .weightLoadComplete .. | .mtilePassStart .. | .waveletCommandWrite ..
  | .channelCommandStart .. | .fetchRowWritten .. | .fetchCommandComplete .. | .copyCommandComplete ..
  | .clzComplete .. | .streamVectorFetched .. | .reservationRequest .. | .lzresTimeout .. | .slotReleaseAtTarget ..
  | .lzrelTimeout .. | .landingRowArrival .. | .barrierArrival .. | .barrierDeadline .. | .rowUndelivered ..
  | .kick .. | .nodeCreate .. | .taskTake .. | .priorityAging .. | .phaseInputFetch .. | .phaseStart .. | .ltimeTick
  | .rebase .. | .directoryRead .. | .directoryOwnership .. | .invalidation .. | .directoryMerge ..
  | .pageMigration .. | .migrationLineCopy .. | .cacheSleep .. | .cacheWake .. | .memoryControllerWrite ..
  | .kscrubGo .. | .keyScrubComplete .. | .l2wayWrite .. | .mscwayWrite .. | .registerWrite .. | .faultQueueRead ..
  | .xregWrite .. | .stop .. | .collectorDone .. | .cctlResume .. | .resumeNext .. | .resumeAt .. | .rollback ..
  | .save .. | .saveComplete .. | .restore .. | .restoreComplete .. | .discard .. | .discardComplete ..
  | .matrixDataError .. | .lockstepMismatch .. | .recoveryComplete .. | .meterAdd .. | .interrupt ..
  | .missingObjectResolved .. | .identCmd .. | .status .. | .partCreate .. | .partDestroy .. | .partQuota ..
  | .keyLoad .. | .keyGen .. | .keyKill .. | .objCreate .. | .objDestroy .. | .objShare .. | .graphLoad ..
  | .regionStop .. | .regionStopTimeLimit .. | .preempt .. | .resume .. | .ckptBegin .. | .ckptRollback ..
  | .meterSnap .. | .vlogRead .. | .fabricJoin .. | .fabricLeave .. | .getCertificate .. | .challenge ..
  | .getMeasurements .. | .keyExchange .. | .keyDelivery .. | .sessionEnd .. | .powerGood | .bootStepTimeout ..
  | .patternTestStart .. | .patternTestEnd .. | .rdallWrite .. | .wdallWrite .. | .modeRegisterWrite ..
  | .portEnableWrite .. | .portTrainingComplete .. | .portFailure .. | .fabricPacket .. | .remoteAccess ..
  | .hostLinkDown .. | .thermalGate .. | .thermalUngate .. | .thermalShutdown | .hostWrite .. | .doorbell ..
  | .hostLinkUp .. => none

/-- The word of an instruction (R15): its layout and the chain bit. -/
def encode (chain : Bool) (i : Instr) : Option IWord :=
  (encodeNat i).map fun n => BitVec.ofNat 32 (n + chain.toNat * 2147483648)

/-- A word from the four bytes that hold it, little-endian (R16). -/
def wordOfBytes : List (BitVec 8) → Option IWord
  | [b0, b1, b2, b3] =>
    some (BitVec.ofNat 32 (b0.toNat + b1.toNat * 256 + b2.toNat * 65536 + b3.toNat * 16777216))
  | _ => none

/-- The four bytes of a word, the lowest address first (R16). -/
def bytesOfWord (w : IWord) : List (BitVec 8) :=
  [.ofNat 8 w.toNat, .ofNat 8 (w.toNat / 256), .ofNat 8 (w.toNat / 65536), .ofNat 8 (w.toNat / 16777216)]

/-- The instruction that the decoder reads from a table row's word. -/
def decodeTableWord (nbits w : Nat) : Option Instr :=
  match wordOfBytes (bytesOfWord (BitVec.ofNat 32 (w % 2 ^ nbits))) with
  | some v =>
    match decodeWord v with
    | .ok (_, i) => some i
    | .error _ => none
  | none => none

end Sys2Proof
end

