-- ==== Sys2Proof/Config.lean ====
section
/-! DEFINITION. What the spec leaves open and an implementation fixes: free values. Each is an opaque constant, so no
proof can know it; the assumption log names each one. -/

namespace Sys2Proof.Config

/-- The kinds of time that R419 leaves unfixed. -/
inductive Delay where
  | load | resolve | sync | channel | fetchRow | copy | weight | grant | landing | kick | dispatch | create | inputs
  | physical | hinv | lovage | host | recovery | stream | boot
  deriving DecidableEq, Repr

/-- The n-th time of a kind that R419 leaves unfixed, in cycles beyond the least that the rule allows (notes/assumptions/5.md). -/
opaque delay : Delay → Nat → Nat

/-- A free choice among `k` alternatives that the spec leaves open (the order of cores in one cycle; notes/assumptions/4.md). -/
opaque choice : Nat → Nat → Nat

/-- The keys that the security block makes itself, by the mark of the key load: key id 0's, and those of KEY_GEN (R345, R362;
notes/assumptions/13.md). -/
opaque drawnKey : Nat → BitVec 512

/-- The n-th free number: data held by another package, and other values that the spec leaves open (notes/assumptions/2.md, 14.md). -/
opaque freeNat : Nat → Nat

/-- What a package cannot see of an object homed on another: its descriptor as the home has it (the n-th that is learned), and,
by the kind of question, how the home answers it at that time (notes/assumptions/2.md). -/
opaque farDesc : Nat → BitVec 512

/-- The rights that a partition of this package has been granted on the object; whether a page is served, may be written, has a page
to copy into; whether a write meets a watchpoint; whether a sector is uncorrectable; an entry of a shard map; whether an agent of
another package has written a sector since this package last read or wrote it; how many versions have been published since. -/
inductive FarAsk where
  | grant | leaf | watch | bad | word | other | news
  deriving DecidableEq, Repr

opaque far : FarAsk → Nat → Nat → Nat

/-- How many beats of a lane mismatch in a pattern test (R372: not fixed), by channel, mode, starting state of the lane's sequence, burst
count, lane, read delay and write delay (notes/assumptions/31.md). -/
opaque laneErrors : Nat → Nat → Nat → Nat → Nat → Nat → Nat → Nat

/-- The device attestation key's signature of a digest (R359, R361): the key is not in the spec (notes/assumptions/29.md). -/
opaque attestSign : Nat → Nat

/-- Values drawn from the security block's DRBG (R353, R362; notes/assumptions/29.md). -/
opaque drbg : Nat → Nat

/-- Whether the part record's signature is Dexvon's over its fields, and whether the digests in the ROMs match it (R364, R366): the key is
not in the spec (notes/assumptions/41.md). -/
opaque partSigned : Bool
opaque romMatch : Bool

/-- The signed part record's silicon revision (R366; notes/assumptions/41.md). -/
opaque partRev : BitVec 8

/-- The signed part record's enable masks CEN0..CEN23 (R366). -/
opaque partCen : Nat → BitVec 34

/-- The serial number, port masks and TRIM of the part record (R366). -/
opaque partPorts : BitVec 72
opaque partTrim : Nat → BitVec 16
opaque partSerial : BitVec 128

/-- The root of a MEASURED object's hash tree, by its handle: no rule says how it comes to the device (R361; notes/assumptions/29.md). -/
opaque treeRoot : Nat → BitVec 256

/-- The bytes of the two boot ROMs' digest and of the certificate chain, which the spec does not give (R361). -/
opaque romDigest : Nat
opaque certificate : Nat

/-- Physical addresses of pages that Lovage chooses (R186, R202, R355: the place is not fixed; notes/assumptions/11.md). -/
opaque lovagePage : Nat → Nat

/-- The set of a cache (0 an L1, 1 an L2, 2 an MSC) that a line falls into, before it is taken modulo the cache's number of sets: the
rules give sizes and ways and no indexing (notes/assumptions/15.md). -/
opaque cacheSet : Nat → Nat → Nat

/-- The index of the way that the n-th fill takes among those it may take (notes/assumptions/15.md). -/
opaque fillWay : Nat → Nat

/-- The bytes of line i of a context image, whose layout belongs to the device (R322; notes/assumptions/22.md). -/
opaque imageLine : Nat → Nat → BitVec 512

end Sys2Proof.Config
end

