-- ==== Sys2Proof/Machine/Flags.lean ====
section
/-! DEFINITION. Numbers and flags: the binary formats (R62..R65), rounding and exceptions (R66..R71), conversions
(R72..R74), the block formats (R75..R80), narrow integers (R81) and group sums (R82, R83). Floating-point work is exact:
a finite value is a sign, a natural significand and an integer exponent, and one function rounds. -/

namespace Sys2Proof.Machine

open Sys2Proof

/-- FLAGS bits (R46). -/
abbrev FlagSet := BitVec 7
def flagIV : FlagSet := 1
def flagDZ : FlagSet := 2
def flagOF : FlagSet := 4
def flagUF : FlagSet := 8
def flagNX : FlagSet := 16
def flagIS : FlagSet := 32
def flagCN : FlagSet := 64

/-- The binary floating-point formats (R64). -/
inductive FF where
  | f32 | f16 | bf16 | e4m3 | e5m2
  deriving DecidableEq, Repr

/-- Exponent field width E (R64). -/
def FF.ew : FF → Nat
  | .f32 => 8 | .f16 => 5 | .bf16 => 8 | .e4m3 => 4 | .e5m2 => 5

/-- Fraction field width F (R64). -/
def FF.fw : FF → Nat
  | .f32 => 23 | .f16 => 10 | .bf16 => 7 | .e4m3 => 3 | .e5m2 => 2

/-- Exponent bias B (R64). -/
def FF.bias : FF → Nat
  | .f32 => 127 | .f16 => 15 | .bf16 => 127 | .e4m3 => 7 | .e5m2 => 15

/-- Element width in bits (R62). -/
def FF.width : FF → Nat
  | .f32 => 32 | .f16 => 16 | .bf16 => 16 | .e4m3 => 8 | .e5m2 => 8

/-- The largest finite pattern (R64, R65). -/
def FF.maxFin : FF → Nat
  | .f32 => 0x7F7FFFFF | .f16 => 0x7BFF | .bf16 => 0x7F7F | .e4m3 => 0x7E | .e5m2 => 0x7B

/-- The canonical NaN (R64). -/
def FF.canon : FF → Nat
  | .f32 => 0x7FC00000 | .f16 => 0x7E00 | .bf16 => 0x7FC0 | .e4m3 => 0x7F | .e5m2 => 0x7E

/-- The magnitude of an infinity; E4M3 has none (R65), and its overflow is the canonical NaN (R68). -/
def FF.inf : FF → Nat
  | .f32 => 0x7F800000 | .f16 => 0x7C00 | .bf16 => 0x7F80 | .e4m3 => 0x7F | .e5m2 => 0x7C

/-- The sign bit of a negative pattern. -/
def FF.signBit (f : FF) (s : Bool) : Nat := if s then 2 ^ (f.width - 1) else 0

/-- The exponent of a unit in the last place of the subnormals: 1 − B − F (R64). -/
def FF.qmin (f : FF) : Int := 1 - (f.bias : Int) - (f.fw : Int)

/-- The value of a pattern: NaN, an infinity, or a sign with m · 2^e. -/
inductive FV where
  | nan
  | inf (s : Bool)
  | fin (s : Bool) (m : Nat) (e : Int)
  deriving DecidableEq, Repr

/-- The sign of a value; a NaN has none. -/
def FV.sign : FV → Bool
  | .nan => false
  | .inf s => s
  | .fin s _ _ => s

/-- The value with the other sign. -/
def FV.neg : FV → FV
  | .nan => .nan
  | .inf s => .inf (!s)
  | .fin s m e => .fin (!s) m e

/-- Whether the value is NaN. -/
def FV.isNan : FV → Bool
  | .nan => true
  | _ => false

/-- The value that a pattern encodes (R64, R65). -/
def FF.decode (f : FF) (w : Nat) : FV :=
  let s := w.testBit (f.width - 1)
  let mag := w % 2 ^ (f.width - 1)
  let ex := mag / 2 ^ f.fw
  let fr := mag % 2 ^ f.fw
  if f = .e4m3 then
    if mag = 0x7F then .nan
    else if ex = 0 then .fin s fr f.qmin
    else .fin s (fr + 2 ^ f.fw) (f.qmin + ex - 1)
  else if ex = 2 ^ f.ew - 1 then (if fr = 0 then .inf s else .nan)
  else if ex = 0 then .fin s fr f.qmin
  else .fin s (fr + 2 ^ f.fw) (f.qmin + ex - 1)

/-- Whether a pattern is a nonzero subnormal (R64). -/
def FF.isSub (f : FF) (w : Nat) : Bool :=
  let mag := w % 2 ^ (f.width - 1)
  0 < mag && decide (mag < 2 ^ f.fw)

/-- A pattern as an operation reads it under FTZ: a subnormal reads as the zero of its sign (R69). -/
def FF.readPat (f : FF) (ftz : Bool) (w : Nat) : Nat :=
  if ftz && f.isSub w then f.signBit (w.testBit (f.width - 1)) else w

/-- The value that an operation reads (R69). -/
def FF.read (f : FF) (ftz : Bool) (w : Nat) : FV := f.decode (f.readPat ftz w)

/-- `m · 2^e`, with more below when `st`, in units of `2^q`: to nearest even, or toward zero; and whether inexact. -/
def shiftRound (rz : Bool) (m : Nat) (e : Int) (st : Bool) (q : Int) : Nat × Bool :=
  if q ≤ e then (m * 2 ^ (e - q).toNat, st)
  else
    let k := (q - e).toNat
    let n := m / 2 ^ k
    let r := m % 2 ^ k
    let half := 2 ^ (k - 1)
    let up := !rz && (decide (half < r) || (decide (r = half) && (st || decide (n % 2 = 1))))
    (if up then n + 1 else n, decide (r ≠ 0) || st)

/-- How an instruction rounds: flush-to-zero, toward zero, saturating (R67..R69). -/
structure RMode where
  ftz : Bool := false
  rz  : Bool := false
  sat : Bool := false
  deriving DecidableEq, Repr

/-- What an overflow produces (R68). -/
def FF.overflowPat (f : FF) (r : RMode) (s : Bool) : Nat :=
  if r.rz || r.sat then f.signBit s + f.maxFin
  else if f = .e4m3 then f.canon
  else f.signBit s + f.inf

/-- Rounds the exact value ±(m · 2^e), or a value just above it in magnitude when `st`, to a format (R67..R69, R71):
the pattern and the flags raised. DESIGN CHOICE: overflow is the test of R68 after rounding in every column of its table, so that 470
in E4M3 raises OF and NX to nearest, and under `.rz`, where it rounds to 448, NX alone; the example's row gives one set of flags
for all columns (notes/assumptions/48.md). -/
def FF.round (f : FF) (r : RMode) (s : Bool) (m : Nat) (e : Int) (st : Bool) : Nat × FlagSet :=
  if m = 0 then (f.signBit s, if st then flagUF ||| flagNX else 0)
  else
    let qu := e + (Nat.log2 m : Int) - f.fw
    let q := if qu < f.qmin then f.qmin else qu
    let (n, ix) := shiftRound r.rz m e st q
    let pat := (q - f.qmin).toNat * 2 ^ f.fw + n
    if f.maxFin < pat then (f.overflowPat r s, flagOF ||| flagNX)
    else
      let tiny := decide (qu < f.qmin)
        && decide ((shiftRound r.rz m e st qu).1 < 2 ^ (f.qmin + f.fw - qu).toNat)
      let fl : FlagSet := (if ix then flagNX else 0) ||| (if tiny && ix then flagUF else 0)
      if r.ftz && decide (0 < pat) && decide (pat < 2 ^ f.fw) then (f.signBit s, flagUF ||| flagNX)
      else (f.signBit s + pat, fl)

/-- Rounds any value to a format: a NaN becomes canonical (R66), an infinity stays one; E4M3 has none, and its overflow
result stands in its place with OF (R68). -/
def FF.roundV (f : FF) (r : RMode) : FV → Nat × FlagSet
  | .nan => (f.canon, 0)
  | .inf s => if f = .e4m3 then ((if r.sat then f.signBit s + f.maxFin else f.canon), flagOF) else (f.signBit s + f.inf, 0)
  | .fin s m e => f.round r s m e false

/-- An exact sum, with IV where it makes a NaN of no NaN; an exactly zero sum is +0 unless both are −0 (R67, R71). -/
def FV.add : FV → FV → FV × FlagSet
  | .nan, _ => (.nan, 0)
  | _, .nan => (.nan, 0)
  | .inf s, .inf t => if s = t then (.inf s, 0) else (.nan, flagIV)
  | .inf s, .fin _ _ _ => (.inf s, 0)
  | .fin _ _ _, .inf t => (.inf t, 0)
  | .fin s m e, .fin t n g =>
    let q := if e ≤ g then e else g
    let a : Int := (m * 2 ^ (e - q).toNat : Nat)
    let b : Int := (n * 2 ^ (g - q).toNat : Nat)
    let c := (if s then -a else a) + (if t then -b else b)
    if c = 0 then
      (.fin (if m = 0 && n = 0 then s && t else false) 0 q, 0)
    else (.fin (decide (c < 0)) c.natAbs q, 0)

/-- An exact product, with IV for zero times infinity (R67, R71). -/
def FV.mul : FV → FV → FV × FlagSet
  | .nan, _ => (.nan, 0)
  | _, .nan => (.nan, 0)
  | .inf s, .inf t => (.inf (s != t), 0)
  | .inf s, .fin t n _ => if n = 0 then (.nan, flagIV) else (.inf (s != t), 0)
  | .fin s m _, .inf t => if m = 0 then (.nan, flagIV) else (.inf (s != t), 0)
  | .fin s m e, .fin t n g => (.fin (s != t) (m * n) (e + g), 0)

/-- A product and a sum, exact together (R67); a NaN addend leaves no flag (R71). -/
def FV.fma (a b c : FV) : FV × FlagSet :=
  if c.isNan then (.nan, 0)
  else
    let (p, f) := a.mul b
    let (s, g) := p.add c
    (s, f ||| g)

/-- An operation's exact result, rounded once, with its flags. -/
def FF.finish (f : FF) (r : RMode) (v : FV × FlagSet) : Nat × FlagSet :=
  let (w, g) := f.roundV r v.1
  (w, v.2 ||| g)

/-- Sums, differences and products on patterns of one format (R52, R67). -/
def FF.add (f : FF) (r : RMode) (a b : Nat) : Nat × FlagSet :=
  f.finish r ((f.read r.ftz a).add (f.read r.ftz b))
def FF.sub (f : FF) (r : RMode) (a b : Nat) : Nat × FlagSet :=
  f.finish r ((f.read r.ftz a).add (f.read r.ftz b).neg)
def FF.mul (f : FF) (r : RMode) (a b : Nat) : Nat × FlagSet :=
  f.finish r ((f.read r.ftz a).mul (f.read r.ftz b))
def FF.fma (f : FF) (r : RMode) (a b c : Nat) : Nat × FlagSet :=
  f.finish r (FV.fma (f.read r.ftz a) (f.read r.ftz b) (f.read r.ftz c))

/-- The order key of a pattern that is no NaN: both zeros are 0. -/
def FF.key (f : FF) (w : Nat) : Int :=
  let mag : Int := (w % 2 ^ (f.width - 1) : Nat)
  if w.testBit (f.width - 1) then -mag else mag

/-- Whether a pattern is a NaN (R64, R65). -/
def FF.isNan (f : FF) (w : Nat) : Bool := (f.decode w).isNan

/-- Minimum and maximum on patterns (R70). -/
def FF.minmax (f : FF) (ftz mx : Bool) (a b : Nat) : Nat :=
  let a := f.readPat ftz a
  let b := f.readPat ftz b
  if f.isNan a then (if f.isNan b then f.canon else b)
  else if f.isNan b then a
  else if f.key a = f.key b then a
  else if mx then (if f.key a < f.key b then b else a)
  else (if f.key a < f.key b then a else b)

/-- Comparisons; a NaN compares false (R99). -/
def FF.cmpEq (f : FF) (ftz : Bool) (a b : Nat) : Bool :=
  let a := f.readPat ftz a
  let b := f.readPat ftz b
  !f.isNan a && !f.isNan b && decide (f.key a = f.key b)
def FF.cmpLt (f : FF) (ftz : Bool) (a b : Nat) : Bool :=
  let a := f.readPat ftz a
  let b := f.readPat ftz b
  !f.isNan a && !f.isNan b && decide (f.key a < f.key b)
def FF.cmpLe (f : FF) (ftz : Bool) (a b : Nat) : Bool := f.cmpEq ftz a b || f.cmpLt ftz a b

/-- Conversion of a value to an integer of the range lo..hi (R73). -/
def FV.toInt (rz : Bool) (lo hi : Int) : FV → Int × FlagSet
  | .nan => (0, flagCN)
  | .inf s => (if s then lo else hi, flagIS)
  | .fin s m e =>
    let (n, ix) := shiftRound rz m e false 0
    let v : Int := if s then -(n : Int) else n
    if v < lo then (lo, flagIS) else if hi < v then (hi, flagIS)
    else (v, if ix then flagNX else 0)

/-- An integer as a value. -/
def FV.ofInt (v : Int) : FV := .fin (decide (v < 0)) v.natAbs 0

/-- Saturation of an integer to the range lo..hi (R74). -/
def satInt (lo hi v : Int) : Int × FlagSet :=
  if v < lo then (lo, flagIS) else if hi < v then (hi, flagIS) else (v, 0)

/-- The low `w` bits of an integer as a pattern, and a pattern's value, signed or not (R81). -/
def patOfInt (w : Nat) (v : Int) : Nat := (v % (2 ^ w : Nat)).toNat
def intOfPat (w : Nat) (signed : Bool) (p : Nat) : Int :=
  if signed && p.testBit (w - 1) then (p % 2 ^ w : Nat) - (2 ^ w : Nat) else (p % 2 ^ w : Nat)

/-- The magnitude of an E2M1 code, in halves (R75). -/
def e2m1 (c : Nat) : Nat := ([0, 1, 2, 3, 4, 6, 8, 12] : List Nat).getD (c % 8) 0

/-- The exact value of an MXFP4 element under an E8M0 scale byte (R75, R76). -/
def mxValue (scale code : Nat) : FV :=
  if scale = 255 then .nan
  else .fin (code.testBit 3) (e2m1 code) (-1 + (scale : Int) - 127)

/-- The Q4N codebook: 64 · Q[k] (R78). -/
def q4nBook (k : Nat) : Int :=
  ([-64, -45, -34, -25, -18, -11, -5, 0, 5, 11, 17, 24, 31, 40, 50, 64] : List Int).getD k 0

/-- A Q4N element's codebook value. -/
def q4nEntry (k : Nat) : FV := .fin (decide (q4nBook k < 0)) (q4nBook k).natAbs (-6)

/-- The FP32 pattern of a Q4N block's scale (R79): SC8 code and super-scale pattern. -/
def q4nScale (c sup : Nat) : Nat :=
  if c = 0 then 0 else (FF.f32.roundV {} ((FV.fin false c (-8)).mul (FF.f32.decode sup)).1).1

/-- The exact product of a Q4N entry and its block's rounded scale (R79); the block scale +0 makes a zero of the
entry's sign. -/
def q4nValue (c sup k : Nat) : FV := ((q4nEntry k).mul (FF.f32.decode (q4nScale c sup))).1

/-- Decoding to FP32, no flag (R76, R79). -/
def mxDecode (scale code : Nat) : Nat := (FF.f32.roundV {} (mxValue scale code)).1
def q4nDecode (c sup k : Nat) : Nat := (FF.f32.roundV {} (q4nValue c sup k)).1

/-- The magnitude order of two finite magnitudes m · 2^e: whether the first is below the second. -/
def magLt (m : Nat) (e : Int) (n : Nat) (g : Int) : Bool :=
  let q := if e ≤ g then e else g
  decide (m * 2 ^ (e - q).toNat < n * 2 ^ (g - q).toNat)

/-- The largest magnitude of a list of values; none when one is NaN or infinite. -/
def maxMag : List FV → Option (Nat × Int)
  | [] => some (0, 0)
  | .fin _ m e :: vs => (maxMag vs).map fun (n, g) => if magLt n g m e then (m, e) else (n, g)
  | _ :: _ => none

/-- |x| / 2^e on the E2M1 grid, ties to the even fraction bit, clamped to 6 (R77): an E2M1 magnitude code. The grid steps
in halves below 2, in ones below 4, in twos above. -/
def e2m1Round (m : Nat) (x : Int) : Nat :=
  let n1 := (shiftRound false m x false (-1)).1
  let n2 := (shiftRound false m x false 0).1
  let n3 := (shiftRound false m x false 1).1
  if n1 ≤ 4 then n1
  else if n2 ≤ 4 then n2 + 2
  else if n3 ≤ 3 then n3 + 4 else 7

/-- The quantisation of one block of 32 values to MXFP4 (R77): the scale byte and the codes. -/
def mxQuantise (vs : List FV) : Nat × List Nat :=
  match maxMag vs with
  | none => (255, vs.map fun _ => 0)
  | some (m, x) =>
    if m = 0 then (127, vs.map fun v => if v.sign then 8 else 0)
    else
      let e0 := x + (Nat.log2 m : Int) - 2
      let e := if e0 < -127 then -127 else e0
      ((e + 127).toNat, vs.map fun v => match v with
        | .fin s n g => (if s then 8 else 0) + e2m1Round n (g - e)
        | _ => 0)

/-- Distance |64·|x/scale| − |b|| compared by cross products: the code whose entry is nearest to x / scale, a tie to the
smaller magnitude (R80). `scale` is m·2^e with sign `ss`. -/
def q4nNearest (v : FV) (ss : Bool) (m : Nat) (e : Int) : Nat :=
  match v with
  | .fin s n g =>
    let q := if g ≤ e then g else e
    let num : Int := (64 * (n * 2 ^ (g - q).toNat) : Nat)
    let den : Int := (m * 2 ^ (e - q).toNat : Nat)
    let x : Int := if s != ss then -num else num
    let dist (k : Nat) : Int := (x - q4nBook k * den).natAbs
    (List.range 16).foldl (fun best k =>
      if dist k < dist best || (dist k = dist best && (q4nBook k).natAbs < (q4nBook best).natAbs) then k else best) 0
  | _ => 7

/-- The quantisation of a group of up to 256 blocks of 64 values to Q4N (R80): the super-scale pattern and, for each
block, its SC8 code and element codes. -/
def q4nQuantise (blocks : List (List FV)) : Nat × List (Nat × List Nat) :=
  match maxMag blocks.flatten with
  | none => (FF.f32.canon, blocks.map fun b => (255, b.map fun _ => 7))
  | some (m, e) =>
    let sup := (FF.f32.round {} false m e false).1
    (sup, blocks.map fun b =>
      match maxMag b with
      | none => (0, b.map fun _ => 7)
      | some (bm, be) =>
        let c :=
          if bm = 0 then 0
          else
            let q := if be ≤ e then be else e
            let num := 256 * (bm * 2 ^ (be - q).toNat)
            let den := m * 2 ^ (e - q).toNat
            min 255 ((num + den - 1) / den)
        match FF.f32.decode (q4nScale c sup) with
        | .fin ss sm se => (c, b.map fun v => if sm = 0 then 7 else q4nNearest v ss sm se)
        | _ => (c, b.map fun _ => 7))

/-- A signed narrow operand as the matrix engine reads it: the reserved code takes RSUB's value (R45, R81). -/
def narrowValue (w : Nat) (signed : Bool) (rsub : BitVec 2) (p : Nat) : Int :=
  if signed && p % 2 ^ w == 2 ^ (w - 1) then
    (if rsub = 0 then -(2 ^ (w - 1) : Nat) else if rsub = 1 then 1 - (2 ^ (w - 1) : Nat) else 0)
  else intOfPat w signed p

/-- A group of exact products being summed (R82, R83): a NaN, the infinities seen, the finite sum at a common exponent,
whether every product so far was −0, and IV. -/
structure GSum where
  nan  : Bool := false
  pinf : Bool := false
  ninf : Bool := false
  sum  : Int := 0
  exp  : Int := 0
  allNegZero : Bool := true
  iv   : Bool := false
  deriving DecidableEq, Repr

/-- Adds one exact product to a group sum. -/
def GSum.push (g : GSum) (p : FV × FlagSet) : GSum :=
  match p.1 with
  | .nan => { g with nan := true, allNegZero := false, iv := g.iv || decide (p.2 ≠ 0) }
  | .inf s => { g with pinf := g.pinf || !s, ninf := g.ninf || s, allNegZero := false }
  | .fin s m e =>
    if m = 0 then { g with allNegZero := g.allNegZero && s }
    else
      let q := if g.sum = 0 then e else if e ≤ g.exp then e else g.exp
      let a : Int := g.sum * (2 ^ (g.exp - q).toNat : Nat)
      let b : Int := (m * 2 ^ (e - q).toNat : Nat)
      { g with sum := a + (if s then -b else b), exp := q, allNegZero := false }

/-- The group's sum rounded once to FP32 (R82, R83): value and flags IV, OF. DESIGN CHOICE: a group that holds both a product of a NaN
operand and a product 0 · ∞ raises IV (notes/assumptions/48.md). -/
def GSum.finish (g : GSum) : Nat × FlagSet :=
  if g.nan || (g.pinf && g.ninf) then
    (FF.f32.canon, if g.iv || (!g.nan && g.pinf && g.ninf) then flagIV else 0)
  else if g.pinf then (FF.f32.inf, 0)
  else if g.ninf then (FF.f32.signBit true + FF.f32.inf, 0)
  else if g.sum = 0 then (FF.f32.signBit g.allNegZero, 0)
  else
    let (w, f) := FF.f32.round {} (decide (g.sum < 0)) g.sum.natAbs g.exp false
    (w, f &&& flagOF)

/-- One accumulation step of R82: the accumulator plus the rounded group sum, with IV and OF only (R83). -/
def accAdd (acc sum : Nat) : Nat × FlagSet :=
  let (w, f) := FF.f32.add {} acc sum
  (w, f &&& (flagIV ||| flagOF))

end Sys2Proof.Machine
end

