-- ==== Sys2Proof/Machine/State.lean ====
section
/-! DEFINITION. The state of one DX-LM24A package as plain data: every core with its engines, the dies' caches and
directories, memory, the object table, the dispatcher, partitions, host windows, channels, ports, and the agenda of
steps that are due. Field docstrings cite the rule that names the field. Updates live in Machine/Ops.lean. -/

namespace Sys2Proof.Machine

open Sys2Proof

/-- Why the machine stops without a next state. -/
inductive Fault where
  /-- Raised by the step alone, when the package has no power after a thermal shutdown and no power good is to come (R379).
  Every fault that the spec gives an instruction is a next state (R314, R339). Safe. -/
  | poweredOff
  deriving DecidableEq, Repr

/-- Why an instruction has no meaning. -/
inductive Refusal where
  /-- An arm of `exec` that has no meaning yet, by mnemonic. Safe. -/
  | notModelled (mnemonic : String)
  deriving DecidableEq, Repr

/-- The fault of a group (R315, R316). -/
structure Raise where
  cause : BitVec 8
  info  : Word
  aux   : Word
  deriving DecidableEq, Repr

/-- A row: 512 bytes and a domain tag (R115, R119). -/
structure Row where
  data : Vec := 0
  tag  : Tag := 0
  deriving DecidableEq, Repr

/-- A vector register: data, tag and full bit (R88). -/
structure VReg where
  data : Vec := 0
  tag  : Tag := 0
  full : Bool := true
  deriving DecidableEq, Repr

/-- What a fixed-latency result writes when it lands (R31, R37, R38, R46, R124). -/
inductive Dest where
  | x (r : XReg) (w : Word)
  | v (r : VCode) (d : Vec) (t : Tag)
  | m (r : BitVec 3) (w : Mask)
  | flagsSet (w : BitVec 7)
  | flagsOr (w : BitVec 7)
  | flagsClr (w : BitVec 7)
  | flagsRaise (w : BitVec 7)
  | vfmt (w : Word)
  | mfmt (w : Word)
  | wth (n : BitVec 3) (w : BitVec 32)
  | stg (e : BitVec 3) (i : BitVec 4) (w : Word)
  | ovfptr (w : Word)
  | spillX (o : Nat) (w : Word)
  | spillV (s : Nat) (r : Row)
  | carveX (o : Nat) (w : Word)
  | carveV (s : Nat) (r : Row)
  deriving DecidableEq, Repr

/-- A result on its way: the cycle in which it becomes readable, and what it writes. Lists of these stand in issue
order, so that a later write stands over an earlier one that lands in the same cycle (R32). -/
structure Pend where
  due  : Nat
  dest : Dest
  deriving DecidableEq, Repr

/-- A hardware loop entry (R57): word indices and the remaining count. -/
structure LoopEntry where
  start : Nat
  exit  : Nat
  count : Nat
  deriving DecidableEq, Repr

/-- The states of a weight slot (R156). -/
inductive SlotState where
  | empty | loading | ready | failed
  deriving DecidableEq, Repr

/-- A weight slot (R156, R157): its status, the weight handle and byte that a failed load names, and the image rows kept
(row index, data); absent rows are zero. -/
structure WSlot where
  state : SlotState := .empty
  bfmt  : BitVec 4 := 0
  cause : BitVec 8 := 0
  gran  : Nat := 0
  hnd   : Word := 0
  aux   : Word := 0
  image : List (Nat × Vec) := []
  deriving DecidableEq, Repr

/-- The part of a core that a checkpoint holds, rows apart (R61, R324). -/
structure Arch where
  /-- x0..x63 (R41). -/
  x      : Vector Word 64 := Vector.replicate 64 0
  /-- full bits of x0..x63 (R33, R41). -/
  xFull  : Vector Bool 64 := Vector.replicate 64 true
  /-- v0..v55 with tags and full bits (R88, R93). -/
  v      : Vector VReg 56 := Vector.replicate 56 {}
  /-- m0..m7 (R91). -/
  m      : Vector Mask 8 := Vector.replicate 8 0
  /-- VFMT, MFMT, WTH0..WTH7 as they govern (R42, R38). -/
  vfmt   : Word := 0
  mfmt   : Word := 0
  wth    : Vector (BitVec 32) 8 := Vector.replicate 8 0
  /-- FLAGS[6:0] (R46). -/
  flags  : BitVec 7 := 0
  /-- OVFPTR (R42). -/
  ovfptr : Word := 0
  /-- staging registers, engine × 16 + index (R48). -/
  stg    : Vector Word 80 := Vector.replicate 80 0
  /-- the hardware loop stack, top first (R57). -/
  loops  : List LoopEntry := []
  /-- spill memory: scalar offsets 0..4095, unlisted 0 (R122). -/
  spillX : List (Nat × Word) := []
  /-- spill memory: vector slots 0..63, unlisted zero with tag S (R122, R117). -/
  spillV : List (Nat × Row) := []
  /-- accumulator rows that are not zeroed, bank × 256 + row (R154, R155). -/
  acc    : List (Nat × Row) := []
  /-- result queues, oldest first (R158). -/
  rq     : Vector (List Row) 4 := Vector.replicate 4 []
  /-- hold registers (R159). -/
  hold   : Vector (Option Row) 4 := Vector.replicate 4 none
  /-- weight slots (R156). -/
  slots  : Vector WSlot 64 := Vector.replicate 64 {}
  /-- address of the next group's first word (R16). -/
  pc     : Word := 0
  /-- TCYC (R42). -/
  tcyc   : Nat := 0
  deriving DecidableEq, Repr

/-- A core's STATE (R317). -/
inductive CState where
  | idle | running | halted | stopping | stopped | saved | recovering | retired
  deriving DecidableEq, Repr

/-- The task a core runs (R295, R306, R308): where it came from, its resources and its bound generation. -/
structure Task where
  part   : Nat := 1
  rid    : Nat := 0
  replay : Nat := 0
  node   : Nat := 0
  tile   : Nat := 0
  tc     : Vector Nat 3 := Vector.replicate 3 0
  /-- declared phases (R59). -/
  phases : Nat := 1
  /-- ISREG (R308). -/
  isreg  : Nat := 0
  /-- landing-zone pairs held (R246). -/
  z      : Nat := 0
  /-- ROWS, CARVE and the window's first physical row (R115). -/
  rows   : Nat := 8192
  carve  : Nat := 0
  base   : Nat := 0
  /-- PGEN and PARAM0..PARAM63 (R42, R309). -/
  pgen   : Nat := 0
  params : Vector Word 64 := Vector.replicate 64 0
  /-- delayed lockstep (R90, R330). -/
  lock   : Bool := false
  /-- handle of the code object, and the task's input records as raw words (R295, R296). -/
  code   : Word := 0
  inputs : List (Nat × BitVec 1024) := []
  /-- FB recording asked for (R301, R310), with the feedback handle. -/
  fbh    : Word := 0
  deriving DecidableEq, Repr

/-- A write on its way to a scratchpad row (R119, R120): a whole row, or a tag alone. -/
structure RowWrite where
  due  : Nat
  row  : Nat
  data : Option Vec
  tag  : Tag
  deriving DecidableEq, Repr

/-- A write of one 64-byte sector of a scratchpad row by its physical address (R178, R280). -/
structure PadWrite where
  row    : Nat
  sector : Nat
  data   : Mask
  deriving DecidableEq, Repr

/-- An entry of the value log (R326): the register of a variable-latency producer, by the numbers of R316, its issue cycle, and, once
it has been delivered, the value with its tag and its delay from issue. -/
structure LogVal where
  reg   : Nat
  issue : Nat
  value : Option (Vec × Tag × Nat) := none
  deriving DecidableEq, Repr

/-- Who wrote a logged row (R326). -/
inductive RowWriter where
  | core | matrix | wavelet | fetch
  deriving DecidableEq, Repr

/-- A row-log entry (R326). -/
structure RowLog where
  row      : Nat
  old      : Row
  writer   : RowWriter
  interval : Nat
  deriving DecidableEq, Repr

/-- An `mmul` or `mtile` pass that the engine runs, or an `mdrain` (R163, R165, R166, R169). -/
inductive MKind where
  | mul | drain | zero
  deriving DecidableEq, Repr

/-- A matrix command in flight (R162, R163, R169): issue cycle, first A row, stride, rows, passes, accumulator bank and
row, first slot, flags, the MFMT that governs it, the header's TAG under `.c`, the pass that runs with the cycle of its
first row, the final rows that await their push, the flags each row has raised, and the rows still to push. -/
structure MCmd where
  seq     : Nat
  kind    : MKind
  tile    : Bool := false
  start   : Nat
  abase   : Nat := 0
  stride  : Nat := 0
  mrows   : Nat
  passes  : Nat := 1
  bank    : Nat
  accRow  : Nat
  slot    : Nat := 0
  z       : Bool := false
  push    : Option (BitVec 2)
  coef    : Bool := false
  htag    : Tag := 0
  mfmt    : Word := 0
  addr    : Word := 0
  pass    : Nat := 0
  sigma   : Nat
  outs    : List (Nat × Row) := []
  flags   : List (Nat × BitVec 7) := []
  left    : Nat
  deriving DecidableEq, Repr

/-- A weight load in flight (R167, R168): slot, issue cycle, first image row (`mwld`) or the object tile (`mwstr`, and the
loads of an `mtile`, which are no commands), and the version that a pin fixes. -/
structure WLoad where
  seq    : Nat
  slot   : Nat
  issue  : Nat
  stream : Bool
  src    : Nat := 0
  rows   : Nat
  hnd    : Word := 0
  n0     : Nat := 0
  k0     : Nat := 0
  mfmt   : Word
  ver    : Option Nat := none
  got    : List (Nat × Vec) := []
  cmd    : Bool := true
  deriving DecidableEq, Repr

/-- The sequencer of a running `mtile` (R169): the next pass to start, the number of passes, the earliest cycle of its first
row, and the weight object's tile. -/
structure MTile where
  seq    : Nat
  next   : Nat
  total  : Nat
  sigma  : Nat
  slot   : Nat
  mfmt   : Word
  hnd    : Word
  n0     : Nat
  k0     : Nat
  ver    : Option Nat := none
  paused : Bool := false
  deriving DecidableEq, Repr

/-- A recovery (R327): the end point with the STATE to return to, the error's record, the groups from the checkpoint to the end point;
which re-run runs (0 before the first), the cycle in which it begins, the next entry of the value log, whether it has found an error,
the register writes and row writes that it has made; and the count and writes of the first re-run. DEDUCED: notes/assumptions/24.md. -/
structure Recovery where
  pc    : Word
  back  : CState
  cause : BitVec 8
  info  : Word
  aux   : Word
  endAt : Nat
  run   : Nat := 0
  since : Nat
  next  : Nat := 0
  bad   : Bool := false
  regs  : List Dest := []
  rows  : List (Nat × Row) := []
  coming : List (Nat × Arrival) := []
  first : Option (Nat × List Dest × List (Nat × Row)) := none
  deriving DecidableEq, Repr

/-- The kinds of wavelet command (R143). -/
inductive WKind where
  | wfwd | winv | wst | wstc | wexp | wbias
  deriving DecidableEq, Repr

/-- The wavelet command that the engine holds (R140, R141): issue cycle s, its cycle T, source and destination rows,
its sizes, the formats and thresholds that govern it, and the rows it has read. -/
structure WCmd where
  kind  : WKind
  s     : Nat
  T     : Nat
  src   : Nat
  dst   : Nat
  n     : Nat
  L     : Nat
  k     : Nat
  pres  : BitVec 128
  vfmt  : Word
  wth   : Vector (BitVec 32) 8
  bias  : Row := {}
  got   : List (Nat × Row) := []
  /-- stopped at the end of a level under pre-emption, with the cycles that remain (R142). -/
  stop  : Option Nat := none
  deriving DecidableEq, Repr

/-- Kinds of channel command (R231). -/
inductive ChanKind where
  | fget | fgetc | fpref | cput | cputc | cmov | clz
  deriving DecidableEq, Repr

/-- A channel command (R222): what it is, its staging parameters as they stood at issue (R39), whether it has started, the
phase and the pins in force when it issued (R218), its outcome so far with the sector found uncorrectable (R229), how many
runs it has and which are done (for `clz`: rows answered), and whether it was pushed again on resumption (R245). -/
structure ChanCmd where
  kind    : ChanKind
  seq     : Nat
  issue   : Nat := 0
  stg     : Vector Word 16
  started : Bool := false
  phase   : Nat := 0
  pins    : List (Nat × Nat) := []
  err     : Option (BitVec 8) := none
  bad     : Option Nat := none
  total   : Nat := 0
  runs    : List Nat := []
  /-- the runs that an error has left unwritten (R229). -/
  spoiled : List Nat := []
  again   : Bool := false
  /-- for `clz`: the cycle in which its rows left (R258). -/
  sent    : Nat := 0
  deriving DecidableEq, Repr

/-- A fetch or copy channel (R222, R230): its queue, oldest first, its status, the sector found uncorrectable, and the
objects (slot with home) whose writes ended in an unreported error (R215). -/
structure Chan where
  queue : List ChanCmd := []
  err   : Bool := false
  cause : BitVec 8 := 0
  nerr  : Nat := 0
  bad   : Option Nat := none
  werr  : List Nat := []
  deriving DecidableEq, Repr

/-- A vector that a stream holds, with the flags its conversion raises when it is popped (R242). -/
structure SVec where
  data  : Vec
  tag   : Tag
  flags : BitVec 7
  deriving DecidableEq, Repr

/-- A stream register's binding (R241..R244): the pattern's staging registers, FTZ as it governs, the next run to fetch,
the number of runs, the buffered vectors and the error of the next vector. -/
structure VStream where
  bound  : Bool := false
  stg    : Vector Word 16 := Vector.replicate 16 0
  ftz    : Bool := false
  next   : Nat := 0
  popped : Nat := 0
  total  : Nat := 0
  buf    : List SVec := []
  err    : Option Raise := none
  pins   : List (Nat × Nat) := []
  deriving DecidableEq, Repr

/-- The states of a landing zone (R248). -/
inductive ZState where
  | closed | opened | complete | timedout | faulted
  deriving DecidableEq, Repr

/-- The states of a zone's slot (R248). -/
inductive LSlotState where
  | free | reserved | released
  deriving DecidableEq, Repr

/-- A slot of a landing zone (R248, R265). -/
structure LSlot where
  state : LSlotState := .free
  pkg   : Nat := 0
  core  : Nat := 0
  zrow  : Nat := 0
  slen  : Nat := 0
  miss  : BitVec 1024 := 0
  deriving DecidableEq, Repr

/-- The states of an arrival barrier (R249). -/
inductive BState where
  | idle | armed | complete | timedout
  deriving DecidableEq, Repr

/-- A pair: a landing zone and its barrier (R246..R249). -/
structure Pair where
  gen      : BitVec 8 := 0
  zone     : ZState := .closed
  base     : Nat := 0
  nrows    : Nat := 0
  alloc    : Nat := 0
  slots    : Vector LSlot 8 := Vector.replicate 8 {}
  bar      : BState := .idle
  expect   : Nat := 0
  arrived  : Nat := 0
  deadline : Nat := 0
  stale    : Nat := 0
  zfault   : Bool := false
  deriving DecidableEq, Repr

/-- What a landing-zone word does to its pair in the cycle after its issue (R262, R263): window, arrivals and deadline. -/
inductive LzOp where
  | opens (base nrows expect deadline : Nat)
  | closes
  | clears
  | inits (expect deadline : Nat)
  deriving DecidableEq, Repr

/-- The states of an event (R205). -/
inductive EvState where
  | idle | armed | fired | abandoned
  deriving DecidableEq, Repr

/-- A task event (R205): its state, the object slot, generation and version it is armed on, and what the firing publish
recorded: the publisher's die, its timestamp and the die's REBASE count (R206, R215, R272). -/
structure TEvent where
  st     : EvState := .idle
  home   : Nat := 0
  slot   : Nat := 0
  gen    : Nat := 0
  ver    : Nat := 0
  pubDie : Nat := 0
  ts     : Nat := 0
  rb     : Nat := 0
  deriving DecidableEq, Repr

/-- A pin of the task (R218): home package, object slot, version, and the number by which a home elsewhere knows its holder. -/
structure Pin where
  home   : Nat
  slot   : Nat
  ver    : Nat
  holder : Nat := 0
  deriving DecidableEq, Repr

/-- What a sync request found when it was accepted (R214). -/
inductive SyncResult where
  | ok
  | fault (cause : BitVec 8) (info aux : Word)
  deriving DecidableEq, Repr

/-- An open vector result that a class-4 word may extend (R103): destination, the unmerged stage result, its tag, the
element positions written, the old destination for the merge, the latency so far, the flags raised, how many results it has on
their way, and the positions that R420 counts. -/
structure VecOut where
  d     : VCode
  t     : Vec
  tag   : Tag
  mask  : Mask
  merge : Bool
  old   : VReg
  lat   : Nat
  flags : BitVec 7
  ops   : Nat := 0
  count : Nat
  deriving DecidableEq, Repr

/-- A line in a core's L1 object cache (R269): physical line number, its data, its lease end. -/
structure L1Line where
  line : Nat
  data : Mask
  lrts : Nat
  deriving DecidableEq, Repr

/-- A core: compute cores 0..767, system cores 768..783 (R4, R5, R338). -/
structure Core where
  id       : Nat := 0
  arch     : Arch := {}
  state    : CState := .idle
  task     : Option Task := none
  /-- the code text, in word index order (R16). -/
  text     : List IWord := []
  /-- PHASE (R42), and whether `phase` has committed and the next start is awaited (R59). -/
  phase    : Nat := 0
  waiting  : Bool := false
  /-- `tend` has issued and the joins of R60 are awaited. -/
  ending   : Bool := false
  /-- the first cycle in which the next group may issue (R37, R55). -/
  issueAt  : Nat := 0
  /-- the first cycle in which the group at issue has not been looked at yet (R34). -/
  tried    : Nat := 0
  /-- a system core in `wfi` (R339). -/
  wfi      : Bool := false
  /-- the group at issue: word index of its first word, of the word after its last, the word now executed (R18, R30). -/
  gstart   : Nat := 0
  gend     : Nat := 0
  wpos     : Nat := 0
  /-- the cycle by which every scalar FP, vector, cascade and special-function result issued so far has landed (R336). -/
  fpDue    : Nat := 0
  /-- a transfer taken by the group: its target address (R55). -/
  taken    : Option Word := none
  /-- the loop stack that the group leaves, when its class-2 word changes it (R57, R58). -/
  loopsNext : Option (List LoopEntry) := none
  /-- the vector word that a class-4 word would extend (R103). -/
  vout     : Option VecOut := none
  /-- the group asks for a checkpoint at its end (R61, R325). -/
  ckptDue  : Bool := false
  /-- the fault that the group has raised, until the step that ran the group has seen it (R314). -/
  raised   : Option Raise := none
  /-- results on their way (R31), row writes on their way (R120). -/
  pend     : List Pend := []
  rowPend  : List RowWrite := []
  /-- writes of sectors by physical address, due at the write point of this cycle (R120, R178). -/
  padPend  : List PadWrite := []
  /-- scratchpad rows by physical row number, unlisted zero with tag S (R115, R117). -/
  rows     : List (Nat × Row) := []
  /-- the class-8, 10 or 11 word at issue is resolved (R193, R223). -/
  resolved : Bool := false
  /-- the sync request at issue is accepted (R214). -/
  accepted : Option SyncResult := none
  /-- the word whose request of one of these two kinds is under way, and the cycle by which its answer must come (R209, R262). -/
  asking   : Option IWord := none
  askDue   : Option Nat := none
  /-- the matrix engine (R162, R170). -/
  mcmds    : List MCmd := []
  wloads   : List WLoad := []
  mtile    : Option MTile := none
  merr     : Option Raise := none
  /-- a push found its queue full: the queue whose overflow the next group raises (R159). -/
  ovf      : Option (BitVec 2) := none
  /-- the cycle of that push, and the engine's pushes that wait since then: due cycle, command, row (R159). -/
  heldAt   : Nat := 0
  pushHeld : List (Nat × Nat × Nat) := []
  /-- `mstat.w` words that wait: register, selector, and the commands issued before (R170). -/
  mwaits   : List (XReg × Nat × Nat) := []
  /-- the wavelet engine (R140). -/
  wave     : Option WCmd := none
  /-- fetch and copy channels (R222), streams (R241). -/
  fe       : Vector Chan 16 := Vector.replicate 16 {}
  cp       : Vector Chan 16 := Vector.replicate 16 {}
  streams  : Vector VStream 8 := Vector.replicate 8 {}
  /-- rows that fetch fills have written in this cycle, with the command's number (R222). -/
  fills    : List (Nat × Nat) := []
  /-- landing zones and barriers (R246). -/
  pairs    : Vector Pair 16 := Vector.replicate 16 {}
  /-- landing-zone words that act at the start of a cycle: the cycle, the pair and the act (R262). -/
  pairPend : List (Nat × Nat × LzOp) := []
  /-- task events and pins (R205, R218). -/
  events   : Vector TEvent 64 := Vector.replicate 64 {}
  pins     : List Pin := []
  /-- the phase's declared inputs that have been fetched, by index (R307), and one that ended in error (R308). -/
  inputsIn : List Nat := []
  inputErr : Option (Nat × BitVec 8) := none
  /-- with cause 0x18, the physical address of its uncorrectable sector (R316). -/
  inputBad : Nat := 0
  fetching : Bool := false
  /-- the phase that the fetched inputs belong to (R307: the double buffer). -/
  inPhase  : Nat := 0
  /-- the pins in force when the fetch of the inputs began (R307): object (slot with home) and version. -/
  inPins   : List (Nat × Nat) := []
  /-- the fault that the phase's first group raises (R308, R328). -/
  startErr : Option Raise := none
  /-- destinations of `lzres` and `gkick` without an answer (R262, R313), and of physical loads without a value (R340). -/
  lzresOut : List XReg := []
  gkickOut : List XReg := []
  physOut  : List XReg := []
  /-- registers that variable-latency producers have still to fill (R33, R319). -/
  varOut   : Nat := 0
  /-- while a group runs: CHBUSY and CHERR as they stood when it issued (R43). -/
  chView   : Option (Word × Word) := none
  /-- the releases toward other packages that are not yet performed there (R209): package, number, paths. -/
  relOut   : List (Nat × Nat × List Nat) := []
  /-- L1 copies of this package that a release of the core found older than their line (R208): core, line, lease end. -/
  relWait  : List (Nat × Nat × Nat) := []
  /-- bytes that the faulting access touches, for Lovage to serve (R186): handle, version, whether it writes, pieces. -/
  wanted   : List (Word × Option Nat × Bool × List (Nat × Nat)) := []
  /-- a resumption that waits for outstanding values, with its address (R40). -/
  resumeAt : Option Word := none
  /-- LTIME (R269). -/
  ltime    : Nat := 0
  /-- the L1 object cache (R267), asleep with the REBASE count recorded on entry (R273). -/
  l1       : List L1Line := []
  l1sleep  : Option Nat := none
  /-- translations the handle unit holds for this core: object slots (R193, R341). -/
  xlate    : List Nat := []
  /-- the fault record (R315) and the control block (R317). -/
  frec     : BitVec 512 := 0
  rpc      : Word := 0
  clack    : BitVec 9 := 0
  ctxa     : Word := 0
  retries  : BitVec 16 := 0
  prestart : BitVec 16 := 0
  ckpts    : Nat := 0
  /-- the last checkpoint and the phase-start checkpoint (R61, R324), and the cycle in which the last was taken. -/
  ckpt     : Arch := {}
  phaseCk  : Arch := {}
  /-- the `mtile` and the stopped wavelet command that the checkpoint of R321 holds (R61). -/
  ckptTile : Option (MTile × MCmd) := none
  ckptWave : Option WCmd := none
  /-- rows as the checkpoint holds them where a write to them was still on its way (R61): the last checkpoint's, and the phase
  start's. -/
  ckptLate : List (Nat × Row) := []
  phaseLate : List (Nat × Row) := []
  /-- the logs of R326: row log, its current interval, whether earlier entries were dropped, values since the checkpoint. -/
  rowLog   : List RowLog := []
  interval : Nat := 0
  logLost  : Bool := false
  valueLog : List LogVal := []
  /-- groups that have taken effect since the checkpoint, and the recovery of R327 that runs. -/
  groups   : Nat := 0
  recover  : Option Recovery := none
  /-- what Lovage still does with the core for a host command: 1 save it once STOPPED, 2 resume it once restored (R355). -/
  errand   : BitVec 2 := 0
  /-- the core was HALTED when pre-emption began (R320). -/
  wasHalt  : Bool := false
  /-- the task has been discarded, and its started commands are still to complete (R318). -/
  discarding : Bool := false
  /-- feedback counts of R310: TASKS is added at retirement. -/
  fbPhases : Nat := 0
  fbEng    : Nat := 0
  fbFe     : Nat := 0
  fbIn     : Nat := 0
  fbBusy   : Nat := 0
  /-- outstanding issue number of engine commands (R162, R222). -/
  seq      : Nat := 0
  /-- the region's credit and waiting since (R306): kept per core by region id. -/
  credits  : List (Nat × Int) := []
  aging    : List (Nat × Nat) := []
  /-- object carve-out rows of HOME 11 pages (R280). -/
  objRows  : Nat := 0
  /-- physical core that carries this logical core, once remapped (R367). -/
  remap    : Option Nat := none
  /-- system registers (R339). -/
  sstat    : Word := 0
  sepc     : Word := 0
  scause   : Word := 0
  sinfo    : Word := 0
  svec     : Word := 0
  sipend   : BitVec 7 := 0
  sien     : Word := 0
  sscr     : Vector Word 4 := Vector.replicate 4 0
  deriving DecidableEq, Repr

/-- A line in an L2 slice (R267, R269, R282): its data, timestamps, dirty bit, traffic class and the key id's class. -/
structure L2Line where
  line  : Nat
  data  : Mask
  wts   : Nat
  rts   : Nat
  dirty : Bool
  cls   : Nat
  way   : Nat
  deriving DecidableEq, Repr

/-- A line in a memory-side cache (R281), which lists its lines from the most to the least recently placed. -/
structure MscLine where
  line  : Nat
  data  : Mask
  dirty : Bool
  cls   : Nat
  way   : Nat
  deriving DecidableEq, Repr

/-- Directory entry states (R274). -/
inductive DirState where
  | shr | own | mig
  deriving DecidableEq, Repr

/-- A directory entry at a home die (R274, R276): region of 2^k lines from `base`, sharers (or the owner), last use. -/
structure DirEntry where
  base : Nat
  k    : Nat
  st   : DirState
  set  : BitVec 24
  used : Nat
  deriving DecidableEq, Repr

/-- A page under migration (R278): old page, new page, next line to copy, and the lines beyond it for which a request was held; and the
key id of the object whose page it is (R332). -/
structure Migration where
  page : Nat
  dest : Nat
  next : Nat
  key  : Nat := 0
  held : List Nat := []
  deriving DecidableEq, Repr

/-- A compute die (R267, R269, R274, R281, R288, R379). -/
structure Die where
  l2      : List L2Line := []
  mts     : Nat := 0
  dir     : List DirEntry := []
  msc     : List MscLine := []
  rebase  : BitVec 32 := 0
  /-- LTIME of every core of the die that has not left its reset state: the ticks so far (R271). -/
  idle    : Nat := 0
  /-- the L2 holds new requests until this cycle after a rebase (R272). -/
  holdTo  : Nat := 0
  pinways : BitVec 4 := 0
  l2way   : List (Nat × BitVec 16) := [(0, 0xFFFF)]
  mscway  : List (Nat × BitVec 16) := [(2, 0xC000), (3, 0x3FFF)]
  mscpol  : BitVec 24 := 0
  kkey    : BitVec 6 := 0
  kbusy   : Bool := false
  /-- key ids whose accesses the die refuses since it destroyed them (R287, R288). -/
  refuses : BitVec 64 := 0
  gated   : Bool := false
  /-- An order to gate or ungate that waits for the boundary of the next core cycle (R379). -/
  gateAsk : Option Bool := none
  l2sleep : List (Nat × Nat) := []
  /-- spare physical cores that carry, or have carried, a retired core's id since power good (R367). -/
  spares  : List Nat := []
  migs    : List Migration := []
  deriving DecidableEq, Repr

/-- A kept version of an object (R202): its number, and the leaf entries it still reads where the draft has moved on. -/
structure KeptVer where
  slot  : Nat
  ver   : Nat
  pages : List (Nat × Word) := []
  deriving DecidableEq, Repr

/-- A sector that another package serves (R184): object slot with home, the sector's number in the object, and the version under which
it is read, where that is pinned. -/
structure FarAt where
  key : Nat
  sec : Nat
  ver : Option Nat
  deriving DecidableEq, Repr

/-- A publish (R205, R215): object slot, version, the publisher's die, its timestamp and the die's REBASE count. -/
structure PubRec where
  slot : Nat
  ver  : Nat
  die  : Nat
  ts   : Nat
  rb   : Nat
  deriving DecidableEq, Repr

/-- A context image in a save area (R322): the mark of the key under which it was written, the number that its bytes go by, and the
context. DEDUCED: notes/assumptions/22.md. -/
structure Image where
  tag : Nat
  num : Nat := 0
  ctx : Core
  deriving DecidableEq, Repr

/-- A grant of OBJ_SHARE (R354): object slot, target partition, rights. -/
structure Grant where
  slot   : Nat
  target : Nat
  rights : BitVec 8
  deriving DecidableEq, Repr

/-- A watchpoint (R191, R342). -/
structure Watch where
  part : Nat
  n    : Nat
  slot : Nat
  home : Nat
  lo   : Nat
  hi   : Nat
  deriving DecidableEq, Repr

/-- A watch record (R191). -/
structure WatchRec where
  handle : Word
  lin    : Nat
  kind   : ReqKind
  core   : Nat
  pkg    : Nat
  time   : Nat
  deriving DecidableEq, Repr

/-- A partition's violation log (R190): entries newest first, at most 64, and the lost-entry count. -/
structure VLog where
  entries : List (BitVec 512) := []
  lost    : Nat := 0
  deriving DecidableEq, Repr

/-- Key states (R346). -/
inductive KeyState where
  | none | live | dead
  deriving DecidableEq, Repr

/-- A meter set (R356..R360): counters, quotas, quota-reached bits, snapshots taken, the last snapshot's bytes, the
creation nonce, the final record. -/
structure Meters where
  count : Vector Nat 14 := Vector.replicate 14 0
  quota : Vector Nat 14 := Vector.replicate 14 0
  hit   : BitVec 14 := 0
  seq   : Nat := 0
  last  : List (BitVec 8) := []
  nonce : Nat := 0
  deriving DecidableEq, Repr

/-- The undo log of a partition (R331, R332). -/
inductive UState where
  | idle | opened | sealed | rolling
  deriving DecidableEq, Repr
/-- An undo log control block and the lines it holds (R331, R332). DESIGN CHOICE: notes/assumptions/23.md. -/
structure Undo where
  st       : UState := .idle
  lost     : Bool := false
  interval : BitVec 32 := 0
  base     : Nat := 0
  size     : Nat := 0
  used     : Nat := 0
  /-- lines logged in the interval, newest first, with the key tag and the contents they had (R332). -/
  log      : List (Nat × Nat × Mask) := []
  deriving DecidableEq, Repr

/-- A live partition (R343). -/
structure Part where
  k      : Nat
  root   : Nat
  meters : Meters := {}
  undo   : Undo := {}
  /-- L2WAY and MSCWAY masks as created (R344, R353). -/
  l2way  : BitVec 16 := 0
  mscway : Vector (BitVec 16) 3 := Vector.replicate 3 0
  deriving DecidableEq, Repr

/-- A region control block (R289, R290). -/
structure Region where
  rid     : Nat
  /-- where its block stands in memory, 0 where it has none, and the block's bits as they were last looked at. -/
  addr    : Nat := 0
  block   : BitVec 2048 := 0
  part    : Nat
  parent  : Option Nat
  coreset : BitVec 768 := 0
  inh     : BitVec 7 := 0x7F
  lock    : Bool := false
  fpol    : BitVec 2 := 0
  prio    : BitVec 3 := 0
  rowcap  : Nat := 8192
  lzcap   : Nat := 16
  quota   : Vector Nat 14 := Vector.replicate 14 0
  /-- the sums of R358 that Lovage keeps. -/
  sums    : Vector Nat 14 := Vector.replicate 14 0
  /-- STATE: 1 running, 2 draining, 3 stopped. -/
  st      : BitVec 2 := 1
  deriving DecidableEq, Repr

/-- A graph image bound to a region by GRAPH_LOAD (R294): handle, region, image bytes, latest generation, kicks accepted. -/
structure Graph where
  handle : Word
  rid    : Nat
  part   : Nat
  image  : List (BitVec 8)
  latest : Option (Vector Word 64) := none
  kicks  : Nat := 0
  deriving DecidableEq, Repr

/-- How a tile task of a node stands in its replay (R293, R305, R306). -/
inductive TStat where
  | created | running | retired | abandoned | held
  deriving DecidableEq, Repr

/-- A created task (R304, R305). -/
structure TaskRec where
  rid    : Nat
  replay : Nat
  node   : Nat
  tile   : Nat
  core   : Nat
  st     : TStat := .created
  deriving DecidableEq, Repr

/-- How a node of a replay stands (R305). -/
inductive NStat where
  | waiting | created | done | abandoned
  deriving DecidableEq, Repr

/-- RSTATE of a replay entry (R303). -/
inductive RState where
  | idle | running | done | abandoned | drained
  deriving DecidableEq, Repr

/-- A replay (R302, R303): its graph, parameter generation, snapshot of the core set, nodes and events. -/
structure Replay where
  part   : Nat
  rid    : Nat
  replay : Nat
  graph  : Word
  genNo  : Nat
  gen    : Vector Word 64
  cores  : List Nat
  fb     : Bool
  infl   : Nat
  st     : RState := .running
  nodes  : List NStat := []
  /-- KIND-1 dependences by node × 256 + index: ARMED at the object's home, FIRED, or ABANDONED (R298, R305). -/
  deps   : List (Nat × EvState) := []
  /-- replay events ev64..ev255 that are FIRED or ABANDONED (R205), unlisted IDLE. -/
  events : List (Nat × EvState) := []
  place  : Nat := 0
  deriving DecidableEq, Repr

/-- A command window (R348..R350). -/
structure Window where
  args   : Vector Word 16 := Vector.replicate 16 0
  res    : Vector Word 8 := Vector.replicate 8 0
  data   : List (BitVec 8) := []
  seq    : BitVec 32 := 0
  opc    : BitVec 8 := 0
  code   : BitVec 8 := 0
  /-- STATE: 0 IDLE, 1 BUSY, 2 DONE. -/
  st     : BitVec 2 := 0
  reject : Word := 0
  /-- the cycle of the latest doorbell, and what Sorrel has done of a command that takes time. -/
  start  : Nat := 0
  work   : Nat := 0
  /-- latest kick status word of the partition's kick page (R300, R303). -/
  kick   : Word := 0
  deriving DecidableEq, Repr

/-- A host-visible interrupt (R350, R358): function (0 physical, else the partition) and vector. -/
structure Msi where
  fn  : Nat
  vec : Nat
  deriving DecidableEq, Repr

/-- An HBM channel's PHY block (R369..R373). -/
structure Phy where
  rdly   : Vector (BitVec 7) 66 := Vector.replicate 66 0
  wdly   : Vector (BitVec 7) 66 := Vector.replicate 66 0
  spare  : Vector (BitVec 6) 2 := Vector.replicate 2 0
  patctl : Word := 0x100
  errcnt : BitVec 32 := 0
  done   : Bool := false
  busy   : Bool := false
  err    : BitVec 66 := 0
  en     : Bool := false
  /-- writes that wait for the test, in program order (R340, R372): core, physical address, value. -/
  held   : List (Nat × Nat × Word) := []
  /-- mode registers by pseudo-channel × 256 + n (R373), unlisted not written. -/
  mode   : List (Nat × BitVec 8) := []
  deriving DecidableEq, Repr

/-- Fabric port states (R374). -/
inductive PState where
  | down | training | up | failed
  deriving DecidableEq, Repr
structure Port where
  st     : PState := .down
  en     : Bool := false
  peer   : BitVec 9 := 0
  fecerr : BitVec 32 := 0
  /-- uncorrectable codewords met of late (R375): since when, and how many. -/
  fecs   : List (Nat × Nat) := []
  deriving DecidableEq, Repr

/-- An SPDM session (R361, R362): id, whether secured, staged key bytes by key id. -/
structure Session where
  id     : Nat
  staged : List (Nat × Mask) := []
  deriving DecidableEq, Repr

/-- The answers that the SPDM responder has given (R361): kind and value. -/
inductive SpdmAnswer where
  | certificate (v : Nat)
  | challenge (nonce sig : Nat)
  | measurement (index : Nat) (v : List (BitVec 8)) (sig : Nat)
  | session (id : Nat)
  | ok
  | error
  deriving DecidableEq, Repr

/-- Whether the package has power, is booting, serves work, or has stopped (R364, R379). -/
inductive Power where
  | cold | booting | ready | bootFailed | off
  deriving DecidableEq, Repr

/-- The package (R1..R5). -/
structure State where
  /-- sixteen times the package cycle count, plus the point within the cycle (R6, R120). -/
  clock    : Nat
  /-- the core whose group the step issues, and every other core that has left its reset state. -/
  core     : Core
  parked   : List Core
  /-- steps that are due, with their points in time: engine and unit actions, and inputs from outside. -/
  agenda   : List (Nat × Instr)
  /-- the model's own field: the free values drawn so far (Config; notes/assumptions/14.md). -/
  fresh    : Nat
  power    : Power
  /-- BOOTSTAT (R365). -/
  failstep : BitVec 8
  bstep    : BitVec 8
  bdetail  : BitVec 16
  /-- the cycle in which the boot step now running ends. -/
  bootAt   : Nat
  /-- package id and the domain's members (R5, R376). -/
  pkg      : Nat
  members  : List Nat
  dies     : Vector Die 24
  /-- memory by 46-bit physical address (space and offset, R178), unlisted 0. -/
  mem      : List Host.Cell
  /-- the key and key load under which each 64-byte sector was last written (R345), unlisted the boot zero-fill. -/
  lineKey  : List (Nat × Nat)
  keys     : List (Nat × KeyState)
  keyLoads : List (Nat × Nat)
  /-- the keys that KEY_LOAD has brought, by the mark of the key load (R345, R362). -/
  keyBytes : List (Nat × Mask)
  /-- object table slice: descriptors by slot (R176). -/
  descs    : List (Nat × BitVec 512)
  /-- descriptors of objects homed on other packages, as this package's handle units have learned them (R193). -/
  far      : List (Nat × BitVec 512)
  /-- sectors that other packages serve, as this package's agents last read or wrote them (R124, R199). -/
  farMem   : List (FarAt × Mask)
  kept     : List KeptVer
  /-- flush markers gathered from other packages (R209): sender, release, path; and the releases that wait for theirs. -/
  marks    : List (Nat × Nat × Nat)
  heldRel  : List (Nat × Packet)
  /-- releases of other packages (package, number) that wait here for leases (R208): core, line and lease end of each copy. -/
  relStale : List (Nat × Nat × List (Nat × Nat × Nat))
  /-- events of other packages that wait for a version of an object homed here (R205): package, slot with home, version. -/
  subs     : List (Nat × Nat × Nat)
  /-- publishes of this package's objects, newest first (R215). -/
  pubs     : List PubRec
  /-- pages of the pool that Lovage keeps for copy-on-write, by object slot (R202). -/
  pool     : List (Nat × Nat)
  /-- pins of every task on objects of this package: core, slot, version (R203, R218). -/
  pinned   : List (Nat × Nat × Nat)
  grants   : List Grant
  watches  : List Watch
  watchLog : List WatchRec
  vlogs    : List (Nat × VLog)
  parts    : List Part
  finals   : List (Nat × List (BitVec 8))
  regions  : List Region
  graphs   : List Graph
  replays  : List Replay
  tasks    : List TaskRec
  windows  : List (Nat × Window)
  msis     : List Msi
  /-- the package fault queue (R317). -/
  faultQ   : List Nat
  /-- what Lovage has logged of unresolved faults, newest first: core, fault record, and whether the host was notified (R292). -/
  faultLog : List (Nat × BitVec 512 × Bool)
  /-- context images by save-area address (R322). -/
  saves    : List (Nat × Image)
  phys     : List (Nat × Phy)
  ports    : List (Nat × Port)
  /-- packets sent toward other packages, newest first, and the sequence numbers seen from each (R375). -/
  outbox   : List (Nat × Packet)
  sent     : Nat
  /-- the ports that packets have gone over, newest first: destination, sequence number, port (R375). -/
  via      : List (Nat × Nat × Nat)
  /-- packages that a FABRIC_LEAVE leaves, while what had begun toward them still completes (R376). -/
  leaving  : List Nat
  /-- the cycle by which every load from another package has its answer. -/
  farDue   : Nat
  /-- prefetched sectors that an L2 which holds new requests keeps back (R196, R272): core, address, HOME, COMPRESSED. -/
  pfHeld   : List (Nat × Nat × Nat × Bool)
  seen     : List (Nat × Nat)
  links    : Bool × Bool
  /-- what the host's reads have been answered, newest first (R189). -/
  replies  : List HostReply
  sessions : List Session
  nextSess : Nat
  spdm     : List SpdmAnswer
  /-- RIDs given out so far, and pages that Lovage has placed (R186, R202, R355). -/
  nextRid  : Nat
  /-- objects backed in LPDDR-6 first (R354). -/
  lpdFirst : List Nat
  nextPage : Nat
  deriving DecidableEq, Repr

/-- The machine right after reset (R364): before power good, no partition and no task; every core held. Registers and
other fields whose reset value no rule gives stand at zero or empty (notes/assumptions/1.md). -/
def State.reset : State where
  clock := 0
  core := {}
  parked := []
  agenda := []
  fresh := 0
  power := .cold
  failstep := 0
  bstep := 1
  bdetail := 0
  bootAt := 0
  pkg := 0
  members := [0]
  dies := Vector.replicate 24 {}
  mem := []
  lineKey := []
  keys := []
  keyLoads := []
  keyBytes := []
  descs := []
  far := []
  farMem := []
  kept := []
  marks := []
  heldRel := []
  relStale := []
  subs := []
  pubs := []
  pool := []
  pinned := []
  grants := []
  watches := []
  watchLog := []
  vlogs := []
  parts := []
  finals := []
  regions := []
  graphs := []
  replays := []
  tasks := []
  windows := []
  msis := []
  faultQ := []
  faultLog := []
  saves := []
  phys := []
  ports := []
  outbox := []
  sent := 0
  via := []
  leaving := []
  farDue := 0
  pfHeld := []
  seen := []
  links := (true, true)
  replies := []
  sessions := []
  nextSess := 1
  spdm := []
  nextRid := 1
  lpdFirst := []
  nextPage := 0

end Sys2Proof.Machine
end

