-- ==== Sys2Proof/Machine/Ops.lean ====
section
/-! DEFINITION. The named operations over the state: sparse maps, cores, time and the agenda, registers and results on
their way (R31..R36), rows (R115..R121), faults and traps taken and returned from (R314, R339), transfers of control
(R55..R58) and checkpoints (R61, R324..R326). -/

namespace Sys2Proof.Machine

open Sys2Proof

/-! ### Sparse maps: keys strictly rising -/

/-- The value listed at a key. -/
def mget {α : Type} (l : List (Nat × α)) (k : Nat) : Option α :=
  match l with
  | [] => none
  | (j, a) :: t => if j = k then some a else mget t k

/-- The map with a key's value replaced or listed. -/
def mput {α : Type} (l : List (Nat × α)) (k : Nat) (a : α) : List (Nat × α) :=
  match l with
  | [] => [(k, a)]
  | (j, b) :: t => if k < j then (k, a) :: (j, b) :: t else if k = j then (k, a) :: t else (j, b) :: mput t k a

/-- The map without a key. -/
def mdel {α : Type} (l : List (Nat × α)) (k : Nat) : List (Nat × α) := l.filter fun p => p.1 ≠ k

/-- A map in which unlisted keys hold `dflt`: writing `dflt` removes the entry. -/
def dput {α : Type} [DecidableEq α] (dflt : α) (l : List (Nat × α)) (k : Nat) (a : α) : List (Nat × α) :=
  if a = dflt then mdel l k else mput (mdel l k) k a

/-- An entry of a fixed-size table, with a default outside its range, and its replacement. -/
def vget {α : Type} {n : Nat} (v : Vector α n) (i : Nat) (d : α) : α := (v[i]?).getD d
def vset {α : Type} {n : Nat} (v : Vector α n) (i : Nat) (a : α) : Vector α n := v.setIfInBounds i a

/-! ### Vectors and bytes -/

/-- Element `i` of width `w` bits of a vector or row (R63, R88). -/
def elem (w : Nat) (v : Vec) (i : Nat) : Nat := v.toNat / 2 ^ (w * i) % 2 ^ w

/-- The elements of a vector, in order. -/
def elems (w : Nat) (v : Vec) : List Nat := (List.range (4096 / w)).map (elem w v)

/-- The number whose digits of width `w` are the listed patterns, the first lowest. -/
def packNat (w : Nat) : List Nat → Nat
  | [] => 0
  | a :: t => a % 2 ^ w + 2 ^ w * packNat w t

/-- A vector from its elements. -/
def ofElems (w : Nat) (l : List Nat) : Vec := BitVec.ofNat 4096 (packNat w l)

/-- The mask bits of positions 0..n−1. -/
def maskBits (m : Mask) (n : Nat) : List Bool := (List.range n).map m.getLsbD

/-- A mask from its bits. -/
def maskOf (l : List Bool) : Mask := BitVec.ofNat 512 (packNat 1 (l.map fun b => if b then 1 else 0))

/-- Sign extension of an `n`-bit field to a word. -/
def sext64 {n : Nat} (b : BitVec n) : Word := b.signExtend 64

/-- A flag as a word. -/
def bool64 (b : Bool) : Word := if b then 1 else 0

/-! ### Cores -/

/-- A system core (R5, R338). -/
def Core.isSys (c : Core) : Bool := decide (768 ≤ c.id)

/-- The core with an id: the focus core, a parked core, or one that has stayed in its reset state. -/
def findCore (l : List Core) (i : Nat) : Option Core := l.find? fun c => c.id = i

def State.coreOf (s : State) (i : Nat) : Core :=
  if s.core.id = i then s.core else (findCore s.parked i).getD { id := i, ltime := (vget s.dies (i / 32) {}).idle }

/-- Parked cores in rising order of id. -/
def parkCore : List Core → Core → List Core
  | [], c => [c]
  | d :: t, c => if c.id < d.id then c :: d :: t else if c.id = d.id then c :: t else d :: parkCore t c

/-- The state with one core's contents replaced. -/
def State.putCore (s : State) (c : Core) : State :=
  if s.core.id = c.id then { s with core := c } else { s with parked := parkCore s.parked c }

/-- An update of one core. -/
def State.modCore (s : State) (i : Nat) (f : Core → Core) : State := s.putCore (f (s.coreOf i))

/-- An update of the focus core. -/
def State.onCore (s : State) (f : Core → Core) : State := { s with core := f s.core }

/-- An update of the focus core's checkpointed part. -/
def State.onArch (s : State) (f : Arch → Arch) : State :=
  { s with core := { s.core with arch := f s.core.arch } }

/-- An update of every core that has left its reset state. -/
def State.allCores (s : State) (f : Core → Core) : State :=
  { s with core := f s.core, parked := s.parked.map f }

/-- The focus on a core: it is the one whose group the step issues. -/
def State.focus (s : State) (i : Nat) : State :=
  if s.core.id = i then s
  else { s with core := s.coreOf i, parked := parkCore (s.parked.filter fun c => c.id ≠ i) s.core }

/-- An update of every system core that is out of reset. -/
def State.sysCores (s : State) (f : Core → Core) : State := s.allCores fun c => if c.isSys then f c else c

/-- A pending interrupt source on the system cores (R339). -/
def State.sysPend (s : State) (src : Nat) : State :=
  s.sysCores fun c => { c with sipend := c.sipend ||| BitVec.ofNat 7 (2 ^ src) }

/-- The task a core runs, with the defaults of a core that runs none. -/
def Core.tk (c : Core) : Task := c.task.getD {}

/-! ### Time and the agenda -/

/-- The package cycle count (R6). -/
def State.cycle (s : State) : Nat := s.clock / 16

/-- Points within a cycle (R120, R121): landing of results, pushes, issue, landing-zone arrivals, fetch fills, wavelet
results, the core's row writes, engine reads, deadlines; point 12 is the end, where the units look at what the cycle has left. -/
def ptLand : Nat := 0
def ptPush : Nat := 1
def ptIssue : Nat := 4
def ptArrive : Nat := 6
def ptFill : Nat := 7
def ptWave : Nat := 8
def ptRows : Nat := 9
def ptRead : Nat := 10
def ptEnd : Nat := 11

/-- Entries in rising order of time; equal times in order of insertion. -/
def agendaPut (l : List (Nat × Instr)) (k : Nat) (i : Instr) : List (Nat × Instr) :=
  match l with
  | [] => [(k, i)]
  | (j, x) :: t => if k < j then (k, i) :: (j, x) :: t else (j, x) :: agendaPut t k i

/-- Schedules a step at a point of a cycle. -/
def State.sched (s : State) (cyc pt : Nat) (i : Instr) : State :=
  { s with agenda := agendaPut s.agenda (cyc * 16 + pt) i }

/-- Removes scheduled steps. -/
def State.unsched (s : State) (p : Instr → Bool) : State :=
  { s with agenda := s.agenda.filter fun e => !p e.2 }

/-- A time that R419 leaves unfixed: a free value of the configuration, drawn by the model's own counter. DESIGN CHOICE: notes/assumptions/14.md. -/
def State.draw (s : State) (k : Config.Delay) : Nat × State :=
  (Config.delay k s.fresh, { s with fresh := s.fresh + 1 })

/-- A free choice among `n` alternatives, 0..n−1. DESIGN CHOICE: notes/assumptions/14.md. -/
def State.choose (s : State) (n : Nat) : Nat × State :=
  (Config.choice s.fresh n % max n 1, { s with fresh := s.fresh + 1 })

/-- Schedules a step at least `least` cycles from now, after a free time. DESIGN CHOICE: notes/assumptions/5.md. -/
def State.schedFree (s : State) (k : Config.Delay) (least pt : Nat) (i : Instr) : State :=
  let (d, s) := s.draw k
  s.sched (s.cycle + least + d) pt i

/-! ### Registers -/

/-- A scalar register; x0 reads zero (R11, R41). -/
def Arch.getX (a : Arch) (r : XReg) : Word := if r = 0 then 0 else a.x[r.toNat]

/-- A write of a scalar register; a write to x0 has no effect (R11). -/
def Arch.setX (a : Arch) (r : XReg) (w : Word) : Arch :=
  if r = 0 then a else { a with x := a.x.set r.toNat w }

/-- Whether a scalar register is full; x0 always is (R41). -/
def Arch.fullX (a : Arch) (r : XReg) : Bool := r = 0 || a.xFull[r.toNat]

def Arch.markX (a : Arch) (r : XReg) (b : Bool) : Arch := { a with xFull := a.xFull.set r.toNat b }

/-- A vector register v0..v55; the stream codes name none (R27). -/
def Arch.getV (a : Arch) (r : VCode) : VReg := if h : r.toNat < 56 then a.v[r.toNat] else {}

def Arch.setV (a : Arch) (r : VCode) (d : Vec) (t : Tag) : Arch :=
  if h : r.toNat < 56 then { a with v := a.v.set r.toNat { a.v[r.toNat] with data := d, tag := t } } else a

def Arch.fullV (a : Arch) (r : VCode) : Bool := if h : r.toNat < 56 then a.v[r.toNat].full else true

def Arch.markV (a : Arch) (r : VCode) (b : Bool) : Arch :=
  if h : r.toNat < 56 then { a with v := a.v.set r.toNat { a.v[r.toNat] with full := b } } else a

/-- A mask; m0 reads all ones and discards writes (R91). -/
def Arch.getM (a : Arch) (r : BitVec 3) : Mask := if r = 0 then BitVec.allOnes 512 else a.m[r.toNat]

def Arch.setM (a : Arch) (r : BitVec 3) (w : Mask) : Arch := if r = 0 then a else { a with m := a.m.set r.toNat w }

/-- The focus core's registers, as a word at issue reads them. -/
def State.getX (s : State) (r : XReg) : Word := s.core.arch.getX r
def State.getV (s : State) (r : VCode) : VReg := s.core.arch.getV r
def State.getM (s : State) (r : BitVec 3) : Mask := s.core.arch.getM r

/-! ### Rows (R115..R121) -/

/-- A physical row; an unlisted one holds zero bytes with tag S (R117). -/
def Core.physRow (c : Core) (p : Nat) : Row := (mget c.rows p).getD {}

/-- Row n of the task's window. -/
def Core.row (c : Core) (n : Nat) : Row := c.physRow (c.tk.base + n)

/-- Physical row of carve-out row n (R115). -/
def Core.carveRow (c : Core) (n : Nat) : Nat := 8192 - c.tk.carve + n

/-- Logs a row's old contents when this is its first logged write of the interval (R326). -/
def Core.logRow (c : Core) (w : RowWriter) (p : Nat) : Core :=
  if c.rowLog.any fun e => e.row = p && e.interval = c.interval then c
  else { c with rowLog := { row := p, old := c.physRow p, writer := w, interval := c.interval } :: c.rowLog }

/-- A row write without a log entry (a landing arrival, R326; a restore). -/
def Core.putRow (c : Core) (p : Nat) (r : Row) : Core := { c with rows := dput {} c.rows p r }

/-- The signature of a re-run takes in every row that the core side writes, fetch fills apart (R327). -/
def Core.noteRow (c : Core) (w : RowWriter) (p : Nat) (r : Row) : Core :=
  { c with recover := c.recover.map fun v => if w = .fetch then v else { v with rows := v.rows ++ [(p, r)] } }

/-- A logged row write. -/
def Core.writeRow (c : Core) (w : RowWriter) (p : Nat) (r : Row) : Core := ((c.logRow w p).noteRow w p r).putRow p r

/-- One of the core's own row writes (R119): the whole row, or the present data with a new tag. -/
def Core.applyRowWrite (c : Core) (w : RowWrite) : Core :=
  c.writeRow .core w.row { data := w.data.getD (c.physRow w.row).data, tag := w.tag }

/-- A sector of a row replaced; the tag stays. -/
def Row.putSector (r : Row) (k : Nat) (d : Mask) : Row := { r with data := ofElems 512 ((elems 512 r.data).set k d.toNat) }

/-- The writes by physical address that are due at this cycle's write point (R120, R178). -/
def Core.applyPads (c : Core) : Core :=
  { c.padPend.foldl (fun c w => c.putRow w.row ((c.physRow w.row).putSector w.sector w.data)) c with padPend := [] }

/-- The core's writes due by a cycle, in order of issue (R121). -/
def Core.applyRows (c : Core) (cyc : Nat) : Core :=
  let due := c.rowPend.filter fun w => w.due ≤ cyc
  { due.foldl Core.applyRowWrite c with rowPend := c.rowPend.filter fun w => ¬ w.due ≤ cyc }

/-! ### Results on their way (R31..R36, R46) -/

/-- The 8 bytes at scalar index i of a row's data, and their replacement. -/
def getWordAt (v : Vec) (i : Nat) : Word := BitVec.ofNat 64 (elem 64 v i)
def putWordAt (v : Vec) (i : Nat) (w : Word) : Vec := ofElems 64 ((elems 64 v).set i w.toNat)

/-- What a result does when it lands. -/
def Core.land (c : Core) : Dest → Core
  | .x r w => { c with arch := c.arch.setX r w }
  | .v r d t => { c with arch := c.arch.setV r d t }
  | .m r w => { c with arch := c.arch.setM r w }
  | .flagsSet w => { c with arch := { c.arch with flags := w } }
  | .flagsOr w => { c with arch := { c.arch with flags := c.arch.flags ||| w } }
  | .flagsClr w => { c with arch := { c.arch with flags := c.arch.flags &&& ~~~w } }
  | .flagsRaise w => { c with arch := { c.arch with flags := c.arch.flags ||| w } }
  | .vfmt w => { c with arch := { c.arch with vfmt := w } }
  | .mfmt w => { c with arch := { c.arch with mfmt := w } }
  | .wth n w => { c with arch := { c.arch with wth := c.arch.wth.set n.toNat w } }
  | .stg e i w =>
    { c with arch := { c.arch with stg := c.arch.stg.setIfInBounds (e.toNat * 16 + i.toNat) w } }
  | .ovfptr w => { c with arch := { c.arch with ovfptr := w } }
  | .spillX o w => { c with arch := { c.arch with spillX := dput 0 c.arch.spillX o w } }
  | .spillV k r => { c with arch := { c.arch with spillV := dput {} c.arch.spillV k r } }
  | .carveX o w =>
    let p := c.carveRow (o / 64)
    c.writeRow .core p { c.physRow p with data := putWordAt (c.physRow p).data (o % 64) w }
  | .carveV n r => c.writeRow .core (c.carveRow n) r

/-- A raise is applied after every write that lands in the same cycle (R46). -/
def Dest.isRaise : Dest → Bool
  | .flagsRaise _ => true
  | _ => false

/-- Every result due by a cycle lands, in order of issue, raises of FLAGS last (R32, R46). Those that `after` selects wait for
the arrival of a value in the same cycle, which they stand over. -/
def Core.landDue (c : Core) (cyc : Nat) (after : Dest → Bool := fun _ => false) : Core :=
  let due := c.pend.filter fun p => p.due ≤ cyc && !after p.dest
  let writes := due.filter fun p => !p.dest.isRaise
  let raises := due.filter fun p => p.dest.isRaise
  let c' := (writes ++ raises).foldl (fun c p => c.land p.dest) c
  { c' with pend := c.pend.filter fun p => !(p.due ≤ cyc && !after p.dest) }

/-- Every result on its way lands, cycle by cycle (R40, R61): the latest due cycle bounds the recursion. -/
def Core.landAll (c : Core) (from_ : Nat) : Nat → Core
  | 0 => c
  | n + 1 => (Core.landDue c from_).landAll (from_ + 1) n

/-- The core with everything on its way landed (R40). Row writes land with it. -/
def Core.settled (c : Core) (cyc : Nat) : Core :=
  let last := c.pend.foldl (fun m p => max m p.due) cyc
  let c := c.landAll cyc (last + 1 - cyc)
  let rlast := c.rowPend.foldl (fun m p => max m p.due) cyc
  (List.range (rlast + 1 - cyc)).foldl (fun c k => c.applyRows (cyc + k)) c

/-- A result that becomes readable `lat` cycles from now. -/
def State.pushResult (s : State) (lat : Nat) (d : Dest) : State :=
  s.onCore fun c => { c with pend := c.pend ++ [{ due := s.cycle + lat, dest := d }] }

/-- A fixed-latency scalar result (R31). -/
def State.writeX (s : State) (r : XReg) (w : Word) (lat : Nat) : State := s.pushResult lat (.x r w)

/-- A fixed-latency vector result with its tag (R32). -/
def State.writeV (s : State) (r : VCode) (d : Vec) (t : Tag) (lat : Nat) : State := s.pushResult lat (.v r d t)

/-- A mask result. -/
def State.writeM (s : State) (r : BitVec 3) (w : Mask) (lat : Nat) : State := s.pushResult lat (.m r w)

/-- Flags raised when the result becomes readable (R46). -/
def State.raiseFlags (s : State) (f : FlagSet) (lat : Nat) : State :=
  if f = 0 then s else s.pushResult lat (.flagsRaise f)

/-- Whether a result on its way writes a scalar, or a vector, register. -/
def Pend.hitsX (r : XReg) (p : Pend) : Bool := match p.dest with | .x q _ => q = r | _ => false
def Pend.hitsV (r : VCode) (p : Pend) : Bool := match p.dest with | .v q _ _ => q = r | _ => false

/-- The register of an arrival, by the numbers of R316. -/
def Arrival.reg : Arrival → Nat
  | .x r _ => r.toNat
  | .v r _ _ => 64 + r.toNat

/-- A producer issues: the value log expects its value, but in a re-run (R326). -/
def Core.logIssue (c : Core) (reg cyc : Nat) : Core :=
  if c.recover.isSome then c else { c with valueLog := c.valueLog ++ [{ reg, issue := cyc }] }

/-- A value is delivered: the first entry that expects one for its register receives it, with its delay from issue. -/
def logFill (a : Arrival) (cyc : Nat) : List LogVal → List LogVal
  | [] => []
  | e :: t =>
    if e.reg = Arrival.reg a ∧ e.value.isNone then
      let v : Vec × Tag := match a with | .x _ w => (w.zeroExtend 4096, 0) | .v _ d t => (d, t)
      { e with value := some (v.1, v.2, cyc - e.issue) } :: t
    else e :: logFill a cyc t

/-- The place of a superseded producer in the value log: no value is delivered for it. -/
def noReg : Nat := 128

/-- The value log expects nothing for a register any more (R36). -/
def logForget (reg : Nat) (l : List LogVal) : List LogVal :=
  l.map fun e => if e.reg = reg ∧ e.value.isNone then { e with reg := noReg } else e

/-- The value log holds 1,024 values (R326). -/
def Core.valuesFull (c : Core) : Bool := decide (1024 < (c.valueLog.filter fun e => e.reg ≠ noReg).length)

/-- A variable-latency producer of a scalar register (R33): the register empties, earlier writes to it are discarded
(R36), and the value arrives at a cycle. -/
def State.produceX (s : State) (r : XReg) (w : Word) (due : Nat) : State :=
  (s.onCore fun c =>
    { c.logIssue r.toNat s.cycle with
      arch := c.arch.markX r (r = 0), pend := c.pend.filter fun p => !p.hitsX r, varOut := c.varOut + 1 }).sched
    due ptLand (.valueArrives s.core.id (.x r w))

/-- A variable-latency producer of a vector register (R89). -/
def State.produceV (s : State) (r : VCode) (d : Vec) (t : Tag) (due : Nat) : State :=
  (s.onCore fun c =>
    { c.logIssue (64 + r.toNat) s.cycle with
      arch := c.arch.markV r false, pend := c.pend.filter fun p => !p.hitsV r, varOut := c.varOut + 1 }).sched
    due ptLand (.valueArrives s.core.id (.v r d t))

/-- Whether an arrival, or the result of a fixed write, is for the register of an arrival. -/
def Arrival.sameReg : Arrival → Arrival → Bool
  | .x r _, .x q _ => r = q
  | .v r _ _, .v q _ _ => r = q
  | _, _ => false
def Dest.forReg : Arrival → Dest → Bool
  | .x r _, .x q _ => r = q
  | .v r _ _, .v q _ _ => r = q
  | _, _ => false

/-- The values that arrive on a core at the start of a cycle. -/
def State.arriving (s : State) (i : Nat) : List Arrival :=
  s.agenda.filterMap fun e => match e.2 with
    | .valueArrives k a => if k = i ∧ e.1 ≤ s.cycle * 16 + ptLand then some a else none
    | _ => none

/-- An earlier producer of a scalar register, in the same group, is superseded: its value is never delivered (R36). -/
def State.supersedeX (s : State) (r : XReg) : State :=
  if s.core.arch.fullX r then s
  else
    let mine := fun e => match e with | Instr.valueArrives k (.x q _) => k == s.core.id && q == r | _ => false
    let c := s.core
    let n := (s.agenda.filter fun e => mine e.2).length + (c.lzresOut.count r) + (c.gkickOut.count r) +
      (c.mwaits.filter fun w => w.1 = r).length
    (s.unsched mine).onCore fun c =>
      { c with varOut := c.varOut - n, valueLog := logForget r.toNat c.valueLog, lzresOut := c.lzresOut.erase r, gkickOut := c.gkickOut.erase r,
               physOut := c.physOut.erase r, mwaits := c.mwaits.filter fun w => w.1 ≠ r }

/-- The same for a vector register. -/
def State.supersedeV (s : State) (r : VCode) : State :=
  if s.core.arch.fullV r then s
  else
    let mine := fun e => match e with | Instr.valueArrives k (.v q _ _) => k == s.core.id && q == r | _ => false
    let n := (s.agenda.filter fun e => mine e.2).length
    (s.unsched mine).onCore fun c => { c with varOut := c.varOut - n, valueLog := logForget (64 + r.toNat) c.valueLog }

/-- A scalar register empties; its value is still to be computed elsewhere (a grant, a kick status). -/
def State.awaitX (s : State) (r : XReg) : State :=
  s.onCore fun c =>
    { c.logIssue r.toNat s.cycle with
      arch := c.arch.markX r (r = 0), pend := c.pend.filter fun p => !p.hitsX r, varOut := c.varOut + 1 }

/-! ### Addresses of instructions (R16, R17) -/

/-- The address of a word index. -/
def addrOf (w : Nat) : Nat := w / 3 * 4 + w % 3

/-- The word index of an address; none when its low bits are 0b11. -/
def indexOf (a : Nat) : Option Nat := if a % 4 = 3 then none else some (a / 4 * 3 + a % 4)

/-! ### Faults (R314, R315, R339) -/

/-- A field placed in the fault record. -/
def place (lo n v : Nat) : Nat := v % 2 ^ n * 2 ^ lo

/-- The fault record (R315). -/
def faultRecord (c : Core) (cyc : Nat) (f : Raise) (pc npc wpos : Nat) : BitVec 512 :=
  BitVec.ofNat 512 <|
    place 448 64 f.aux.toNat + place 384 64 f.info.toNat + place 320 64 cyc + place 304 16 c.tk.rid +
    place 288 16 c.tk.node + place 256 32 c.tk.tile + place 224 32 npc + place 192 32 pc + place 28 4 c.phase +
    place 21 7 (c.arch.vfmt.toNat / 2 ^ 8) + place 14 7 c.arch.flags.toNat + place 8 4 wpos + f.cause.toNat

/-- Lovage is called to a core that has stopped, or that waits for an object (R186, R292): once the package is ready, it
answers after a free time. -/
def State.callLovage (s : State) (i : Nat) : State :=
  let coming := s.agenda.any fun e => match e.2 with | .missingObjectResolved k => k = i | _ => false
  if s.power = .ready && !coming then s.schedFree .lovage 1 ptEnd (.missingObjectResolved i) else s

/-- The package fault queue holds each core at most once (R317). -/
def queueFault (q : List Nat) (i : Nat) : List Nat := if i ∈ q then q else q ++ [i]

/-- Halting with a record at a group (R314): no later group issues, the queue names the core, source 0 pends. -/
def State.halt (s : State) (f : Raise) (pc npc wpos : Nat) : State :=
  let s := s.onCore fun c =>
    { c with state := .halted, frec := faultRecord c s.cycle f pc npc wpos, raised := some f, taken := none,
             loopsNext := none, vout := none, arch := { c.arch with pc := BitVec.ofNat 64 pc } }
  ({ s with faultQ := queueFault s.faultQ s.core.id }.sysPend 0).callLovage s.core.id

/-! ### Uncorrectable data consumed (R326, R328) -/

/-- Undo of logged rows, from the last entry back (R326): those that `p` selects are put back and leave the log. -/
def Core.undoRows (c : Core) (p : RowLog → Bool) : Core :=
  let c' := (c.rowLog.filter p).foldl (fun c e => c.putRow e.row e.old) c
  { c' with rowLog := c.rowLog.filter fun e => !p e }

/-- The row log holds 2,048 rows (R326). -/
def Core.logFull (c : Core) : Bool := decide (2048 < c.rowLog.length)

/-- Rows of a checkpoint whose writes were still on their way when it was taken (R61). -/
def Core.putLate (c : Core) (l : List (Nat × Row)) : Core := l.foldl (fun c p => c.writeRow .core p.1 p.2) c

/-- A step that belongs to commands of a core's task in flight. -/
def Instr.ofCommand (c : Nat) : Instr → Bool
  | .resultRowPush k _ _ | .heldRowEntersQueue k _ | .weightLoadComplete k _ | .mtilePassStart k
  | .waveletCommandWrite k | .channelCommandStart k _ _ | .fetchRowWritten k _ _ _ | .fetchCommandComplete k _
  | .copyCommandComplete k _ | .clzComplete k _ | .streamVectorFetched k _ | .rowUndelivered k _
  | .phaseInputFetch k _ | .phaseStart k | .resolutionComplete k | .syncRequestAccepted k => k = c
  | _ => false

/-- The arrival of a value for a register that a restored state holds full. -/
def Instr.staleArrival (c : Nat) (a : Arch) : Instr → Bool
  | .valueArrives k (.x r _) => k = c && a.fullX r
  | .valueArrives k (.v r _ _) => k = c && a.fullV r
  | _ => false

/-- Every command of a core's task in flight is discarded, and its registers return to a checkpoint. Streams keep their state, and
their walkers go on (R324). -/
def State.discardCommands (s : State) (i : Nat) (a : Arch) : State :=
  let walks (e : Instr) : Bool := match e with | .streamVectorFetched _ _ => true | _ => false
  let s := s.unsched fun e => (Instr.ofCommand i e && !walks e) || Instr.staleArrival i a e
  let waits := (s.agenda.filter fun e => match e.2 with | .valueArrives k _ => k = i | _ => false).length
  let free (c : Chan) : Chan := { c with queue := [] }
  s.modCore i fun c =>
    { c with arch := a, pend := [], rowPend := [], mcmds := [], wloads := [], mtile := none, wave := none,
             pushHeld := [], mwaits := [],
             fe := c.fe.map free, cp := c.cp.map free, taken := none, loopsNext := none, vout := none, resolved := false,
             accepted := none, asking := none, ovf := none, fetching := false, varOut := waits,
             lzresOut := c.lzresOut.filter fun r => !a.fullX r, gkickOut := c.gkickOut.filter fun r => !a.fullX r }

/-- The cancellation of the core's phase (R328): its rows and registers return to the phase start, its inputs are fetched
again, and it restarts. A fourth cancellation, or one without the row log, halts the core with cause 0x18. -/
def State.consumeBad (s : State) (pa : Word) : State :=
  let c := s.core
  let f : Raise := ⟨0x18, pa, c.prestart.zeroExtend 64⟩
  if 3 ≤ c.prestart.toNat || c.logLost || c.logFull then
    (s.halt f (addrOf c.gstart) (addrOf c.gend) c.wpos).onCore fun c => { c with waiting := false }
  else
    let s := (s.discardCommands c.id c.phaseCk).onCore fun c =>
      { (c.undoRows fun _ => true).putLate c.phaseLate with
        ckpt := c.phaseCk, ckptLate := c.phaseLate, inPhase := c.phase, waiting := true, inputsIn := [], inputErr := none, ending := false,
        prestart := c.prestart + 1, valueLog := [], raised := some f }
    s.sched s.cycle ptEnd (.phaseInputFetch c.id 0)

/-- A trap on a system core (R339): SEPC, SCAUSE and SINFO are written, PIE := IE, IE := 0, and the group at SVEC issues
3 cycles later; with IE at 0 the core halts. DEDUCED: notes/assumptions/46.md. -/
def State.trap (s : State) (cause : BitVec 8) (info : Word) (pc : Nat) : State :=
  s.onCore fun c =>
    let c := { c with taken := none, loopsNext := none, vout := none, wfi := false }
    if c.sstat.getLsbD 0 then
      { c with sepc := BitVec.ofNat 64 pc, scause := cause.zeroExtend 64, sinfo := info, sstat := 2,
               arch := { c.arch with pc := c.svec }, issueAt := s.cycle + 3 }
    else { c with state := .halted, arch := { c.arch with pc := BitVec.ofNat 64 pc } }

/-- Taking a fault at the group now at issue, at its word `wpos`: a compute core halts with its record, a system core
traps (R314, R339), and uncorrectable data that it consumes cancels its phase (R328). The one operation that every precise
fault goes through. -/
def State.takeFault (s : State) (f : Raise) : State :=
  if s.core.isSys then
    (s.trap f.cause f.info (addrOf s.core.gstart)).onCore fun c => { c with raised := some f }
  else if f.cause = 0x18 then s.consumeBad f.info
  else s.halt f (addrOf s.core.gstart) (addrOf s.core.gend) s.core.wpos

/-- A word raises a fault with INFO and AUX (R316). -/
def State.fault (s : State) (cause : BitVec 8) (info aux : Word := 0) : State := s.takeFault ⟨cause, info, aux⟩

/-- The return from a trap (R339): PC := SEPC and IE := PIE, with the timing of a taken branch. PIE keeps its value. -/
def State.returnTrap (s : State) : State :=
  s.onCore fun c =>
    { c with taken := some c.sepc, sstat := (c.sstat &&& 2) ||| (if c.sstat.getLsbD 1 then 1 else 0) }

/-- The word at issue, as INFO of causes 0x01 and 0x03 (R316). -/
def State.wordInfo (s : State) : Word :=
  ((s.core.text[s.core.gstart + s.core.wpos]?).getD 0).zeroExtend 64

/-- Illegal instruction (R29, R316). -/
def State.illegal (s : State) : State := s.fault 0x01 s.wordInfo

/-- A word of classes 0..2 and 14: an operand value that the word may not hold is an illegal instruction. -/
def State.word (s : State) (i : Instr) (k : State → State) : Host.Outcome State Fault Refusal :=
  .next (if i.wf then k s else s.illegal)

/-- A word that system cores lack: classes 3..13, and the words that R417 names. -/
def State.computeWord (s : State) (i : Instr) (k : State → State) : Host.Outcome State Fault Refusal :=
  .next (if i.wf && !s.core.isSys then k s else s.illegal)

/-- A privileged word (R29, R334): on a compute core, cause 0x03. -/
def State.systemWord (s : State) (i : Instr) (k : State → State) : Host.Outcome State Fault Refusal :=
  .next (if !i.wf then s.illegal else if s.core.isSys then k s else s.fault 0x03 s.wordInfo)

/-- A step of a unit or an input from outside: it never faults by itself. DEDUCED: notes/assumptions/39.md. -/
def State.event (s : State) (k : State → State) : Host.Outcome State Fault Refusal := .next (k s)

/-- The L2 of a core's die holds every new request (R272). -/
def State.l2Holds (s : State) (core : Nat) : Bool := decide (s.cycle < (vget s.dies (core / 32) {}).holdTo)

/-- Steps of operations that had begun before a FABRIC_LEAVE still reach the packages that it leaves (R376). -/
def State.underWay (s : State) (k : State → α × State) : α × State :=
  if s.leaving.isEmpty then k s
  else
    let (a, t) := k { s with members := s.members ++ s.leaving }
    (a, { t with members := t.members.filter fun m => !s.leaving.contains m })

/-- A step of a core's engines that makes a request of the die's L2: while that holds new requests, the step waits (R272). -/
def State.memoryEvent (s : State) (core : Nat) (i : Instr) (k : State → State) : Host.Outcome State Fault Refusal :=
  .next (if s.l2Holds core then s.sched (vget s.dies (core / 32) {}).holdTo (s.clock % 16) i else (s.underWay fun s => ((), k s)).2)

/-- Adds to a meter of the task's partition (R356, R357): the report is made within the cycle. DESIGN CHOICE: notes/assumptions/42.md. -/
def State.meter (s : State) (idx n : Nat) : State :=
  match s.core.task with
  | none => s
  | some t => if n = 0 then s else s.sched s.cycle ptEnd (.meterAdd t.part t.rid idx n)

/-- Privileged instruction (R29). -/
def State.privileged (s : State) : State := s.fault 0x03 s.wordInfo

/-! ### Transfers of control (R55..R58) -/

/-- The word index of the word at issue. -/
def State.widx (s : State) : Nat := s.core.gstart + s.core.wpos

/-- The target of a relative transfer, as an address; a negative word index is outside every text (R17). -/
def relTarget (w : Nat) (off : Int) : Word :=
  let t : Int := (w : Int) + off
  if t < 0 then BitVec.ofInt 64 (t / 3 * 4 + t % 3) else BitVec.ofNat 64 (addrOf t.toNat)

/-- A taken transfer to an address, popping loop entries that do not hold the target when `pops` (R58). -/
def popLoops (t : Nat) : List LoopEntry → List LoopEntry
  | [] => []
  | e :: l => if e.start ≤ t ∧ t < e.exit then e :: l else popLoops t l

def State.transfer (s : State) (target : Word) (pops : Bool) : State :=
  s.onCore fun c =>
    { c with taken := some target,
             loopsNext :=
               if pops then some (match indexOf target.toNat with | some t => popLoops t c.arch.loops | none => [])
               else c.loopsNext }

/-! ### Checkpoints (R61, R324..R326) -/

/-- Physical rows that results on their way will write. -/
def Core.lateRows (c : Core) : List Nat :=
  ((c.rowPend.map fun w => w.row) ++ c.pend.filterMap fun p => match p.dest with
    | .carveX o _ => some (c.carveRow (o / 64))
    | .carveV n _ => some (c.carveRow n)
    | _ => none).eraseDups

/-- A checkpoint at the present point, everything issued treated as landed: the checkpoint names the group that follows
(`pc`). -/
def Core.checkpoint (c : Core) (cyc : Nat) (pc : Word) : Core :=
  let full := c.logFull
  let landed := c.settled cyc
  { c with
    ckpt := { landed.arch with pc := pc }
    ckptLate := c.lateRows.map fun p => (p, landed.physRow p)
    ckpts := min 65535 (c.ckpts + 1)
    interval := c.interval + 1
    groups := 0
    valueLog := []
    rowLog := if full then [] else c.rowLog
    logLost := c.logLost || full }

/-- The rows of the current interval that the core, its matrix or its wavelet engine wrote return (R326). -/
def RowLog.ofInterval (n : Nat) (e : RowLog) : Bool := e.interval = n && e.writer ≠ .fetch

end Sys2Proof.Machine
end

