-- ==== Sys2Proof/Machine/Operands.lean ====
section
/-! DEFINITION. Operand forms: format and trap fields of VFMT and MFMT (R44, R45), element formats (R62), vector sources
with stream pops (R27, R92, R243), domain tags (R93..R95), the lane operations of stages A, B and C (R97, R102), masks
and merges (R91), row addresses (R116), spill tiers (R122). -/

namespace Sys2Proof.Machine

open Sys2Proof

/-! ### VFMT and MFMT -/

/-- VFMT.FTZ, VFMT.TE (R44). -/
def vfFtz (w : Word) : Bool := w.getLsbD 4
def vfTe (w : Word) : BitVec 7 := w.extractLsb' 8 7

/-- The codes that `setfmt` accepts (R44). -/
def vfmtOk (w : Word) : Bool :=
  w.extractLsb' 15 49 == 0 && w.extractLsb' 5 3 == 0 && decide ((w.extractLsb' 0 4).toNat ≤ 10)

/-- The fields of MFMT (R45). -/
def mfAf (w : Word) : Nat := (w.extractLsb' 0 4).toNat
def mfBf (w : Word) : Nat := (w.extractLsb' 4 4).toNat
def mfAcc (w : Word) : Bool := w.getLsbD 8
def mfAw (w : Word) : Bool := w.getLsbD 9
def mfAs (w : Word) : Bool := w.getLsbD 10
def mfBw (w : Word) : Bool := w.getLsbD 11
def mfBs (w : Word) : Bool := w.getLsbD 12
def mfRsub (w : Word) : BitVec 2 := w.extractLsb' 13 2

/-- The codes that `setmfmt` accepts (R45). -/
def mfmtOk (w : Word) : Bool :=
  w.extractLsb' 15 49 == 0 && mfRsub w != 3 && decide (mfAf w ≤ 6) && decide (mfBf w ≤ 6) &&
  (mfAf w == 6 || (!mfAw w && !mfAs w)) && (mfBf w == 6 || (!mfBw w && !mfBs w)) &&
  !(mfAw w && !mfAs w) && !(mfBw w && !mfBs w)

/-! ### Element formats -/

/-- A vector element format: a binary floating-point format, or an integer of a width, signed or natural (R62). -/
inductive EFmt where
  | fp (f : FF)
  | int (w : Nat) (signed : Bool)
  deriving DecidableEq, Repr

/-- The element format of an EF code (R44, R62); none for a reserved code. -/
def efOf : Nat → Option EFmt
  | 0 => some (.fp .f32) | 1 => some (.fp .f16) | 2 => some (.fp .bf16) | 3 => some (.fp .e4m3) | 4 => some (.fp .e5m2)
  | 5 => some (.int 32 true) | 6 => some (.int 32 false) | 7 => some (.int 16 true) | 8 => some (.int 16 false)
  | 9 => some (.int 8 true) | 10 => some (.int 8 false)
  | _ => none

def EFmt.width : EFmt → Nat
  | .fp f => f.width
  | .int w _ => w

def EFmt.isFp : EFmt → Bool
  | .fp _ => true
  | .int _ _ => false

/-- The range of an integer format (R81). -/
def intLo (w : Nat) (signed : Bool) : Int := if signed then -(2 ^ (w - 1) : Nat) else 0
def intHi (w : Nat) (signed : Bool) : Int := if signed then (2 ^ (w - 1) : Nat) - 1 else (2 ^ w : Nat) - 1

/-- The element format in force (R38, R44). -/
def State.ef (s : State) : EFmt := (efOf (s.core.arch.vfmt.extractLsb' 0 4).toNat).getD (.fp .f32)

/-- The rounding of vector and scalar arithmetic: nearest even, FTZ as it governs (R67, R69). -/
def State.rmode (s : State) : RMode := { ftz := vfFtz s.core.arch.vfmt }

/-- Delayed lockstep in force (R90). -/
def State.lock (s : State) : Bool := s.core.tk.lock

/-- Element positions of the visible vector (R88, R90). -/
def State.visible (s : State) (w : Nat) : Nat := if s.lock then 2048 / w else 4096 / w

/-- Conversion of a pattern between element formats (R72..R74). DESIGN CHOICE: an INT32 or NAT32 value of magnitude 65,505 to 65,519
rounds to 65,504 in FP16 with NX, by the test of R68 after rounding, where R74's sentence calls every magnitude above 65,504 an
overflow (notes/assumptions/48.md). -/
def convert (a b : EFmt) (r : RMode) (p : Nat) : Nat × FlagSet :=
  match a, b with
  | .fp f, .fp g =>
    let (w, fl) := g.roundV r (f.read r.ftz p)
    (w, fl)
  | .fp f, .int w sg =>
    let (v, fl) := (f.read r.ftz p).toInt r.rz (intLo w sg) (intHi w sg)
    (patOfInt w v, fl)
  | .int w sg, .fp g => g.roundV r (FV.ofInt (intOfPat w sg p))
  | .int w sg, .int w' sg' =>
    let (v, fl) := satInt (intLo w' sg') (intHi w' sg') (intOfPat w sg p)
    (patOfInt w' v, fl)

/-- Conversion of an exact integer to an element format (R106). -/
def ofIntE (e : EFmt) (v : Int) : Nat × FlagSet :=
  match e with
  | .fp f => f.roundV {} (FV.ofInt v)
  | .int w sg =>
    let (v, fl) := satInt (intLo w sg) (intHi w sg) v
    (patOfInt w v, fl)

/-! ### Domain tags (R93..R95) -/

def tagS : Tag := 0
def tagC : Tag := 1
def tagX : Tag := 15

/-- H1..H7. -/
def Tag.isH (t : Tag) : Bool := decide (2 ≤ t.toNat) && decide (t.toNat ≤ 8)

/-- X, or a reserved value, which an operation reads as X (R93). -/
def Tag.isX (t : Tag) : Bool := decide (9 ≤ t.toNat)

/-- S when either operand is S, C otherwise (R94, plain). -/
def plainTag (a b : Tag) : Tag := if a = tagS || b = tagS then tagS else tagC

/-- The kinds of operation that R94 lists. -/
inductive TKind where
  | additive | multiplicative | sign | nonlinear | movement
  deriving DecidableEq, Repr

/-- The tag of a binary operation; none where R94 forbids the combination or an operand is X (R95). -/
def combine (k : TKind) (a b : Tag) : Option Tag :=
  if Tag.isX a || Tag.isX b then none
  else if !Tag.isH a && !Tag.isH b then some (plainTag a b)
  else match k with
    | .additive => if a = b then some a else none
    | .multiplicative =>
      if Tag.isH a && b = tagC then some a else if Tag.isH b && a = tagC then some b else none
    | _ => none

/-- The tag of a unary operation. -/
def unaryTag (k : TKind) (a : Tag) : Option Tag :=
  match k with
  | .movement => some a
  | .sign => if Tag.isX a then none else some a
  | _ => if Tag.isX a || Tag.isH a then none else some a

/-- The operand that a domain fault names: the first whose tag is X or reserved, else the first with an H tag. -/
def badOperand (ops : List (Nat × Tag)) : Nat × Tag :=
  match ops.find? fun p => Tag.isX p.2 with
  | some p => p
  | none => (ops.find? fun p => Tag.isH p.2).getD (0, 0)

/-- INFO of a domain fault: the operand's field code and its tag (R316). -/
def domainInfo (p : Nat × Tag) : Word := BitVec.ofNat 64 (p.1 % 256 + 256 * p.2.toNat)

/-- A domain fault over these operands (R93). -/
def State.domain (s : State) (ops : List (Nat × Tag)) : State := s.fault 0x05 (domainInfo (badOperand ops))

/-- An H operand under a format other than FP32, FP16, BF16 (R95). -/
def hFormatBad (e : EFmt) (t : Tag) : Bool :=
  Tag.isH t && !(e == .fp .f32 || e == .fp .f16 || e == .fp .bf16)

/-! ### Vector sources and streams (R27, R92, R241..R243) -/

/-- A vector source as read: data, tag, the flags that a pop raises, and why a pop fails. -/
structure VIn where
  data : Vec := 0
  tag  : Tag := 0
  flags : FlagSet := 0
  err  : Option Raise := none
  deriving DecidableEq, Repr

/-- The tag that a stream's binding gives its vectors: TAG of fe.9 (R224, R241). -/
def VStream.tag (st : VStream) : Tag := if st.stg[9].getLsbD 12 then tagC else tagS

/-- Removes the oldest vector of a stream. A pop of an unbound or finished stream underflows; an error of the next
vector's fetch is its cause (R243). The vector that is not there counts as C in the tag checks, which rank before. DESIGN CHOICE:
notes/assumptions/52.md. -/
def VStream.pop (st : VStream) (n : Nat) : VIn × VStream :=
  match st.buf with
  | v :: rest => ({ data := v.data, tag := v.tag, flags := v.flags }, { st with buf := rest, popped := st.popped + 1 })
  | [] =>
    match st.err with
    | some f => ({ tag := tagC, err := some f }, st)
    | none => ({ tag := tagC, err := some ⟨0x07, BitVec.ofNat 64 (8 + n), 0⟩ }, st)

/-- Reads a vector source field, popping a stream (R92). A walker whose buffer was full goes on to fetch (R241). -/
def State.readSrc (s : State) (r : VCode) : VIn × State :=
  if r.toNat < 56 then
    let v := s.getV r
    ({ data := v.data, tag := v.tag }, s)
  else
    let n := (r.toNat - 56) % 8
    let st := vget s.core.streams n {}
    let (v, st') := st.pop n
    let s' := s.onCore fun c => { c with streams := vset c.streams n st' }
    if st.buf.length = 4 && st.next < st.total && st.err.isNone then
      (v, s'.schedFree .stream 1 ptPush (.streamVectorFetched s.core.id n))
    else (v, s')

/-- The first pop that fails among the sources of a word: its cause. -/
def VIn.firstErr (l : List VIn) : Option Raise := l.findSome? (·.err)

/-! ### Lane operations (R97, R102) -/

/-- The operations that act position by position with a fixed meaning in every format. -/
inductive LaneOp where
  | add | sub | mul | fma | fms | min | max | abs | neg | and | or | xor | shl | shr | sra | adds | subs | mulh
  | absd | clamp | mov
  deriving DecidableEq, Repr

/-- Integer maximum and minimum on patterns. -/
def intMax (w : Nat) (sg : Bool) (a b : Nat) : Nat := if intOfPat w sg a < intOfPat w sg b then b else a
def intMin (w : Nat) (sg : Bool) (a b : Nat) : Nat := if intOfPat w sg b < intOfPat w sg a then b else a

/-- One position of an integer operation: operands a and b, old destination d (R97). -/
def intLane (w : Nat) (sg : Bool) (op : LaneOp) (a b d : Nat) : Nat × FlagSet :=
  let m := 2 ^ w
  let va := intOfPat w sg a
  let vb := intOfPat w sg b
  match op with
  | .add => ((a + b) % m, 0)
  | .sub => ((a + m - b % m) % m, 0)
  | .mul => (a * b % m, 0)
  | .fma => ((a * b + d) % m, 0)
  | .fms => ((d + m - a * b % m) % m, 0)
  | .min => (intMin w sg a b, 0)
  | .max => (intMax w sg a b, 0)
  | .abs => (patOfInt w va.natAbs, 0)
  | .neg => ((m - a % m) % m, 0)
  | .and => (a &&& b, 0)
  | .or => (a ||| b, 0)
  | .xor => (a ^^^ b, 0)
  | .shl => (if w ≤ b then 0 else a * 2 ^ b % m, 0)
  | .shr => (if w ≤ b then 0 else a / 2 ^ b, 0)
  | .sra =>
    let n := if w ≤ b then w else b
    (patOfInt w (intOfPat w true a / (2 ^ n : Nat)), 0)
  | .adds => let (v, f) := satInt (intLo w sg) (intHi w sg) (va + vb); (patOfInt w v, f)
  | .subs => let (v, f) := satInt (intLo w sg) (intHi w sg) (va - vb); (patOfInt w v, f)
  | .mulh => (patOfInt w (va * vb / (m : Int)), 0)
  | .absd => ((va - vb).natAbs % m, 0)
  | .clamp => (intMin w sg (intMax w sg a d) b, 0)
  | .mov => (a, 0)

/-- One position of a floating-point operation (R97). The bitwise and shift operations act on the patterns; the integer
operations have no floating-point form (`laneOk`). -/
def fpLane (f : FF) (r : RMode) (op : LaneOp) (a b d : Nat) : Nat × FlagSet :=
  match op with
  | .add => f.add r a b
  | .sub => f.sub r a b
  | .mul => f.mul r a b
  | .fma => f.fma r a b d
  | .fms => f.finish r (FV.fma (f.read r.ftz a).neg (f.read r.ftz b) (f.read r.ftz d))
  | .min => (f.minmax r.ftz false a b, 0)
  | .max => (f.minmax r.ftz true a b, 0)
  | .abs => (a % 2 ^ (f.width - 1), 0)
  | .neg => (a ^^^ 2 ^ (f.width - 1), 0)
  | .absd =>
    let (w, fl) := f.sub r a b
    (w % 2 ^ (f.width - 1), fl)
  | .clamp => (f.minmax r.ftz false (f.minmax r.ftz true a d) b, 0)
  | op => intLane f.width true op a b d

/-- One position (R97). -/
def lane (e : EFmt) (r : RMode) (op : LaneOp) (a b d : Nat) : Nat × FlagSet :=
  match e with
  | .fp f => fpLane f r op a b d
  | .int w sg => intLane w sg op a b d

/-- Operations restricted to integer formats (R97). -/
def laneOk (e : EFmt) (op : LaneOp) : Bool :=
  !(e.isFp && (op == .adds || op == .subs || op == .mulh))

/-- A vector as lists of patterns combined position by position. -/
def zip3 (f : Nat → Nat → Nat → Nat × FlagSet) : List Nat → List Nat → List Nat → List (Nat × FlagSet)
  | a :: as, b :: bs, d :: ds => f a b d :: zip3 f as bs ds
  | _, _, _ => []

/-- The OR of the flags of the positions that a mask and the visible vector select (R90, R91). -/
def orFlags (m : Mask) (vis : Nat) (l : List (Nat × FlagSet)) : FlagSet :=
  ((List.range vis).zip l).foldl (fun acc p => if m.getLsbD p.1 then acc ||| p.2.2 else acc) 0

/-- The result where the mask bit is 1, the old value elsewhere (R91, R103). -/
def mergeElems (m : Mask) (new old : List Nat) : List Nat :=
  ((List.range new.length).zip (new.zip old)).map fun p => if m.getLsbD p.1 then p.2.1 else p.2.2

/-- Merge of whole vectors at element width w. -/
def mergeVec (w : Nat) (m : Mask) (new old : Vec) : Vec := ofElems w (mergeElems m (elems w new) (elems w old))

/-- Latency of stage A (R37): 3 for FP add, subtract, multiply, fused and difference forms, 2 otherwise. DESIGN CHOICE: `vabs` and
`vneg` under floating-point formats, which no row of R37 names, take 2 (notes/assumptions/48.md). -/
def laneLat (e : EFmt) (op : LaneOp) : Nat :=
  match op with
  | .add | .sub | .mul | .fma | .fms | .absd => if e.isFp then 3 else 2
  | _ => 2

/-- The tag kinds of the operations (R94). -/
def laneKind : LaneOp → TKind
  | .add | .sub => .additive
  | .mul => .multiplicative
  | .neg => .sign
  | .mov => .movement
  | _ => .nonlinear

/-! ### Vector results and the cascade (R103) -/

/-- A vector word's result: it lands after `lat` cycles with its tag and flags, and a class-4 word after it may take it
further. `t` is the unmerged stage result. DESIGN CHOICE: under a merge the result's tag is the plain combination of R91 with the old
destination's also for a `vmov` of a source tagged X, though R95 has movements carry X unchanged (notes/assumptions/48.md). -/
def State.vecResult (s : State) (v : VecOut) (w : Nat) : State :=
  let d := if v.merge then mergeVec w v.mask v.t v.old.data else v.t
  let tag := if v.merge then plainTag v.tag v.old.tag else v.tag
  let n := s.core.pend.length
  let s := (s.writeV v.d d tag v.lat).raiseFlags v.flags v.lat
  s.onCore fun c => { c with vout := some { v with ops := c.pend.length - n } }

/-! ### Row addresses and spill tiers -/

/-- The byte address of a row form: xa + off10 · 512, off10 signed, modulo 2^64 (R116). -/
def rowAddr (xa : Word) (off : BitVec 10) : Word := xa + (sext64 off <<< 9)

/-- The row number of an address (R116). -/
def rowNum (a : Word) : Nat := a.toNat / 512

/-- Where a spill access goes (R122). -/
inductive SpillTier where
  | spill (i : Nat)
  | carve (i : Nat)
  | overflow (i : Nat)
  deriving DecidableEq, Repr

/-- The tier of a scalar offset: carve-out words count from carve-out row 0. -/
def spillTierX (carve o : Nat) : SpillTier :=
  if o < 4096 then .spill o else if o < 4096 + 64 * carve then .carve (o - 4096) else .overflow o

/-- The tier of a vector slot: carve-out rows count from its last row downward. -/
def spillTierV (carve k : Nat) : SpillTier :=
  if k < 64 then .spill k else if k < 64 + carve then .carve (carve - 1 - (k - 64)) else .overflow k

end Sys2Proof.Machine
end

