-- ==== Sys2Proof/Machine/Flow.lean ====
section
/-! DEFINITION. Class 2 less the task-flow words: branches, calls, returns and the hardware loop (R55..R58). A transfer
stands in the core until the end of the group; every other word of the group takes full effect. -/

namespace Sys2Proof.Machine

open Sys2Proof

/-- A conditional transfer: taken, it pops the loop entries that do not hold its target (R58). DEDUCED: notes/assumptions/18.md. -/
def State.branchIf (s : State) (c : Bool) (off : Int) : State :=
  if c then s.transfer (relTarget s.widx off) true else s

/-- A transfer to an address in a register; an address that names no word is an illegal instruction (R17). -/
def State.jumpTo (s : State) (a : Word) : State :=
  if a.toNat % 4 = 3 then s.illegal else s.transfer a true

/-- `br` (R55). -/
def execBr (o : BitVec 23) (s : State) : Host.Outcome State Fault Refusal :=
  .next (s.branchIf true o.toInt)

/-- `call` (R56): x63 receives the address of the word after the group; no loop entry is popped. -/
def execCall (o : BitVec 23) (s : State) : Host.Outcome State Fault Refusal :=
  .next ((s.writeX 63 (BitVec.ofNat 64 (addrOf s.core.gend)) 1).transfer (relTarget s.widx o.toInt) false)

/-- `beq` (R55). -/
def execBeq (a b : XReg) (o : BitVec 11) (s : State) : Host.Outcome State Fault Refusal :=
  .next (s.branchIf (s.getX a == s.getX b) o.toInt)

/-- `bne` (R55). -/
def execBne (a b : XReg) (o : BitVec 11) (s : State) : Host.Outcome State Fault Refusal :=
  .next (s.branchIf (s.getX a != s.getX b) o.toInt)

/-- `blt` (R55). -/
def execBlt (a b : XReg) (o : BitVec 11) (s : State) : Host.Outcome State Fault Refusal :=
  .next (s.branchIf ((s.getX a).slt (s.getX b)) o.toInt)

/-- `bge` (R55). -/
def execBge (a b : XReg) (o : BitVec 11) (s : State) : Host.Outcome State Fault Refusal :=
  .next (s.branchIf (!(s.getX a).slt (s.getX b)) o.toInt)

/-- `bltn` (R55). -/
def execBltn (a b : XReg) (o : BitVec 11) (s : State) : Host.Outcome State Fault Refusal :=
  .next (s.branchIf ((s.getX a).ult (s.getX b)) o.toInt)

/-- `bgen` (R55). -/
def execBgen (a b : XReg) (o : BitVec 11) (s : State) : Host.Outcome State Fault Refusal :=
  .next (s.branchIf (!(s.getX a).ult (s.getX b)) o.toInt)

/-- `bz` (R55). -/
def execBz (a : XReg) (o : BitVec 17) (s : State) : Host.Outcome State Fault Refusal :=
  .next (s.branchIf (s.getX a == 0) o.toInt)

/-- `bnz` (R55). -/
def execBnz (a : XReg) (o : BitVec 17) (s : State) : Host.Outcome State Fault Refusal :=
  .next (s.branchIf (s.getX a != 0) o.toInt)

/-- `jr` (R55). -/
def execJr (a : XReg) (s : State) : Host.Outcome State Fault Refusal := .next (s.jumpTo (s.getX a))

/-- `ret` (R56): reads x63. -/
def execRet (s : State) : Host.Outcome State Fault Refusal := .next (s.jumpTo (s.getX 63))

/-- `loop` (R57): a zero count skips the body with the timing of a taken branch. -/
def execLoop (a : XReg) (o : BitVec 17) (s : State) : Host.Outcome State Fault Refusal :=
  let exit : Int := (s.widx : Int) + o.toInt
  let start := s.core.gend
  .next (if exit ≤ (start : Int) then s.illegal
    else if s.getX a = 0 then s.transfer (relTarget s.widx o.toInt) false
    else if 4 ≤ s.core.arch.loops.length then s.illegal
    else s.onCore fun c =>
      { c with loopsNext := some ({ start := start, exit := exit.toNat, count := (s.getX a).toNat } :: c.arch.loops) })

/-- The end of a body: entries whose exit is the word after the group count down; one with iterations left sends control
back to its start (R57). -/
def closeLoops (gend : Nat) : List LoopEntry → Option Nat × List LoopEntry
  | [] => (none, [])
  | e :: l =>
    if e.exit = gend then
      if 1 < e.count then (some e.start, { e with count := e.count - 1 } :: l) else closeLoops gend l
    else (none, e :: l)

end Sys2Proof.Machine
end

