-- ==== Sys2Proof/Machine/Scalar.lean ====
section
/-! DEFINITION. Classes 0 and 1: register operations, immediates, control registers, staging and set instructions
(R41..R54, R417). Each word reads its sources as they stand at issue; results land after the latency of R37. -/

namespace Sys2Proof.Machine

open Sys2Proof

/-! ### Integer and bit operations (R50, R51) -/

/-- The shift count, and the width field, of a second operand. -/
def shCount (b : Word) : Nat := b.toNat % 64
def fieldWidth (b : Word) : Nat := b.toNat / 256 % 64 + 1

/-- Bits 127:64 of the signed or unsigned 128-bit product. -/
def mulHigh (a b : Word) : Word := BitVec.ofInt 64 (a.toInt * b.toInt / (2 ^ 64 : Nat))
def mulHighN (a b : Word) : Word := BitVec.ofNat 64 (a.toNat * b.toNat / 2 ^ 64)

/-- Counts of leading zeros, trailing zeros and one bits. -/
def countLeading (a : Word) : Word := if a = 0 then 64 else BitVec.ofNat 64 (63 - Nat.log2 a.toNat)
def countTrailing (a : Word) : Word := BitVec.ofNat 64 (((List.range 64).find? a.getLsbD).getD 64)
def countOnes (a : Word) : Word := BitVec.ofNat 64 (((List.range 64).filter a.getLsbD).length)

/-- a[n:0] sign-extended from bit n. -/
def signExtendFrom (a : Word) (n : Nat) : Word := (a <<< (63 - n)).sshiftRight (63 - n)

/-- The low `w` bits set. -/
def onesLow (w : Nat) : Word := BitVec.ofNat 64 (2 ^ w - 1)

/-- The field of `bext` and the insertion of `bins`. -/
def bitExtract (a b : Word) : Word := (a >>> shCount b) &&& onesLow (fieldWidth b)
def bitInsert (old a b : Word) : Word :=
  let mask := onesLow (fieldWidth b) <<< shCount b
  (old &&& ~~~mask) ||| ((a <<< shCount b) &&& mask)

/-- Quotient truncated toward zero; all ones for a zero divisor (R51). -/
def quotS (a b : Word) : Word := if b = 0 then BitVec.allOnes 64 else BitVec.ofInt 64 (a.toInt.tdiv b.toInt)
def quotN (a b : Word) : Word := if b = 0 then BitVec.allOnes 64 else BitVec.ofNat 64 (a.toNat / b.toNat)
def remS (a b : Word) : Word := if b = 0 then a else BitVec.ofInt 64 (a.toInt.tmod b.toInt)
def remN (a b : Word) : Word := if b = 0 then a else BitVec.ofNat 64 (a.toNat % b.toNat)

/-- Latency of the divide family, from the magnitude of the exact truncated quotient: 12 + 4 · (k − 1) (R51). -/
def divLatency (q : Nat) : Nat := 12 + 4 * (max 1 (((if q = 0 then 0 else Nat.log2 q + 1) + 7) / 8) - 1)
def divLatS (a b : Word) : Nat := if b = 0 then 12 else divLatency (a.toInt.tdiv b.toInt).natAbs
def divLatN (a b : Word) : Nat := if b = 0 then 12 else divLatency (a.toNat / b.toNat)

/-- A word of the divide family (R33, R51): the destination empties; a zero divisor sets DZ when the result arrives. -/
def State.divWord (s : State) (d : XReg) (b w : Word) (lat : Nat) : State :=
  (s.raiseFlags (if b = 0 then flagDZ else 0) lat).produceX d w (s.cycle + lat)

/-- A scalar FP32 result: zero-extended, latency 3, with its flags (R52). -/
def State.fpWord (s : State) (d : XReg) (r : Nat × FlagSet) : State :=
  (s.writeX d (BitVec.ofNat 64 r.1) 3).raiseFlags r.2 3

/-- The FP32 pattern in a register's low half (R52). -/
def fp32Of (w : Word) : Nat := w.toNat % 2 ^ 32

/-- Conversion to INT64 (R52): a magnitude of 2^63 or more saturates with IS. -/
def cvtInt64 (v : FV) : Word × FlagSet :=
  match v with
  | .nan => (0, flagCN)
  | .inf neg => (if neg then BitVec.ofNat 64 (2 ^ 63) else BitVec.ofNat 64 (2 ^ 63 - 1), flagIS)
  | .fin neg m e =>
    let (n, ix) := shiftRound true m e false 0
    if 2 ^ 63 ≤ n then (if neg then BitVec.ofNat 64 (2 ^ 63) else BitVec.ofNat 64 (2 ^ 63 - 1), flagIS)
    else (BitVec.ofInt 64 (if neg then -(n : Int) else n), if ix then flagNX else 0)

/-- `add` (R50). -/
def execAdd (d a b : XReg) (_ea _eb : Bool) (s : State) : Host.Outcome State Fault Refusal :=
  .next (s.writeX d (s.getX a + s.getX b) 1)

/-- `sub` (R50). -/
def execSub (d a b : XReg) (_ea _eb : Bool) (s : State) : Host.Outcome State Fault Refusal :=
  .next (s.writeX d (s.getX a - s.getX b) 1)

/-- `and` (R50). -/
def execAnd (d a b : XReg) (_ea _eb : Bool) (s : State) : Host.Outcome State Fault Refusal :=
  .next (s.writeX d (s.getX a &&& s.getX b) 1)

/-- `or` (R50). -/
def execOr (d a b : XReg) (_ea _eb : Bool) (s : State) : Host.Outcome State Fault Refusal :=
  .next (s.writeX d (s.getX a ||| s.getX b) 1)

/-- `xor` (R50). -/
def execXor (d a b : XReg) (_ea _eb : Bool) (s : State) : Host.Outcome State Fault Refusal :=
  .next (s.writeX d (s.getX a ^^^ s.getX b) 1)

/-- `andn` (R50). -/
def execAndn (d a b : XReg) (_ea _eb : Bool) (s : State) : Host.Outcome State Fault Refusal :=
  .next (s.writeX d (s.getX a &&& ~~~(s.getX b)) 1)

/-- `shl` (R50). -/
def execShl (d a b : XReg) (_ea _eb : Bool) (s : State) : Host.Outcome State Fault Refusal :=
  .next (s.writeX d (s.getX a <<< shCount (s.getX b)) 1)

/-- `shr` (R50). -/
def execShr (d a b : XReg) (_ea _eb : Bool) (s : State) : Host.Outcome State Fault Refusal :=
  .next (s.writeX d (s.getX a >>> shCount (s.getX b)) 1)

/-- `sra` (R50). -/
def execSra (d a b : XReg) (_ea _eb : Bool) (s : State) : Host.Outcome State Fault Refusal :=
  .next (s.writeX d ((s.getX a).sshiftRight (shCount (s.getX b))) 1)

/-- `rol` (R50). -/
def execRol (d a b : XReg) (_ea _eb : Bool) (s : State) : Host.Outcome State Fault Refusal :=
  .next (s.writeX d ((s.getX a).rotateLeft (shCount (s.getX b))) 1)

/-- `mul` (R50). -/
def execMul (d a b : XReg) (_ea _eb : Bool) (s : State) : Host.Outcome State Fault Refusal :=
  .next (s.writeX d (s.getX a * s.getX b) 3)

/-- `mulh` (R50). -/
def execMulh (d a b : XReg) (_ea _eb : Bool) (s : State) : Host.Outcome State Fault Refusal :=
  .next (s.writeX d (mulHigh (s.getX a) (s.getX b)) 3)

/-- `mulhn` (R50). -/
def execMulhn (d a b : XReg) (_ea _eb : Bool) (s : State) : Host.Outcome State Fault Refusal :=
  .next (s.writeX d (mulHighN (s.getX a) (s.getX b)) 3)

/-- `div` (R50, R51). -/
def execDiv (d a b : XReg) (_ea _eb : Bool) (s : State) : Host.Outcome State Fault Refusal :=
  .next (s.divWord d (s.getX b) (quotS (s.getX a) (s.getX b)) (divLatS (s.getX a) (s.getX b)))

/-- `divn` (R50, R51). -/
def execDivn (d a b : XReg) (_ea _eb : Bool) (s : State) : Host.Outcome State Fault Refusal :=
  .next (s.divWord d (s.getX b) (quotN (s.getX a) (s.getX b)) (divLatN (s.getX a) (s.getX b)))

/-- `rem` (R50, R51). -/
def execRem (d a b : XReg) (_ea _eb : Bool) (s : State) : Host.Outcome State Fault Refusal :=
  .next (s.divWord d (s.getX b) (remS (s.getX a) (s.getX b)) (divLatS (s.getX a) (s.getX b)))

/-- `remn` (R50, R51). -/
def execRemn (d a b : XReg) (_ea _eb : Bool) (s : State) : Host.Outcome State Fault Refusal :=
  .next (s.divWord d (s.getX b) (remN (s.getX a) (s.getX b)) (divLatN (s.getX a) (s.getX b)))

/-- `min` (R50). -/
def execMin (d a b : XReg) (_ea _eb : Bool) (s : State) : Host.Outcome State Fault Refusal :=
  .next (s.writeX d (if (s.getX a).slt (s.getX b) then s.getX a else s.getX b) 1)

/-- `max` (R50). -/
def execMax (d a b : XReg) (_ea _eb : Bool) (s : State) : Host.Outcome State Fault Refusal :=
  .next (s.writeX d (if (s.getX a).slt (s.getX b) then s.getX b else s.getX a) 1)

/-- `minn` (R50). -/
def execMinn (d a b : XReg) (_ea _eb : Bool) (s : State) : Host.Outcome State Fault Refusal :=
  .next (s.writeX d (if s.getX a < s.getX b then s.getX a else s.getX b) 1)

/-- `maxn` (R50). -/
def execMaxn (d a b : XReg) (_ea _eb : Bool) (s : State) : Host.Outcome State Fault Refusal :=
  .next (s.writeX d (if s.getX a < s.getX b then s.getX b else s.getX a) 1)

/-- `slt` (R50). -/
def execSlt (d a b : XReg) (_ea _eb : Bool) (s : State) : Host.Outcome State Fault Refusal :=
  .next (s.writeX d (bool64 ((s.getX a).slt (s.getX b))) 1)

/-- `sltn` (R50). -/
def execSltn (d a b : XReg) (_ea _eb : Bool) (s : State) : Host.Outcome State Fault Refusal :=
  .next (s.writeX d (bool64 ((s.getX a).ult (s.getX b))) 1)

/-- `seq` (R50). -/
def execSeq (d a b : XReg) (_ea _eb : Bool) (s : State) : Host.Outcome State Fault Refusal :=
  .next (s.writeX d (bool64 (s.getX a == s.getX b)) 1)

/-- `clz` (R50). -/
def execClz (d a : XReg) (_ea : Bool) (s : State) : Host.Outcome State Fault Refusal :=
  .next (s.writeX d (countLeading (s.getX a)) 1)

/-- `ctz` (R50). -/
def execCtz (d a : XReg) (_ea : Bool) (s : State) : Host.Outcome State Fault Refusal :=
  .next (s.writeX d (countTrailing (s.getX a)) 1)

/-- `popc` (R50). -/
def execPopc (d a : XReg) (_ea : Bool) (s : State) : Host.Outcome State Fault Refusal :=
  .next (s.writeX d (countOnes (s.getX a)) 1)

/-- `sext` (R50). -/
def execSext (d a b : XReg) (_ea _eb : Bool) (s : State) : Host.Outcome State Fault Refusal :=
  .next (s.writeX d (signExtendFrom (s.getX a) (shCount (s.getX b))) 1)

/-- `bext` (R50). -/
def execBext (d a b : XReg) (_ea _eb : Bool) (s : State) : Host.Outcome State Fault Refusal :=
  .next (s.writeX d (bitExtract (s.getX a) (s.getX b)) 1)

/-- `bins` (R50). -/
def execBins (d a b : XReg) (_ea _eb : Bool) (s : State) : Host.Outcome State Fault Refusal :=
  .next (s.writeX d (bitInsert (s.getX d) (s.getX a) (s.getX b)) 1)

/-- `fset` (R50): the destination receives FLAGS as it stands; the bits of a are set from the next cycle. -/
def execFset (d a : XReg) (_ea : Bool) (s : State) : Host.Outcome State Fault Refusal :=
  .next ((s.writeX d (s.core.arch.flags.zeroExtend 64) 1).pushResult 1 (.flagsOr ((s.getX a).truncate 7)))

/-- `fclr` (R50). -/
def execFclr (d a : XReg) (_ea : Bool) (s : State) : Host.Outcome State Fault Refusal :=
  .next ((s.writeX d (s.core.arch.flags.zeroExtend 64) 1).pushResult 1 (.flagsClr ((s.getX a).truncate 7)))

/-! ### Scalar FP32 (R52) -/

/-- `fadd` (R52). -/
def execFadd (d a b : XReg) (_ea _eb : Bool) (s : State) : Host.Outcome State Fault Refusal :=
  .next (s.fpWord d (FF.f32.add s.rmode (fp32Of (s.getX a)) (fp32Of (s.getX b))))

/-- `fsub` (R52). -/
def execFsub (d a b : XReg) (_ea _eb : Bool) (s : State) : Host.Outcome State Fault Refusal :=
  .next (s.fpWord d (FF.f32.sub s.rmode (fp32Of (s.getX a)) (fp32Of (s.getX b))))

/-- `fmul` (R52). -/
def execFmul (d a b : XReg) (_ea _eb : Bool) (s : State) : Host.Outcome State Fault Refusal :=
  .next (s.fpWord d (FF.f32.mul s.rmode (fp32Of (s.getX a)) (fp32Of (s.getX b))))

/-- `fmin` (R52). -/
def execFmin (d a b : XReg) (_ea _eb : Bool) (s : State) : Host.Outcome State Fault Refusal :=
  .next (s.fpWord d (FF.f32.minmax s.rmode.ftz false (fp32Of (s.getX a)) (fp32Of (s.getX b)), 0))

/-- `fmax` (R52). -/
def execFmax (d a b : XReg) (_ea _eb : Bool) (s : State) : Host.Outcome State Fault Refusal :=
  .next (s.fpWord d (FF.f32.minmax s.rmode.ftz true (fp32Of (s.getX a)) (fp32Of (s.getX b)), 0))

/-- `fcvti` (R52). -/
def execFcvti (d a : XReg) (_ea : Bool) (s : State) : Host.Outcome State Fault Refusal :=
  let r := cvtInt64 (FF.f32.read s.rmode.ftz (fp32Of (s.getX a)))
  .next ((s.writeX d r.1 3).raiseFlags r.2 3)

/-- `icvtf` (R52). -/
def execIcvtf (d a : XReg) (_ea : Bool) (s : State) : Host.Outcome State Fault Refusal :=
  .next (s.fpWord d (FF.f32.roundV s.rmode (FV.ofInt (s.getX a).toInt)))

/-! ### Immediates (R53) -/

/-- `addi` (R53). -/
def execAddi (d a : XReg) (i : BitVec 10) (s : State) : Host.Outcome State Fault Refusal :=
  .next (s.writeX d (s.getX a + sext64 i) 1)

/-- `andi` (R53). -/
def execAndi (d a : XReg) (i : BitVec 10) (s : State) : Host.Outcome State Fault Refusal :=
  .next (s.writeX d (s.getX a &&& i.zeroExtend 64) 1)

/-- `ori` (R53). -/
def execOri (d a : XReg) (i : BitVec 10) (s : State) : Host.Outcome State Fault Refusal :=
  .next (s.writeX d (s.getX a ||| i.zeroExtend 64) 1)

/-- `xori` (R53). -/
def execXori (d a : XReg) (i : BitVec 10) (s : State) : Host.Outcome State Fault Refusal :=
  .next (s.writeX d (s.getX a ^^^ i.zeroExtend 64) 1)

/-- `slti` (R53). -/
def execSlti (d a : XReg) (i : BitVec 10) (s : State) : Host.Outcome State Fault Refusal :=
  .next (s.writeX d (bool64 ((s.getX a).slt (sext64 i))) 1)

/-- `sltni` (R53). -/
def execSltni (d a : XReg) (i : BitVec 10) (s : State) : Host.Outcome State Fault Refusal :=
  .next (s.writeX d (bool64 ((s.getX a).ult (i.zeroExtend 64))) 1)

/-- `shli` (R53). -/
def execShli (d a n : XReg) (s : State) : Host.Outcome State Fault Refusal :=
  .next (s.writeX d (s.getX a <<< n.toNat) 1)

/-- `shri` (R53). -/
def execShri (d a n : XReg) (s : State) : Host.Outcome State Fault Refusal :=
  .next (s.writeX d (s.getX a >>> n.toNat) 1)

/-- `srai` (R53). -/
def execSrai (d a n : XReg) (s : State) : Host.Outcome State Fault Refusal :=
  .next (s.writeX d ((s.getX a).sshiftRight n.toNat) 1)

/-- `lis` (R53). -/
def execLis (d : XReg) (i : BitVec 16) (s : State) : Host.Outcome State Fault Refusal :=
  .next (s.writeX d (sext64 i) 1)

/-- `lih` (R53: reads its destination as a source). -/
def execLih (d : XReg) (i : BitVec 16) (s : State) : Host.Outcome State Fault Refusal :=
  .next (s.writeX d ((s.getX d <<< 16) ||| i.zeroExtend 64) 1)

/-! ### Control registers (R42, R43, R417) -/

/-- Busy bits (R47): commands of earlier cycles that have not completed. -/
def Chan.busy (c : Chan) (cyc : Nat) : Bool := c.queue.any fun q => decide (q.issue < cyc)
def chanBits (p : Chan → Bool) (v : Vector Chan 16) : Nat :=
  packNat 1 (v.toList.map fun c => if p c then 1 else 0)

/-- CHBUSY (R47). DESIGN CHOICE: MXB still reads 1 in the cycle in which the last `mmul`, `mtile` or `mdrain` completes, whose
entries leave at the end of that cycle, and reads 0 in the cycle in which a weight load completes (notes/assumptions/47.md). -/
def Core.chbusy (c : Core) (cyc : Nat) : Word :=
  let mx := c.mcmds.any (fun m => decide (m.start < cyc)) || c.wloads.any (fun w => decide (w.issue < cyc))
  let wv := match c.wave with | some w => decide (w.s < cyc) | none => false
  BitVec.ofNat 64 (chanBits (·.busy cyc) c.fe + 2 ^ 16 * chanBits (·.busy cyc) c.cp +
    (if mx then 2 ^ 32 else 0) + (if wv then 2 ^ 33 else 0))

/-- CHERR (R47). -/
def Core.cherr (c : Core) : Word := BitVec.ofNat 64 (chanBits (·.err) c.fe + 2 ^ 16 * chanBits (·.err) c.cp)

/-- CHBUSY and CHERR as the group at issue sees them: no engine word of its own counts (R43). -/
def Core.seen (c : Core) (cyc : Nat) : Word × Word := c.chView.getD (c.chbusy cyc, c.cherr)

/-- A control register as it stands at issue (R42, R43). -/
def State.readCr (s : State) (n : Nat) : Word :=
  let c := s.core
  if n = 0 then c.arch.vfmt
  else if n = 1 then c.arch.mfmt
  else if 8 ≤ n ∧ n ≤ 15 then (vget c.arch.wth (n - 8) 0).zeroExtend 64
  else if n = 0x10 then c.arch.flags.zeroExtend 64
  else if 0x18 ≤ n ∧ n ≤ 0x1A then BitVec.ofNat 64 (vget c.tk.tc (n - 0x18) 0)
  else if n = 0x1C then BitVec.ofNat 64 c.phase
  else if n = 0x1D then BitVec.ofNat 64 c.tk.pgen
  else if n = 0x20 then (if s.lock then 64 else 128)
  else if n = 0x21 then BitVec.ofNat 64 c.id
  else if n = 0x22 then BitVec.ofNat 64 (c.ltime % 2 ^ 40)
  else if n = 0x23 then BitVec.ofNat 64 c.arch.tcyc
  else if n = 0x24 then c.arch.ovfptr
  else if n = 0x28 then (c.seen s.cycle).1
  else if n = 0x29 then (c.seen s.cycle).2
  else if n = 0x2A then BitVec.ofNat 64 c.arch.loops.length
  else if n = 0x2B then (match c.arch.loops with | e :: _ => BitVec.ofNat 64 e.count | [] => 0)
  else vget c.tk.params (n - 0x40) 0

/-- The control registers that exist on a system core (R417). -/
def sysCr (n : Nat) : Bool := n == 0 || n == 0x10 || n == 0x21

/-- Values of LTIME and TCYC are logged for a re-run (R327). -/
def State.logTime (s : State) (n : Nat) (w : Word) : State :=
  if (n = 0x22 ∨ n = 0x23) ∧ s.core.recover.isNone then
    s.onCore fun c => { c with valueLog := c.valueLog ++ [{ reg := 0, issue := s.cycle, value := some (w.zeroExtend 4096, 0, 1) }] }
  else s

/-- `mfcr` (R43). -/
def execMfcr (d : XReg) (n : BitVec 10) (s : State) : Host.Outcome State Fault Refusal :=
  s.word (.mfcr d n) fun s =>
    if s.core.isSys && !sysCr n.toNat then s.illegal
    else (s.writeX d (s.readCr n.toNat) 1).logTime n.toNat (s.readCr n.toNat)

/-- `mtcr` (R43): FLAGS[6:0] or OVFPTR, from the next cycle. -/
def execMtcr (a : XReg) (n : BitVec 10) (s : State) : Host.Outcome State Fault Refusal :=
  s.word (.mtcr a n) fun s =>
    if n.toNat = 0x10 then s.pushResult 1 (.flagsSet ((s.getX a).truncate 7))
    else if s.core.isSys then s.illegal
    else s.pushResult 1 (.ovfptr (s.getX a))

/-! ### Staging registers and set instructions (R38, R48, R54) -/

/-- `stg` (R48). -/
def execStg (a : XReg) (e : BitVec 3) (x : BitVec 4) (s : State) : Host.Outcome State Fault Refusal :=
  s.computeWord (.stg a e x) fun s => s.pushResult 1 (.stg e x (s.getX a))

/-- A staging register as it stands (R39). -/
def Arch.getStg (a : Arch) (e i : Nat) : Word := vget a.stg (e * 16 + i) 0

/-- `ldg` (R48). -/
def execLdg (d : XReg) (e : BitVec 3) (x : BitVec 4) (s : State) : Host.Outcome State Fault Refusal :=
  s.computeWord (.ldg d e x) fun s => s.writeX d (s.core.arch.getStg e.toNat x.toNat) 1

/-- `setfmt` (R54): governs from 4 cycles later (R38). -/
def execSetfmt (a : XReg) (i : BitVec 10) (s : State) : Host.Outcome State Fault Refusal :=
  .next (let val := s.getX a ||| i.zeroExtend 64
    if vfmtOk val then s.pushResult 4 (.vfmt val) else s.illegal)

/-- `setmfmt` (R54). -/
def execSetmfmt (a : XReg) (i : BitVec 10) (s : State) : Host.Outcome State Fault Refusal :=
  s.computeWord (.setmfmt a i) fun s =>
    let val := s.getX a ||| i.zeroExtend 64
    if mfmtOk val then s.pushResult 4 (.mfmt val) else s.illegal

/-- `setthr` (R54): bits 63:32 are ignored. -/
def execSetthr (n a : XReg) (s : State) : Host.Outcome State Fault Refusal :=
  s.computeWord (.setthr n a) fun s => s.pushResult 4 (.wth (n.truncate 3) ((s.getX a).truncate 32))

end Sys2Proof.Machine
end

