-- ==== Sys2Proof/Machine/Vector.lean ====
section
/-! DEFINITION. Class 3, stage A of the vector slots (R96..R100): lane operations under a mask, dot products, compares,
selection and conversion, with their tags (R94, R95), flags and VEC_OPS counts (R420). -/

namespace Sys2Proof.Machine

open Sys2Proof

/-- The bits of a mask that are there: under delayed lockstep those at positions E/2 and above read, and are written, as 0 (R90). -/
def State.shown (s : State) (m : Mask) : Mask :=
  if s.lock then m &&& BitVec.ofNat 512 (2 ^ s.visible s.ef.width - 1) else m

/-- The mask that a class-3 word's mask field selects (R91). -/
def State.maskOf3 (s : State) (m : BitVec 2) : Mask := s.shown (s.getM (m.zeroExtend 3))

/-- Positions among the visible ones whose mask bit is 1. -/
def countMask (m : Mask) (vis : Nat) : Nat := ((List.range vis).filter m.getLsbD).length

/-- The operands of a class-3 word: a, then b where the operation takes one, each a source field or a pop. -/
structure Ops3 where
  a : VIn
  b : VIn
  s : State

/-- Reads the sources in field order (R27). -/
def State.read3 (s : State) (a b : VCode) (two : Bool) : Ops3 :=
  let (va, s) := s.readSrc a
  if two then
    let (vb, s) := s.readSrc b
    { a := va, b := vb, s := s }
  else { a := va, b := {}, s := s }

/-- The operands that a domain fault may name: source fields, and the destination where it is read. -/
def opList (a b d : VCode) (o : Ops3) (two readsD : Bool) (old : VReg) : List (Nat × Tag) :=
  (a.toNat, o.a.tag) :: ((if two then [(b.toNat, o.b.tag)] else []) ++ (if readsD then [(d.toNat, old.tag)] else []))

/-- The checks of R95 on a class-3 word: an H operand in a format without H, and an H operand or an H, X or reserved
destination tag under a merge. -/
def domainBad (e : EFmt) (merge : Bool) (ops : List (Nat × Tag)) (old : Tag) : Bool :=
  ops.any (fun p => hFormatBad e p.2) ||
  (merge && (ops.any (fun p => Tag.isH p.2) || Tag.isH old || Tag.isX old))

/-- The tag of a class-3 operation before a merge (R94): fused forms are a product and then a sum. -/
def laneTag (op : LaneOp) (ta tb td : Tag) : Option Tag :=
  match op with
  | .fma | .fms => (combine .multiplicative ta tb).bind fun t => combine .additive t td
  | .clamp => (combine .nonlinear ta tb).bind fun t => combine .nonlinear t td
  | .abs | .neg | .mov => unaryTag (laneKind op) ta
  | _ => combine (laneKind op) ta tb

/-- The operations that take a second source, and those that read the destination as an operand (R97). -/
def LaneOp.two : LaneOp → Bool
  | .abs | .neg | .mov => false
  | _ => true
def LaneOp.readsD : LaneOp → Bool
  | .fma | .fms | .clamp => true
  | _ => false

/-- A class-3 word that acts position by position (R97, R91, R103). -/
def State.laneWord (s : State) (op : LaneOp) (d a b : VCode) (m : BitVec 2) : State :=
  let e := s.ef
  let w := e.width
  let mask := s.maskOf3 m
  let merge := m != 0
  let old := s.getV d
  let o := s.read3 a b op.two
  let ops := opList a b d o op.two op.readsD old
  if !laneOk e op then s.illegal
  else match laneTag op o.a.tag o.b.tag old.tag with
  | none => s.domain (if merge && !op.readsD then ops ++ [(d.toNat, old.tag)] else ops)
  | some tag =>
    if domainBad e merge ops old.tag then
      s.domain (if merge && !op.readsD then ops ++ [(d.toNat, old.tag)] else ops)
    else match VIn.firstErr [o.a, o.b] with
      | some f => s.takeFault f
      | none =>
        let vis := s.visible w
        let r := zip3 (lane e s.rmode op) (elems w o.a.data) (elems w o.b.data) (elems w old.data)
        let n := countMask mask vis
        (o.s.raiseFlags (o.a.flags ||| o.b.flags) 0).vecResult
          { d := d, t := ofElems w (r.map (·.1)), tag := tag, mask := mask, merge := merge, old := old,
            lat := laneLat e op, flags := orFlags mask vis r, count := n } w
        |>.meter 3 n

/-- `vadd` (R97). -/
def execVadd (d a b : XReg) (m : BitVec 2) (s : State) : Host.Outcome State Fault Refusal :=
  s.computeWord (.vadd d a b m) fun s => s.laneWord .add d a b m

/-- `vsub` (R97). -/
def execVsub (d a b : XReg) (m : BitVec 2) (s : State) : Host.Outcome State Fault Refusal :=
  s.computeWord (.vsub d a b m) fun s => s.laneWord .sub d a b m

/-- `vmul` (R97). -/
def execVmul (d a b : XReg) (m : BitVec 2) (s : State) : Host.Outcome State Fault Refusal :=
  s.computeWord (.vmul d a b m) fun s => s.laneWord .mul d a b m

/-- `vfma` (R97). -/
def execVfma (d a b : XReg) (m : BitVec 2) (s : State) : Host.Outcome State Fault Refusal :=
  s.computeWord (.vfma d a b m) fun s => s.laneWord .fma d a b m

/-- `vfms` (R97). -/
def execVfms (d a b : XReg) (m : BitVec 2) (s : State) : Host.Outcome State Fault Refusal :=
  s.computeWord (.vfms d a b m) fun s => s.laneWord .fms d a b m

/-- `vmin` (R97). -/
def execVmin (d a b : XReg) (m : BitVec 2) (s : State) : Host.Outcome State Fault Refusal :=
  s.computeWord (.vmin d a b m) fun s => s.laneWord .min d a b m

/-- `vmax` (R97). -/
def execVmax (d a b : XReg) (m : BitVec 2) (s : State) : Host.Outcome State Fault Refusal :=
  s.computeWord (.vmax d a b m) fun s => s.laneWord .max d a b m

/-- `vabs` (R97). -/
def execVabs (d a : XReg) (m : BitVec 2) (s : State) : Host.Outcome State Fault Refusal :=
  s.computeWord (.vabs d a m) fun s => s.laneWord .abs d a 0 m

/-- `vneg` (R97). -/
def execVneg (d a : XReg) (m : BitVec 2) (s : State) : Host.Outcome State Fault Refusal :=
  s.computeWord (.vneg d a m) fun s => s.laneWord .neg d a 0 m

/-- `vand` (R97). -/
def execVand (d a b : XReg) (m : BitVec 2) (s : State) : Host.Outcome State Fault Refusal :=
  s.computeWord (.vand d a b m) fun s => s.laneWord .and d a b m

/-- `vor` (R97). -/
def execVor (d a b : XReg) (m : BitVec 2) (s : State) : Host.Outcome State Fault Refusal :=
  s.computeWord (.vor d a b m) fun s => s.laneWord .or d a b m

/-- `vxor` (R97). -/
def execVxor (d a b : XReg) (m : BitVec 2) (s : State) : Host.Outcome State Fault Refusal :=
  s.computeWord (.vxor d a b m) fun s => s.laneWord .xor d a b m

/-- `vshl` (R97). -/
def execVshl (d a b : XReg) (m : BitVec 2) (s : State) : Host.Outcome State Fault Refusal :=
  s.computeWord (.vshl d a b m) fun s => s.laneWord .shl d a b m

/-- `vshr` (R97). -/
def execVshr (d a b : XReg) (m : BitVec 2) (s : State) : Host.Outcome State Fault Refusal :=
  s.computeWord (.vshr d a b m) fun s => s.laneWord .shr d a b m

/-- `vsra` (R97). -/
def execVsra (d a b : XReg) (m : BitVec 2) (s : State) : Host.Outcome State Fault Refusal :=
  s.computeWord (.vsra d a b m) fun s => s.laneWord .sra d a b m

/-- `vadds` (R97). -/
def execVadds (d a b : XReg) (m : BitVec 2) (s : State) : Host.Outcome State Fault Refusal :=
  s.computeWord (.vadds d a b m) fun s => s.laneWord .adds d a b m

/-- `vsubs` (R97). -/
def execVsubs (d a b : XReg) (m : BitVec 2) (s : State) : Host.Outcome State Fault Refusal :=
  s.computeWord (.vsubs d a b m) fun s => s.laneWord .subs d a b m

/-- `vmulh` (R97). -/
def execVmulh (d a b : XReg) (m : BitVec 2) (s : State) : Host.Outcome State Fault Refusal :=
  s.computeWord (.vmulh d a b m) fun s => s.laneWord .mulh d a b m

/-- `vmov` (R97). -/
def execVmov (d a : XReg) (m : BitVec 2) (s : State) : Host.Outcome State Fault Refusal :=
  s.computeWord (.vmov d a m) fun s => s.laneWord .mov d a 0 m

/-- `vabsd` (R97). -/
def execVabsd (d a b : XReg) (m : BitVec 2) (s : State) : Host.Outcome State Fault Refusal :=
  s.computeWord (.vabsd d a b m) fun s => s.laneWord .absd d a b m

/-- `vclamp` (R97). -/
def execVclamp (d a b : XReg) (m : BitVec 2) (s : State) : Host.Outcome State Fault Refusal :=
  s.computeWord (.vclamp d a b m) fun s => s.laneWord .clamp d a b m

/-- The exact sum of values, with IV where it makes a NaN of no NaN (R71). A NaN operand gives a NaN and no flag, also beside a
product 0 · ∞. -/
def exactSum (l : List (FV × FlagSet)) : FV × FlagSet :=
  if l.any (fun p => p.1.isNan && p.2 == 0) then (.nan, 0)
  else l.foldl (fun acc p => let (v, f) := acc.1.add p.1; (v, acc.2 ||| p.2 ||| f)) (.fin true 0 0, 0)

/-- One lane of `vdot4` (R98): four products and the lane, rounded once, or an integer sum modulo 2^32. -/
def dotLane (e : EFmt) (r : RMode) (a b : List Nat) (d : Nat) : Nat × FlagSet :=
  match e with
  | .fp f =>
    let ps := (a.zip b).map fun p => (f.read r.ftz p.1).mul (f.read r.ftz p.2)
    FF.f32.finish r (exactSum (ps ++ [(FF.f32.read r.ftz d, 0)]))
  | .int w sg =>
    let t := ((a.zip b).map fun p => intOfPat w sg p.1 * intOfPat w sg p.2).sum
    (patOfInt 32 (t + (d : Int)), 0)

/-- `vdot4` (R98). -/
def State.dot4 (s : State) (d a b : VCode) (m : BitVec 2) : State :=
  let e := s.ef
  let mask := s.maskOf3 m
  let merge := m != 0
  let old := s.getV d
  let o := s.read3 a b true
  let ops := opList a b d o true true old
  if e.width != 8 then s.illegal
  else match laneTag .fma o.a.tag o.b.tag old.tag with
  | none => s.domain ops
  | some tag =>
    if domainBad e merge ops old.tag then s.domain ops
    else match VIn.firstErr [o.a, o.b] with
      | some f => s.takeFault f
      | none =>
        let lanes := s.visible 32
        let ea := elems 8 o.a.data
        let eb := elems 8 o.b.data
        let r := (List.range 128).map fun l =>
          if mask.getLsbD (4 * l) then dotLane e s.rmode ((ea.drop (4 * l)).take 4) ((eb.drop (4 * l)).take 4) (elem 32 old.data l)
          else (elem 32 old.data l, 0)
        let n := ((List.range lanes).filter fun l => mask.getLsbD (4 * l)).length
        let tag := if merge then plainTag tag old.tag else tag
        ((((o.s.raiseFlags (o.a.flags ||| o.b.flags) 0).writeV d (ofElems 32 (r.map (·.1))) tag 3).raiseFlags
          (((r.take lanes).map (·.2)).foldl (· ||| ·) 0) 3).meter 3 n)

/-- `vdot4` (R98). -/
def execVdot4 (d a b : XReg) (m : BitVec 2) (s : State) : Host.Outcome State Fault Refusal :=
  s.computeWord (.vdot4 d a b m) fun s => s.dot4 d a b m

/-- A compare (R99): mask bits of the visible positions, the old bits kept where the mask field's bit is 0. -/
def State.cmpWord (s : State) (f : EFmt → Bool → Nat → Nat → Bool) (d a b : VCode) (m : BitVec 2) : State :=
  let e := s.ef
  let w := e.width
  let mask := s.maskOf3 m
  let o := s.read3 a b true
  let ops := opList a b d o true false {}
  match combine .nonlinear o.a.tag o.b.tag with
  | none => s.domain ops
  | some _ =>
    match VIn.firstErr [o.a, o.b] with
    | some f => s.takeFault f
    | none =>
      let vis := s.visible w
      let old := s.getM (d.truncate 3)
      let bits := ((List.range vis).zip ((elems w o.a.data).zip (elems w o.b.data))).map fun p =>
        if mask.getLsbD p.1 then f e s.rmode.ftz p.2.1 p.2.2 else old.getLsbD p.1
      ((o.s.raiseFlags (o.a.flags ||| o.b.flags) 0).writeM (d.truncate 3) (maskOf bits) 2).meter 3 (countMask mask vis)

/-- Equality, less, and less or equal in an element format (R99). -/
def eqE (e : EFmt) (ftz : Bool) (a b : Nat) : Bool :=
  match e with | .fp f => f.cmpEq ftz a b | .int _ _ => a == b
def ltE (e : EFmt) (ftz : Bool) (a b : Nat) : Bool :=
  match e with | .fp f => f.cmpLt ftz a b | .int w sg => decide (intOfPat w sg a < intOfPat w sg b)
def leE (e : EFmt) (ftz : Bool) (a b : Nat) : Bool :=
  match e with | .fp f => f.cmpLe ftz a b | .int w sg => decide (intOfPat w sg a ≤ intOfPat w sg b)

/-- `vcmpeq` (R99). -/
def execVcmpeq (d a b : XReg) (m : BitVec 2) (s : State) : Host.Outcome State Fault Refusal :=
  s.computeWord (.vcmpeq d a b m) fun s => s.cmpWord eqE d a b m

/-- `vcmplt` (R99). -/
def execVcmplt (d a b : XReg) (m : BitVec 2) (s : State) : Host.Outcome State Fault Refusal :=
  s.computeWord (.vcmplt d a b m) fun s => s.cmpWord ltE d a b m

/-- `vcmple` (R99). -/
def execVcmple (d a b : XReg) (m : BitVec 2) (s : State) : Host.Outcome State Fault Refusal :=
  s.computeWord (.vcmple d a b m) fun s => s.cmpWord leE d a b m

/-- `vsel` (R99): the mask field selects a or b and merges nothing. DESIGN CHOICE: a class-4 word after it raises the flags of every
position, since its mask field is a selector and no mask (R103 says "positions whose mask bit is 1"; notes/assumptions/48.md). -/
def State.selWord (s : State) (d a b : VCode) (m : BitVec 2) : State :=
  let w := s.ef.width
  let o := s.read3 a b true
  let ops := opList a b d o true false {}
  match combine .nonlinear o.a.tag o.b.tag with
  | none => s.domain ops
  | some tag =>
    match VIn.firstErr [o.a, o.b] with
    | some f => s.takeFault f
    | none =>
      let n := s.visible w
      ((o.s.raiseFlags (o.a.flags ||| o.b.flags) 0).vecResult
        { d := d, t := mergeVec w (s.maskOf3 m) o.a.data o.b.data, tag := tag, mask := BitVec.allOnes 512, merge := false,
          old := {}, lat := 2, flags := 0, count := n } w).meter 3 n

/-- `vsel` (R99). -/
def execVsel (d a b : XReg) (m : BitVec 2) (s : State) : Host.Outcome State Fault Refusal :=
  s.computeWord (.vsel d a b m) fun s => s.selWord d a b m

/-- `vcvt` (R100): field k of the wider width converts the source element at its start; the other bits of a converted
field become 0, an unconverted field keeps the destination's bits. -/
def State.cvtWord (s : State) (d a : VCode) (code : XReg) (m : BitVec 2) : State :=
  let e := s.ef
  match efOf (code.toNat % 16) with
  | none => s.illegal
  | some g =>
    let mask := s.maskOf3 m
    let merge := m != 0
    let old := s.getV d
    let (va, s1) := s.readSrc a
    let ops := [(a.toNat, va.tag)]
    let all := if merge then ops ++ [(d.toNat, old.tag)] else ops
    match unaryTag .nonlinear va.tag with
    | none => s.domain all
    | some tag =>
      if domainBad e merge ops old.tag then s.domain all
      else match va.err with
        | some f => s.takeFault f
        | none =>
          let W := max e.width g.width
          let mode : RMode := { ftz := s.rmode.ftz, rz := code.getLsbD 4, sat := code.getLsbD 5 }
          let r := (List.range (4096 / W)).map fun k =>
            if mask.getLsbD (k * (W / e.width)) then convert e g mode (elem e.width va.data (k * (W / e.width)))
            else (elem W old.data k, 0)
          let vis := s.visible W
          let n := ((List.range vis).filter fun k => mask.getLsbD (k * (W / e.width))).length
          let tag := if merge then plainTag tag old.tag else tag
          ((((s1.raiseFlags va.flags 0).writeV d (ofElems W (r.map (·.1))) tag 3).raiseFlags
            (((r.take vis).map (·.2)).foldl (· ||| ·) 0) 3).meter 3 n)

/-- `vcvt` (R100). -/
def execVcvt (d a b : XReg) (m : BitVec 2) (s : State) : Host.Outcome State Fault Refusal :=
  s.computeWord (.vcvt d a b m) fun s => s.cvtWord d a b m

end Sys2Proof.Machine
end

