-- ==== Sys2Proof/Machine/Lanes5.lean ====
section
/-! DEFINITION. The cascade (class 4, R101..R103) and class 5: scalar operands, permutes, clusters, reductions, single
elements, masks, tags and result-queue pops (R104..R113). -/

namespace Sys2Proof.Machine

open Sys2Proof

/-! ### The cascade -/

/-- The lane operation of a stage code (R102); none for pass. -/
def stageOp (c : BitVec 5) : Option LaneOp :=
  match c.toNat with
  | 1 => some .add | 2 => some .sub | 3 => some .mul | 4 => some .min | 5 => some .max | 6 => some .and | 7 => some .or
  | 8 => some .xor | 9 => some .shl | 10 => some .shr | 11 => some .abs | 12 => some .neg
  | _ => none

/-- A stage's operand: a vector source, or a scalar broadcast with tag C (R101). -/
def State.stageSrc (s : State) (w : Nat) (src : XReg) (scalar : Bool) : VIn × State :=
  if scalar then
    ({ data := ofElems w (List.replicate (4096 / w) ((s.getX src).toNat % 2 ^ w)), tag := tagC }, s)
  else s.readSrc src

/-- The operand of a stage's operation. -/
def State.stageIn (s : State) (op : LaneOp) (src : XReg) (scalar : Bool) : VIn × State :=
  if op.two then s.stageSrc s.ef.width src scalar else ({}, s)

/-- The tag that a stage gives, or its domain fault (R94, R95). -/
def stageTag (e : EFmt) (op : LaneOp) (merge : Bool) (t : Tag) (src : XReg) (o : VIn) : Except Raise Tag :=
  let ops := (0, t) :: (if op.two then [(src.toNat, o.tag)] else [])
  match (if op.two then combine (laneKind op) t o.tag else unaryTag (laneKind op) t) with
  | none => .error ⟨0x05, domainInfo (badOperand ops), 0⟩
  | some tag => if domainBad e merge ops 0 then .error ⟨0x05, domainInfo (badOperand ops), 0⟩ else .ok tag

/-- One stage over an open result (R102, R103): the new result, or the fault that it raises. -/
def State.stage (s : State) (v : VecOut) (code : BitVec 5) (src : XReg) (scalar : Bool) :
    Except Raise (VecOut × State) :=
  match stageOp code with
  | none => .ok (v, s)
  | some op =>
    let e := s.ef
    let w := e.width
    let (o, s') := s.stageIn op src scalar
    match stageTag e op v.merge v.tag src o with
    | .error f => .error f
    | .ok tag =>
      match o.err with
      | some f => .error f
      | none =>
        let vis := s.visible w
        let r := zip3 (lane e s.rmode op) (elems w v.t) (elems w o.data) (elems w v.t)
        .ok ({ v with t := ofElems w (r.map (·.1)), tag := tag, lat := v.lat + 2,
                      flags := v.flags ||| orFlags v.mask vis r },
             (s'.raiseFlags o.flags 0).meter 3 v.count)

/-- The fault of a class-4 word whose stage B has failed: a domain fault of either stage ranks before a pop that fails (R30). -/
def State.stageFault (s : State) (v : VecOut) (p q : BitVec 5) (b c : XReg) (bsw csw : Bool) (f : Raise) : Raise :=
  match stageOp p, stageOp q with
  | some o1, some o2 =>
    let (x, s1) := s.stageIn o1 b bsw
    match stageTag s.ef o1 v.merge v.tag b x with
    | .error d => d
    | .ok t => match stageTag s.ef o2 v.merge t c (s1.stageIn o2 c csw).1 with | .error d => d | .ok _ => f
  | _, _ => f

/-- A class-4 word (R101..R103): the vector word's results are withdrawn, stage B and stage C follow, and the result lands
once, at the end. -/
def State.cascade (s : State) (p q : BitVec 5) (b c : XReg) (bsw csw : Bool) : State :=
  match s.core.vout with
  | none => s.fault 0x02 (BitVec.ofNat 64 (s.core.gend - s.core.gstart))
  | some v =>
    let s := s.onCore fun k => { k with pend := k.pend.take (k.pend.length - v.ops), vout := none }
    match s.stage v p b bsw with
    | .error f => s.takeFault (s.stageFault v p q b c bsw csw f)
    | .ok (v, s1) =>
      match s1.stage v q c csw with
      | .error f => s1.takeFault f
      | .ok (v, s2) => (s2.vecResult v s.ef.width).onCore fun k => { k with vout := none }

/-- `>op src >op src` (R101). -/
def execCascadeExtension (p q : BitVec 5) (b c : XReg) (u v : Bool) (s : State) : Host.Outcome State Fault Refusal :=
  s.computeWord (.cascadeExtension p q b c u v) fun s => s.cascade p q b c u v

/-! ### Scalar operands (R105, R106) -/

/-- The low w bits of a scalar at every position. -/
def splat (w : Nat) (x : Word) : List Nat := List.replicate (4096 / w) (x.toNat % 2 ^ w)

/-- A class-5 result that writes every position of a vector and takes an extension. -/
def State.open5 (s : State) (d : VCode) (r : List (Nat × FlagSet)) (tag : Tag) (lat : Nat) : State :=
  let w := s.ef.width
  let vis := s.visible w
  (s.vecResult { d := d, t := ofElems w (r.map (·.1)), tag := tag, mask := BitVec.allOnes 512, merge := false, old := {},
                 lat := lat, flags := orFlags (BitVec.allOnes 512) vis r, count := vis } w).meter 3 vis

/-- The checks on a single vector operand of class 5: its tag under a kind, H formats, then a failed pop. -/
def State.with5 (s : State) (k : Tag → Option Tag) (a : VCode) (va : VIn) (f : Tag → State) : State :=
  match k va.tag with
  | none => s.domain [(a.toNat, va.tag)]
  | some t =>
    if hFormatBad s.ef va.tag then s.domain [(a.toNat, va.tag)]
    else match va.err with
      | some f => s.takeFault f
      | none => f t

/-- `vbcast` (R105). -/
def execVbcast (d b : XReg) (s : State) : Host.Outcome State Fault Refusal :=
  s.computeWord (.vbcast d b) fun s => s.open5 d ((splat s.ef.width (s.getX b)).map fun x => (x, 0)) tagC 3

/-- `vaddx` and `vmulx` (R105): the scalar counts as C. -/
def State.scalarLane (s : State) (op : LaneOp) (d a : VCode) (b : XReg) : State :=
  let (va, s1) := s.readSrc a
  s.with5 (fun t => combine (laneKind op) t tagC) a va fun t =>
    let w := s.ef.width
    let xs := splat w (s.getX b)
    (s1.raiseFlags va.flags 0).open5 d (zip3 (lane s.ef s.rmode op) (elems w va.data) xs xs) t 3

/-- `vaddx` (R105). -/
def execVaddx (d a b : XReg) (s : State) : Host.Outcome State Fault Refusal :=
  s.computeWord (.vaddx d a b) fun s => s.scalarLane .add d a b

/-- `vmulx` (R105). -/
def execVmulx (d a b : XReg) (s : State) : Host.Outcome State Fault Refusal :=
  s.computeWord (.vmulx d a b) fun s => s.scalarLane .mul d a b

/-- `vfmax` (R105): d := a · s + d, one rounding. -/
def State.scalarFma (s : State) (d a : VCode) (b : XReg) : State :=
  let (va, s1) := s.readSrc a
  let old := s.getV d
  let ops := [(a.toNat, va.tag), (d.toNat, old.tag)]
  match laneTag .fma va.tag tagC old.tag with
  | none => s.domain ops
  | some t =>
    if domainBad s.ef false ops old.tag then s.domain ops
    else match va.err with
      | some f => s.takeFault f
      | none =>
        let w := s.ef.width
        (s1.raiseFlags va.flags 0).open5 d
          (zip3 (lane s.ef s.rmode .fma) (elems w va.data) (splat w (s.getX b)) (elems w old.data)) t 3

/-- `vfmax` (R105). -/
def execVfmax (d a b : XReg) (s : State) : Host.Outcome State Fault Refusal :=
  s.computeWord (.vfmax d a b) fun s => s.scalarFma d a b

/-- `vimm` (R106). -/
def execVimm (d : XReg) (i : BitVec 12) (s : State) : Host.Outcome State Fault Refusal :=
  s.computeWord (.vimm d i) fun s => s.open5 d (List.replicate (4096 / s.ef.width) (ofIntE s.ef i.toInt)) tagC 1

/-- `vidx` (R106): xb + i as INT64, converted at position i. -/
def execVidx (d b : XReg) (s : State) : Host.Outcome State Fault Refusal :=
  s.computeWord (.vidx d b) fun s =>
    s.open5 d ((List.range (4096 / s.ef.width)).map fun k => ofIntE s.ef (s.getX b + BitVec.ofNat 64 k).toInt) tagS 1

/-! ### Movement within and between clusters (R107, R108) -/

/-- A movement of elements: position i of the result is position `f i` of the source; the tag is kept. -/
def State.moveWord (s : State) (d a : VCode) (f : Nat → Nat) (lat : Nat) (va : VIn) (s1 : State) : State :=
  s.with5 (unaryTag .movement) a va fun t =>
    let w := s.ef.width
    let l := elems w va.data
    (s1.raiseFlags va.flags 0).open5 d ((List.range (4096 / w)).map fun i => (l.getD (f i) 0, 0)) t lat

/-- `vperm` (R107): within each cluster, the index operand modulo n selects; an H tag on it faults, X does not. -/
def State.permWord (s : State) (d a b : VCode) : State :=
  let (va, s1) := s.readSrc a
  let (vb, s2) := s1.readSrc b
  let w := s.ef.width
  let n := 512 / w
  if hFormatBad s.ef va.tag then s.domain [(a.toNat, va.tag)]
  else if Tag.isH vb.tag then s.domain [(b.toNat, vb.tag)]
  else match vb.err with
    | some f => if va.err.isSome then s.moveWord d a id 2 va s2 else s.takeFault f
    | none =>
      let ix := elems w vb.data
      s.moveWord d a (fun i => i / n * n + ix.getD i 0 % n) 2 { va with flags := va.flags ||| vb.flags } s2

/-- `vperm` (R107). -/
def execVperm (d a b : XReg) (s : State) : Host.Outcome State Fault Refusal :=
  s.computeWord (.vperm d a b) fun s => s.permWord d a b

/-- `vrot` (R107): position j receives position (j − s) mod n of its cluster. -/
def execVrot (d a b : XReg) (s : State) : Host.Outcome State Fault Refusal :=
  s.computeWord (.vrot d a b) fun s =>
    let (va, s1) := s.readSrc a
    let n := 512 / s.ef.width
    let k := (s.getX b).toNat % n
    s.moveWord d a (fun i => i / n * n + (i % n + n - k) % n) 2 va s1

/-- The cluster that cluster c receives (R108): modulo 8, or modulo 4 under delayed lockstep (R90). -/
def clusterOf (lock : Bool) (x : Word) (c : Nat) : Nat :=
  let k := x.toNat % 8
  let m := if lock then 4 else 8
  let base := if lock then c / 4 * 4 else 0
  if x.getLsbD 3 then base + (c ^^^ k) % m else base + (c + k) % m

/-- `xcl` (R108): whole clusters of 512 bits; no extension. -/
def execXcl (d a b : XReg) (s : State) : Host.Outcome State Fault Refusal :=
  s.computeWord (.xcl d a b) fun s =>
    let (va, s1) := s.readSrc a
    s.with5 (unaryTag .movement) a va fun t =>
      let l := elems 512 va.data
      let r := (List.range 8).map fun c => l.getD (clusterOf s.lock (s.getX b) c) 0
      ((s1.raiseFlags va.flags 0).writeV d (ofElems 512 r) t 4).meter 3 (s.visible s.ef.width)

/-! ### Reductions (R109) -/

/-- One level of the pairwise tree. -/
def pairLevel (f : Nat → Nat → Nat × FlagSet) : List Nat → List Nat × FlagSet
  | a :: b :: t =>
    let (r, g) := f a b
    let (rs, h) := pairLevel f t
    (r :: rs, g ||| h)
  | l => (l, 0)

/-- The tree: `k` levels, lower positions first at every node. -/
def pairTree (f : Nat → Nat → Nat × FlagSet) : Nat → List Nat → Nat × FlagSet
  | 0, l => (l.headD 0, 0)
  | k + 1, l =>
    let (l', g) := pairLevel f l
    let (r, h) := pairTree f k l'
    (r, g ||| h)

/-- A reduction's node operation: add, max or min in the element format. -/
def redOp (e : EFmt) (r : RMode) (op : LaneOp) (a b : Nat) : Nat × FlagSet := lane e r op a b 0

/-- `vred` and `vredmax`: each cluster's elements combine into its position 0; its other positions are 0. -/
def State.redWord (s : State) (op : LaneOp) (d a : VCode) : State :=
  let (va, s1) := s.readSrc a
  let k : TKind := if op = .add then .additive else .nonlinear
  s.with5 (unaryTagAs k) a va fun t =>
    let e := s.ef
    let w := e.width
    let n := 512 / w
    let l := elems w va.data
    let r := (List.range 8).map fun c => pairTree (redOp e s.rmode op) (Nat.log2 n) ((l.drop (c * n)).take n)
    let out := r.flatMap fun p => p.1 :: List.replicate (n - 1) 0
    let fl := ((r.take (if s.lock then 4 else 8)).map (·.2)).foldl (· ||| ·) 0
    (((s1.raiseFlags va.flags 0).writeV d (ofElems w out) t 5).raiseFlags fl 5).meter 3 (s.visible w)
where
  /-- An additive reduction keeps an H tag, the others fault on one (R94, R109). -/
  unaryTagAs (k : TKind) (t : Tag) : Option Tag :=
    match k with
    | .additive => unaryTag .sign t
    | k => unaryTag k t

/-- `vred` (R109). -/
def execVred (d a : XReg) (s : State) : Host.Outcome State Fault Refusal :=
  s.computeWord (.vred d a) fun s => s.redWord .add d a

/-- `vredmax` (R109). -/
def execVredmax (d a : XReg) (s : State) : Host.Outcome State Fault Refusal :=
  s.computeWord (.vredmax d a) fun s => s.redWord .max d a

/-- `xred` (R109): the clusters combine position by position; every cluster receives the result. Under delayed lockstep
the four visible clusters combine. -/
def State.xredWord (s : State) (d a : VCode) (code : Nat) : State :=
  let (va, s1) := s.readSrc a
  let op : LaneOp := if code = 0 then .add else if code = 1 then .max else .min
  s.with5 (State.redWord.unaryTagAs (if code = 0 then .additive else .nonlinear)) a va fun t =>
    let e := s.ef
    let w := e.width
    let n := 512 / w
    let l := elems w va.data
    let cs := if s.lock then 4 else 8
    let r := (List.range n).map fun j =>
      pairTree (redOp e s.rmode op) (if s.lock then 2 else 3) ((List.range cs).map fun c => l.getD (c * n + j) 0)
    let one := r.map (·.1)
    let out := (List.range 8).flatMap fun _ => one
    let fl := (r.map (·.2)).foldl (· ||| ·) 0
    (((s1.raiseFlags va.flags 0).writeV d (ofElems w out) t 8).raiseFlags fl 8).meter 3 (s.visible w)

/-- `xred` (R109). -/
def execXred (d a b : XReg) (s : State) : Host.Outcome State Fault Refusal :=
  s.computeWord (.xred d a b) fun s => s.xredWord d a b.toNat

/-! ### Single elements (R110) -/

/-- `vext` (R110): zero-extended for FP and NAT formats, sign-extended for INT; the tag is not checked. -/
def execVext (d a b : XReg) (s : State) : Host.Outcome State Fault Refusal :=
  s.computeWord (.vext d a b) fun s =>
    let (va, s1) := s.readSrc a
    match va.err with
    | some f => s.takeFault f
    | none =>
      let w := s.ef.width
      let p := elem w va.data ((s.getX b).toNat % s.visible w)
      let v : Int := match s.ef with
        | .int w true => intOfPat w true p
        | _ => p
      (s1.raiseFlags va.flags 0).writeX d (BitVec.ofInt 64 v) 2

/-- `vins` (R110): one position of the destination; the result is tagged S. -/
def execVins (d a b : XReg) (s : State) : Host.Outcome State Fault Refusal :=
  s.computeWord (.vins d a b) fun s =>
    let old := s.getV d
    if Tag.isH old.tag || Tag.isX old.tag then s.domain [(d.toNat, old.tag)]
    else
      let w := s.ef.width
      let i := (s.getX b).toNat % s.visible w
      (s.writeV d (ofElems w ((elems w old.data).set i ((s.getX a).toNat % 2 ^ w))) tagS 2).meter 3 1

/-! ### Masks, tags and pops (R111..R113) -/

/-- A mask as a class-5 word reads it (R90, R91). -/
def State.maskIn (s : State) (r : XReg) : Mask := s.shown (s.getM (r.truncate 3))

/-- `mand` (R111). -/
def execMand (d a b : XReg) (s : State) : Host.Outcome State Fault Refusal :=
  s.computeWord (.mand d a b) fun s => s.writeM (d.truncate 3) (s.maskIn a &&& s.maskIn b) 1

/-- `mor` (R111). -/
def execMor (d a b : XReg) (s : State) : Host.Outcome State Fault Refusal :=
  s.computeWord (.mor d a b) fun s => s.writeM (d.truncate 3) (s.maskIn a ||| s.maskIn b) 1

/-- `mnot` (R111). -/
def execMnot (d a : XReg) (s : State) : Host.Outcome State Fault Refusal :=
  s.computeWord (.mnot d a) fun s => s.writeM (d.truncate 3) (s.shown (~~~(s.maskIn a))) 1

/-- `mpop` (R111): set bits among the visible positions. -/
def execMpop (d a : XReg) (s : State) : Host.Outcome State Fault Refusal :=
  s.computeWord (.mpop d a) fun s =>
    s.writeX d (BitVec.ofNat 64 (countMask (s.maskIn a) (s.visible s.ef.width))) 2

/-- `vtag` (R112): every bit is copied; any source tag is accepted. -/
def execVtag (d a : XReg) (t : BitVec 4) (s : State) : Host.Outcome State Fault Refusal :=
  s.computeWord (.vtag d a t) fun s =>
    let (va, s1) := s.readSrc a
    match va.err with
    | some f => s.takeFault f
    | none => ((s1.raiseFlags va.flags 0).writeV d va.data t 1).meter 3 (s.visible s.ef.width)

/-- `vtagx` (R112). An H operand faults in a format without H tags (R95). DESIGN CHOICE: a reserved tag, 0x9..0xE, which `rtagw` or
`vld` can bring into a register, is written as it stands, and movements keep it; R93 has operations read it as X
(notes/assumptions/48.md). -/
def execVtagx (d a : XReg) (s : State) : Host.Outcome State Fault Refusal :=
  s.computeWord (.vtagx d a) fun s =>
    let (va, s1) := s.readSrc a
    if hFormatBad s.ef va.tag then s.domain [(a.toNat, va.tag)]
    else match va.err with
    | some f => s.takeFault f
    | none => (s1.raiseFlags va.flags 0).writeX d (va.tag.zeroExtend 64) 1

/-- Removal of a result queue's oldest row (R113, R131). A held row whose overflow has been raised enters in the next cycle
(R159). -/
def State.popQueue (s : State) (n : Nat) : Option (Row × State) :=
  match vget s.core.arch.rq n [] with
  | [] => none
  | r :: rest =>
    let s := s.onArch fun a => { a with rq := vset a.rq n rest }
    some (r, if (vget s.core.arch.hold n none).isSome && s.core.ovf.isNone
      then s.sched (s.cycle + 1) ptPush (.heldRowEntersQueue s.core.id (BitVec.ofNat 2 n)) else s)

/-- Queue underflow, 0x07 (R113, R131). -/
def State.underflow (s : State) (n : Nat) : State := s.fault 0x07 (BitVec.ofNat 64 n)

/-- `vpop` (R113): the row's bytes and its stored tag. -/
def execVpop (d a : XReg) (s : State) : Host.Outcome State Fault Refusal :=
  s.computeWord (.vpop d a) fun s =>
    match s.popQueue (a.toNat % 4) with
    | none => s.underflow (a.toNat % 4)
    | some (r, s') => (s'.writeV d r.data r.tag 1).meter 3 (s.visible s.ef.width)

end Sys2Proof.Machine
end

