-- ==== Sys2Proof/Machine/Xts.lean ====
section
/-! DEFINITION. AES-256 and its XTS mode, which every access to memory passes (R345). The spec names the functions; their definitions are
those of FIPS 197 and IEEE 1619 (PRESUMED: notes/assumptions/13.md). A block, a key and a data unit are numbers whose byte i
stands at bits 8i and up. -/

namespace Sys2Proof.Machine

open Sys2Proof

/-! ### AES-256 -/

/-- Multiplication by x, and by a byte of n bits, in GF(2^8). -/
def gfDouble (a : Nat) : Nat := if 128 ≤ a then (2 * a - 256) ^^^ 0x1B else 2 * a

def gfMul (a b : Nat) : Nat → Nat
  | 0 => 0
  | n + 1 => gfDouble (gfMul a (b / 2) n) ^^^ (if b % 2 = 1 then a else 0)

/-- The square n times over, each multiplied into the product: x^254 for n = 7, which is the inverse. -/
def gfSquares (sq acc : Nat) : Nat → Nat
  | 0 => acc
  | n + 1 => gfSquares (gfMul sq sq 8) (gfMul acc sq 8) n

/-- The substitution of a byte: its inverse under the affine map. -/
def sboxOf (x : Nat) : Nat :=
  let i := gfSquares (gfMul x x 8) 1 7
  let rot (n : Nat) : Nat := (i * 2 ^ n) % 256 + i / 2 ^ (8 - n)
  i ^^^ rot 1 ^^^ rot 2 ^^^ rot 3 ^^^ rot 4 ^^^ 0x63

def sbox : List Nat := (List.range 256).map sboxOf
def sboxInv : List Nat := (List.range 256).map fun y => sbox.findIdx (· == y)

/-- Bytes combined one by one. -/
def xorBytes (a b : List Nat) : List Nat := (a.zip b).map fun p => p.1 ^^^ p.2

/-- The n next words of the key schedule, newest first; word i of the schedule comes next. -/
def aesSchedule : Nat → Nat → List (List Nat) → List (List Nat)
  | 0, _, w => w
  | n + 1, i, w =>
    let last := w.headD []
    let sub (l : List Nat) : List Nat := l.map fun b => sbox.getD b 0
    let mixed := if i % 8 = 0 then xorBytes (sub (last.drop 1 ++ last.take 1)) [2 ^ (i / 8 - 1), 0, 0, 0]
      else if i % 8 = 4 then sub last else last
    aesSchedule n (i + 1) (xorBytes (w.getD 7 []) mixed :: w)

/-- The 15 round keys of a 32-byte key. -/
def aesKeys (key : List Nat) : List (List Nat) :=
  let first := (List.range 8).map fun i => (key.drop (4 * i)).take 4
  let words := (aesSchedule 52 8 first.reverse).reverse
  (List.range 15).map fun r => ((words.drop (4 * r)).take 4).flatten

/-- The bytes of a block with row r of its four columns turned by r·k columns. -/
def shiftRows (k : Nat) (b : List Nat) : List Nat := (List.range 16).map fun i => b.getD (i % 4 + 4 * ((i / 4 + k * (i % 4)) % 4)) 0

/-- Every column multiplied by a circulant. -/
def mixColumns (m : List Nat) (b : List Nat) : List Nat :=
  (List.range 16).map fun i =>
    (List.range 4).foldl (fun x j => x ^^^ gfMul (b.getD (i / 4 * 4 + j) 0) (m.getD ((j + 4 - i % 4) % 4) 0) 8) 0

/-- A block of 16 bytes encrypted under round keys, and decrypted. -/
def aesEncrypt (ks : List (List Nat)) (b : List Nat) : List Nat :=
  let sub (b : List Nat) : List Nat := shiftRows 1 (b.map fun x => sbox.getD x 0)
  let b := (List.range 13).foldl (fun b r => xorBytes (mixColumns [2, 3, 1, 1] (sub b)) (ks.getD (r + 1) [])) (xorBytes b (ks.headD []))
  xorBytes (sub b) (ks.getD 14 [])

def aesDecrypt (ks : List (List Nat)) (b : List Nat) : List Nat :=
  let sub (b : List Nat) : List Nat := (shiftRows 3 b).map fun x => sboxInv.getD x 0
  let b := (List.range 13).foldl (fun b r => mixColumns [14, 11, 13, 9] (xorBytes (sub b) (ks.getD (13 - r) []))) (xorBytes b (ks.getD 14 []))
  xorBytes (sub b) (ks.headD [])

/-! ### XTS (R345) -/

/-- n bytes of a number, the lowest first, and their number. -/
def bytesOf (n v : Nat) : List Nat := (List.range n).map fun i => v / 256 ^ i % 256
def numOf (l : List Nat) : Nat := l.foldr (fun b n => b + 256 * n) 0

/-- The multipliers of a data unit's n blocks, from the encrypted tweak on. -/
def xtsTweaks (t : Nat) : Nat → List Nat
  | 0 => []
  | n + 1 => t :: xtsTweaks (if 2 ^ 127 ≤ t then (2 * t - 2 ^ 128) ^^^ 0x87 else 2 * t) n

/-- The 64-byte sector at a physical address's bits [45:6], under a 512-bit key: each block passes `f` between two additions of its
multiplier. The first half of the key is the data key, the second the tweak's. -/
def xtsSector (f : List (List Nat) → List Nat → List Nat) (key : Mask) (sec : Nat) (d : Mask) : Mask :=
  let data := aesKeys (bytesOf 32 key.toNat)
  let t := numOf (aesEncrypt (aesKeys (bytesOf 32 (key.toNat / 2 ^ 256))) (bytesOf 16 (sec % 2 ^ 40)))
  BitVec.ofNat 512 (((xtsTweaks t 4).zipIdx).foldl (fun n p =>
    let block := bytesOf 16 ((d.toNat / 2 ^ (128 * p.2) % 2 ^ 128) ^^^ p.1)
    n + ((numOf (f data block)) ^^^ p.1) * 2 ^ (128 * p.2)) 0)

def xtsEncrypt : Mask → Nat → Mask → Mask := xtsSector aesEncrypt
def xtsDecrypt : Mask → Nat → Mask → Mask := xtsSector aesDecrypt

end Sys2Proof.Machine
end

