-- ==== Sys2Proof/Machine/Mem.lean ====
section
/-! DEFINITION. Memory below the handle unit: physical addresses (R178, R368), stored sectors and their keys (R345,
R346), the controllers with meters and undo log (R332, R356), compressed pages (R286), the directory (R274..R276), the
L2 slices with leases (R267..R270, R282), the memory-side caches (R281, R284), the places where atomics are performed
(R285) and page homes (R279, R280). Each access acts at once; R419 leaves its time free. -/

namespace Sys2Proof.Machine

open Sys2Proof

/-! ### Physical addresses (R178) -/

/-- Key id, space and offset of a 52-bit physical address. -/
def paKey (pa : Nat) : Nat := pa / 2 ^ 46 % 64
def paSpace (pa : Nat) : Nat := pa / 2 ^ 44 % 4
def paOff (pa : Nat) : Nat := pa % 2 ^ 44

/-- The key id of a line, and the stored sector that it names: a line is a physical address, key id included, over 64. -/
def lineKeyId (line : Nat) : Nat := paKey (line * 64)
def lineSector (line : Nat) : Nat := line % 2 ^ 40

/-- The die that attaches HBM stack n (R3). -/
def stackDie (n : Nat) : Nat :=
  if n < 7 then n else if n < 9 then n + 4 else if n = 9 then 17 else n + 8

/-- The home die of a line (R274). -/
def homeDie (line : Nat) : Nat :=
  let off := paOff (line * 64)
  if paSpace (line * 64) = 0 then stackDie (off / 2 ^ 36 % 16) else off / 2 ^ 16 % 24

/-- The compute die of a logical core (R4). -/
def dieOfCore (i : Nat) : Nat := i / 32

/-! ### Stored bytes and keys -/

/-- A byte of memory; an unlisted address reads 0. DEDUCED: notes/assumptions/12.md. -/
def memGet (m : List Host.Cell) (a : Nat) : BitVec 8 := (mget m a).getD 0

/-- A write of one byte; the listing stays canonical. -/
def memPut (m : List Host.Cell) (a : Nat) (b : BitVec 8) : List Host.Cell := dput 0 m a b

/-- Addresses strictly rising, and no entry equal to what an unlisted address reads as. -/
def Memory.wf : List Host.Cell → Bool
  | [] => true
  | [(_, b)] => b != 0
  | (a, b) :: (c, d) :: t => b != 0 && decide (a < c) && Memory.wf ((c, d) :: t)

/-- Whether accesses under a key id are served (R346); key id 0's key is made at boot (R345). -/
def State.keyLive (s : State) (k : Nat) : Bool := k == 0 || mget s.keys k == some .live

/-- The mark of a key id's present key: which load of it is in force. -/
def State.keyTag (s : State) (k : Nat) : Nat := 64 * (mget s.keyLoads k).getD 0 + k + 1

/-- The bytes of a stored sector, and a replacement under a mark. -/
def State.storedSector (s : State) (sec : Nat) : Mask :=
  BitVec.ofNat 512 (packNat 8 ((List.range 64).map fun i => (memGet s.mem (64 * sec + i)).toNat))

def State.putSector (s : State) (sec tag : Nat) (d : Mask) : State :=
  { s with mem := (List.range 64).foldl (fun m i => memPut m (64 * sec + i) (d.extractLsb' (8 * i) 8)) s.mem,
           lineKey := dput 0 s.lineKey sec tag }

/-- The 512-bit key of a key load: as KEY_LOAD brought it, or as the security block drew it (R345, R362). A sector that nothing has
written since the boot was filled under key id 0. DESIGN CHOICE: notes/assumptions/13.md. -/
def State.keyOf (s : State) (tag : Nat) : Mask := (mget s.keyBytes tag).getD (Config.drawnKey (max 1 tag))

/-- The mark of a stored sector whose bytes are given as memory holds them. -/
def rawTag : Nat := 2 ^ 64

/-- A sector's ciphertext, as memory holds what was written under a mark (R345). -/
def State.storedAs (s : State) (line tag : Nat) (d : Mask) : Mask :=
  if tag = rawTag then d else xtsEncrypt (s.keyOf tag) (lineSector line) d

/-- What a read of a sector under its line's key sees (R345): the bytes as written, or, under another key or another load of it, the
decryption of their ciphertext. -/
def State.plainSector (s : State) (line : Nat) : Mask :=
  let sec := lineSector line
  let tag := (mget s.lineKey sec).getD 0
  if max 1 tag = s.keyTag (lineKeyId line) then s.storedSector sec
  else xtsDecrypt (s.keyOf (s.keyTag (lineKeyId line))) sec (s.storedAs line tag (s.storedSector sec))

/-- Byte k of a line's data, and its replacement. -/
def lineByte (d : Mask) (k : Nat) : BitVec 8 := d.extractLsb' (8 * k) 8
def setLineByte (d : Mask) (k : Nat) (b : BitVec 8) : Mask :=
  (d &&& ~~~(255#512 <<< (8 * k))) ||| ((b.zeroExtend 512) <<< (8 * k))

/-! ### The memory controllers -/

/-- A partition, and its update. -/
def State.part? (s : State) (k : Nat) : Option Part := s.parts.find? fun p => p.k = k
def State.modPart (s : State) (k : Nat) (f : Part → Part) : State :=
  { s with parts := s.parts.map fun p => if p.k = k then f p else p }

/-- Whether an HBM channel serves memory traffic (R370): the channel of an offset is its stack's, bits [13:9]. -/
def hbmChannel (off : Nat) : Nat := off / 2 ^ 36 % 16 * 32 + off / 2 ^ 9 % 32
def State.chanOn (s : State) (off : Nat) : Bool := ((mget s.phys (hbmChannel off)).getD {}).en

/-- Whether an access that reaches a line's controller is served there (R370). -/
def State.ctlOn (s : State) (line : Nat) : Bool := paSpace (line * 64) != 0 || s.chanOn (paOff (line * 64))

/-- HBM_RD, HBM_WR, LPD_RD, LPD_WR: 64 bytes for the line's key id (R356), or, for an access of a task to data that another partition
shares with its own, for the partition that makes it (R354); and for the region of the task that moves them: that of core `who`, or, where
a line is written back, of the core in focus (R358). DESIGN CHOICE: notes/assumptions/42.md. -/
def State.meterLine (s : State) (line : Nat) (write : Bool) (who : Option Nat := none) : State :=
  let k := lineKeyId line
  let idx := 5 + (if paSpace (line * 64) = 1 then 2 else 0) + (if write then 1 else 0)
  let c := match who with | some c => s.coreOf c | none => s.core
  let shared := who.any (· < 768) && c.task.isSome && c.tk.part != k && s.grants.any fun g => g.target = c.tk.part
  let k := if k ≠ 0 && shared then c.tk.part else k
  let rid := if c.tk.part = k then c.tk.rid else 0
  if k = 0 then s else s.sched s.cycle ptEnd (.meterAdd k rid idx 64)

/-- The undo-log entry of a line that an open interval writes for the first time (R332). DESIGN CHOICE: notes/assumptions/23.md. -/
def State.undoLog (s : State) (line : Nat) : State :=
  match s.part? (lineKeyId line) with
  | none => s
  | some p =>
    let u := p.undo
    if (u.st ≠ .opened ∧ u.st ≠ .rolling) ∨ u.log.any (fun e => e.1 = line) then s
    else if u.size < u.used + 128 then
      (s.modPart p.k fun p => { p with undo := { p.undo with st := .sealed, lost := true } }).sysPend 2
    else
      let sec := lineSector line
      let tag := (mget s.lineKey sec).getD 0
      let old := s.storedSector sec
      let head : Mask := BitVec.ofNat 512 (line * 64 + 2 ^ 64 * u.interval.toNat)
      let body := s.storedAs line tag old
      let at_ := (u.base + u.used) / 64
      let s := (s.putSector (lineSector at_) (s.keyTag 0) head).putSector (lineSector (at_ + 1)) (s.keyTag 0) body
      s.modPart p.k fun p => { p with undo := { p.undo with used := p.undo.used + 128, log := (line, tag, old) :: p.undo.log } }

/-- A line as the controller stores it, metered and logged. A write under a key that is not LIVE is discarded (R346), and so is one that
reaches a channel whose EN is 0 (R370). -/
def State.ctlWrite (s : State) (line : Nat) (d : Mask) (who : Option Nat := none) : State :=
  if s.keyLive (lineKeyId line) && s.ctlOn line then
    ((s.undoLog line).putSector (lineSector line) (s.keyTag (lineKeyId line)) d).meterLine line true who
  else s

/-- A byte as the controller would read it. -/
def State.plainByte (s : State) (pa : Nat) : BitVec 8 := lineByte (s.plainSector (pa / 64)) (pa % 64)

/-- The page, with its key id, that holds a page's stored bytes: while it is the new place of a page under migration, the old one
(R278). -/
def State.storedPage (s : State) (page : Nat) : Nat :=
  match s.dies.toList.findSome? fun d => d.migs.find? fun m => m.dest = page % 2 ^ 30 with
  | some m => page / 2 ^ 30 * 2 ^ 30 + m.page
  | none => page

/-- The expanded contents of a sector of a compressed page (R286); none for a reserved kind or bytes past the page. DESIGN CHOICE: notes/assumptions/13.md. -/
def State.expandLine (s : State) (line : Nat) : Option Mask :=
  let base := s.storedPage (line / 1024) * 65536
  let i := line % 1024
  let entry := (s.plainByte (base + 2 * i)).toNat + 256 * (s.plainByte (base + 2 * i + 1)).toNat
  let off := entry % 2 ^ 14 * 4
  match entry / 2 ^ 14 with
  | 0 => some 0
  | 1 => if 65536 < off + 64 then none else
      some (BitVec.ofNat 512 (packNat 8 ((List.range 64).map fun j => (s.plainByte (base + off + j)).toNat)))
  | 2 => if 65536 < off + 4 then none else
      some (BitVec.ofNat 512 (packNat 8 ((List.range 64).map fun j => (s.plainByte (base + off + j % 4)).toNat)))
  | _ => none

/-! ### Dies -/

def State.die (s : State) (d : Nat) : Die := vget s.dies d {}
def State.modDie (s : State) (d : Nat) (f : Die → Die) : State := { s with dies := vset s.dies d (f (s.die d)) }

def Die.l2Line (d : Die) (line : Nat) : Option L2Line := d.l2.find? fun l => l.line = line
def Die.mscLine (d : Die) (line : Nat) : Option MscLine := d.msc.find? fun l => l.line = line
def Die.putL2 (d : Die) (l : L2Line) : Die := { d with l2 := l :: d.l2.filter fun m => m.line ≠ l.line }
def Die.dropL2 (d : Die) (p : L2Line → Bool) : Die := { d with l2 := d.l2.filter fun l => !p l }

/-- Drops L1 copies of a die's cores (R268). -/
def State.dropL1 (s : State) (d : Nat) (p : Nat → Bool) : State :=
  s.allCores fun c =>
    if !c.isSys && dieOfCore c.id = d then { c with l1 := c.l1.filter fun l => !p l.line } else c

/-- The newest value of a line without any effect: the L2 that holds it dirty, then the MSC, then memory. -/
def State.peekLine (s : State) (line : Nat) : Mask :=
  match s.dies.toList.findSome? fun d => (d.l2Line line).bind fun l => if l.dirty then some l.data else none with
  | some d => d
  | none =>
    match (s.die (homeDie line)).mscLine line with
    | some m => m.data
    | none => s.plainSector line

/-- The way masks of a key id (R282, R288). -/
def Die.l2Mask (d : Die) (k : Nat) : BitVec 16 := (mget d.l2way k).getD 0
def Die.mscMask (d : Die) (k cls : Nat) : BitVec 16 :=
  let m := (mget d.mscway (4 * k + cls)).getD 0
  if cls = 2 then m ||| 0xC000 else m &&& 0x3FFF

def waysOf (m : BitVec 16) (n : Nat) : List Nat := (List.range n).filter fun i => m.getLsbD i

/-- A free choice among the ways that a mask allows. DESIGN CHOICE: notes/assumptions/15.md. -/
def State.pickWay (s : State) (ways : List Nat) : Option (Nat × State) :=
  if ways.isEmpty then none
  else some (ways.getD (Config.fillWay s.fresh % ways.length) 0, { s with fresh := s.fresh + 1 })

/-- Traffic class (R282): the first that applies of context save, weights, system, activations. -/
def classOf (ctx weights : Bool) (line : Nat) : Nat :=
  if ctx then 2 else if weights then 0 else if lineKeyId line = 0 then 3 else 1

/-- Whether two lines fall into one set of a cache (R267): an L1 has 1,024 sets of 8 ways, an L2 65,536 of 16, an MSC 98,304 of 16.
Which set a line falls into is not stated. DESIGN CHOICE: notes/assumptions/15.md. -/
def sameSet (cache sets a b : Nat) : Bool := Config.cacheSet cache a % sets == Config.cacheSet cache b % sets

/-! ### Victims (R281, R284) -/

/-- A line enters an MSC in one of the ways allowed: a free one of its set, or that of the line placed there least recently, which is
written to memory when dirty (R281, R282). Code 01 places it least recently (R284). DESIGN CHOICE: notes/assumptions/15.md. -/
def State.mscAlloc (s : State) (h : Nat) (ways : List Nat) (first : Bool) (l : L2Line) : State :=
  let set := (s.die h).msc.filter fun m => ways.contains m.way && sameSet 2 98304 m.line l.line
  let put (w : Nat) (s : State) : State := s.modDie h fun d =>
    let m : MscLine := ⟨l.line, l.data, l.dirty, l.cls, w⟩
    { d with msc := if first then m :: d.msc else d.msc ++ [m] }
  match ways.find? fun w => !set.any fun m => m.way = w with
  | some w => put w s
  | none =>
    match set.getLast? with
    | none => s
    | some v =>
      let s := s.modDie h fun d => { d with msc := d.msc.filter fun m => m.line ≠ v.line }
      put v.way (if v.dirty then s.ctlWrite v.line v.data else s)

/-- A line that leaves an L2 allocates in the MSC of its stack's die where masks and policy allow and no other L2 holds
it; otherwise a dirty one is written to memory. -/
def State.victimLine (s : State) (l : L2Line) : State :=
  let h := homeDie l.line
  let die := s.die h
  let code := (die.mscpol.extractLsb' (6 * l.cls + if l.dirty then 2 else 0) 2).toNat
  let held := s.dies.toList.any fun d => (d.l2Line l.line).isSome
  let ways := waysOf (die.mscMask (lineKeyId l.line) l.cls) 16
  if paSpace (l.line * 64) = 0 && decide (code < 2) && !held && !ways.isEmpty then s.mscAlloc h ways (code == 0) l
  else if l.dirty then s.ctlWrite l.line l.data else s

/-- An L2 line leaves its slice: MTS rises, its L1 copies go, and it becomes a victim (R268, R269). -/
def State.evictL2 (s : State) (d : Nat) (l : L2Line) : State :=
  let s := s.modDie d fun die => { die.dropL2 (fun m => m.line = l.line) with mts := max die.mts l.rts }
  (s.dropL1 d fun n => n = l.line).victimLine l

/-! ### The directory (R274..R276) -/

def DirEntry.covers (e : DirEntry) (line : Nat) : Bool := decide (e.base ≤ line) && decide (line < e.base + 2 ^ e.k)

def dieBit (d : Nat) : BitVec 24 := BitVec.ofNat 24 (2 ^ d)
def diesOf (v : BitVec 24) : List Nat := (List.range 24).filter v.getLsbD

/-- Invalidation of a region at a die: dirty lines are written back, MTS rises, lines and L1 copies go (R275). -/
def State.invalidateAt (s : State) (d base k : Nat) : State :=
  let hit := fun n => decide (base ≤ n) && decide (n < base + 2 ^ k)
  let lines := (s.die d).l2.filter fun l => hit l.line
  let s := lines.foldl (fun s l => if l.dirty then s.ctlWrite l.line l.data else s) s
  let s := s.modDie d fun die =>
    { die.dropL2 (fun l => hit l.line) with mts := lines.foldl (fun m l => max m l.rts) die.mts }
  s.dropL1 d hit

/-- A downgrade: the owner writes back the region's dirty lines and keeps them clean (R275). -/
def State.downgradeAt (s : State) (d base k : Nat) : State :=
  let hit := fun n => decide (base ≤ n) && decide (n < base + 2 ^ k)
  let s := ((s.die d).l2.filter fun l => hit l.line && l.dirty).foldl (fun s l => s.ctlWrite l.line l.data) s
  s.modDie d fun die => { die with l2 := die.l2.map fun l => if hit l.line then { l with dirty := false } else l }

/-- Frees the entry used least recently when all 32,768 are taken (R276); one that a request is at work on stays. -/
def State.dirRoom (s : State) (h : Nat) (keep : Option Nat := none) : State :=
  let dir := (s.die h).dir
  if dir.length < 32768 then s
  else match dir.filter fun e => some e.base ≠ keep with
    | [] => s
    | e :: t =>
      let v := t.foldl (fun v f => if f.used < v.used then f else v) e
      let s := (diesOf v.set).foldl (fun s d => s.invalidateAt d v.base v.k) s
      s.modDie h fun die => { die with dir := die.dir.filter fun f => f.base ≠ v.base }

/-- The largest region around a line, up to 2^10 lines, that no entry of a directory meets. -/
def freeRegion (dir : List DirEntry) (line : Nat) : Nat :=
  let meets (k : Nat) (e : DirEntry) : Bool :=
    decide (e.base < line / 2 ^ k * 2 ^ k + 2 ^ k) && decide (line / 2 ^ k * 2 ^ k < e.base + 2 ^ e.k)
  ((List.range 11).reverse.find? fun k => !dir.any (meets k)).getD 0

/-- The entry that covers a line; the first request for a region creates one of 2^10 lines. Where parts of the region have entries of
their own, the largest free part gets one. DEDUCED: notes/assumptions/16.md. -/
def State.dirEntry (s : State) (line : Nat) : DirEntry × State :=
  let h := homeDie line
  match (s.die h).dir.find? (fun e => e.covers line) with
  | some e => (e, s)
  | none =>
    let s := s.dirRoom h
    let k := freeRegion (s.die h).dir line
    ({ base := line / 2 ^ k * 2 ^ k, k, st := .shr, set := 0, used := s.cycle }, s)

def State.putDir (s : State) (h : Nat) (e : DirEntry) : State :=
  s.modDie h fun die => { die with dir := e :: die.dir.filter fun f => f.base ≠ e.base }

/-- The one halving that precedes an invalidation or a downgrade of another die: the entry for the half that holds the
line; the other half keeps the old state and set. DEDUCED: notes/assumptions/16.md. -/
def State.halve (s : State) (e : DirEntry) (line : Nat) : DirEntry × State :=
  if e.k = 0 then (e, s)
  else
    let n := 2 ^ (e.k - 1)
    let lo := { e with k := e.k - 1 }
    let hi := { e with k := e.k - 1, base := e.base + n }
    let s := s.dirRoom (homeDie line) (some e.base)
    if line < e.base + n then (lo, s.putDir (homeDie line) hi) else (hi, s.putDir (homeDie line) lo)

/-- A read request of die d at a line's home (R275). -/
def State.dirRead (s : State) (d line : Nat) : State :=
  let h := homeDie line
  let (e, s) := s.dirEntry line
  if e.st = .own ∧ e.set ≠ dieBit d then
    let (e, s) := s.halve e line
    let s := (diesOf e.set).foldl (fun s o => s.downgradeAt o e.base e.k) s
    s.putDir h { e with st := .shr, set := e.set ||| dieBit d, used := s.cycle }
  else if e.st = .own then s.putDir h { e with used := s.cycle }
  else s.putDir h { e with set := e.set ||| dieBit d, used := s.cycle }

/-- Ownership for die d: every other die of the set is invalidated first (R275). -/
def State.dirOwn (s : State) (d line : Nat) : State :=
  let h := homeDie line
  let (e, s) := s.dirEntry line
  let others := e.set &&& ~~~dieBit d
  if others = 0 then s.putDir h { e with st := .own, set := dieBit d, used := s.cycle }
  else
    let (e, s) := s.halve e line
    let s := (diesOf others).foldl (fun s o => s.invalidateAt o e.base e.k) s
    s.putDir h { e with st := .own, set := dieBit d, used := s.cycle }

/-- An atomic's request at a line's home, which counts as a use of the entry (R276, R285). -/
def State.dirUse (s : State) (line : Nat) : State :=
  let (e, s) := s.dirEntry line
  s.putDir (homeDie line) { e with used := s.cycle }

/-- Every die of the set is invalidated: no L2 keeps the line (for an atomic or a write performed below the L2s). -/
def State.dirClear (s : State) (line : Nat) : State :=
  let h := homeDie line
  let (e, s) := s.dirEntry line
  if e.set = 0 then s.putDir h { e with used := s.cycle }
  else
    let (e, s) := s.halve e line
    let s := (diesOf e.set).foldl (fun s o => s.invalidateAt o e.base e.k) s
    s.putDir h { e with st := .shr, set := 0, used := s.cycle }

/-! ### L2 slices (R269, R270, R281) -/

/-- A line as the controller gives it to core `who`, metered, expanded where its page is compressed (R286); none where the channel is off
(R370) or the expansion fails. -/
def State.ctlSector (s : State) (line : Nat) (comp : Bool) (who : Option Nat) : Option Mask × State :=
  if s.ctlOn line then (if comp then s.expandLine line else some (s.plainSector line), s.meterLine line false who) else (none, s)

/-- The data of a line that no L2 holds: the MSC's, which it leaves, or the controller's. -/
def State.takeLine (s : State) (line : Nat) (comp : Bool) (who : Option Nat) : Option Mask × Bool × State :=
  let h := homeDie line
  match (s.die h).mscLine line with
  | some m => (some m.data, m.dirty, s.modDie h fun d => { d with msc := d.msc.filter fun l => l.line ≠ line })
  | none =>
    let (m, s) := s.ctlSector line comp who
    (m, false, s)

/-- The line of a die's L2 that stands in a way of a line's set. -/
def Die.inWay (d : Die) (line w : Nat) : Option L2Line :=
  d.l2.find? fun m => m.way = w && m.line ≠ line && sameSet 1 65536 m.line line

/-- A way of a die's L2 wakes: where the die has rebased since it went to sleep, it drops its lines (R273). -/
def State.wakeWay (s : State) (d w : Nat) : State :=
  match mget (s.die d).l2sleep w with
  | none => s
  | some n =>
    let lines := if n = (s.die d).rebase.toNat then [] else (s.die d).l2.filter fun l => l.way = w
    (s.modDie d fun die =>
      { die.dropL2 (fun l => lines.any fun m => m.line = l.line) with
        mts := lines.foldl (fun m l => max m l.rts) die.mts, l2sleep := mdel die.l2sleep w }).dropL1 d fun n => lines.any fun l => l.line = n

/-- The ways that a fill may take (R280, R282): a HOME 10 line a locked way of its set that holds no line; any other line those of its
key id's mask that are not locked. -/
def State.fillWays (s : State) (d line : Nat) (pin : Bool) : List Nat :=
  let die := s.die d
  let locked := 16 - die.pinways.toNat
  if pin then (List.range 16).filter fun i => decide (locked ≤ i) && (die.inWay line i).isNone
  else waysOf (die.l2Mask (lineKeyId line)) locked

/-- Whether a die owns the region of a line (R275): a write of a line that its L2 holds then asks nothing of the home. -/
def State.owns (s : State) (d line : Nat) : Bool :=
  (s.die (homeDie line)).dir.any fun e => e.covers line && e.st == .own && e.set == dieBit d

/-- A line in die d's L2, filled when absent with wts = rts = MTS in place of the line that stood in its way: its data and timestamps,
and whether the L2 holds it (a fill that no way may take is served past the L2, as HOME 01). A request goes to the line's home when the
L2 lacks the line, or ownership for a write (R275). HOME 10 lines (`pin`) take the locked ways, others the rest (R280). A way asleep wakes
first (R273). -/
def State.haveL2 (s : State) (d line cls : Nat) (comp own pin : Bool) (who : Option Nat) : Option (L2Line × Bool) × State :=
  let s := match (s.die d).l2Line line with | some l => s.wakeWay d l.way | none => s
  let held := ((s.die d).l2Line line).isSome
  let s := if own then (if held && s.owns d line then s else s.dirOwn d line) else if held then s else s.dirRead d line
  match (s.die d).l2Line line with
  | some l => (some (l, true), s)
  | none =>
    match s.takeLine line comp who with
    | (none, _, s) => (none, s)
    | (some data, dirty, s) =>
      let s := if dirty then s.dirOwn d line else s
      match s.pickWay (s.fillWays d line pin) with
      | none => (some (⟨line, data, 0, 0, dirty, cls, 0⟩, false), if dirty then s.ctlWrite line data else s)
      | some (w, s) =>
        let s := s.wakeWay d w
        let s := match (s.die d).inWay line w with | some v => s.evictL2 d v | none => s
        let l : L2Line := ⟨line, data, (s.die d).mts, (s.die d).mts, dirty, cls, w⟩
        (some (l, true), s.modDie d fun die => die.putL2 l)

/-- The reader of a lease: a compute core of the die has LTIME; any other requester reads as time 0. -/
def State.ltimeOf (s : State) (d c : Nat) : Nat := if c < 768 && dieOfCore c = d then (s.coreOf c).ltime else 0
def State.setLtime (s : State) (d c t : Nat) : State :=
  if c < 768 && dieOfCore c = d then s.modCore c fun k => { k with ltime := t } else s

/-- A core's L1 wakes: it keeps its lines unless the die has rebased since (R273). -/
def State.wakeL1 (s : State) (i : Nat) : State :=
  s.modCore i fun c =>
    match c.l1sleep with
    | none => c
    | some n => { c with l1sleep := none, l1 := if n = (s.die (dieOfCore i)).rebase.toNat then c.l1 else [] }

/-- A core's live L1 copy of a line: LTIME has not passed its lease (R269). -/
def State.l1Hit (s : State) (c line : Nat) : Option Mask :=
  let k := s.coreOf c
  (k.l1.find? fun l => l.line = line && decide (k.ltime ≤ l.lrts)).map (·.data)

/-- A copy enters a core's L1; a full set gives up one of its lines. Which one is free. DESIGN CHOICE: notes/assumptions/15.md. -/
def State.putL1 (s : State) (c : Nat) (l : L1Line) : State :=
  let old := (s.coreOf c).l1.filter fun m => m.line ≠ l.line
  let set := if old.length < 8 then [] else old.filter fun m => sameSet 0 1024 m.line l.line
  if set.length < 8 then s.modCore c fun k => { k with l1 := l :: old }
  else
    let v := (set[Config.fillWay s.fresh % set.length]?).map (·.line)
    { s with fresh := s.fresh + 1 }.modCore c fun k => { k with l1 := l :: old.filter fun m => some m.line ≠ v }

/-- A read at die d's L2 by core c, with an L1 copy made where `l1` asks for one (R269). -/
def State.leaseRead (s : State) (d c line cls : Nat) (comp l1 pin : Bool) : Option Mask × State :=
  match s.haveL2 d line cls comp false pin (some c) with
  | (none, s) => (none, s)
  | (some (l, held), s) =>
    let t := max (s.ltimeOf d c) l.wts
    if held then
      let s := (s.setLtime d c t).modDie d fun die => die.putL2 { l with rts := max l.rts (t + 16) }
      (some l.data, if l1 then s.putL1 c ⟨line, l.data, t + 16⟩ else s)
    else (some l.data, s)

/-- The L1 object cache of a core; agents that are no core have none. -/
def State.modL1 (s : State) (c : Nat) (f : List L1Line → List L1Line) : State :=
  if c < 784 then s.modCore c fun k => { k with l1 := f k.l1 } else s

/-- A write at die d's L2 by core c (R270); the storing core's L1 copy is updated, or, for an atomic, dropped (R268). -/
def State.leaseWrite (s : State) (d c line cls : Nat) (pin : Bool) (f : Mask → Mask) : State :=
  match s.haveL2 d line cls false true pin (some c) with
  | (none, s) => s
  | (some (l, held), s) =>
    let own := c < 768 && dieOfCore c = d
    let t := max (s.ltimeOf d c) (l.rts + 1)
    let data := f l.data
    let s := if held then
        (if own then s.setLtime d c t else s).modDie d fun die => die.putL2 { l with data := data, wts := t, rts := t, dirty := true }
      else s.ctlWrite line data (some c)
    s.modL1 c fun l => l.map fun m => if m.line = line then { m with data := data } else m

/-! ### Sectors as the handle unit names them -/

/-- A translated sector: its physical address (64-byte aligned, key id included), its page's HOME and COMPRESSED. -/
structure Sector where
  pa   : Nat
  home : Nat
  comp : Bool
  deriving DecidableEq, Repr

def Sector.line (x : Sector) : Nat := x.pa / 64

/-- Whether a sector's address and key are served at all (R178, R346, R368): otherwise an access is uncorrectable data. -/
def State.addrOk (s : State) (x : Sector) : Bool :=
  s.keyLive (paKey x.pa) &&
    match paSpace x.pa with
    | 0 => decide (paOff x.pa < 2 ^ 40)
    | 1 => decide (paOff x.pa < 2 ^ 41)
    | 2 => decide (paOff x.pa / 2 ^ 22 < 768) && paKey x.pa == 0
    | _ => false

/-- Whether an access to a sector is served wherever it is performed, at its controller too (R370). -/
def State.sectorOk (s : State) (x : Sector) : Bool := s.addrOk x && s.ctlOn x.line

/-- Whether the die of an access's requester has destroyed its key id (R287, R288). -/
def State.refusedAt (s : State) (c : Nat) (x : Sector) : Bool :=
  decide (c < 768) && (s.die (dieOfCore c)).refuses.getLsbD (paKey x.pa)

/-- A row as an engine read of the present cycle sees it: with the writes by address and the core's stores due by then (R120). -/
def Core.rowSoon (c : Core) (cyc p : Nat) : Row :=
  let r := (c.padPend.filter fun w => w.row = p).foldl (fun r w => r.putSector w.sector w.data) (c.physRow p)
  (c.rowPend.filter fun w => decide (w.row = p) && decide (w.due ≤ cyc)).foldl (fun r w => ⟨w.data.getD r.data, w.tag⟩) r

/-- A 64-byte sector of a scratchpad (space 10), read at its core's engine read point (R120, R178). -/
def State.padSector (s : State) (pa : Nat) : Mask :=
  let off := paOff pa
  ((s.coreOf (off / 2 ^ 22)).rowSoon s.cycle (off % 2 ^ 22 / 512)).data.extractLsb' (off % 512 / 64 * 512) 512

/-- A sector of a scratchpad is written at its core's next write point: this cycle's, or, after that, at once, since nothing reads a row
before the next cycle's core read point. DEDUCED: notes/assumptions/5.md. -/
def State.padWrite (s : State) (pa : Nat) (d : Mask) : State :=
  let off := paOff pa
  s.modCore (off / 2 ^ 22) fun c =>
    let w : PadWrite := ⟨off % 2 ^ 22 / 512, off % 512 / 64, d⟩
    if s.clock % 16 < ptRows then { c with padPend := c.padPend ++ [w] }
    else c.putRow w.row ((c.physRow w.row).putSector w.sector d)

/-- Where a line stands while its page migrates (R278): its new line once copied; and whether a request for it is held until then. -/
def State.migrated (s : State) (line : Nat) : Nat × Bool :=
  match s.dies.toList.findSome? fun d => d.migs.find? fun m => m.page = lineSector line / 1024 with
  | none => (line, false)
  | some m =>
    if line % 1024 < m.next ∨ m.held.contains (line % 1024) then (line / 2 ^ 40 * 2 ^ 40 + m.dest * 1024 + line % 1024, false) else (line, true)

/-- A stored sector of a page goes to its new place with its key's mark (R278). Under another mark it moves as it is stored, a write of the
page's key id for the undo log all the same (R332). -/
def State.moveSector (s : State) (key src dst : Nat) : State :=
  let tag := (mget s.lineKey src).getD 0
  let k := (tag - 1) % 64
  if tag ≠ 0 ∧ tag = s.keyTag k ∧ s.keyLive k then
    (s.meterLine (k * 2 ^ 40 + src) false).ctlWrite (k * 2 ^ 40 + dst) (s.storedSector src)
  else (s.undoLog (key * 2 ^ 40 + dst)).putSector dst tag (s.storedSector src)

/-- The line at which an access is performed (R278): a request that is held until its line has been copied is performed at the new
place, after the copy. DEDUCED: notes/assumptions/16.md. -/
def State.forwarded (s : State) (line : Nat) : Nat × State :=
  if !(s.migrated line).2 then ((s.migrated line).1, s)
  else
    let page := lineSector line / 1024
    let i := line % 1024
    match (List.range 24).find? fun d => (s.die d).migs.any fun m => m.page = page with
    | none => (line, s)
    | some h =>
      let dest := (((s.die h).migs.find? fun m => m.page = page).map (·.dest)).getD 0
      let s := (s.moveSector (lineKeyId line) (page * 1024 + i) (dest * 1024 + i)).modDie h fun d =>
        { d with migs := d.migs.map fun m => if m.page = page then { m with held := i :: m.held } else m }
      (line / 2 ^ 40 * 2 ^ 40 + dest * 1024 + i, s)

/-- Whether an access of core c to a sector is served: where its channel is off, a cache that it looks in must hold the line (R370). Agents
that are no core look in every L2. -/
def State.reachOk (s : State) (c : Nat) (x : Sector) : Bool :=
  s.addrOk x && (s.ctlOn x.line || x.home != 1 &&
    (((s.die (homeDie x.line)).mscLine x.line).isSome || (List.range 24).any fun d =>
      (decide (768 ≤ c) || d == (if x.home = 2 then homeDie x.line else dieOfCore c)) && ((s.die d).l2Line x.line).isSome))

/-- The L2 that serves core c's accesses to a line: its own die's, or the home's for HOME 10 pages (R279). -/
def serveDie (home c line : Nat) : Nat := if home = 2 then homeDie line else if c < 768 then dieOfCore c else homeDie line

/-- A read of a sector by a core, or by its engines (`l1` false), under HOME (R268, R269, R279); none is uncorrectable
data. -/
def State.readSector (s : State) (c : Nat) (x : Sector) (l1 : Bool) (cls : Nat) : Option Mask × State :=
  if !s.reachOk c x || s.refusedAt c x then (none, s)
  else if paSpace x.pa = 2 then (some (s.padSector x.pa), s)
  else
    let (line, s) := s.forwarded x.line
    if x.home = 1 then s.ctlSector line x.comp (some c)
    else
      let d := serveDie x.home c line
      match (if l1 then s.l1Hit c line else none) with
      | some data => (some data, s)
      | none => s.leaseRead d c line cls x.comp (l1 && decide (dieOfCore c = d)) (x.home == 2)

/-- A write of a sector by a core or its engines; a refused one is discarded (R346). -/
def State.writeSector (s : State) (c : Nat) (x : Sector) (cls : Nat) (f : Mask → Mask) : State :=
  if !s.reachOk c x || s.refusedAt c x then s
  else if paSpace x.pa = 2 then s.padWrite x.pa (f (s.padSector x.pa))
  else
    let (line, s) := s.forwarded x.line
    if x.home = 1 then s.ctlWrite line (f (s.plainSector line)) (some c)
    else s.leaseWrite (serveDie x.home c line) c line cls (x.home == 2) f

/-- A weight stream's read (R268): the L2 or MSC that holds the line, else memory, allocating nowhere. -/
def State.streamSector (s : State) (c : Nat) (x : Sector) : Option Mask × State :=
  if !s.reachOk 1023 x || s.refusedAt c x then (none, s)
  else if paSpace x.pa = 2 then (some (s.padSector x.pa), s)
  else
    let (line, s) := s.forwarded x.line
    match s.dies.toList.findSome? fun d => d.l2Line line with
    | some l => (some l.data, s)
    | none =>
      match (s.die (homeDie line)).mscLine line with
      | some m => (some m.data, s)
      | none => s.ctlSector line x.comp (some c)

/-- A line of a context image passes its die's L2 and goes at once to the MSC ways that context saves have (R282, R323); a line that
cannot be written is lost. -/
def State.ctxWrite (s : State) (d line : Nat) (data : Mask) : State :=
  if s.addrOk ⟨line * 64, 0, false⟩ && paSpace (line * 64) != 2 then
    let s := (s.dirOwn d line).invalidateAt d line 0
    let s := s.modDie (homeDie line) fun die => { die with msc := die.msc.filter fun m => m.line ≠ line }
    s.victimLine ⟨line, data, 0, 0, true, classOf true false line, 0⟩
  else s

/-- An access of an agent outside the compute dies (host, fabric, system core): it sees the newest data and leaves no
copy behind when it writes; a HOME 10 line is read and written at its home L2 (R279). -/
def State.outerRead (s : State) (x : Sector) : Option Mask × State :=
  if !s.reachOk 1023 x then (none, s)
  else if paSpace x.pa = 2 then (some (s.padSector x.pa), s)
  else
    let (line, s) := s.forwarded x.line
    if x.home = 2 then s.leaseRead (homeDie line) 1023 line (classOf false false line) x.comp false true
    else match s.dies.toList.findSome? fun d => d.l2Line line with
    | some l => (some l.data, s)
    | none =>
      match (s.die (homeDie line)).mscLine line with
      | some m => (some m.data, s)
      | none => s.ctlSector line x.comp (some 1023)

def State.outerWrite (s : State) (x : Sector) (f : Mask → Mask) : State :=
  if !s.addrOk x then s
  else if paSpace x.pa = 2 then s.padWrite x.pa (f (s.padSector x.pa))
  else
    let (line, s) := s.forwarded x.line
    if x.home = 2 then s.leaseWrite (homeDie line) 1023 line (classOf false false line) true f
    else
    let s := s.dirClear line
    let data := f (s.peekLine line)
    (s.modDie (homeDie line) fun d => { d with msc := d.msc.filter fun m => m.line ≠ line }).ctlWrite line data (some 1023)

/-- An atomic on a sector (R285): performed where the newest value lies, in the order of the five places; the old sector
is returned. The issuing core's L1 copy goes (R268). -/
def State.atomicSector (s : State) (c : Nat) (x : Sector) (ret : Bool) (f : Mask → Mask) : Option Mask × State :=
  if !s.reachOk 1023 x || s.refusedAt c x then (none, s)
  else if paSpace x.pa = 2 then
    let old := s.padSector x.pa
    (some old, s.padWrite x.pa (f old))
  else
    let (line, s) := s.forwarded x.line
    let s := s.modL1 c fun l => l.filter fun l => l.line ≠ line
    let h := homeDie line
    if x.home = 1 then
      let old := s.plainSector line
      (some old, s.ctlWrite line (f old) (some c))
    else
      let s := s.dirUse line
      let atL2 (d : Nat) (s : State) : Option Mask × State :=
        match s.haveL2 d line (classOf false false line) false true (x.home == 2) (some c) with
        | (none, s) => (none, s)
        | (some (l, held), s) =>
          (some l.data, if held then s.leaseWrite d c line l.cls (x.home == 2) f else s.ctlWrite line (f l.data) (some c))
      match (List.range 24).find? fun d => ((s.die d).l2Line line).any (·.dirty) with
      | some d => atL2 d s
      | none =>
        match (s.die h).mscLine line with
        | some m =>
          if (s.die h).mscpol.extractLsb' (6 * m.cls + 4) 2 ≤ 1 then
            let last := (s.die h).mscpol.extractLsb' (6 * m.cls + 4) 2 == 1
            let new := { m with data := f m.data, dirty := true }
            (some m.data, s.modDie h fun d => { d with msc :=
              let others := d.msc.filter fun l => l.line ≠ line
              if last then others ++ [new] else new :: others })
          else atL2 h s
        | none =>
          if ((s.die h).l2Line line).isSome || ret || paSpace x.pa = 1 || x.home = 2 then atL2 h s
          else
            let s := s.dirClear line
            let old := s.plainSector line
            (some old, s.ctlWrite line (f old) (some c))

end Sys2Proof.Machine
end

