-- ==== Sys2Proof/Machine/Handle.lean ====
section
/-! DEFINITION. The handle unit: handles and descriptors (R174..R177), layouts (R180..R183), shards (R184), the extent
walk and residency (R185..R188), violations and their log (R189, R190), watchpoints (R191), versions of pages (R202),
resolution and its fault order (R193, R194), and the access to an object's bits. -/

namespace Sys2Proof.Machine

open Sys2Proof

/-! ### Handles and descriptors -/

abbrev Desc := BitVec 512

/-- A field of a descriptor, and its replacement. -/
def Desc.f (d : Desc) (lo n : Nat) : Nat := d.toNat / 2 ^ lo % 2 ^ n
def Desc.set (d : Desc) (lo n v : Nat) : Desc :=
  BitVec.ofNat 512 (d.toNat - d.f lo n * 2 ^ lo + v % 2 ^ n * 2 ^ lo)

def Desc.state (d : Desc) : Nat := d.f 0 2
def Desc.part (d : Desc) : Nat := d.f 2 6
def Desc.gen (d : Desc) : Nat := d.f 8 20
def Desc.rights (d : Desc) : Nat := d.f 28 8
def Desc.fmt (d : Desc) : Nat := d.f 36 4
def Desc.rank (d : Desc) : Nat := d.f 40 3
def Desc.layout (d : Desc) : Nat := d.f 43 2
def Desc.waxis (d : Desc) : Nat := d.f 45 3
def Desc.wlev (d : Desc) : Nat := d.f 48 3
def Desc.shaxis (d : Desc) : Nat := d.f 51 3
def Desc.direct (d : Desc) : Bool := d.f 54 1 == 1
def Desc.measured (d : Desc) : Bool := d.f 55 1 == 1
def Desc.replicated (d : Desc) : Bool := d.f 57 1 == 1
def Desc.watch (d : Desc) : Bool := d.f 58 1 == 1
def Desc.dims (d : Desc) : List Nat := (List.range d.rank).map fun i => d.f (64 + 32 * i) 32
def Desc.vcur (d : Desc) : Nat := d.f 256 32
def Desc.shblk (d : Desc) : Nat := d.f 288 32
def Desc.shmap (d : Desc) : Nat := d.f 320 64
def Desc.ext (d : Desc) : Nat := d.f 384 52
def Desc.extent (d : Desc) : Nat := d.f 448 48

/-- The fields of a handle (R174): home package, generation, rights, the low four bits, and the slot with its home. -/
def hHome (h : Word) : Nat := h.toNat / 2 ^ 55
def hGen (h : Word) : Nat := h.toNat / 2 ^ 12 % 2 ^ 20
def hRights (h : Word) : Nat := h.toNat / 16 % 256
def hLow (h : Word) : Nat := h.toNat % 16
def hKey (h : Word) : Nat := h.toNat / 2 ^ 32

/-- The descriptor that a handle names: the table's, or, of an object homed elsewhere, the one learned; a slot not listed is
free. -/
def State.desc (s : State) (h : Word) : Desc := ((mget s.descs (hKey h)).orElse fun _ => mget s.far (hKey h)).getD 0

/-- A handle of an object homed on another package of the domain. -/
def State.elsewhere (s : State) (h : Word) : Bool := hLow h = 0 && s.members.contains (hHome h) && hHome h != s.pkg

/-- The descriptor fetch of a handle homed elsewhere (R193): its home's descriptor, a free value. DESIGN CHOICE:
notes/assumptions/2.md. -/
def State.learn (s : State) (h : Word) : State :=
  if s.elsewhere h && (mget s.descs (hKey h)).isNone && (mget s.far (hKey h)).isNone then
    { s with far := mput s.far (hKey h) (Config.farDesc s.fresh), fresh := s.fresh + 1 }
  else s

/-- The element width of a format code (R62, R177). -/
def fmtWidth (code : Nat) : Nat := match efOf code with | some e => e.width | none => 4
def Desc.w (d : Desc) : Nat := fmtWidth d.fmt

/-- Signed formats: INT32, INT16, INT8 and INT4 (R195). -/
def fmtSigned (code : Nat) : Bool := code == 5 || code == 7 || code == 9 || code == 13

/-- The floating-point format of a code, where it is FP32, FP16 or BF16 (R197, R198). -/
def fmtFp : Nat → Option FF
  | 0 => some .f32 | 1 => some .f16 | 2 => some .bf16 | _ => none

/-! ### Layouts (R180, R181) -/

def prodL (l : List Nat) : Nat := l.foldl (· * ·) 1

/-- Row-major index, and the coordinates of an index with the outermost digit unbounded (R225). -/
def linOf (dims cs : List Nat) : Nat := (dims.zip cs).foldl (fun n p => n * p.1 + p.2) 0
def coordsOf : List Nat → Nat → List Nat
  | [], _ => []
  | [_], n => [n]
  | _ :: d :: t, n =>
    let p := prodL (d :: t)
    (n / p) :: coordsOf (d :: t) (n % p)

/-- Elements per 512-byte row. -/
def Desc.e (d : Desc) : Nat := 4096 / d.w

/-- Dimensions and coordinates from the innermost. -/
def inner (l : List Nat) (k : Nat) : Nat := l.reverse.getD k 0

/-- Bit offset of an element (R180); row-major or tiled. -/
def Desc.bitOf (d : Desc) (cs : List Nat) : Nat :=
  let ds := d.dims
  if d.layout = 1 then
    let p := linOf (ds.take (d.rank - 2)) (cs.take (d.rank - 2))
    let cols := inner ds 0 / d.e
    let t := p * (inner ds 1 / 128) * cols + inner cs 1 / 128 * cols + inner cs 0 / d.e
    8 * (65536 * t + 512 * (inner cs 1 % 128)) + inner cs 0 % d.e * d.w
  else linOf ds cs * d.w

/-- Rows of a coefficient tile (R179). -/
def Desc.npos (d : Desc) : Nat := min 128 (d.dims.getD d.waxis 1)

/-- The dimensions of a coefficient object that key its slots first: all but WAXIS and the innermost (R180). -/
def Desc.otherAxes (d : Desc) : List Nat := (List.range (d.rank - 1)).filter fun i => i ≠ d.waxis

/-- The slot of the coefficient tile that holds an element (R180). -/
def Desc.slotOf (d : Desc) (cs : List Nat) : Nat :=
  let ds := d.dims
  let o := d.otherAxes
  let p := linOf (o.map fun i => ds.getD i 1) (o.map fun i => cs.getD i 0)
  (p * (ds.getD d.waxis 1 / d.npos) + cs.getD d.waxis 0 / d.npos) * (inner ds 0 / d.e) + inner cs 0 / d.e

/-- Size of the data region (R181). -/
def Desc.dataEnd (d : Desc) : Nat :=
  let ds := d.dims
  if d.layout = 1 then prodL (ds.take (d.rank - 2)) * (inner ds 1 / 128) * (inner ds 0 / d.e) * 65536
  else if d.layout = 2 then
    prodL (d.otherAxes.map fun i => ds.getD i 1) * (ds.getD d.waxis 1 / d.npos) * (inner ds 0 / d.e) * 66048
  else (prodL ds * d.w / 8 + (if prodL ds * d.w % 8 = 0 then 0 else 1) + 511) / 512 * 512

/-- Start of the super-scales of a Q4N object, super-scale groups per innermost row, and the index of an element's group
(R181). -/
def Desc.superAt (d : Desc) : Nat := d.dataEnd + (prodL d.dims / 64 + 511) / 512 * 512
def Desc.superIdx (d : Desc) (lin : Nat) : Nat :=
  let n := inner d.dims 0
  lin / n * ((n + 16383) / 16384) + lin % n / 64 / 256

/-- End of the data and scale regions (R179). -/
def Desc.regionsEnd (d : Desc) : Nat :=
  if d.fmt = 11 then d.dataEnd + prodL d.dims / 32
  else if d.fmt = 12 then d.superAt + prodL d.dims / inner d.dims 0 * ((inner d.dims 0 + 16383) / 16384) * 4
  else d.dataEnd

/-- The coordinates of the element that a byte belongs to, for its shard (R184): a scale byte goes with the first element
of its block, a super-scale with that of its group's first block. -/
def Desc.coordsAt (d : Desc) (o : Nat) : List Nat :=
  let ds := d.dims
  let n := inner ds 0
  if d.dataEnd ≤ o then
    if d.fmt = 11 then coordsOf ds ((o - d.dataEnd) * 32)
    else if d.fmt = 12 then
      if o < d.superAt then coordsOf ds ((o - d.dataEnd) * 64)
      else
        let g := (o - d.superAt) / 4
        let per := (n + 16383) / 16384
        coordsOf ds (g / per * n + g % per * 16384)
    else coordsOf ds 0
  else if d.layout = 1 then
    let t := o / 65536
    let cols := n / d.e
    let rows := inner ds 1 / 128
    let p := t / (rows * cols)
    coordsOf (ds.take (d.rank - 2)) p ++
      [t / cols % rows * 128 + o % 65536 / 512, t % cols * d.e + o % 512 * 8 / d.w]
  else if d.layout = 2 then
    let t := o / 66048
    let cols := n / d.e
    let blocks := ds.getD d.waxis 1 / d.npos
    let os := coordsOf (d.otherAxes.map fun i => ds.getD i 1) (t / (blocks * cols))
    (List.range d.rank).map fun i =>
      if i = d.waxis then t / cols % blocks * d.npos
      else if i + 1 = d.rank then t % cols * d.e
      else os.getD (d.otherAxes.idxOf i) 0
  else coordsOf ds (o * 8 / d.w)

/-! ### The extent walk and residency (R184..R188) -/

/-- An 8-byte entry of a table, at a multiple of 8 (R184, R185). -/
def State.peekWord (s : State) (pa : Nat) : Nat := (s.peekLine (pa / 64)).toNat / 2 ^ (8 * (pa % 64)) % 2 ^ 64

/-- Fields of an extent entry (R185). -/
def entV (e : Nat) : Bool := e % 2 == 1
def entLeaf (e : Nat) : Bool := e / 2 % 2 == 1
def entWe (e : Nat) : Bool := e / 4 % 2 == 1
def entHome (e : Nat) : Nat := e / 8 % 4
def entComp (e : Nat) : Bool := e / 32 % 2 == 1
def entMeasured (e : Nat) : Bool := e / 64 % 2 == 1
def entKey (e : Nat) : Nat := e / 128 % 64
def entMoving (e : Nat) : Bool := e / 2 ^ 13 % 2 == 1
def entAddr (e : Nat) : Nat := e / 2 ^ 16 % 2 ^ 30 * 2 ^ 16

/-- A pointer entry as R185 allows it, and a leaf: reserved bits clear, and a space-10 address under HOME 11. -/
def entPointer (e : Nat) : Bool := entV e && !entLeaf e && e % 2 ^ 16 == 1 && e / 2 ^ 46 == 0
def entPage (e : Nat) : Bool :=
  entV e && entLeaf e && e / 2 ^ 14 % 4 == 0 && e / 2 ^ 46 % 256 == 0 && (entHome e != 3 || paSpace (entAddr e) == 2)

/-- The leaf of a byte offset and the offset in its page; none where the walk meets V = 0 or an entry that breaks R185. -/
def State.walk (s : State) (ext o : Nat) : Option (Nat × Nat) :=
  let key := ext / 2 ^ 46 * 2 ^ 46
  let e0 := s.peekWord (ext + 8 * (o / 2 ^ 30 % 512))
  if !entPointer e0 then none
  else
    let e1 := s.peekWord (key + entAddr e0 + 8 * (o / 2 ^ 21 % 512))
    if entV e1 && entLeaf e1 then
      if entPage e1 && entAddr e1 % 2 ^ 21 == 0 then some (e1, o % 2 ^ 21) else none
    else if !entPointer e1 then none
    else
      let e2 := s.peekWord (key + entAddr e1 + 8 * (o / 2 ^ 16 % 32))
      if entPage e2 then some (e2, o % 2 ^ 16) else none

/-- How a byte of an object is served (R186). Of one that another package serves, that package knows whether it may be written
and has a page to copy into. -/
inductive Served where
  | ok (x : Sector) (we : Bool)
  | missing
  | remote (pkg : Nat) (at_ : FarAt) (we room : Bool)
  deriving DecidableEq, Repr

/-- What another package answers of a page that it serves: a free choice. DESIGN CHOICE: notes/assumptions/2.md. -/
def State.farLeaf (s : State) (h : Word) (ver : Option Nat) (pkg o : Nat) : Served :=
  let n := Config.far .leaf s.fresh (hKey h * 2 ^ 23 + o / 65536)
  if n % 8 = 0 then .missing else .remote pkg ⟨hKey h, o / 64, ver⟩ (n % 8 != 1) (n % 8 != 2)

def leafServed (d : Desc) (e off : Nat) : Served :=
  let pa := entKey e * 2 ^ 46 + entAddr e + off
  if entMoving e || (paSpace pa == 1 && !d.direct) then .missing
  else .ok ⟨pa / 64 * 64, entHome e, entComp e⟩ (entWe e && !entComp e)

/-- The kept version of an object (R202). -/
def State.keptVer (s : State) (slot v : Nat) : Option KeptVer := s.kept.find? fun k => k.slot = slot && k.ver = v

/-- Entry s of a shard map (R184); a map homed elsewhere is read there. DESIGN CHOICE: notes/assumptions/2.md. -/
def State.shardEntry (s : State) (d : Desc) (sh : Nat) : Nat :=
  let m := BitVec.ofNat 64 d.shmap
  if s.elsewhere m then Config.far .word s.fresh (hKey m * 2 ^ 16 + sh) % 2 ^ 64
  else match s.walk (s.desc m).ext (8 * sh) with
  | some (e, off) => s.peekWord (entKey e * 2 ^ 46 + entAddr e + off)
  | none => 3

/-- The entry of the shard that holds byte o, where the object has shards (R184). -/
def State.shardAt (s : State) (d : Desc) (o : Nat) : Option Nat :=
  if d.shaxis = 7 then none else some (s.shardEntry d ((d.coordsAt o).getD d.shaxis 0 / d.shblk))

/-- A shard's slot, with the package that holds it. -/
def shardKey (e : Nat) : Nat := e / 8 % 512 * 2 ^ 23 + e / 2 ^ 12 % 2 ^ 23

/-- The other package that serves byte o of an object, with the slot of the descriptor that maps it there: the home of an
object homed elsewhere, unless a replica stands here (R188), or the holder of a shard (R184). -/
def State.holder (s : State) (h : Word) (d : Desc) (o : Nat) : Option (Nat × Nat) :=
  if hHome h ≠ s.pkg then
    if (mget s.descs (hKey h)).isSome then none else some (hHome h, hKey h)
  else match s.shardAt d o with
    | none => none
    | some e => if e % 8 = 2 ∨ (e % 8 < 2 ∧ e / 8 % 512 ≠ s.pkg) then some (e / 8 % 512, shardKey e) else none

/-- The descriptor whose extent table maps byte o here: the object's, or that of a shard which this package holds. -/
def State.homeDesc (s : State) (h : Word) (d : Desc) (o : Nat) : Option Desc :=
  if hHome h ≠ s.pkg then some d
  else match s.shardAt d o with
    | none => some d
    | some e => if e % 8 < 2 then some ((mget s.descs (shardKey e)).getD 0) else none

/-- The service of the sector that holds byte o of an object, in its draft or in a kept version. -/
def State.locate (s : State) (h : Word) (d : Desc) (ver : Option Nat) (o : Nat) : Served :=
  let copy := match ver with
    | some v => (s.keptVer (hKey h) v).bind fun k => mget k.pages (o / 65536)
    | none => none
  match copy with
  | some e => leafServed d e.toNat (o % 65536)
  | none =>
    match s.holder h d o, s.homeDesc h d o with
    | some (pkg, _), _ => s.farLeaf h ver pkg o
    | none, some d =>
      match s.walk d.ext o with
      | some (e, off) => leafServed d e off
      | none => .missing
    | none, none => .missing

/-! ### Requesters and violations (R189, R190) -/

/-- Who asks: partition, kind, core (1023 when none) and package. -/
structure Requester where
  part : Nat
  kind : ReqKind
  core : Nat
  pkg  : Nat
  deriving DecidableEq, Repr

def reqCode : ReqKind → Nat
  | .core => 0 | .fetch => 1 | .copy => 2 | .fabric => 3 | .host => 4 | .weight => 5 | .spill => 6

def Core.requester (c : Core) (pkg : Nat) (k : ReqKind) : Requester := ⟨c.tk.part, k, c.id, pkg⟩

/-- An entry of a violation log. -/
def vlogEntry (cyc : Nat) (q : Requester) (cause : BitVec 8) (h : Word) (cs : List Nat) : BitVec 512 :=
  BitVec.ofNat 512 <|
    place 478 34 cyc + place 470 8 cause.toNat + place 467 3 (reqCode q.kind) + place 457 10 q.core +
    place 448 9 q.pkg + packNat 64 (cs.take 6) * 2 ^ 64 + h.toNat

def VLog.push (l : VLog) (e : BitVec 512) : VLog :=
  if l.entries.length < 64 then { l with entries := e :: l.entries }
  else { entries := (e :: l.entries).take 64, lost := l.lost + 1 }

/-- Case 1 of R189: no live descriptor stands behind the handle. -/
def State.deadHandle (s : State) (h : Word) : Bool :=
  let d := s.desc h
  hLow h != 0 || !s.members.contains (hHome h) || d.state == 0 || d.state == 3 || d.gen != hGen h

/-- The entry goes to the owner's log where the object is homed, and for case 1 to the requester's. A shard's accesses are recorded
under the handle as it was presented. -/
def State.logViolation (s : State) (owner : Nat) (q : Requester) (cause : BitVec 8) (h : Word) (cs : List Nat)
    (shown : Option Word := none) : State :=
  if s.elsewhere h && !s.deadHandle h then s
  else { s with vlogs := mput s.vlogs owner
                  (((mget s.vlogs owner).getD {}).push (vlogEntry s.cycle q cause (shown.getD h) cs)) }

/-- The rights that a partition's grant on an object carries; none without a grant. The grants on an object homed elsewhere are
kept there. DESIGN CHOICE: notes/assumptions/2.md. -/
def State.grantOf (s : State) (slot part : Nat) : Option Nat :=
  if slot / 2 ^ 23 ≠ s.pkg then
    let n := Config.far .grant s.fresh (slot * 64 + part) % 512
    if n < 256 then some n else none
  else (s.grants.find? fun g => g.slot = slot && g.target = part).map fun g => g.rights.toNat

/-- Rights of `a` that `b` lacks. -/
def lacks (a b : Nat) : Bool := (a &&& (255 - b % 256)) != 0

/-- The violation of an access that needs the rights `need` (none for cases 1 and 2 only), in the order of R189: its
cause, and the partition whose log receives it. DEDUCED: notes/assumptions/35.md. -/
def State.violation (s : State) (q : Requester) (h : Word) (need : Option Nat) : Option (BitVec 8 × Nat) :=
  let d := s.desc h
  if s.deadHandle h then some (0x08, q.part)
  else
    let grant := if q.part = d.part then some 255 else s.grantOf (hKey h) q.part
    match grant, need with
    | none, _ => some (0x08, d.part)
    | some _, none => none
    | some g, some n =>
      if lacks (hRights h) d.rights || lacks (hRights h) g then some (0x08, d.part)
      else if lacks n (hRights h) then some (0x09, d.part) else none

/-! ### Watchpoints (R191) -/

/-- The linear index of an element at a bit offset. -/
def Desc.linAt (d : Desc) (bit : Nat) : Nat :=
  if d.layout = 1 then linOf d.dims (d.coordsAt (bit / 8) |>.set (d.rank - 1)
    ((d.coordsAt (bit / 8)).getD (d.rank - 1) 0 + bit % 8 / d.w)) else bit / d.w

/-- The first element, of n elements from a bit offset, that stands in a range watched here on an object, by its linear index. -/
def State.watchHit (s : State) (h : Word) (d : Desc) (bit n : Nat) : Option Nat :=
  let ws := s.watches.filter fun w => w.home * 2 ^ 23 + w.slot = hKey h
  (List.range n).findSome? fun i =>
    let lin := d.linAt (bit + i * d.w)
    (ws.find? fun w => w.lo ≤ lin && lin ≤ w.hi).map fun _ => lin

/-- The first element of an access by this package that is watched. An object homed elsewhere is watched there. DESIGN CHOICE:
notes/assumptions/2.md. -/
def State.watched (s : State) (h : Word) (d : Desc) (bit n : Nat) : Option Nat :=
  if !d.watch then none
  else if hHome h ≠ s.pkg then
    let k := Config.far .watch s.fresh (hKey h)
    if k % 2 = 0 ∧ 0 < n then some (d.linAt (bit + k / 2 % n * d.w)) else none
  else s.watchHit h d bit n

/-- A write by another agent into a range watched here is recorded, and Lovage gets a debug interrupt (R191, R339). A shard that
stands here is watched under the handle of its object. -/
def State.watchRecord (s : State) (q : Requester) (h : Word) (d : Desc) (bit n : Nat) : State :=
  match (if d.watch then s.watchHit h d bit n else none) with
  | none => s
  | some lin =>
    { s with watchLog := ⟨h, lin, q.kind, q.core, q.pkg, s.cycle⟩ :: s.watchLog }.sysPend 1

/-! ### Copy on write (R202) -/

/-- The kept versions of an object that still share a page with the draft. -/
def State.sharers (s : State) (slot page : Nat) : List KeptVer :=
  s.kept.filter fun k => k.slot = slot && (mget k.pages page).isNone

/-- The first of the bytes listed whose page needs a copy for which the object's pool has no page left. -/
def State.poolShort (s : State) (h : Word) (os : List Nat) : Option Nat :=
  let shared := os.filter fun o => !(s.sharers (hKey h) (o / 65536)).isEmpty
  match ((shared.map (· / 65536)).eraseDups)[s.pool.countP fun p => p.1 = hKey h]? with
  | none => none
  | some page => shared.find? fun o => o / 65536 = page

/-- A page that comes into use keeps no line of its former use in any cache. -/
def State.purgePage (s : State) (line : Nat) : State :=
  (List.range 24).foldl (fun s d =>
    (s.invalidateAt d line 10).modDie d fun die => { die with msc := die.msc.filter fun l => l.line / 1024 ≠ line / 1024 }) s

/-- The 1,024 sectors of a page, copied to another; a page of a scratchpad is read there (R280). -/
def State.copySectors (s : State) (src dst : Nat) : State :=
  (List.range 1024).foldl (fun s i =>
    if paSpace (src * 64) = 2 then s.ctlWrite (dst + i) (s.padSector ((src + i) * 64))
    else
      let (l, s) := s.forwarded (src + i)
      (s.meterLine l false).ctlWrite (dst + i) (s.peekLine l)) s

/-- The copy of a page before its first write: kept versions that shared it read the copy from then on. DEDUCED: notes/assumptions/43.md. -/
def State.cow (s : State) (h : Word) (d : Desc) (o : Nat) : State :=
  let slot := hKey h
  let page := o / 65536
  if (s.sharers slot page).isEmpty then s
  else
    match s.pool.find? fun p => p.1 = slot, (s.homeDesc h d (page * 65536)).bind fun d => s.walk d.ext (page * 65536) with
    | some (_, dst), some (e, off) =>
      let src := (entKey e * 2 ^ 46 + entAddr e + off) / 65536 * 65536
      let to_ := entKey e * 2 ^ 46 + dst
      let s := (s.purgePage (to_ / 64)).copySectors (src / 64) (to_ / 64)
      let leaf : Word := BitVec.ofNat 64 (dst / 65536 * 65536 + entKey e * 128 + e % 128 / 64 * 64 + 7)
      { s with
        pool := s.pool.erase (slot, dst)
        kept := s.kept.map fun k =>
          if k.slot = slot && (mget k.pages page).isNone then { k with pages := mput k.pages page leaf } else k }
    | _, _ => s

/-! ### Spans of bits -/

/-- The sectors of bits [bit, bit + n) of an object's linear space, in order, as they are served. -/
def State.span (s : State) (h : Word) (d : Desc) (ver : Option Nat) (bit n : Nat) : List Served :=
  let first := bit / 512
  (List.range ((bit + n - 1) / 512 - first + 1)).map fun i => s.locate h d ver (64 * (first + i))

/-- The first byte of the span that is not served; each sector is served as a whole. -/
def firstMissing (bit : Nat) (l : List Served) : Option Nat :=
  (l.findIdx? fun x => x == .missing).map fun i => if i = 0 then bit / 8 else (bit / 512 + i) * 64

/-- The first byte that may not be written through its leaf. -/
def firstReadOnly (bit : Nat) (l : List Served) : Option Nat :=
  (l.findIdx? fun x => match x with | .ok _ we => !we | .remote _ _ we _ => !we | _ => false).map fun i =>
    if i = 0 then bit / 8 else (bit / 512 + i) * 64

/-- The first byte that a write of pieces (bit offset, sectors) must wait for: its page has to be copied, and the pool has no page left
(R202). -/
def firstBlocked (s : State) (h : Word) (ps : List (Nat × List Served)) : Option Nat :=
  let os : List (Nat × Served) := ps.flatMap fun p => p.2.zipIdx.map fun x => (if x.2 = 0 then p.1 / 8 else (p.1 / 512 + x.2) * 64, x.1)
  let far := os.find? fun p => match p.2 with | .remote _ _ _ room => !room | _ => false
  let here := s.poolShort h (os.filterMap fun p => match p.2 with | .ok _ _ => some p.1 | _ => none)
  match here, far with
  | some a, some b => some (min a b.1)
  | a, b => a.orElse fun _ => b.map (·.1)

/-- The region of a core's task, where the task is of a partition. -/
def State.ridOf (s : State) (core part : Nat) : Nat :=
  let t := (s.coreOf core).tk
  if core < 784 ∧ t.part = part then t.rid else 0

/-- Bits of a sector replaced. -/
def putBits (m : Mask) (lo n v : Nat) : Mask :=
  let sel : Mask := BitVec.ofNat 512 ((2 ^ n - 1) * 2 ^ lo)
  (m &&& ~~~sel) ||| (BitVec.ofNat 512 (v % 2 ^ n * 2 ^ lo))

/-- What this package knows of a sector that another serves: its bytes as they were last read or written here, else free data. A
draft's sector may have been written by another package since, which this one does not see; a kept version's and a spill slot's
(`own`) may not (R124, R202). DESIGN CHOICE: notes/assumptions/2.md. -/
def State.farSector (s : State) (a : FarAt) (own : Bool) : Mask :=
  let known := if own || a.ver.isSome || Config.far .other s.fresh (a.key * 2 ^ 42 + a.sec) % 2 == 0 then
    (s.farMem.find? fun p => p.1 = a).map (·.2) else none
  known.getD (BitVec.ofNat 512 (Config.freeNat s.fresh))

/-- A sector of another package is known as it now is. -/
def State.keepFar (s : State) (a : FarAt) (m : Mask) : State :=
  { s with farMem := (a, m) :: s.farMem.filter fun p => p.1 ≠ a, fresh := s.fresh + 1 }

/-- A write of this package to a sector that another serves (R199). -/
def State.writeFar (s : State) (a : FarAt) (f : Mask → Mask) : State := s.keepFar a (f (s.farSector a true))

/-- A sector that another package serves, read by agent c for a partition: its bytes, or uncorrectable (its address there is free as
well). Its 64 bytes come over the fabric. DESIGN CHOICE: notes/assumptions/2.md. -/
def State.readFar (s : State) (k c : Nat) (a : FarAt) (own : Bool := false) : Except Nat Nat × State :=
  let m := s.farSector a own
  let s1 := (s.keepFar a m).sched s.cycle ptEnd (.meterAdd k (s.ridOf c k) 10 64)
  if Config.far .bad s.fresh (a.key * 2 ^ 42 + a.sec) % 2 = 1 then
    (.error (Config.freeNat s.fresh % 2 ^ 46 * 64), { s1 with farMem := s.farMem })
  else (.ok m.toNat, s1)

/-- The partition that a core works for. -/
def State.workPart (s : State) (c : Nat) : Nat := (s.coreOf c).tk.part

/-- Reading the sectors of a span: the bits from the first sector's start, or the physical address of the first sector
that is uncorrectable. -/
def State.readServed (s : State) (c : Nat) (l1 : Bool) (cls : Nat) (own : Bool := false) : List Served → Except Nat Nat × State
  | [] => (.ok 0, s)
  | x :: t =>
    let (r, s) : Except Nat Nat × State := match x with
      | .ok x _ =>
        match s.readSector c x l1 cls with
        | (some m, s) => (.ok m.toNat, s)
        | (none, s) => (.error x.pa, s)
      | .remote _ a _ _ => s.readFar (s.workPart c) c a own
      | .missing => (.ok 0, s)
    match r with
    | .error e => (.error e, s)
    | .ok a =>
      match s.readServed c l1 cls own t with
      | (.ok b, s) => (.ok (a + 2 ^ 512 * b), s)
      | (.error e, s) => (.error e, s)

/-- The n bits at a bit offset, little-endian in the object's bits (R7); `own` for a spill access. -/
def State.readBits (s : State) (c : Nat) (l1 : Bool) (l : List Served) (bit n : Nat) (own : Bool := false) : Except Nat Nat × State :=
  match s.readServed c l1 (match l with | .ok x _ :: _ => classOf false false x.line | _ => 1) own l with
  | (.ok v, s) => (.ok (v / 2 ^ (bit % 512) % 2 ^ n), s)
  | r => r

/-- The part of a write of `v` under the bits `m`, both counted from the first sector, that falls in sector i. -/
def sliceWrite (m v i : Nat) (old : Mask) : Mask :=
  let mi : Mask := BitVec.ofNat 512 (m / 2 ^ (512 * i))
  (old &&& ~~~mi) ||| (BitVec.ofNat 512 (v / 2 ^ (512 * i)) &&& mi)

/-- Payload bytes of a packet, and the partition that they are metered to (R356). DEDUCED: notes/assumptions/30.md. -/
def packetLoad : PacketBody → Option (Nat × Nat)
  | .access a => some (a.part, a.len)
  | .element part _ _ _ _ op _ _ =>
    if op = 0 ∨ op = 2 ∨ op = 4 ∨ op = 20 then none else some (part, if op = 1 ∨ op = 18 ∨ op = 19 then 512 else 8)
  | .bits part _ _ _ _ _ ps => some (part, ps.foldl (fun n p => n + (p.2.1 + 7) / 8) 0)
  | .feedback part _ _ _ adds => some (part, 8 * adds.length)
  | .value _ part n _ => if n = 0 then none else some (part, n)
  | _ => none

/-- The live paths to a package: packets go over every port that is UP (R209, R375). -/
def State.livePaths (s : State) : List Nat := (s.ports.filter fun p => p.2.st = .up).map (·.1)

/-- The port that the next packet to a package takes: the UP ports in turn (R375); none while no port is UP. -/
def State.nextPort (s : State) (pkg : Nat) : Option Nat :=
  match s.via.find? fun v => v.1 = pkg with
  | some v => (s.livePaths.find? fun n => v.2.2 < n).orElse fun _ => s.livePaths.head?
  | none => s.livePaths.head?

/-- A packet toward another package, over a port where there is one: otherwise it waits (R375). -/
def State.post (s : State) (pkg core : Nat) (b : PacketBody) (port : Option Nat) : State :=
  { s with outbox := (pkg, { src := s.pkg, srcCore := core, seq := s.sent, body := b }) :: s.outbox, sent := s.sent + 1,
           via := match port with | some n => (pkg, s.sent, n) :: s.via | none => s.via }

/-- A packet that has been sent goes again, or at last (R375). -/
def State.route (s : State) (pkg seq : Nat) : State :=
  match s.nextPort pkg with
  | some n => { s with via := (pkg, seq, n) :: s.via }
  | none => s

/-- The packets that wait for a port go once one is UP. -/
def State.routeWaiting (s : State) : State :=
  s.outbox.reverse.foldl (fun s p => if s.via.any fun v => v.2.1 = p.2.seq then s else s.route p.1 p.2.seq) s

/-- A port has stopped sending: what it sent and no one has acknowledged goes again on live ports (R375). When an acknowledgement comes is
not given, so which packets those are is free. DESIGN CHOICE: notes/assumptions/30.md. -/
def State.reroute (s : State) (port : Nat) : State :=
  s.via.reverse.foldl (fun s v =>
    if v.2.2 ≠ port then s
    else match s.choose 2 with
      | (0, s) => s
      | (_, s) => { s with via := s.via.filter (· ≠ v) }.route v.1 v.2.1) s

/-- A packet to another package for an object, with its bytes on FAB_TX. -/
def State.toPackage (s : State) (pkg core : Nat) (b : PacketBody) : State :=
  let s := match packetLoad b with
    | some (k, n) => s.sched s.cycle ptEnd (.meterAdd k (s.ridOf core k) 9 n)
    | none => s
  s.post pkg core b (s.nextPort pkg)

/-- The coordinates of the element at a bit offset. -/
def Desc.coordsOfBit (d : Desc) (bit : Nat) : List Nat :=
  if d.layout = 2 ∨ d.dataEnd ≤ bit / 8 then d.coordsAt (bit / 8) else coordsOf d.dims (d.linAt bit)

/-- Bits that another package writes, in one request to each package: offset, width and value of each piece, none of which crosses a
sector. Spill accesses have no coordinates (R123). -/
def State.forwardBits (s : State) (q : Requester) (h : Word) (d : Desc) (ps : List (Nat × Nat × Nat)) : State :=
  let to_ := ps.map fun p => (s.holder h d (p.1 / 512 * 64), p)
  ((to_.filterMap (·.1)).eraseDups).foldl (fun s t =>
    let mine := (to_.filter fun p => p.1 = some t).map (·.2)
    let cs := if q.kind = .spill then [] else d.coordsOfBit (mine.headD (0, 0, 0)).1
    mine.foldl (fun s p => s.writeFar ⟨hKey h, p.1 / 512, none⟩ fun m => putBits m (p.1 % 512) p.2.1 p.2.2)
      (s.toPackage t.1 q.core (.bits q.part q.core q.kind h t.2 cs mine))) s

/-- The parts of a write of n bits at a bit offset whose sectors another package serves. -/
def farSlices (l : List Served) (bit n v : Nat) : List (Nat × Nat × Nat) :=
  l.zipIdx.filterMap fun p => match p.1 with
    | .remote _ _ _ _ =>
      let lo := max bit (512 * (bit / 512 + p.2))
      let hi := min (bit + n) (512 * (bit / 512 + p.2 + 1))
      some (lo, hi - lo, v / 2 ^ (lo - bit) % 2 ^ (hi - lo))
    | _ => none

/-- The sectors of a write that this package serves, one by one, after the copies that versions need. -/
def State.writeHere (s : State) (q : Requester) (h : Word) (d : Desc) (l : List Served) (bit n v : Nat) : State :=
  let m := (2 ^ n - 1) * 2 ^ (bit % 512)
  let w := v % 2 ^ n * 2 ^ (bit % 512)
  (List.range l.length).foldl (fun s i =>
    match l.getD i .missing with
    | .ok x _ => (s.cow h d ((bit / 512 + i) * 64)).writeSector q.core x (classOf false false x.line) (sliceWrite m w i)
    | _ => s) s

/-- Writing n bits at a bit offset of an object; what other packages hold is forwarded there (R184). -/
def State.writeBits (s : State) (q : Requester) (h : Word) (d : Desc) (l : List Served) (bit n v : Nat) : State :=
  (s.writeHere q h d l bit n v).forwardBits q h d (farSlices l bit n v)

/-- A pin of the task on an object (R218). -/
def Core.pinOf (c : Core) (h : Word) : Option Nat :=
  (c.pins.find? fun p => p.home * 2 ^ 23 + p.slot = hKey h).map (·.ver)

end Sys2Proof.Machine
end

