-- ==== Sys2Proof/Machine/Objects.lean ====
section
/-! DEFINITION. Class 8, the handle memory words (R192..R200): resolution with its faults in order (R194), loads and
stores, prefetch, atomics on elements and runs, and `hinfo`. The core's accesses are performed at issue, in word order
(R199); R419 leaves the arrival of values free. -/

namespace Sys2Proof.Machine

open Sys2Proof

/-- What a class-8 word asks of an object: its right, whether it touches a run of 4096 bits, whether it writes, and how its
format is checked (R194): an atomic needs 8, 16 or 32 bits; an FP atomic, or an atomic run on an FP format, needs FP32,
FP16 or BF16. -/
structure Op8 where
  need   : Nat
  run    : Bool := false
  write  : Bool := false
  atomic : Bool := false
  fpOnly : Bool := false
  vec    : Bool := false
  deriving DecidableEq, Repr

/-- A resolved access: the descriptor, the bit offset and length, and the sectors as they are served. -/
structure Target where
  d    : Desc
  bit  : Nat
  n    : Nat
  span : List Served
  deriving DecidableEq, Repr

/-- A fault of the handle path, with the partition whose log records it, where it is a violation, and the bytes that the access
touches, where Lovage has to serve them (R186). -/
structure HFault where
  raise : Raise
  log   : Option Nat := none
  want  : List (Word × Option Nat × Bool × List (Nat × Nat)) := []
  deriving DecidableEq, Repr

/-- Residency, rights through leaves and the requester's pin, of an access's pieces (bit offset, width, and the sectors as they
are served), each condition on every piece before the next (R186, R188, R202, R218): the causes that rank after the bounds
checks. -/
def State.checkSpan (s : State) (h : Word) (d : Desc) (write pinned : Bool) (ver : Option Nat)
    (ps : List (Nat × Nat × List Served)) : Option HFault :=
  let at_ := fun (c : BitVec 8) (o : Nat) => (⟨c, h, BitVec.ofNat 64 o⟩ : Raise)
  let want := [(h, ver, write, ps.map fun p => (p.1, p.2.1))]
  let o0 := (ps.headD (0, 0, [])).1 / 8
  match ps.findSome? fun p => firstMissing p.1 p.2.2 with
  | some o => some { raise := at_ 0x0B o, want }
  | none =>
    if !write then none
    else if d.replicated then some { raise := at_ 0x09 o0 }
    else match ps.findSome? fun p => firstReadOnly p.1 p.2.2 with
      | some o => some { raise := at_ 0x09 o, log := some d.part }
      | none =>
        if pinned then some { raise := at_ 0x09 o0 }
        else match firstBlocked s h (ps.map fun p => (p.1, p.2.2)) with
          | some o => some { raise := at_ 0x0B o, want }
          | none => none

/-- The index tuple (R13). -/
def State.tuple (s : State) (xi : XReg) (rank : Nat) : List Nat :=
  (List.range rank).map fun i => (s.getX (xi + BitVec.ofNat 6 i)).toNat

/-- Whether a format suits an operation (R194). -/
def Op8.fmtOk (o : Op8) (fmt : Nat) : Bool :=
  !o.atomic || (fmtWidth fmt != 4 && (!(o.fpOnly || (o.vec && decide (fmt < 5))) || (fmtFp fmt).isSome))

/-- Block length of a format (R183), 1 where it has none. -/
def Desc.blk (d : Desc) : Nat := if d.fmt = 11 then 32 else if d.fmt = 12 then 64 else 1

/-- A tuple that would run past x63 (R13): an illegal instruction, which R30 ranks first. The tuple takes the RANK of the object that
the handle names, so a handle that names no object on which the partition holds a grant has none, and 0x08 stands (DESIGN CHOICE:
notes/assumptions/48.md). -/
def State.tupleOver (s : State) (h : Word) (xi : XReg) : Bool :=
  decide (64 < xi.toNat + (s.desc h).rank) && (s.violation (s.core.requester s.pkg .core) h none).isNone

/-- Resolution of an access at coordinates (R193), its faults in the order of R194. `pin` is the version that the requester has
pinned; `bad` is a tuple that does not fit the registers, which stands before all of them (R13, R30), or the rank. -/
def State.resolveAt (s : State) (q : Requester) (pin : Option Nat) (info : Word) (h : Word) (cs : List Nat) (bad : Bool)
    (o : Op8) : Except HFault Target :=
  let d := s.desc h
  if bad && (s.violation q h none).isNone then .error { raise := ⟨0x01, info, 0⟩ }
  else match s.violation q h (some o.need) with
  | some (c, owner) => .error { raise := ⟨c, h, 0⟩, log := some owner }
  | none =>
    if d.layout = 2 then .error { raise := ⟨0x05, 0, h⟩ }
    else if !o.fmtOk d.fmt then .error { raise := ⟨0x01, info, 0⟩ }
    else
      let bit := d.bitOf cs
      let n := if o.run then 4096 else d.w
      let last := (bit + n - 1) / 8
      if (cs.zip d.dims).any fun p => decide (p.2 ≤ p.1) then .error { raise := ⟨0x0A, h, BitVec.ofNat 64 (bit / 8)⟩ }
      else if d.extent ≤ last then .error { raise := ⟨0x0A, h, BitVec.ofNat 64 (max (bit / 8) d.extent)⟩ }
      else if o.run && !o.atomic && inner cs 0 % d.blk ≠ 0 then
        .error { raise := ⟨0x0C, h, BitVec.ofNat 64 (inner cs 0)⟩ }
      else
        let ver := if o.write then none else pin
        let span := s.span h d ver bit n
        match s.checkSpan h d o.write pin.isSome ver [(bit, n, span)] with
        | some f => .error f
        | none =>
          match (if o.write && q.kind == .core then s.watched h d bit (n / d.w) else none) with
          | some lin => .error { raise := ⟨0x11, h, BitVec.ofNat 64 lin⟩ }
          | none => .ok ⟨d, bit, n, span⟩

/-- Resolution of a word's access by the core. -/
def State.resolve8 (s : State) (h : Word) (xi : XReg) (o : Op8) : Except HFault Target :=
  let r := (s.desc h).rank
  s.resolveAt (s.core.requester s.pkg .core) (s.core.pinOf h) s.wordInfo h (s.tuple xi r) (decide (64 < xi.toNat + r)) o

/-- A handle-path fault of the core: a violation is recorded, and the group faults. DEDUCED: notes/assumptions/35.md. -/
def State.hFault (s : State) (k : ReqKind) (h : Word) (cs : List Nat) (f : HFault) : State :=
  let s := match f.log with
    | some owner => s.logViolation owner (s.core.requester s.pkg k) f.raise.cause h cs
    | none => s
  (s.takeFault f.raise).onCore fun c => { c with wanted := f.want }

/-- The fault of a class-8 word. -/
def State.handleFault (s : State) (h : Word) (cs : List Nat) (f : HFault) : State :=
  s.hFault .core h cs f

/-- A class-8 word on a handle: its fault, or the access. -/
def State.with8 (s : State) (h : Word) (xi : XReg) (o : Op8) (k : Target → State → State) : State :=
  let s := s.learn h
  match s.resolve8 h xi o with
  | .error f => s.handleFault h (s.tuple xi (s.desc h).rank) f
  | .ok t => k t s

/-- The request for a load or an atomic to the package that serves byte o of an object (R184). -/
def State.askFar (s : State) (q : Requester) (h : Word) (d : Desc) (o : Nat) (cs : List Nat) (op : Nat) (data : Vec)
    (ver : Option Nat := none) : State :=
  match s.holder h d o with
  | some t => s.toPackage t.1 q.core (.element q.part q.core h t.2 (cs.map (BitVec.ofNat 64)) op data ver)
  | none => s

/-- The sectors of a span that other packages serve: the package, and the sector's first byte. -/
def farSectors (l : List Served) : List (Nat × Nat) :=
  l.filterMap fun x => match x with | .remote pkg a _ _ => some (pkg, 64 * a.sec) | _ => none

/-- A load's requests, one to each package that serves some of its sectors. -/
def State.askLoad (s : State) (q : Requester) (h : Word) (cs : List Nat) (op : Nat) (ver : Option Nat) (t : Target) : State :=
  ((farSectors t.span).foldl (fun (l : List (Nat × Nat)) p => if l.any fun q => q.1 = p.1 then l else l ++ [p]) []).foldl
    (fun s p => s.askFar q h t.d p.2 cs op 0 ver) s

/-- Sectors of an object asked for, in one request to each package that serves some of them. -/
def State.askSectors (s : State) (q : Requester) (h : Word) (d : Desc) (ver : Option Nat) (l : List (Nat × Nat)) : State :=
  ((l.map (·.1)).eraseDups).foldl (fun s pkg =>
    let mine := (l.filter fun p => p.1 = pkg).map (·.2)
    s.askFar q h d (mine.headD 0) mine 4 0 ver) s

/-- The core as it asks other packages for data of an object. -/
def State.asker (s : State) : Requester := s.core.requester s.pkg .core

/-- Whether every sector of a span is in the core's L1 object cache: the load then takes 9 cycles (R195). -/
def State.l1All (s : State) (l : List Served) : Bool :=
  l.all fun x => match x with
    | .ok x _ => s.reachOk s.core.id x && x.home != 1 && paSpace x.pa != 2 && (s.l1Hit s.core.id (s.migrated x.line).1).isSome
    | _ => false

/-- The cycle in which a load's value arrives: 9 cycles after issue from the L1, a free time otherwise (R33, R419). DESIGN CHOICE: notes/assumptions/5.md. -/
def State.loadDue (s : State) (l : List Served) : Nat × State :=
  if s.l1All l then (s.cycle + 9, s)
  else
    let (n, s) := s.draw .load
    let far := l.any fun x => match x with | .remote .. => true | _ => false
    (s.cycle + 1 + n, if far then { s with farDue := max s.farDue (s.cycle + 1 + n) } else s)

/-- An element as a scalar (R195): integer formats and INT4 sign-extended, natural, floating-point and code formats
zero-extended. -/
def elemWord (fmt w v : Nat) : Word := if fmtSigned fmt then BitVec.ofInt 64 (intOfPat w true v) else BitVec.ofNat 64 v

/-- `hld` (R195). -/
def State.loadRun (s : State) (d : VCode) (h : Word) (xi : XReg) : State :=
  s.with8 h xi { need := 1, run := true } fun t s =>
      let (due, s) := (s.askLoad s.asker h (s.tuple xi t.d.rank) 0 (s.core.pinOf h) t).loadDue t.span
      match s.readBits s.core.id true t.span t.bit t.n with
      | (.ok v, s) => s.produceV d (BitVec.ofNat 4096 v) tagS due
      | (.error pa, s) => s.fault 0x18 (BitVec.ofNat 64 pa) (s.core.prestart.zeroExtend 64)

/-- `hlds` (R195). -/
def State.loadElem (s : State) (d : XReg) (h : Word) (xi : XReg) : State :=
  s.with8 h xi { need := 1 } fun t s =>
      let (due, s) := (s.askLoad s.asker h (s.tuple xi t.d.rank) 2 (s.core.pinOf h) t).loadDue t.span
      match s.readBits s.core.id true t.span t.bit t.n with
      | (.ok v, s) => s.produceX d (elemWord t.d.fmt t.d.w v) due
      | (.error pa, s) => s.fault 0x18 (BitVec.ofNat 64 pa) (s.core.prestart.zeroExtend 64)

/-- A store of n bits (R195); a vector source tagged H or X faults first (R194). -/
def State.storeBits (s : State) (h : Word) (xi : XReg) (run : Bool) (v : Nat) : State :=
  s.with8 h xi { need := 2, run := run, write := true } fun t s => s.writeBits (s.core.requester s.pkg .core) h t.d t.span t.bit t.n v

/-- A vector source of an object store: H and X tags are a domain fault at operand read (R194), after the tuple's illegal
instruction (R13, R30). -/
def State.vectorOut (s : State) (d : VCode) (h i : XReg) (k : Vec → State) : State :=
  let v := s.getV d
  if (Tag.isH v.tag || Tag.isX v.tag) && !s.tupleOver (s.getX h) i then s.fault 0x05 (domainInfo (d.toNat, v.tag))
  else k v.data

/-- `hld` (R195). -/
def execHld (d h i : XReg) (e : Bool) (s : State) : Host.Outcome State Fault Refusal :=
  s.computeWord (.hld d h i e) fun s => s.loadRun d (s.getX h) i

/-- `hst` (R195). -/
def execHst (d h i : XReg) (e : Bool) (s : State) : Host.Outcome State Fault Refusal :=
  s.computeWord (.hst d h i e) fun s => s.vectorOut d h i fun v => s.storeBits (s.getX h) i true v.toNat

/-- `hlds` (R195). -/
def execHlds (d h i : XReg) (e : Bool) (s : State) : Host.Outcome State Fault Refusal :=
  s.computeWord (.hlds d h i e) fun s => s.loadElem d (s.getX h) i

/-- `hsts` (R195): the low w bits, unchanged. -/
def execHsts (d h i : XReg) (e : Bool) (s : State) : Host.Outcome State Fault Refusal :=
  s.computeWord (.hsts d h i e) fun s => s.storeBits (s.getX h) i false (s.getX d).toNat

/-- `hpf` (R196): the run's sectors enter the L1; a prefetch that would fault, or that reaches a byte not RESIDENT_HBM, is
dropped. A byte of a HOME 11 page is RESIDENT_HBM (R186), and no cache holds it (R280). -/
def State.prefetch (s : State) (h : Word) (xi : XReg) : State :=
  match s.resolve8 h xi { need := 1, run := true } with
  | .error _ => s
  | .ok t =>
    if t.span.all fun x => match x with | .ok x _ => paSpace x.pa != 1 && s.reachOk s.core.id x | _ => false then
      if s.l2Holds s.core.id then
        { s with pfHeld := s.pfHeld ++ t.span.filterMap fun x => match x with
            | .ok x _ => some (s.core.id, x.pa, x.home, x.comp)
            | _ => none }
      else (s.readBits s.core.id true t.span t.bit t.n).2
    else s

/-- The prefetches that an L2 has kept back go on once it takes requests again (R272). -/
def State.pollPrefetch (s : State) : State :=
  s.pfHeld.foldl (fun s p =>
    if s.l2Holds p.1 then s
    else (({ s with pfHeld := s.pfHeld.erase p } : State).readSector p.1 ⟨p.2.1, p.2.2.1, p.2.2.2⟩ true (classOf false false (p.2.1 / 64))).2) s

/-- `hpf` (R196). -/
def execHpf (h i : XReg) (e : Bool) (s : State) : Host.Outcome State Fault Refusal :=
  s.computeWord (.hpf h i e) fun s => s.prefetch (s.getX h) i

/-! ### Atomics (R197, R198) -/

/-- What an atomic leaves in an element of width w. -/
def atomicFn (op : AtomicOp) (w fmt old v new : Nat) : Nat :=
  let sg := intOfPat w true
  let ff := (fmtFp fmt).getD .f32
  match op with
  | .add => (old + v) % 2 ^ w
  | .max => if sg old < sg v then v else old
  | .min => if sg v < sg old then v else old
  | .maxn => max old v
  | .minn => min old v
  | .and => old &&& v
  | .or => old ||| v
  | .xor => old ^^^ v
  | .swp => v
  | .cas => if old = v then new else old
  | .fadd => (ff.add {} old v).1
  | .fmax => ff.minmax false true old v
  | .fmin => ff.minmax false false old v

/-- An atomic on the element of width w at a bit of a sector. -/
def atomicOnSector (op : AtomicOp) (w fmt bit v new : Nat) (m : Mask) : Mask :=
  let old := m.toNat / 2 ^ bit % 2 ^ w
  BitVec.ofNat 512 (m.toNat - old * 2 ^ bit + atomicFn op w fmt old v new % 2 ^ w * 2 ^ bit)

/-- An atomic on one element, performed at its place (R285): the old value, or the address of uncorrectable data. -/
def State.performAtomic (s : State) (core : Nat) (x : Sector) (op : AtomicOp) (w fmt bit v new : Nat) (ret : Bool) :
    Except Nat Nat × State :=
  match s.atomicSector core x ret (atomicOnSector op w fmt bit v new) with
  | (some m, s) => (.ok (m.toNat / 2 ^ bit % 2 ^ w), s)
  | (none, s) => (.error x.pa, s)

/-- An atomic on an element of a sector that another package serves: its old value. -/
def State.atomicFar (s : State) (k c : Nat) (a : FarAt) (op : AtomicOp) (w fmt bit v new : Nat) : Except Nat Nat × State :=
  match s.readFar k c a with
  | (.ok m, s) => (.ok (m / 2 ^ bit % 2 ^ w), s.writeFar a (atomicOnSector op w fmt bit v new))
  | r => r

/-- An element atomic of the core (R197). -/
def State.atomicElem (s : State) (code : Nat) (op : AtomicOp) (fp : Bool) (d : XReg) (h : Word) (xi : XReg) (nr : Bool) :
    State :=
  let v := (s.getX d).toNat
  let new := if op = .cas then (s.getX (d + 1)).toNat else 0
  s.with8 h xi { need := 4, write := true, atomic := true, fpOnly := fp } fun t s =>
    let (r, s) : Except Nat Nat × State := match t.span with
      | [.ok x _] =>
        let s := s.cow h t.d (t.bit / 8)
        s.performAtomic s.core.id x op t.n t.d.fmt (t.bit % 512) (v % 2 ^ t.n) (new % 2 ^ t.n) (!nr)
      | [.remote _ a _ _] =>
        (s.askFar s.asker h t.d (t.bit / 8) (s.tuple xi t.d.rank) code (BitVec.ofNat 4096 (v + 2 ^ 64 * new))).atomicFar
          s.core.tk.part s.core.id a op t.n t.d.fmt (t.bit % 512) (v % 2 ^ t.n) (new % 2 ^ t.n)
      | _ => (.ok 0, s)
    match r with
    | .ok old =>
      if nr then s
      else
        let (n, s) := s.draw .load
        s.produceX d (elemWord t.d.fmt t.n (old % 2 ^ t.n)) (s.cycle + 1 + n)
    | .error pa => if nr then s else s.fault 0x18 (BitVec.ofNat 64 pa) (s.core.prestart.zeroExtend 64)

/-- `haadd` (R197): integer add. -/
def execHaadd (d h i : XReg) (r e : Bool) (s : State) : Host.Outcome State Fault Refusal :=
  s.computeWord (.haadd d h i r e) fun s => s.atomicElem 5 .add false d (s.getX h) i r

/-- `hamax` (R197): signed maximum. -/
def execHamax (d h i : XReg) (r e : Bool) (s : State) : Host.Outcome State Fault Refusal :=
  s.computeWord (.hamax d h i r e) fun s => s.atomicElem 6 .max false d (s.getX h) i r

/-- `hamin` (R197): signed minimum. -/
def execHamin (d h i : XReg) (r e : Bool) (s : State) : Host.Outcome State Fault Refusal :=
  s.computeWord (.hamin d h i r e) fun s => s.atomicElem 7 .min false d (s.getX h) i r

/-- `hamaxn` (R197): unsigned maximum. -/
def execHamaxn (d h i : XReg) (r e : Bool) (s : State) : Host.Outcome State Fault Refusal :=
  s.computeWord (.hamaxn d h i r e) fun s => s.atomicElem 8 .maxn false d (s.getX h) i r

/-- `haminn` (R197): unsigned minimum. -/
def execHaminn (d h i : XReg) (r e : Bool) (s : State) : Host.Outcome State Fault Refusal :=
  s.computeWord (.haminn d h i r e) fun s => s.atomicElem 9 .minn false d (s.getX h) i r

/-- `haand` (R197): AND. -/
def execHaand (d h i : XReg) (r e : Bool) (s : State) : Host.Outcome State Fault Refusal :=
  s.computeWord (.haand d h i r e) fun s => s.atomicElem 10 .and false d (s.getX h) i r

/-- `haor` (R197): OR. -/
def execHaor (d h i : XReg) (r e : Bool) (s : State) : Host.Outcome State Fault Refusal :=
  s.computeWord (.haor d h i r e) fun s => s.atomicElem 11 .or false d (s.getX h) i r

/-- `haxor` (R197): XOR. -/
def execHaxor (d h i : XReg) (r e : Bool) (s : State) : Host.Outcome State Fault Refusal :=
  s.computeWord (.haxor d h i r e) fun s => s.atomicElem 12 .xor false d (s.getX h) i r

/-- `haswp` (R197): swap. -/
def execHaswp (d h i : XReg) (r e : Bool) (s : State) : Host.Outcome State Fault Refusal :=
  s.computeWord (.haswp d h i r e) fun s => s.atomicElem 13 .swp false d (s.getX h) i r

/-- `hacas` (R197): compare and swap with x(d + 1). -/
def execHacas (d h i : XReg) (r e : Bool) (s : State) : Host.Outcome State Fault Refusal :=
  s.computeWord (.hacas d h i r e) fun s => s.atomicElem 14 .cas false d (s.getX h) i r

/-- `hfadd` (R197): floating-point add, rounded to nearest even, subnormals kept. -/
def execHfadd (d h i : XReg) (r e : Bool) (s : State) : Host.Outcome State Fault Refusal :=
  s.computeWord (.hfadd d h i r e) fun s => s.atomicElem 15 .fadd true d (s.getX h) i r

/-- `hfamax` (R197): floating-point maximum under R70. -/
def execHfamax (d h i : XReg) (r e : Bool) (s : State) : Host.Outcome State Fault Refusal :=
  s.computeWord (.hfamax d h i r e) fun s => s.atomicElem 16 .fmax true d (s.getX h) i r

/-- `hfamin` (R197): floating-point minimum under R70. -/
def execHfamin (d h i : XReg) (r e : Bool) (s : State) : Host.Outcome State Fault Refusal :=
  s.computeWord (.hfamin d h i r e) fun s => s.atomicElem 17 .fmin true d (s.getX h) i r

/-- The number of an element atomic in a request to another package. -/
def atomicCode (op : AtomicOp) : Nat :=
  5 + (([.add, .max, .min, .maxn, .minn, .and, .or, .xor, .swp, .cas, .fadd, .fmax, .fmin] : List AtomicOp).idxOf op)

/-- No-return atomics on the elements of a run, sector by sector (R198); those of a sector that another package serves go there
one by one. -/
def State.runAtomics (s : State) (q : Requester) (h : Word) (t : Target) (op : AtomicOp) (v : Vec) : State :=
  let w := t.d.w
  let first := t.bit / 512
  (List.range t.span.length).foldl (fun s k =>
    let mine := (List.range (512 / w)).filter fun j =>
      let pos := 512 * (first + k) + j * w
      decide (t.bit ≤ pos) && decide (pos < t.bit + 4096)
    let operand (j : Nat) : Nat := v.toNat / 2 ^ (512 * (first + k) + j * w - t.bit) % 2 ^ w
    let f : Mask → Mask := fun m => mine.foldl (fun m j => atomicOnSector op w t.d.fmt (j * w) (operand j) 0 m) m
    match t.span.getD k .missing with
    | .ok x _ => ((s.cow h t.d ((first + k) * 64)).atomicSector q.core x false f).2
    | .remote _ a _ _ =>
      (mine.foldl (fun s j =>
        let pos := 512 * (first + k) + j * w
        s.askFar q h t.d (pos / 8) (t.d.coordsAt (pos / 8)) (atomicCode op) (BitVec.ofNat 4096 (operand j))) s).writeFar a f
    | .missing => s) s

/-- The element operation of an atomic run on a format (R198). -/
def runOp (fmt : Nat) (mx : Bool) : AtomicOp :=
  if fmt < 5 then (if mx then .fmax else .fadd) else if mx then (if fmtSigned fmt then .max else .maxn) else .add

/-- An atomic run (R198): one no-return atomic per element, sector by sector. -/
def State.atomicRun (s : State) (mx : Bool) (h : Word) (xi : XReg) (v : Vec) : State :=
  s.with8 h xi { need := 4, run := true, write := true, atomic := true, vec := true }
    fun t s => s.runAtomics s.asker h t (runOp t.d.fmt mx) v

/-- `hvadd` (R198). -/
def execHvadd (d h i : XReg) (e : Bool) (s : State) : Host.Outcome State Fault Refusal :=
  s.computeWord (.hvadd d h i e) fun s => s.vectorOut d h i fun v => s.atomicRun false (s.getX h) i v

/-- `hvmax` (R198). -/
def execHvmax (d h i : XReg) (e : Bool) (s : State) : Host.Outcome State Fault Refusal :=
  s.computeWord (.hvmax d h i e) fun s => s.vectorOut d h i fun v => s.atomicRun true (s.getX h) i v

/-- The descriptor word that `hinfo` returns (R200): SHMAP comes with READ alone. -/
def infoWord (d : Desc) (sel : Nat) : Word :=
  if sel = 5 then
    (if d.shmap = 0 then 0 else (BitVec.ofNat 64 d.shmap &&& ~~~0xFF0#64) ||| 0x10)
  else if sel < 5 ∨ sel = 7 then BitVec.ofNat 64 (d.f (64 * sel) 64) else 0

/-- The descriptor of an object homed elsewhere as its home now has it: other packages may have published versions since it was
learned. DESIGN CHOICE: notes/assumptions/2.md. -/
def State.renew (s : State) (h : Word) : State :=
  match (if s.elsewhere h then mget s.far (hKey h) else none) with
  | some d =>
    let v := min (2 ^ 32 - 1) (Desc.vcur d + Config.far .news s.fresh (hKey h))
    { s with far := mput s.far (hKey h) (Desc.set d 256 32 v), fresh := s.fresh + 1 }
  | none => s

/-- `hinfo` (R200): cases 1 and 2 of R189 only. -/
def State.objInfo (s : State) (d : XReg) (h sel : Word) : State :=
  let s := (s.learn h).renew h
  let (n, s1) := s.draw .load
  match s.violation (s.core.requester s.pkg .core) h none with
  | some (c, owner) => s.handleFault h [] { raise := ⟨c, h, 0⟩, log := some owner }
  | none => s1.produceX d (infoWord (s.desc h) sel.toNat) (s.cycle + 1 + n)

/-- `hinfo` (R200). -/
def execHinfo (d h x : XReg) (e : Bool) (s : State) : Host.Outcome State Fault Refusal :=
  s.computeWord (.hinfo d h x e) fun s => s.objInfo d (s.getX h) (s.getX x)

/-- An atomic that another agent of the package, or another package, sends: it is performed at its place in the memory
system (R285); a returning one delivers the old value to its core. -/
def execAtomicPerformed (q : AtomicReq) (s : State) : Host.Outcome State Fault Refusal :=
  s.event fun s =>
    let x : Sector := ⟨q.addr / 64 * 64, q.home, false⟩
    match s.performAtomic q.core x q.op q.width q.fmt (q.addr % 64 * 8) (q.operand.toNat % 2 ^ q.width)
        (q.newVal.toNat % 2 ^ q.width) q.ret with
    | (.ok old, s) =>
      if q.ret then s.sched (s.cycle + 1) ptLand (.valueArrives q.core (.x q.dest (elemWord q.fmt q.width old))) else s
    | (.error _, s) => s

end Sys2Proof.Machine
end

