-- ==== Sys2Proof/Machine/Scratch.lean ====
section
/-! DEFINITION. Class 7: rows of the task's window (R116, R119..R121, R126, R127, R129..R131) and the spill tiers (R122..
R124, R128). A core read takes place at issue; a core write is put on its way to its write point. -/

namespace Sys2Proof.Machine

open Sys2Proof

/-- A row of the window, or the bounds fault of R116 with the row number. -/
def State.withRow (s : State) (n : Nat) (k : Row → State) : State :=
  if n < s.core.tk.rows then k (s.core.row n) else s.fault 0x0A 0 (BitVec.ofNat 64 n)

/-- A row write of the core, due at the write point of a later cycle (R120). -/
def State.pushRow (s : State) (delay n : Nat) (data : Option Vec) (tag : Tag) : State :=
  s.onCore fun c =>
    { c with rowPend := c.rowPend ++ [{ due := s.cycle + delay, row := c.tk.base + n, data := data, tag := tag }] }

/-- `vld` (R126). -/
def execVld (d a : XReg) (o : BitVec 10) (s : State) : Host.Outcome State Fault Refusal :=
  s.computeWord (.vld d a o) fun s =>
    s.withRow (rowNum (rowAddr (s.getX a) o)) fun r => s.writeV d r.data r.tag 3

/-- `vst` (R126). -/
def execVst (d a : XReg) (o : BitVec 10) (s : State) : Host.Outcome State Fault Refusal :=
  s.computeWord (.vst d a o) fun s =>
    let n := rowNum (rowAddr (s.getX a) o)
    s.withRow n fun _ => s.pushRow 1 n (some (s.getV d).data) (s.getV d).tag

/-- Bytes k..511 of one row, then bytes 0..k−1 of the next. -/
def mergeRows (a b : Vec) (k : Nat) : Vec := (a >>> (8 * k)) ||| (b <<< (4096 - 8 * k))

/-- `rmg` (R127). -/
def execRmg (d a : XReg) (o : BitVec 10) (s : State) : Host.Outcome State Fault Refusal :=
  s.computeWord (.rmg d a o) fun s =>
    let adr := rowAddr (s.getX a) o
    let n := rowNum adr
    let k := adr.toNat % 512
    s.withRow n fun ra =>
      if k = 0 then s.writeV d ra.data ra.tag 2
      else s.withRow (n + 1) fun rb =>
        s.writeV d (mergeRows ra.data rb.data k) (if ra.tag = rb.tag then ra.tag else tagX) 2

/-- `vfill` (R129): row k is written at the write point of issue + 1 + k. AUX of its bounds fault names the first of its rows
that lie outside the window; the spec says only "the row number". DESIGN CHOICE: notes/assumptions/48.md. -/
def execVfill (d a : XReg) (n : BitVec 10) (s : State) : Host.Outcome State Fault Refusal :=
  s.computeWord (.vfill d a n) fun s =>
    let first := rowNum (s.getX a)
    let last := first + n.toNat
    let rows := s.core.tk.rows
    if last < rows then
      (List.range (n.toNat + 1)).foldl (fun s k => s.pushRow (1 + k) (first + k) (some (s.getV d).data) (s.getV d).tag) s
    else s.fault 0x0A 0 (BitVec.ofNat 64 (max first rows))

/-- `rtagw` (R130): the row's data stay. -/
def execRtagw (d a : XReg) (o : BitVec 10) (s : State) : Host.Outcome State Fault Refusal :=
  s.computeWord (.rtagw d a o) fun s =>
    let n := rowNum (rowAddr (s.getX a) o)
    s.withRow n fun _ => s.pushRow 1 n none ((s.getX d).truncate 4)

/-- `rtagr` (R130). -/
def execRtagr (d a : XReg) (o : BitVec 10) (s : State) : Host.Outcome State Fault Refusal :=
  s.computeWord (.rtagr d a o) fun s =>
    s.withRow (rowNum (rowAddr (s.getX a) o)) fun r => s.writeX d (r.tag.zeroExtend 64) 3

/-- `qst` (R131): bounds rank before underflow. -/
def execQst (q a : XReg) (o : BitVec 10) (s : State) : Host.Outcome State Fault Refusal :=
  s.computeWord (.qst q a o) fun s =>
    let n := rowNum (rowAddr (s.getX a) o)
    s.withRow n fun _ =>
      match s.popQueue (q.toNat % 4) with
      | none => s.underflow (q.toNat % 4)
      | some (r, s) => s.pushRow 1 n (some r.data) r.tag

/-! ### The overflow object (R123) -/

/-- The bytes that a spill access touches: bit offset and length of each piece, lowest first. -/
def ovfScalar (o : Nat) : List (Nat × Nat) := [(64 * o, 64)]
def ovfVector (k : Nat) : List (Nat × Nat) := [(8 * (0x80000 + k), 8), (8 * (0x90000 + 512 * k), 4096)]

/-- The checks of a spill access to the overflow object, in the order of R125. -/
def State.resolveOvf (s : State) (h : Word) (write : Bool) (info : Nat) (l : List (Nat × Nat)) :
    Except HFault (List (Nat × Nat × List Served)) :=
  let d := s.desc h
  let q := s.core.requester s.pkg .spill
  match s.violation q h (some (if write then 2 else 1)) with
  | some (c, owner) => .error { raise := ⟨c, h, 0⟩, log := some owner }
  | none =>
    if l.any fun p => decide (8 * d.extent < p.1 + p.2) then .error { raise := ⟨0x1C, BitVec.ofNat 64 info, h⟩ }
    else
      let ver := if write then none else s.core.pinOf h
      let ps := l.map fun p => (p.1, p.2, s.span h d ver p.1 p.2)
      match s.checkSpan h d write (s.core.pinOf h).isSome ver ps with
      | some f => .error f
      | none =>
        match (if write then l.findSome? fun p => s.watched h d p.1 ((p.2 + d.w - 1) / d.w) else none) with
        | some lin => .error { raise := ⟨0x11, h, BitVec.ofNat 64 lin⟩ }
        | none => .ok ps

/-- An access to the overflow tier: with OVFPTR 0 the spill overflow is exhausted (R123). -/
def State.withOvf (s : State) (write : Bool) (info : Nat) (l : List (Nat × Nat))
    (k : List (Nat × Nat × List Served) → State → State) : State :=
  let h := s.core.arch.ovfptr
  if h = 0 then s.fault 0x1C (BitVec.ofNat 64 info) 0
  else
    let s := s.learn h
    match s.resolveOvf h write info l with
    | .error f => s.hFault .spill h [] f
    | .ok ps => k ps s

/-- Reads every piece of a spill access. -/
def State.readPieces (s : State) : List (Nat × Nat × List Served) → Except Nat (List Nat) × State
  | [] => (.ok [], s)
  | (bit, n, span) :: t =>
    match s.readBits s.core.id true span bit n true with
    | (.error e, s) => (.error e, s)
    | (.ok v, s) =>
      match s.readPieces t with
      | (.ok l, s) => (.ok (v :: l), s)
      | r => r

def State.ovfLoad (s : State) (info : Nat) (l : List (Nat × Nat)) (k : List Nat → Nat → State → State) : State :=
  s.withOvf false info l fun ps s =>
    let h := s.core.arch.ovfptr
    let s := s.askSectors (s.core.requester s.pkg .spill) h (s.desc h) (s.core.pinOf h) (farSectors (ps.flatMap (·.2.2)))
    let (due, s) := s.loadDue (ps.flatMap (·.2.2))
    match s.readPieces ps with
    | (.ok vs, s) => k vs due s
    | (.error pa, s) => s.fault 0x18 (BitVec.ofNat 64 pa) (s.core.prestart.zeroExtend 64)

/-- A store's pieces; what another package keeps goes there in one request, so that the slot changes at once (R123). -/
def State.ovfStore (s : State) (info : Nat) (l : List (Nat × Nat)) (vs : List Nat) : State :=
  let h := s.core.arch.ovfptr
  s.withOvf true info l fun ps s =>
    let q := s.core.requester s.pkg .spill
    let d := s.desc h
    ((ps.zip vs).foldl (fun s p => s.writeHere q h d p.1.2.2 p.1.1 p.1.2.1 p.2) s).forwardBits q h d
      ((ps.zip vs).flatMap fun p => farSlices p.1.2.2 p.1.1 p.1.2.1 p.2)

/-! ### The spill forms (R128) -/

/-- `sld`. -/
def State.spillLoadX (s : State) (d : XReg) (o : Nat) : State :=
  let c := s.core
  match spillTierX c.tk.carve o with
  | .spill i => s.writeX d ((mget c.arch.spillX i).getD 0) 1
  | .carve i => s.writeX d (getWordAt (c.physRow (c.carveRow (i / 64))).data (i % 64)) 4
  | .overflow i => s.ovfLoad i (ovfScalar i) fun vs due s => s.produceX d (BitVec.ofNat 64 (vs.getD 0 0)) due

/-- `sst`. -/
def State.spillStoreX (s : State) (d : XReg) (o : Nat) : State :=
  match spillTierX s.core.tk.carve o with
  | .spill i => s.pushResult 1 (.spillX i (s.getX d))
  | .carve i => s.pushResult 4 (.carveX i (s.getX d))
  | .overflow i => s.ovfStore i (ovfScalar i) [(s.getX d).toNat]

/-- `vsld`. -/
def State.spillLoadV (s : State) (d : VCode) (k : Nat) : State :=
  let c := s.core
  match spillTierV c.tk.carve k with
  | .spill i =>
    let r := (mget c.arch.spillV i).getD {}
    s.writeV d r.data r.tag 1
  | .carve i =>
    let r := c.physRow (c.carveRow i)
    s.writeV d r.data r.tag 4
  | .overflow i => s.ovfLoad (0x10000 + i) (ovfVector i) fun vs due s =>
      s.produceV d (BitVec.ofNat 4096 (vs.getD 1 0)) (BitVec.ofNat 4 (vs.getD 0 0)) due

/-- `vsst`. -/
def State.spillStoreV (s : State) (d : VCode) (k : Nat) : State :=
  let v := s.getV d
  match spillTierV s.core.tk.carve k with
  | .spill i => s.pushResult 1 (.spillV i ⟨v.data, v.tag⟩)
  | .carve i => s.pushResult 4 (.carveV i ⟨v.data, v.tag⟩)
  | .overflow i => s.ovfStore (0x10000 + i) (ovfVector i) [v.tag.toNat, v.data.toNat]

/-- `sld` (R128). -/
def execSld (d : XReg) (o : BitVec 16) (s : State) : Host.Outcome State Fault Refusal :=
  s.computeWord (.sld d o) fun s => s.spillLoadX d o.toNat

/-- `sst` (R128). -/
def execSst (d : XReg) (o : BitVec 16) (s : State) : Host.Outcome State Fault Refusal :=
  s.computeWord (.sst d o) fun s => s.spillStoreX d o.toNat

/-- `vsld` (R128). -/
def execVsld (d : XReg) (o : BitVec 16) (s : State) : Host.Outcome State Fault Refusal :=
  s.computeWord (.vsld d o) fun s => s.spillLoadV d o.toNat

/-- `vsst` (R128). -/
def execVsst (d : XReg) (o : BitVec 16) (s : State) : Host.Outcome State Fault Refusal :=
  s.computeWord (.vsst d o) fun s => s.spillStoreV d o.toNat

end Sys2Proof.Machine
end

