-- ==== Sys2Proof/Machine/Wavelet.lean ====
section
/-! DEFINITION. Class 12, the wavelet engine: the Haar transform (R132..R134), thresholds (R135, R136), the stored tile and
its header (R137, R138), and the commands with their schedule (R140, R141, R144..R151). Rows are read at the engine read
point of their cycle; destination rows are written at the write point of cycle T. -/

namespace Sys2Proof.Machine

open Sys2Proof

/-! ### Headers (R137, R138) -/

def hdrTag (v : Vec) : Nat := v.toNat % 256
def hdrLev (v : Vec) : Nat := v.toNat / 2 ^ 8 % 256
def hdrCnt (v : Vec) : Nat := v.toNat / 2 ^ 16 % 256
def hdrNpos (v : Vec) : Nat := v.toNat / 2 ^ 24 % 256
def hdrPres (v : Vec) : BitVec 128 := v.extractLsb' 128 128

/-- A header row's data. -/
def header (tag lev cnt npos : Nat) (pres : BitVec 128) : Vec :=
  BitVec.ofNat 4096 (tag % 256 + 2 ^ 8 * (lev % 256) + 2 ^ 16 * (cnt % 256) + 2 ^ 24 * (npos % 256) + 2 ^ 128 * pres.toNat)

/-- Sizes that a tile may have (R132). -/
def tileOk (n L : Nat) : Bool :=
  decide (1 ≤ L) && decide (L ≤ 7) && decide (2 ^ L ≤ n) && decide (n ≤ 128) && n % 2 ^ L == 0

def popc (l : List Bool) : Nat := (l.filter id).length
def presList (p : BitVec 128) (n : Nat) : List Bool := (List.range n).map p.getLsbD
def presOf (l : List Bool) : BitVec 128 := BitVec.ofNat 128 (packNat 1 (l.map fun b => if b then 1 else 0))

/-- A valid header row (R138). -/
def hdrValid (r : Row) : Bool :=
  let v := r.data
  let n := hdrNpos v
  let L := hdrLev v
  hdrTag v == 1 + L && tileOk n L && (presList (hdrPres v) (n / 2 ^ L)).all id &&
  hdrPres v >>> n == 0 && hdrCnt v == popc (presList (hdrPres v) 128) &&
  v.toNat / 2 ^ 32 % 2 ^ 96 == 0 && v.toNat / 2 ^ 256 == 0 && r.tag == tagX

/-- The level of a detail row's coefficient index (R134). -/
def levelOf (n : Nat) (L j : Nat) : Nat :=
  ((List.range L).map (· + 1)).find? (fun l => decide (n / 2 ^ l ≤ j)) |>.getD L

/-! ### The transform (R132) -/

/-- Half of a value, exactly. -/
def FV.half : FV → FV
  | .fin s m e => .fin s m (e - 1)
  | v => v

/-- The half-sum and half-difference of two elements, each rounded once. -/
def haarPair (f : FF) (r : RMode) (x y : Nat) : (Nat × FlagSet) × (Nat × FlagSet) :=
  let a := f.read r.ftz x
  let b := f.read r.ftz y
  let s := a.add b
  let d := a.add b.neg
  (f.finish r (s.1.half, s.2), f.finish r (d.1.half, d.2))

/-- Element-wise pairs of two rows given as element lists. -/
def rowPair (g : Nat → Nat → (Nat × FlagSet) × (Nat × FlagSet)) (x y : List Nat) : List Nat × List Nat × FlagSet :=
  let l := List.zipWith g x y
  (l.map (·.1.1), l.map (·.2.1), l.foldl (fun f p => f ||| p.1.2 ||| p.2.2) 0)

/-- One forward level: approximations and details of rows taken in pairs. -/
def fwdLevel (f : FF) (r : RMode) : List (List Nat) → List (List Nat) × List (List Nat) × FlagSet
  | x :: y :: t =>
    let (a, d, fl) := rowPair (haarPair f r) x y
    let (as, ds, fl') := fwdLevel f r t
    (a :: as, d :: ds, fl ||| fl')
  | _ => ([], [], 0)

/-- The forward transform: coefficient rows in tree order. -/
def forward (f : FF) (r : RMode) : Nat → List (List Nat) → List (List Nat) → FlagSet → List (List Nat) × FlagSet
  | 0, cur, details, fl => (cur ++ details, fl)
  | l + 1, cur, details, fl =>
    let (a, d, g) := fwdLevel f r cur
    forward f r l a (d ++ details) (fl ||| g)

/-- The sum and the difference of an approximation and a detail: by R67, -0 and an absent detail give +0 and -0. DESIGN CHOICE:
notes/assumptions/52.md. -/
def invPair (f : FF) (r : RMode) (x y : Nat) : (Nat × FlagSet) × (Nat × FlagSet) := (f.add r x y, f.sub r x y)

def invLevel (f : FF) (r : RMode) : List (List Nat) → List (List Nat) → List (List Nat) × FlagSet
  | x :: xs, y :: ys =>
    let (a, d, fl) := rowPair (invPair f r) x y
    let (t, fl') := invLevel f r xs ys
    (a :: d :: t, fl ||| fl')
  | _, _ => ([], 0)

/-- Reconstruction from coefficient rows in tree order, level by level. -/
def inverse (f : FF) (r : RMode) : Nat → List (List Nat) → List (List Nat) → FlagSet → List (List Nat) × FlagSet
  | 0, cur, _, fl => (cur, fl)
  | l + 1, cur, rest, fl =>
    let (nxt, g) := invLevel f r cur (rest.take cur.length)
    inverse f r l nxt (rest.drop cur.length) (fl ||| g)

/-- Whether an element's magnitude is below a threshold, as real numbers (R136). -/
def belowThr (f : FF) (thr x : Nat) : Bool :=
  match f.decode x, FF.f32.decode thr with
  | .fin _ _ _, .inf false => true
  | .fin _ m e, .fin false tm te => magLt m e tm te
  | _, _ => false

/-- Whether a row of a level is dropped (R136). -/
def dropped (f : FF) (thr : Nat) (row : List Nat) : Bool := row.all (belowThr f thr)

/-! ### Commands -/

def WCmd.ff (c : WCmd) : FF :=
  match efOf (c.vfmt.extractLsb' 0 4).toNat with | some (.fp f) => f | _ => .f32

def WCmd.rm (c : WCmd) : RMode := { ftz := vfFtz c.vfmt }

/-- The row that a command has read for an index (R141). -/
def WCmd.row (c : WCmd) (j : Nat) : Row := (mget c.got j).getD {}

/-- The indices and window rows read at the engine read point of a cycle (R141). -/
def WCmd.reads (c : WCmd) (cyc : Nat) : List (Nat × Nat) :=
  if cyc ≤ c.s then []
  else
    let i := cyc - c.s - 1
    match c.kind with
    | .wfwd | .wst => if 2 * i < c.n then [(2 * i, c.src + 2 * i), (2 * i + 1, c.src + 2 * i + 1)] else []
    | .wstc | .winv | .wexp =>
      ([2 * i, 2 * i + 1].filter fun j => j < c.k).map fun j => (j, c.src + 1 + j)
    | .wbias => if i < c.n / 2 ^ c.L then [(i, c.dst + 1 + i)] else []

/-- The engine's reads of a cycle: no row is read twice, though a command that stopped goes on in the cycle of its stop (R142). -/
def Core.waveRead (c : Core) (cyc : Nat) : Core :=
  match c.wave with
  | none => c
  | some w =>
    if w.stop.isSome then c
    else { c with wave := some { w with got := (w.reads cyc).foldl (fun g p => if (mget g p.1).isSome then g else mput g p.1 (c.row p.2)) w.got } }

/-- Σ of R141. -/
def sigma (n : Nat) : Nat → Nat
  | 0 => 0
  | l + 1 => sigma n l + n / 2 ^ (l + 1)

/-- A tile as it is written: header and data rows, spoiled when a source tag was wrong (R145). -/
def tileRows (dst L n : Nat) (w : Nat) (rows : List (List Nat)) (keep : List Bool) (spoiled : Bool) : List (Nat × Row) :=
  let kept := (rows.zip keep).filterMap fun p => if p.2 then some p.1 else none
  let hdr : Row :=
    ⟨header (if spoiled then 15 else 1 + L) L (popc keep) n (presOf keep), tagX⟩
  let tag : Tag := if spoiled then tagX else BitVec.ofNat 4 (1 + L)
  (dst, hdr) :: kept.zipIdx.map fun p => (dst + 1 + p.2, ⟨ofElems w p.1, tag⟩)

/-- Which rows R136 keeps, by coefficient index. -/
def keepRows (f : FF) (thr : Vector (BitVec 32) 8) (n L : Nat) (rows : List (List Nat)) : List Bool :=
  rows.zipIdx.map fun p =>
    decide (p.2 < n / 2 ^ L) || !dropped f (vget thr (levelOf n L p.2) 0).toNat p.1

/-- Present rows put at their coefficient indices, absent ones as given. -/
def spread (dflt : List Nat) : List Bool → List (List Nat) → List (List Nat)
  | [], _ => []
  | true :: ps, r :: rs => r :: spread dflt ps rs
  | true :: ps, [] => dflt :: spread dflt ps []
  | false :: ps, rs => dflt :: spread dflt ps rs

/-- The rows and flags that a command leaves at T. -/
def WCmd.result (c : WCmd) : List (Nat × Row) × FlagSet :=
  let f := c.ff
  let w := f.width
  let zero := List.replicate (4096 / w) 0
  let count := match c.kind with | .wfwd | .wst => c.n | .wbias => c.n / 2 ^ c.L | _ => c.k
  let src := (List.range count).map c.row
  let data := src.map fun r => elems w r.data
  let hl : Tag := BitVec.ofNat 4 (1 + c.L)
  let okS := src.all fun r => r.tag == tagS || r.tag == tagC
  let okH := src.all fun r => r.tag == hl
  let pres := presList c.pres c.n
  match c.kind with
  | .wfwd =>
    let (rows, fl) := forward f c.rm c.L data [] 0
    (tileRows c.dst c.L c.n w rows (rows.map fun _ => true) (!okS), fl)
  | .wst =>
    let (rows, fl) := forward f c.rm c.L data [] 0
    (tileRows c.dst c.L c.n w rows (keepRows f c.wth c.n c.L rows) (!okS), fl)
  | .wstc =>
    let rows := spread zero pres data
    let keep := ((keepRows f c.wth c.n c.L rows).zip pres).map fun p => p.1 && p.2
    (tileRows c.dst c.L c.n w rows keep (!okH), 0)
  | .wexp =>
    let rows := spread zero pres data
    (tileRows c.dst c.L c.n w rows (rows.map fun _ => true) (!okH), 0)
  | .winv =>
    let rows := spread zero pres data
    let a := c.n / 2 ^ c.L
    let (out, fl) := inverse f c.rm c.L (rows.take a) (rows.drop a) 0
    (out.zipIdx.map fun p => (c.dst + p.2, ⟨ofElems w p.1, if okH then tagS else tagX⟩), fl)
  | .wbias =>
    let b := elems w c.bias.data
    let l := src.zipIdx.map fun p =>
      let z := List.zipWith (f.add c.rm) (elems w p.1.data) b
      ((c.dst + 1 + p.2, (⟨ofElems w (z.map (·.1)), if p.1.tag == hl then p.1.tag else tagX⟩ : Row)),
        z.foldl (fun g q => g ||| q.2) (0 : FlagSet))
    (l.map (·.1), l.foldl (fun g q => g ||| q.2) 0)

/-- A command writes its rows at T and frees the engine (R141). -/
def Core.waveWrite (c : Core) : Core :=
  match c.wave with
  | none => c
  | some w => { w.result.1.foldl (fun c p => c.writeRow .wavelet (c.tk.base + p.1) p.2) c with wave := none }

/-- Its flags stand in FLAGS from the start of cycle T (R43, R133). -/
def Core.waveFlags (c : Core) (cyc : Nat) : Core :=
  match c.wave with
  | some w => if w.T = cyc ∧ w.stop.isNone then { c with arch := { c.arch with flags := c.arch.flags ||| w.result.2 } } else c
  | none => c

/-- WAVELET_COMMAND_WRITE (R141). -/
def execWaveletCommandWrite (core : Nat) (s : State) : Host.Outcome State Fault Refusal :=
  s.event fun s => s.modCore core Core.waveWrite

/-- Starts a command: its sizes, schedule and sources are fixed at issue (R141, R144). -/
def State.waveStart (s : State) (kind : WKind) (src dst n L k : Nat) (pres : BitVec 128) (bias : Row) : State :=
  let cyc := s.cycle
  let T := cyc + match kind with
    | .wfwd | .winv => 6 + sigma n L
    | .wst => 8 + sigma n L
    | .wstc => 8 + (k + 1) / 2
    | .wexp => 6 + n / 2
    | .wbias => 4 + n / 2 ^ L
  let w : WCmd := { kind, s := cyc, T, src, dst, n, L, k, pres, vfmt := s.core.arch.vfmt, wth := s.core.arch.wth, bias }
  (s.onCore fun c => { c with wave := some w }).sched T ptWave (.waveletCommandWrite s.core.id)

def State.wvRow (s : State) (i : Nat) : Nat := rowNum (s.core.arch.getStg 3 i)

/-- Rows first .. first + n − 1 inside the window, or the bounds fault that names the first outside. -/
def State.rowsIn (s : State) (first n : Nat) (k : State) : State :=
  let rows := s.core.tk.rows
  if first + n ≤ rows then k else s.fault 0x0A 0 (BitVec.ofNat 64 (max first rows))

/-- `wfwd` and `wst` (R144, R146, R147). -/
def State.waveForward (s : State) (kind : WKind) (L : BitVec 8) : State :=
  let n := (s.core.arch.getStg 3 2).toNat
  if L.toNat = 0 ∨ 7 < L.toNat ∨ !tileOk n L.toNat ∨ !s.ef.isFp ∨ s.ef.width < 16 then s.illegal
  else
    s.rowsIn (s.wvRow 0) n <| s.rowsIn (s.wvRow 1) (n + 1) <|
      s.waveStart kind (s.wvRow 0) (s.wvRow 1) n L.toNat n 0 {}

/-- A header at a window row, with the checks that rank before the other rows' (R144). No operand field names the row, and the fault
gives code 0. DESIGN CHOICE: notes/assumptions/52.md. -/
def State.withHeader (s : State) (row : Nat) (k : Row → State) : State :=
  if !s.ef.isFp ∨ s.ef.width < 16 then s.illegal
  else s.rowsIn row 1 <|
    let r := s.core.row row
    if hdrValid r then k r else s.fault 0x05 (r.tag.zeroExtend 64 <<< 8)

/-- `winv`, `wexp` and `wst.c` (R144, R147..R149): `most` is how many rows the command may write. -/
def State.waveTile (s : State) (kind : WKind) (most : Nat → Nat → Nat) : State :=
  let src := s.wvRow 0
  let dst := s.wvRow 1
  s.withHeader src fun h =>
    let n := hdrNpos h.data
    let k := hdrCnt h.data
    s.rowsIn (src + 1) k <| s.rowsIn dst (most n k) <|
      s.waveStart kind src dst n (hdrLev h.data) k (hdrPres h.data) {}

/-- `wbias` (R144, R150). -/
def State.waveBias (s : State) : State :=
  let src := s.wvRow 0
  let dst := s.wvRow 1
  if !s.ef.isFp ∨ s.ef.width < 16 then s.illegal
  else s.rowsIn dst 1 <| s.rowsIn src 1 <|
    s.withHeader dst fun h =>
      let b := s.core.row src
      let n := hdrNpos h.data
      let L := hdrLev h.data
      if b.tag ≠ tagC then s.fault 0x05 (b.tag.zeroExtend 64 <<< 8)
      else s.rowsIn (dst + 1) (n / 2 ^ L) <| s.waveStart .wbias src dst n L (hdrCnt h.data) (hdrPres h.data) b

/-- `wfwd` (R146). -/
def execWfwd (L : BitVec 8) (s : State) : Host.Outcome State Fault Refusal :=
  s.computeWord (.wfwd L) fun s => s.waveForward .wfwd L

/-- `wst` (R147). -/
def execWst (L : BitVec 8) (s : State) : Host.Outcome State Fault Refusal :=
  s.computeWord (.wst L) fun s => s.waveForward .wst L

/-- `wst.c` (R147). -/
def execWstC (s : State) : Host.Outcome State Fault Refusal :=
  s.computeWord .wstC fun s => s.waveTile .wstc fun _ k => k + 1

/-- `winv` (R148). -/
def execWinv (s : State) : Host.Outcome State Fault Refusal :=
  s.computeWord .winv fun s => s.waveTile .winv fun n _ => n

/-- `wexp` (R149). -/
def execWexp (s : State) : Host.Outcome State Fault Refusal :=
  s.computeWord .wexp fun s => s.waveTile .wexp fun n _ => n + 1

/-- `wbias` (R150). -/
def execWbias (s : State) : Host.Outcome State Fault Refusal := s.computeWord .wbias State.waveBias

/-- `wcnt` (R151): bits 31:0 of the row, 3 cycles after issue. -/
def execWcnt (a d : XReg) (s : State) : Host.Outcome State Fault Refusal :=
  s.computeWord (.wcnt a d) fun s =>
    s.withRow (rowNum (s.getX a)) fun r => s.produceX d (BitVec.ofNat 64 (r.data.toNat % 2 ^ 32)) (s.cycle + 3)

/-- Where the engine stops under pre-emption (R142): the end of the level it works on, with every source read; none where
the command is on its last level, or has none, and is completed. The spec gives no cycle for a level's end. DESIGN CHOICE:
notes/assumptions/52.md. -/
def WCmd.stopAt (c : WCmd) (now : Nat) : Option Nat :=
  let ends := match c.kind with
    | .wfwd | .wst => (List.range c.L).map fun l => c.s + sigma c.n (l + 1)
    | .winv => (List.range c.L).map fun l => c.s + (sigma c.n c.L - sigma c.n (c.L - 1 - l))
    | _ => []
  let read := c.s + (match c.kind with | .winv => (c.k + 1) / 2 | _ => c.n / 2)
  match ends.find? fun e => decide (max now read ≤ e) with
  | none => none
  | some e => if some e = ends.getLast? then none else some e

end Sys2Proof.Machine
end

