-- ==== Sys2Proof/Machine/Matrix.lean ====
section
/-! DEFINITION. Class 9, the matrix engine (R152..R173): operand pairs, A rows and weight images, accumulation (R82..R84),
tags of accumulator rows (R155), weight slots and loads (R156, R157, R167, R168), result queues with their hold registers
(R158, R159), and the schedules of `mmul`, `mzero`, `mdrain` and `mtile`. Rows are read at the engine read point; final rows
are pushed 18 cycles later. -/

namespace Sys2Proof.Machine

open Sys2Proof

/-! ### Operand pairs (R152) -/

/-- Width classes: 16-bit, 8-bit float, 8-bit integer, 4-bit block, 4-bit integer. -/
inductive WClass where
  | h16 | f8 | i8 | b4 | i4
  deriving DecidableEq, Repr

/-- The width class of a format code with its narrow width. -/
def wclass (f : Nat) (narrow4 : Bool) : Option WClass :=
  if f ≤ 1 then some .h16 else if f ≤ 3 then some .f8 else if f ≤ 5 then some .b4
  else if f = 6 then some (if narrow4 then .i4 else .i8) else none

def classA (m : Word) : Option WClass := wclass (mfAf m) (mfAw m)
def classB (m : Word) : Option WClass := wclass (mfBf m) (mfBw m)

def WClass.isInt : WClass → Bool
  | .i8 | .i4 => true
  | _ => false

/-- Element width, and pass depth D. -/
def WClass.w : WClass → Nat
  | .h16 => 16 | .f8 => 8 | .i8 => 8 | .b4 => 4 | .i4 => 4
def WClass.depth (c : WClass) : Nat := 2048 / c.w

/-- The meter of a width class (R173). -/
def WClass.meter : WClass → Nat
  | .h16 => 0 | .f8 => 1 | .i8 => 1 | .b4 => 2 | .i4 => 2

/-- An accepted pair of operand formats and accumulator: its class. -/
def pairOf (m : Word) : Option WClass :=
  match classA m, classB m with
  | some a, some b =>
    if a = b ∧ mfAcc m = a.isInt ∧ (a = .i4 → mfAs m && mfBs m) then some a else none
  | _, _ => none

/-- Rows of an image (R157). -/
def imageRows (bf : Nat) : Nat := if bf = 4 ∨ bf = 5 then 68 else 64

/-- The binary format of a 16-bit or 8-bit float code. -/
def matFF : Nat → FF
  | 0 => .bf16 | 1 => .f16 | 2 => .e4m3 | _ => .e5m2

/-! ### Operands (R153, R157) -/

def byteAt (v : Vec) (i : Nat) : Nat := elem 8 v i

/-- The D elements of an A row as values (R76, R79, R153). -/
def aValues (m : Word) (c : WClass) (row : Vec) : List FV :=
  (List.range c.depth).map fun k =>
    let p := elem c.w row k
    if mfAf m = 4 then mxValue (byteAt row (256 + k / 32)) p
    else if mfAf m = 5 then q4nValue (byteAt row (256 + k / 64)) (elem 32 row 66) p
    else (matFF (mfAf m)).decode p

/-- The D elements of an A row as integers (R81). -/
def aInts (m : Word) (c : WClass) (row : Vec) : List Int :=
  (List.range c.depth).map fun k => narrowValue c.w (mfAs m) (mfRsub m) (elem c.w row k)

def WSlot.row (w : WSlot) (i : Nat) : Vec := (mget w.image i).getD 0

/-- Image element (k, n) (R157). -/
def WSlot.elem (w : WSlot) (wd k n : Nat) : Nat :=
  let i := k * 128 + n
  Machine.elem wd (w.row (i / (4096 / wd))) (i % (4096 / wd))

/-- B(k, n) as a value, and as an integer. -/
def bValue (m : Word) (c : WClass) (w : WSlot) (k n : Nat) : FV :=
  let p := w.elem c.w k n
  if mfBf m = 4 then
    let j := 16 * n + k / 32
    mxValue (byteAt (w.row (64 + j / 512)) (j % 512)) p
  else if mfBf m = 5 then
    let j := 8 * n + k / 64
    q4nValue (byteAt (w.row (64 + j / 512)) (j % 512)) (elem 32 (w.row 66) n) p
  else (matFF (mfBf m)).decode p

def bInt (m : Word) (c : WClass) (w : WSlot) (k n : Nat) : Int :=
  narrowValue c.w (mfBs m) (mfRsub m) (w.elem c.w k n)

/-! ### Accumulation (R82..R84) -/

/-- One column of a pass with an FP32 accumulator: groups of 32 products in increasing K. -/
def accFp (m : Word) (c : WClass) (w : WSlot) (a : List FV) (n acc : Nat) : Nat × FlagSet :=
  (List.range (c.depth / 32)).foldl (fun st g =>
    let sum := (((a.drop (32 * g)).take 32).zipIdx.foldl (fun (s : GSum) p =>
      s.push (p.1.mul (bValue m c w (32 * g + p.2) n))) {}).finish
    let r := accAdd st.1 sum.1
    (r.1, st.2 ||| sum.2 ||| r.2)) (acc, 0)

/-- One column of a pass with an INT32 accumulator, modulo 2^32. -/
def accInt (m : Word) (c : WClass) (w : WSlot) (a : List Int) (n acc : Nat) : Nat :=
  patOfInt 32 (a.zipIdx.foldl (fun s p => s + p.1 * bInt m c w p.2 n) (acc : Int))

/-- A pass over one A row: the new accumulator row and the flags raised. -/
def accRow (m : Word) (c : WClass) (w : WSlot) (arow acc : Vec) : Vec × FlagSet :=
  if c.isInt then
    let a := aInts m c arow
    (ofElems 32 ((List.range 128).map fun n => accInt m c w a n (elem 32 acc n)), 0)
  else
    let a := aValues m c arow
    let l := (List.range 128).map fun n => accFp m c w a n (elem 32 acc n)
    (ofElems 32 (l.map (·.1)), l.foldl (fun f p => f ||| p.2) 0)

/-- The tag of an accumulator row after a pass (R155); none is a zeroed row. -/
def accTag (coef : Bool) (htag : Tag) (old : Option Tag) (a : Tag) : Tag :=
  let good := if Tag.isX a then false else if Tag.isH a then coef && a == htag else true
  if !good then tagX
  else match old with
    | none => a
    | some t => if t = a then t else tagX

/-! ### Slots, queues and status -/

def Core.slot (c : Core) (i : Nat) : WSlot := vget c.arch.slots (i % 64) {}
def Core.modSlot (c : Core) (i : Nat) (f : WSlot → WSlot) : Core :=
  { c with arch := { c.arch with slots := vset c.arch.slots (i % 64) (f (c.slot i)) } }

/-- Free granules (R156). -/
def Core.granFree (c : Core) : Nat := 2048 - c.arch.slots.toList.foldl (fun n w => n + w.gran) 0

/-- A slot's status word (R156). -/
def WSlot.word (w : WSlot) : Word :=
  let st := match w.state with | .empty => 0 | .loading => 1 | .ready => 2 | .failed => 3
  BitVec.ofNat 64 (place 20 12 w.gran + place 16 4 w.bfmt.toNat +
    place 8 8 (if w.state = .failed then w.cause.toNat else 0) + st)

/-- Commands issued and not completed (R162). -/
def Core.inflight (c : Core) : Nat :=
  (c.mcmds.filter fun m => decide (0 < m.left)).length + (c.wloads.filter (·.cmd)).length

/-- The engine word (R170). -/
def Core.engineWord (c : Core) : Word :=
  let n := c.inflight
  BitVec.ofNat 64 (place 32 16 (match c.mtile with | some t => t.total - t.next | none => 0) +
    place 16 12 c.granFree + place 8 8 n + (if c.merr.isSome then 4 else 0) +
    (if c.arch.slots.toList.any fun w => w.state == .loading then 2 else 0) + (if n = 0 then 0 else 1))

/-- The value of an `mstat` selector (R170). -/
def Core.mstatValue (c : Core) (sel : Nat) : Option Word :=
  if sel < 64 then some (c.slot sel).word
  else if sel < 68 then
    some (BitVec.ofNat 64 ((vget c.arch.rq (sel - 64) []).length + (if (vget c.arch.hold (sel - 64) none).isSome then 1 else 0)))
  else if sel = 128 then some c.engineWord else none

/-! ### Issue conditions (R162, R164) -/

/-- The cycle in which pass p of a multiplication reads its last A row, once it is fixed; of a pass before the running one, a
cycle by which it has. -/
def MCmd.readEnd (m : MCmd) (p : Nat) : Option Nat :=
  if !m.tile then some (m.start + 2 + 128 * p + (m.mrows - 1))
  else if m.sigma = 0 ∨ m.pass < p then none
  else some (if p = m.pass then m.sigma + m.mrows - 1 else m.sigma - 1)

/-- The cycle in which a multiplication reads its last A row. -/
def MCmd.lastRead (m : MCmd) : Option Nat := m.readEnd (m.passes - 1)

/-- Whether every earlier multiplication has read its last A row by a cycle. -/
def Core.mulsRead (c : Core) (cyc : Nat) : Bool :=
  c.mcmds.all fun m => m.kind != .mul || (match m.lastRead with | some r => decide (r ≤ cyc) | none => false)

/-- The last pass of a multiplication that names a slot. -/
def MCmd.lastPass (m : MCmd) (s : Nat) : Option Nat :=
  let named (p : Nat) : Bool := (if m.tile then m.slot + p % 2 else m.slot + p) % 64 = s
  ((List.range (min m.passes 64)).map fun i => m.passes - 1 - i).find? named

/-- Whether every earlier pass that names a slot has read its last A row by a cycle. -/
def Core.slotRead (c : Core) (slot cyc : Nat) : Bool :=
  c.mcmds.all fun m => m.kind != .mul || match m.lastPass slot with
    | none => true
    | some p => (match m.readEnd p with | some r => decide (r ≤ cyc) | none => false)

/-- `mmul` and `mtile`: earlier multiplications have read their last row by the next cycle, `mzero` and `mdrain` are done. -/
def Core.mayMul (c : Core) (t : Nat) : Bool :=
  c.mulsRead (t + 1) && c.mcmds.all fun m => m.kind == .mul

/-- `mzero` and `mdrain`: every earlier command but weight loads is done. -/
def Core.mayZero (c : Core) : Bool := c.mcmds.isEmpty

/-- `mwld`: no earlier one reads rows, and passes that name the slot have read their rows. -/
def Core.mayLoad (c : Core) (slot t : Nat) : Bool :=
  c.wloads.all (fun w => w.stream || decide (w.issue + w.rows < t)) && c.slotRead slot (t - 1)

/-- `mwstr`: fewer than 4 outstanding, and the slot condition. -/
def Core.mayStream (c : Core) (slot t : Nat) : Bool :=
  decide ((c.wloads.filter fun w => w.stream && w.cmd).length < 4) && c.slotRead slot (t - 1)

/-- `mmul`: no named slot is LOADING (R164). -/
def Core.slotsSettled (c : Core) (slot passes : Nat) : Bool :=
  (List.range passes).all fun p => (c.slot (slot + p)).state != .loading

/-- Every matrix command, weight loads included, is complete (R61). -/
def Core.matrixIdle (c : Core) : Bool := c.mcmds.all (fun m => m.left == 0) && c.wloads.isEmpty

/-! ### Rows through the array -/

/-- The pass and row that a multiplication reads in a cycle. -/
def MCmd.rowAt (m : MCmd) (cyc : Nat) : Option (Nat × Nat) :=
  if m.kind ≠ .mul then none
  else if m.tile then
    if m.sigma ≤ cyc ∧ cyc < m.sigma + m.mrows ∧ 0 < m.sigma then some (m.pass, cyc - m.sigma) else none
  else if cyc < m.start + 2 then none
  else
    let i := cyc - m.start - 2
    if i / 128 < m.passes ∧ i % 128 < m.mrows then some (i / 128, i % 128) else none

def accGet (a : Arch) (bank row : Nat) : Option Row := mget a.acc (bank * 256 + row)
def accPut (a : Arch) (bank row : Nat) (r : Row) : Arch := { a with acc := mput a.acc (bank * 256 + row) r }

/-- One A row of a pass enters the array (R163, R165): accumulator row, tag and flags. -/
def Core.mulRow (c : Core) (m : MCmd) (p k : Nat) : Core :=
  match pairOf m.mfmt with
  | none => c
  | some cls =>
    let a := c.row (m.abase + (if m.coef then 1 else 0) + p * m.stride + k)
    let slot := c.slot (if m.tile then m.slot + p % 2 else m.slot + p)
    let old := if p = 0 ∧ m.z then none else accGet c.arch m.bank (m.accRow + k)
    let (d, f) := accRow m.mfmt cls slot a.data (match old with | some r => r.data | none => 0)
    let r : Row := ⟨d, accTag m.coef m.htag (old.map (·.tag)) a.tag⟩
    let m' := { m with
      flags := mput m.flags k ((mget m.flags k).getD 0 ||| f)
      outs := if p + 1 = m.passes then m.outs ++ [(k, r)] else m.outs }
    { c with arch := accPut c.arch m.bank (m.accRow + k) r,
             mcmds := c.mcmds.map fun n => if n.seq = m.seq then m' else n }

/-- The engine's row reads of a cycle on one core: A rows, `mwld` image rows, and `mzero`; completed commands leave. -/
def Core.matrixTick (c : Core) (cyc : Nat) : Core :=
  let c := c.mcmds.foldl (fun c m => match m.rowAt cyc with | some (p, k) => c.mulRow m p k | none => c) c
  let c := c.mcmds.foldl (fun c m =>
    if m.kind = .zero ∧ m.start + 1 ≤ cyc then
      { c with arch := { c.arch with acc := c.arch.acc.filter fun e =>
                 !(m.bank * 256 + m.accRow ≤ e.1 && e.1 < m.bank * 256 + m.accRow + m.mrows) },
               mcmds := c.mcmds.filter fun n => n.seq ≠ m.seq }
    else c) c
  let wl := c.wloads.map fun w =>
    if !w.stream ∧ w.issue + 1 ≤ cyc ∧ cyc < w.issue + 1 + w.rows then
      let i := cyc - w.issue - 1
      { w with got := mput w.got i (c.row (w.src + i)).data }
    else w
  { c with wloads := wl, mcmds := c.mcmds.filter fun m => m.left ≠ 0 }

/-- Meters of the rows read in a cycle (R173). -/
def State.matrixMeter (s : State) (c : Core) (cyc : Nat) : State :=
  c.mcmds.foldl (fun s m =>
    match m.rowAt cyc, pairOf m.mfmt, c.task with
    | some _, some cls, some t => s.sched cyc ptEnd (.meterAdd t.part t.rid cls.meter (128 * cls.depth))
    | _, _, _ => s) s

/-- `mstat.w` words whose earlier commands have completed in this cycle or before wait for none any more (R170). -/
def Core.matrixWaits (c : Core) : Core :=
  let open_ (n : Nat) : Bool :=
    c.mcmds.any (fun m => decide (m.seq < n)) || c.wloads.any (fun w => w.cmd && decide (w.seq < n))
  if c.mwaits.isEmpty then c
  else { c with mwaits := c.mwaits.map fun w => if open_ w.2.2 then w else (w.1, w.2.1, 0) }

/-- In the cycle after, their value is taken, with the pushes of that cycle applied, and arrives (R170); with nothing outstanding, in the
cycle after issue. DESIGN CHOICE: notes/assumptions/52.md. -/
def State.matrixValues (s : State) (i : Nat) : State :=
  let c := s.coreOf i
  let s := s.modCore i fun c => { c with mwaits := c.mwaits.filter fun w => w.2.2 ≠ 0 }
  (c.mwaits.filter fun w => w.2.2 = 0).foldl (fun s w =>
    s.sched s.cycle ptPush (.valueArrives i (.x w.1 ((c.mstatValue w.2.1).getD 0)))) s

/-- The engine read point of a core: wavelet sources, then matrix rows, then waits. -/
def State.engineReads (s : State) (i : Nat) : State :=
  let c := (s.coreOf i).waveRead s.cycle
  let s := s.matrixMeter c s.cycle
  s.putCore (c.matrixTick s.cycle).matrixWaits

/-! ### Pushes (R158, R159, R163, R166) -/

/-- Whether a full queue holds the engine's pushes. -/
def Core.held (c : Core) : Bool := c.arch.hold.toList.any Option.isSome

/-- A row enters a queue, or its hold register when the queue is full; after `tend` it is discarded (R159). -/
def Core.pushRow (c : Core) (q : BitVec 2) (r : Row) (cyc : Nat) : Core :=
  let l := vget c.arch.rq q.toNat []
  if l.length < 64 then { c with arch := { c.arch with rq := vset c.arch.rq q.toNat (l ++ [r]) } }
  else if c.ending || c.discarding then c
  else { c with arch := { c.arch with hold := vset c.arch.hold q.toNat (some r) }, ovf := some q, heldAt := cyc }

/-- Row k of a command is final: its flags are raised, and it is pushed where the command asks for it. -/
def Core.finalRow (c : Core) (m : MCmd) (k cyc : Nat) : Core :=
  let r := match m.kind with
    | .drain => (accGet c.arch m.bank (m.accRow + k)).getD ⟨0, tagC⟩
    | _ => (mget m.outs k).getD {}
  let c := { c with
    arch := { c.arch with flags := c.arch.flags ||| (mget m.flags k).getD 0 }
    mcmds := c.mcmds.map fun n => if n.seq = m.seq then { n with left := n.left - 1 } else n }
  match m.push with
  | some q => c.pushRow q r cyc
  | none => c

/-- RESULT_ROW_PUSH (R163). While a row is held, the push waits, and so does a final row that is not pushed. DESIGN CHOICE:
notes/assumptions/52.md. -/
def execResultRowPush (core seq k : Nat) (s : State) : Host.Outcome State Fault Refusal :=
  s.event fun s => s.modCore core fun c =>
    match c.mcmds.find? fun m => m.seq = seq with
    | none => c
    | some m =>
      if c.held then { c with pushHeld := c.pushHeld ++ [(s.cycle, seq, k)] } else c.finalRow m k s.cycle

/-- A push of a core that is due later by a number of cycles. -/
def delayPush (core d : Nat) (e : Nat × Instr) : Nat × Instr :=
  match e.2 with
  | .resultRowPush c _ _ => if c = core then (e.1 + 16 * d, e.2) else e
  | _ => e

/-- The engine pushes again: every later push is due as many cycles late as the engine was held. -/
def State.pushAgain (s : State) (core d : Nat) : State :=
  let waiting := (s.coreOf core).pushHeld
  let later := (s.agenda.map (delayPush core d)).foldl (fun l e => agendaPut l e.1 e.2) []
  waiting.foldl (fun s w => s.sched (w.1 + d) ptPush (.resultRowPush core w.2.1 w.2.2))
    ({ s with agenda := later }.modCore core fun c => { c with pushHeld := [] })

/-- After `tend`, or once the task is discarded, a row still held is discarded with its queue's rows (R158), its overflow is raised no more, and the pushes
behind it go on. -/
def State.dropHeld (s : State) (i : Nat) : State :=
  let c := s.coreOf i
  if !(c.ending || c.discarding) || !c.held then s
  else (s.modCore i fun c =>
    { c with ovf := none, arch := { c.arch with hold := Vector.replicate 4 none } }).pushAgain i (s.cycle + 1 - c.heldAt)

/-- HELD_ROW_ENTERS_QUEUE (R159): after the overflow has been raised and the core has resumed. -/
def execHeldRowEntersQueue (core : Nat) (q : BitVec 2) (s : State) : Host.Outcome State Fault Refusal :=
  s.event fun s =>
    let c := s.coreOf core
    let l := vget c.arch.rq q.toNat []
    match vget c.arch.hold q.toNat none with
    | none => s
    | some r =>
      if 64 ≤ l.length ∨ c.ovf.isSome ∨ c.state = .halted then s
      else (s.modCore core fun c =>
        { c with arch := { c.arch with rq := vset c.arch.rq q.toNat (l ++ [r]), hold := vset c.arch.hold q.toNat none } }).pushAgain
          core (s.cycle - c.heldAt)

/-- On resumption a held row whose queue has room enters it in the next cycle. -/
def State.resumeHeld (s : State) (i : Nat) : State :=
  (List.range 4).foldl (fun s n =>
    let c := s.coreOf i
    if (vget c.arch.hold n none).isSome && c.ovf.isNone && decide ((vget c.arch.rq n []).length < 64) then
      s.sched (s.cycle + 1) ptPush (.heldRowEntersQueue i (BitVec.ofNat 2 n))
    else s) s

/-! ### Weight loads (R157, R167, R168) -/

/-- A load issues into a slot: LOADING, with the full image reserved; an earlier load of the slot is dropped, and the old image serves a
pass that still reads it. DESIGN CHOICE: notes/assumptions/52.md. -/
def State.startLoad (s : State) (w : WLoad) : State :=
  let mine := fun e => match e with | Instr.weightLoadComplete k n => k == s.core.id && n == w.slot | _ => false
  (s.unsched mine).onCore fun c =>
    let c := c.modSlot w.slot fun sl =>
      { sl with state := .loading, bfmt := BitVec.ofNat 4 (mfBf w.mfmt), cause := 0, gran := w.rows }
    { c with wloads := c.wloads.filter (fun o => o.slot ≠ w.slot) ++ [w], seq := c.seq + 1 }

/-- Too few granules for a slot's image: bounds, 0x0A (R157). -/
def Core.granShort (c : Core) (slot rows : Nat) : Bool := decide (c.granFree + (c.slot slot).gran < rows)

/-- The image leaves a load: all-zero rows are released (R157). -/
def Core.slotReady (c : Core) (slot : Nat) (rows : List (Nat × Vec)) : Core :=
  let kept := rows.filter fun r => r.2 ≠ 0
  c.modSlot slot fun w => { w with state := .ready, image := kept, gran := kept.length }

def Core.slotFailed (c : Core) (slot : Nat) (f : Raise) : Core :=
  c.modSlot slot fun w => { w with state := .failed, image := [], gran := 0, cause := f.cause, hnd := f.info, aux := f.aux }

/-- The pieces of contiguous bits that hold `n` elements along the innermost axis: bit offset and number of elements. -/
def Desc.pieces (d : Desc) (cs : List Nat) (n : Nat) : List (Nat × Nat) :=
  if d.layout ≠ 1 then [(d.bitOf cs, n)]
  else
    let c := inner cs 0
    let e := d.e
    (List.range (n / e + 2)).filterMap fun i =>
      let lo := if i = 0 then c else (c / e + i) * e
      let hi := min (c + n) ((c / e + i + 1) * e)
      if lo < hi then some (d.bitOf (cs.set (d.rank - 1) lo), hi - lo) else none

/-- Sectors of a weight stream (R268). -/
def State.streamServed (s : State) (c : Nat) : List Served → Except Nat Nat × State
  | [] => (.ok 0, s)
  | x :: t =>
    let (r, s) : Except Nat Nat × State := match x with
      | .ok x _ =>
        match s.streamSector c x with
        | (some m, s) => (.ok m.toNat, s)
        | (none, s) => (.error x.pa, s)
      | .remote _ a _ _ => s.readFar (s.workPart c) c a
      | .missing => (.ok 0, s)
    match r with
    | .error e => (.error e, s)
    | .ok a =>
      match s.streamServed c t with
      | (.ok b, s) => (.ok (a + 2 ^ 512 * b), s)
      | (.error e, s) => (.error e, s)

/-- A piece of an object's bits as a stream reads it. -/
def State.streamPiece (s : State) (c : Nat) (h : Word) (d : Desc) (ver : Option Nat) (bit n : Nat) : Except Nat Nat × State :=
  match s.streamServed c (s.span h d ver bit n) with
  | (.ok v, s) => (.ok (v / 2 ^ (bit % 512) % 2 ^ n), s)
  | r => r

/-- Several pieces, concatenated. -/
def State.streamPieces (s : State) (c : Nat) (h : Word) (d : Desc) (ver : Option Nat) : List (Nat × Nat) → Except Nat Nat × State
  | [] => (.ok 0, s)
  | (bit, n) :: t =>
    match s.streamPiece c h d ver bit n with
    | (.error e, s) => (.error e, s)
    | (.ok a, s) =>
      match s.streamPieces c h d ver t with
      | (.ok b, s) => (.ok (a + 2 ^ n * b), s)
      | r => r

/-- The object format that a B format names (R168, R177). -/
def bfFmt (m : Word) : Nat :=
  match mfBf m with
  | 0 => 2 | 1 => 1 | 2 => 3 | 3 => 4 | 4 => 11 | 5 => 12
  | _ => if mfBw m then 13 else if mfBs m then 9 else 10

/-- Bits of column n of a weight tile, and of its block scales and super-scale (R168, R181). -/
def Desc.column (d : Desc) (n k depth : Nat) : List (Nat × Nat) := (d.pieces [n, k] depth).map fun p => (p.1, p.2 * d.w)
def Desc.scaleBits (d : Desc) (n k depth : Nat) : List (Nat × Nat) :=
  let lin := linOf d.dims [n, k]
  if d.fmt = 11 then [(8 * (d.dataEnd + lin / 32), depth / 32 * 8)]
  else if d.fmt = 12 then [(8 * (d.dataEnd + lin / 64), depth / 64 * 8)] else []
/-- The super-scale of a column: that of its first element's group, for the whole column. DESIGN CHOICE: notes/assumptions/52.md. -/
def Desc.superBits (d : Desc) (n k : Nat) : List (Nat × Nat) :=
  if d.fmt = 12 then [(8 * (d.superAt + 4 * d.superIdx (linOf d.dims [n, k])), 32)] else []

/-- A column's three parts as read. -/
structure ColumnBits where
  data  : Nat
  scale : Nat
  sup   : Nat
  deriving DecidableEq, Repr

def State.readColumns (s : State) (c : Nat) (h : Word) (d : Desc) (ver : Option Nat) (n0 k depth : Nat) :
    Nat → Except Nat (List ColumnBits) × State
  | 0 => (.ok [], s)
  | m + 1 =>
    let n := n0 + (127 - m)
    match s.streamPieces c h d ver (d.column n k depth) with
    | (.error e, s) => (.error e, s)
    | (.ok data, s) =>
      match s.streamPieces c h d ver (d.scaleBits n k depth) with
      | (.error e, s) => (.error e, s)
      | (.ok scale, s) =>
        match s.streamPieces c h d ver (d.superBits n k) with
        | (.error e, s) => (.error e, s)
        | (.ok sup, s) =>
          match s.readColumns c h d ver n0 k depth m with
          | (.ok l, s) => (.ok (⟨data, scale, sup⟩ :: l), s)
          | r => r

/-- The image of 128 columns (R157). -/
def imageOf (fmt w depth : Nat) (cols : List ColumnBits) : List (Nat × Vec) :=
  let a := cols.toArray
  let col (n : Nat) : ColumnBits := a.getD n ⟨0, 0, 0⟩
  let e := 4096 / w
  let data := (List.range (depth * 128 / e)).map fun i =>
    (i, ofElems w ((List.range e).map fun j => (col ((i * e + j) % 128)).data / 2 ^ (w * ((i * e + j) / 128)) % 2 ^ w))
  let per := if fmt = 11 then 16 else 8
  let scales := (List.range (if fmt = 11 then 4 else if fmt = 12 then 2 else 0)).map fun i =>
    (64 + i, ofElems 8 ((List.range 512).map fun j =>
      (col ((512 * i + j) / per)).scale / 2 ^ (8 * ((512 * i + j) % per)) % 256))
  let sups := if fmt = 12 then [(66, ofElems 32 ((List.range 128).map fun n => (col n).sup))] else []
  data ++ scales ++ sups

/-- How a stream load ends, if it does not wait for a missing object. -/
inductive Loaded where
  | image (l : List (Nat × Vec))
  | failed (f : Raise)
  | missing (o : Nat)
  deriving DecidableEq, Repr

/-- The leaf that maps byte o of an object here, in its draft or in a kept version. -/
def State.leafOf (s : State) (h : Word) (d : Desc) (ver : Option Nat) (o : Nat) : Option Nat :=
  match ver.bind fun v => (s.keptVer (hKey h) v).bind fun k => mget k.pages (o / 65536) with
  | some e => some e.toNat
  | none =>
    if (s.holder h d o).isSome then none else (s.homeDesc h d o).bind fun d => (s.walk d.ext o).map (·.1)

/-- The 64 KiB pages of a weight tile whose hash leaves are checked: those of an object whose MEASURED bit is set, and those
whose leaf asks for it (R168, R185). DEDUCED: notes/assumptions/49.md. -/
def State.measuredPages (s : State) (h : Word) (d : Desc) (ver : Option Nat) (bits : List (Nat × Nat)) : List Nat :=
  ((bits.flatMap fun p => [p.1 / 524288, (p.1 + p.2 - 1) / 524288]).eraseDups).filter fun p =>
    d.measured || (s.leafOf h d ver (65536 * p)).any entMeasured

/-- A stream load's checks in the order of R168, and its data. Whether a page matches its hash leaf is free: the tree is not in the
spec (DESIGN CHOICE: notes/assumptions/49.md). A coefficient object fails the load with cause 0x05 (DESIGN CHOICE:
notes/assumptions/52.md). -/
def State.streamLoad (s : State) (core : Nat) (w : WLoad) : Loaded × State :=
  let h := w.hnd
  let s := s.learn h
  let d := s.desc h
  let q := (s.coreOf core).requester s.pkg .weight
  let cls := (classB w.mfmt).getD .h16
  let depth := cls.depth
  match s.violation q h (some 65) with
  | some (c, owner) => (.failed ⟨c, h, 0⟩, s.logViolation owner q c h [w.n0, w.k0])
  | none =>
    if d.rank ≠ 2 ∨ d.fmt ≠ bfFmt w.mfmt then (.failed ⟨0x01, h, 0⟩, s)
    else if d.layout = 2 then (.failed ⟨0x05, 0, h⟩, s)
    else
      if w.k0 % d.blk ≠ 0 then (.failed ⟨0x0C, h, BitVec.ofNat 64 w.k0⟩, s)
      else
        let bits := (List.range 128).flatMap fun n =>
          d.column (w.n0 + n) w.k0 depth ++ d.scaleBits (w.n0 + n) w.k0 depth ++ d.superBits (w.n0 + n) w.k0
        match bits.find? fun p => decide (8 * d.extent < p.1 + p.2) with
        | some p => (.failed ⟨0x0A, h, BitVec.ofNat 64 (max (p.1 / 8) d.extent)⟩, s)
        | none =>
          match bits.findSome? fun p => firstMissing p.1 (s.span h d w.ver p.1 p.2) with
          | some o => (.missing o, s)
          | none =>
            match s.readColumns core h d w.ver w.n0 w.k0 depth 128 with
            | (.error pa, s) => (.failed ⟨0x18, BitVec.ofNat 64 pa, 0⟩, s)
            | (.ok cols, s) =>
              let pages := s.measuredPages h d w.ver bits
              let (n, s) := if pages.isEmpty then (0, s) else s.choose (pages.length + 1)
              match pages[n]? with
              | none => (.image (imageOf d.fmt cls.w depth cols), s)
              | some p => (.failed ⟨0x19, h, BitVec.ofNat 64 (65536 * p)⟩, s)

/-- The sequencer looks at its next pass again. -/
def State.pokeTile (s : State) (core : Nat) : State :=
  match (s.coreOf core).mtile with
  | some t => s.sched (max s.cycle t.sigma) ptPush (.mtilePassStart core)
  | none => s

/-- WEIGHT_LOAD_COMPLETE (R167, R168). A load that meets a missing object waits for Lovage. -/
def execWeightLoadComplete (core slot : Nat) (s : State) : Host.Outcome State Fault Refusal :=
  s.event fun s =>
    match (s.coreOf core).wloads.find? fun w => w.slot = slot with
    | none => s
    | some w =>
      if w.stream && s.l2Holds core then s.sched (vget s.dies (core / 32) {}).holdTo ptPush (.weightLoadComplete core slot) else
      let (r, s) := if w.stream then s.underWay fun s => s.streamLoad core w else (.image w.got, s)
      let done (f : Core → Core) : State :=
        (s.modCore core fun c => f { c with wloads := c.wloads.filter fun o => o.slot ≠ slot }).pokeTile core
      match r with
      | .image l => done fun c => c.slotReady slot l
      | .failed f => done fun c => c.slotFailed slot f
      | .missing _ => s.callLovage core

/-! ### The words -/

/-- The fault of a named slot, where one is EMPTY, of another format, or FAILED (R164). -/
def State.slotFault (s : State) (bf : Nat) (slots : List Nat) : Option Raise :=
  if slots.any fun i => (s.core.slot i).state == .empty ||
      ((s.core.slot i).state == .ready && (s.core.slot i).bfmt.toNat != bf) then some ⟨0x01, s.wordInfo, 0⟩
  else slots.findSome? fun i =>
    let w := s.core.slot i
    if w.state = .failed then
      some ⟨w.cause, if w.cause = 0x01 then s.wordInfo else w.hnd, if w.cause = 0x18 then s.core.prestart.zeroExtend 64 else w.aux⟩
    else none

/-- A fault of the matrix engine: cause 0x18 of a slot is no phase cancellation (R164, R328). -/
def State.matrixFault (s : State) (f : Raise) : State := s.halt f (addrOf s.core.gstart) (addrOf s.core.gend) s.core.wpos

/-- Fields of mx.1 (R161). -/
def mxAccRow (w : Word) : Nat := w.toNat / 2 ^ 40 % 256
def mxStride (w : Word) : Nat := w.toNat / 2 ^ 16 % 2 ^ 16
def mxNpass (w : Word) : Nat := w.toNat / 2 ^ 8 % 16
def mxNrow (w : Word) : Nat := w.toNat % 128
def mxReserved (w : Word) : Bool := w &&& 0xFFFF00FF0000F080#64 != 0

/-- The first A row outside the window, of P passes over M rows. -/
def firstRowOut (r stride passes m rows : Nat) : Option Nat :=
  if r + m ≤ rows ∧ (passes ≤ 1 ∨ r + (passes - 1) * stride + m ≤ rows) then none
  else
    let p := if rows < r + m then 0 else (rows - (r + m)) / stride + 1
    some (max (r + p * stride) rows)

/-- The issue-time checks that `mmul` and `mtile` share after the slots (R164): the tile header under `.c`, the accumulator
range and the A rows; then `k` with M and the header's tag. -/
def State.mulChecks (s : State) (c : Bool) (passes : Nat) (k : Nat → Tag → State) : State :=
  let x1 := s.core.arch.getStg 2 1
  let r := rowNum (s.core.arch.getStg 2 0)
  let rest (m : Nat) (t : Tag) : State :=
    if 256 < mxAccRow x1 + m then s.fault 0x0A 0 (BitVec.ofNat 64 (mxAccRow x1 + m - 1))
    else match firstRowOut (if c then r + 1 else r) (mxStride x1) passes m s.core.tk.rows with
      | some row => s.fault 0x0A 0 (BitVec.ofNat 64 row)
      | none => k m t
  if c then
    s.withRow r fun h =>
      if hdrValid h then rest (hdrCnt h.data) (BitVec.ofNat 4 (hdrTag h.data))
      else s.fault 0x05 (h.tag.zeroExtend 64 <<< 8)
  else rest (mxNrow x1 + 1) 0

/-- The final rows of a command, from the cycle of the first push. -/
def State.schedPushes (s : State) (core seq first n : Nat) : State :=
  (List.range n).foldl (fun s k => s.sched (first + k) ptPush (.resultRowPush core seq k)) s

/-- A pending engine error of an `mtile` is raised at the next class-9 word, `phase` or `tend`, and cleared (R169). -/
def State.engineError (s : State) (k : State → State) : State :=
  match s.core.merr with
  | some f =>
    (s.onCore fun c => { c with merr := none }).matrixFault ⟨f.cause, if f.cause = 0x01 then s.wordInfo else f.info,
      if f.cause = 0x18 then s.core.prestart.zeroExtend 64 else f.aux⟩
  | none => k s

/-- A class-9 word. -/
def State.matrixWord (s : State) (i : Instr) (k : State → State) : Host.Outcome State Fault Refusal :=
  s.computeWord i fun s => s.engineError k

/-- `mmul` (R163, R164). -/
def State.matMul (s : State) (b q : BitVec 2) (c p z : Bool) (slot : Nat) : State :=
  let mf := s.core.arch.mfmt
  let x1 := s.core.arch.getStg 2 1
  let passes := mxNpass x1 + 1
  if mxReserved x1 ∨ (pairOf mf).isNone ∨ (c ∧ 1 < mfAf mf) then s.illegal
  else match s.slotFault (mfBf mf) ((List.range passes).map fun j => slot + j) with
    | some f => s.matrixFault f
    | none => s.mulChecks c passes fun m t =>
      let seq := s.core.seq
      let cmd : MCmd :=
        { seq, kind := .mul, start := s.cycle, abase := rowNum (s.core.arch.getStg 2 0), stride := mxStride x1, mrows := m,
          passes, bank := b.toNat, accRow := mxAccRow x1, slot, z, push := if p then some q else none, coef := c, htag := t,
          mfmt := mf, addr := BitVec.ofNat 64 (addrOf (s.core.gstart + s.core.wpos)), sigma := 0, left := m }
      (s.onCore fun c => { c with mcmds := c.mcmds ++ [cmd], seq := seq + 1 }).schedPushes s.core.id seq
        (s.cycle + 20 + 128 * (passes - 1)) m

/-- `mmul` (R163). -/
def execMmul (b q : BitVec 2) (c p z : Bool) (sl : XReg) (s : State) : Host.Outcome State Fault Refusal :=
  s.matrixWord (.mmul b q c p z sl) fun s => s.matMul b q c p z sl.toNat

/-- The span of mx.7 (R161, R166), or its faults. -/
def State.withSpan (s : State) (k : Nat → Nat → State) : State :=
  let x := s.core.arch.getStg 2 7
  let row := x.toNat % 256
  let n := x.toNat / 256 % 128 + 1
  if x.toNat / 2 ^ 15 ≠ 0 then s.illegal
  else if 256 < row + n then s.fault 0x0A 0 (BitVec.ofNat 64 (row + n - 1)) else k row n

/-- `mzero` (R166). -/
def execMzero (b : BitVec 2) (s : State) : Host.Outcome State Fault Refusal :=
  s.matrixWord (.mzero b) fun s => s.withSpan fun row n => s.onCore fun c =>
    { c with seq := c.seq + 1, mcmds := c.mcmds ++
        [{ seq := c.seq, kind := .zero, start := s.cycle, mrows := n, bank := b.toNat, accRow := row, push := none,
           sigma := 0, left := 1 }] }

/-- `mdrain` (R166): row ZROW + k is pushed at issue + 3 + k. -/
def execMdrain (b q : BitVec 2) (s : State) : Host.Outcome State Fault Refusal :=
  s.matrixWord (.mdrain b q) fun s => s.withSpan fun row n =>
    let seq := s.core.seq
    (s.onCore fun c =>
      { c with seq := seq + 1, mcmds := c.mcmds ++
          [{ seq, kind := .drain, start := s.cycle, mrows := n, bank := b.toNat, accRow := row, push := some q,
             sigma := 0, left := n }] }).schedPushes s.core.id seq (s.cycle + 3) n

/-- `mwld` (R167). -/
def execMwld (sl : XReg) (s : State) : Host.Outcome State Fault Refusal :=
  s.matrixWord (.mwld sl) fun s =>
    let mf := s.core.arch.mfmt
    let rows := imageRows (mfBf mf)
    let src := rowNum (s.core.arch.getStg 2 6)
    if 6 < mfBf mf then s.illegal
    else s.rowsIn src rows <|
      if s.core.granShort sl.toNat rows then s.fault 0x0A 0 (BitVec.ofNat 64 sl.toNat)
      else
        (s.startLoad { seq := s.core.seq, slot := sl.toNat, issue := s.cycle, stream := false, src, rows, mfmt := mf }).sched
          (s.cycle + 4 + rows) ptPush (.weightLoadComplete s.core.id sl.toNat)

/-- A stream load into a slot from depth k0 (R168, R169). A load of an `mtile` that finds too few granules leaves its slot FAILED
with the bounds cause of R157, which stops the `mtile`: no word is at issue to raise it. DESIGN CHOICE: notes/assumptions/49.md. -/
def State.streamInto (s : State) (slot : Nat) (mf h : Word) (n0 k0 : Nat) (ver : Option Nat) (cmd : Bool) : State :=
  let s := s.learn h
  if s.core.granShort (slot % 64) (imageRows (mfBf mf)) then
    (s.onCore fun c => c.slotFailed (slot % 64) ⟨0x0A, 0, BitVec.ofNat 64 (slot % 64)⟩).pokeTile s.core.id
  else
    let w : WLoad :=
      { seq := s.core.seq, slot := slot % 64, issue := s.cycle, stream := true, rows := imageRows (mfBf mf), hnd := h,
        n0, k0, mfmt := mf, ver, cmd }
    (s.startLoad w).schedFree .weight 1 ptPush (.weightLoadComplete s.core.id (slot % 64))

/-- `mwstr` (R168). -/
def execMwstr (sl : XReg) (s : State) : Host.Outcome State Fault Refusal :=
  s.matrixWord (.mwstr sl) fun s =>
    let mf := s.core.arch.mfmt
    let h := s.core.arch.getStg 2 2
    if 6 < mfBf mf then s.illegal
    else if s.core.granShort sl.toNat (imageRows (mfBf mf)) then s.fault 0x0A 0 (BitVec.ofNat 64 sl.toNat)
    else s.streamInto sl.toNat mf h (s.core.arch.getStg 2 3).toNat (s.core.arch.getStg 2 4).toNat (s.core.pinOf h) true

/-- `mtile` (R169). Of the slots it names, which it overwrites, none is checked. DESIGN CHOICE: notes/assumptions/52.md. -/
def State.matTile (s : State) (b q : BitVec 2) (c p z : Bool) (slot : Nat) : State :=
  let mf := s.core.arch.mfmt
  let x1 := s.core.arch.getStg 2 1
  let x5 := s.core.arch.getStg 2 5
  let h := s.core.arch.getStg 2 2
  let n0 := (s.core.arch.getStg 2 3).toNat
  let k0 := (s.core.arch.getStg 2 4).toNat
  let total := x5.toNat % 2 ^ 16 + 1
  if mxReserved x1 ∨ mxNpass x1 ≠ 0 ∨ x5.toNat / 2 ^ 16 ≠ 0 ∨ (pairOf mf).isNone ∨ (c ∧ 1 < mfAf mf) then s.illegal
  else s.mulChecks c total fun m t =>
    if s.core.granShort slot (imageRows (mfBf mf)) then s.fault 0x0A 0 (BitVec.ofNat 64 slot)
    else
      let seq := s.core.seq
      let cmd : MCmd :=
        { seq, kind := .mul, tile := true, start := s.cycle, abase := rowNum (s.core.arch.getStg 2 0),
          stride := mxStride x1, mrows := m, passes := total, bank := b.toNat, accRow := mxAccRow x1, slot, z,
          push := if p then some q else none, coef := c, htag := t, mfmt := mf,
          addr := BitVec.ofNat 64 (addrOf (s.core.gstart + s.core.wpos)), sigma := 0, left := m }
      let s := s.onCore fun c =>
        { c with mcmds := c.mcmds ++ [cmd], seq := seq + 1,
                 mtile := some { seq, next := 0, total, sigma := s.cycle + 2, slot, mfmt := mf, hnd := h, n0, k0,
                                 ver := c.pinOf h } }
      s.streamInto slot mf h n0 k0 (s.core.pinOf h) false

/-- `mtile` (R169). -/
def execMtile (b q : BitVec 2) (c p z : Bool) (sl : XReg) (s : State) : Host.Outcome State Fault Refusal :=
  s.matrixWord (.mtile b q c p z sl) fun s => s.matTile b q c p z sl.toNat

/-- The start of an `mtile` pass: the next weight tile is asked for, and the last pass's rows get their push cycles. -/
def State.tilePass (s : State) (core : Nat) (t : MTile) : State :=
  let p := t.next
  let depth := ((classB t.mfmt).getD .h16).depth
  let s := s.modCore core fun c =>
    { c with mcmds := c.mcmds.map fun m => if m.seq = t.seq then { m with pass := p, sigma := s.cycle } else m,
             mtile := if p + 1 < t.total then some { t with next := p + 1, sigma := s.cycle + 128 } else none }
  if p + 1 < t.total then
    let here := s.core.id
    let s := (s.focus core).streamInto (t.slot + (p + 1) % 2) t.mfmt t.hnd t.n0 (t.k0 + (p + 1) * depth) t.ver false
    (s.focus here).sched (s.cycle + 128) ptPush (.mtilePassStart core)
  else
    match (s.coreOf core).mcmds.find? fun m => m.seq = t.seq with
    | some m => s.schedPushes core t.seq (s.cycle + 18) m.mrows
    | none => s

/-- MTILE_PASS_START (R169): the pass starts when its slot is READY and its cycle has come; a FAILED slot stops the
`mtile`, whose cause stays pending. Under pre-emption it stops here (R172). -/
def execMtilePassStart (core : Nat) (s : State) : Host.Outcome State Fault Refusal :=
  s.event fun s =>
    let c := s.coreOf core
    match c.mtile with
    | none => s
    | some t =>
      let w := c.slot (t.slot + t.next % 2)
      if s.cycle < t.sigma then s
      else if c.state = .stopping then s.modCore core fun c => { c with mtile := some { t with paused := true } }
      else match w.state with
        | .ready => s.tilePass core t
        | .failed => s.modCore core fun c =>
          { c with mtile := none, mcmds := c.mcmds.filter fun m => m.seq ≠ t.seq, merr := some ⟨w.cause, w.hnd, w.aux⟩ }
        | _ => s

/-- `mstat` (R170). -/
def execMstat (w : Bool) (d : XReg) (sel : BitVec 8) (s : State) : Host.Outcome State Fault Refusal :=
  s.matrixWord (.mstat w d sel) fun s =>
    match s.core.mstatValue sel.toNat with
    | none => s.illegal
    | some v =>
      if w then (s.awaitX d).onCore fun c => { c with mwaits := c.mwaits ++ [(d, sel.toNat, c.seq)] }
      else s.produceX d v (s.cycle + 2)

end Sys2Proof.Machine
end

