-- ==== Sys2Proof/Machine/Channels.lean ====
section
/-! DEFINITION. Classes 10 and 11, the fetch and copy channels and the stream registers (R222..R245): patterns, resolution
at issue, the commands as they run, channel status and its reports. A fetch row is read and written at the fill point of
its cycle; a copy is performed at the engine read point in which it completes. `clz` rows leave for their zone in
Machine/Landing.lean. -/

namespace Sys2Proof.Machine

open Sys2Proof

/-! ### Patterns (R224..R226, R234) -/

/-- A field of a word, and a signed half. -/
def fieldN (w : Word) (lo n : Nat) : Nat := w.toNat / 2 ^ lo % 2 ^ n
def loHalf (w : Word) : Int := intOfPat 32 true (fieldN w 0 32)
def hiHalf (w : Word) : Int := intOfPat 32 true (fieldN w 32 32)

/-- A value as a signed 64-bit number. -/
def wrap64 (i : Int) : Int := (BitVec.ofInt 64 i).toInt

/-- A walk: the first index, the run length, the counts n1..n4 and the strides STR0..STR4. -/
structure Pattern where
  base : Int
  n0   : Nat
  ns   : List Nat
  strs : List Int
  deriving DecidableEq, Repr

/-- The staging registers of an engine as they stand (R39): 0 fetch, 1 copy. -/
def Core.staged (c : Core) (e : Nat) : Vector Word 16 := Vector.ofFn fun i => c.arch.getStg e i.val

/-- The pattern whose counts stand in register k (8 for fe, 9 for cp), with a base. -/
def patternAt (r : Vector Word 16) (k : Nat) (base : Int) : Pattern :=
  let g (i : Nat) : Word := vget r i 0
  { base, n0 := fieldN (g (k + 1)) 0 10 + 1,
    ns := (List.range 4).map fun i => fieldN (g k) (16 * i) 16 + 1,
    strs := [loHalf (g (k + 2)), hiHalf (g (k + 2)), loHalf (g (k + 3)), hiHalf (g (k + 3)), loHalf (g (k + 4))] }

/-- The origin coordinates, and the base that they give. -/
def originOf (r : Vector Word 16) (rank : Nat) : List Nat := (List.range rank).map fun i => (vget r (1 + i) 0).toNat
def baseOf (r : Vector Word 16) (d : Desc) : Int := wrap64 (linOf d.dims (originOf r d.rank))

def Pattern.runs (p : Pattern) : Nat := prodL p.ns

/-- The digits of a run's number, j1 first. -/
def digits : List Nat → Nat → List Nat
  | [], _ => []
  | n :: t, r => r % n :: digits t (r / n)

/-- Element j0 of run r. -/
def Pattern.idx (p : Pattern) (r j0 : Nat) : Int :=
  wrap64 (((j0 :: digits p.ns r).zip p.strs).foldl (fun s q => s + (q.1 : Int) * q.2) p.base)

/-- The bits of an index in an object; none at a negative index or at or past EXTENT (R225). -/
def Desc.bitAt (d : Desc) (i : Int) : Option Nat :=
  if i < 0 then none
  else
    let bit := d.bitOf (coordsOf d.dims i.toNat)
    if 8 * d.extent < bit + d.w then none else some bit

/-- A piece of an object's bits: offset and length. -/
abbrev Piece := Nat × Nat

def Desc.inside (d : Desc) (p : Piece) : Bool := decide (p.1 + p.2 ≤ 8 * d.extent)

/-- The scale bytes, and the super-scale, of a run from an index (R181). -/
def Desc.runScales (d : Desc) (i n : Nat) : List Piece :=
  if d.blk = 1 then [] else (List.range (n / d.blk)).map fun j => (8 * (d.dataEnd + i / d.blk + j), 8)
def Desc.runSuper (d : Desc) (i : Nat) : List Piece :=
  if d.fmt = 12 then [(8 * (d.superAt + 4 * d.superIdx i), 32)] else []

/-- A run's elements, scales and super-scale; none where one of them is out of bounds. -/
structure RunBits where
  data  : List Piece
  scale : List Piece
  sup   : List Piece
  deriving DecidableEq, Repr

def RunBits.all (r : RunBits) : List Piece := r.data ++ r.scale ++ r.sup

def Pattern.run (p : Pattern) (d : Desc) (r : Nat) : Option RunBits :=
  match (List.range p.n0).mapM fun j => d.bitAt (p.idx r j) with
  | none => none
  | some bits =>
    let i := (p.idx r 0).toNat
    let rb : RunBits := ⟨bits.map fun b => (b, d.w), d.runScales i p.n0, d.runSuper i⟩
    if rb.all.all d.inside then some rb else none

/-- Every piece of the pattern that lies within EXTENT, in the order of the walk. -/
def Pattern.pieces (p : Pattern) (d : Desc) : List Piece :=
  (List.range p.runs).flatMap fun r =>
    let i := (p.idx r 0).toNat
    ((List.range p.n0).filterMap fun j => (d.bitAt (p.idx r j)).map fun b => (b, d.w)) ++
      (if p.idx r 0 < 0 then [] else (d.runScales i p.n0 ++ d.runSuper i).filter d.inside)

/-- The count, stride and format rules of R226 for one object. -/
def Pattern.fmtOk (p : Pattern) (d : Desc) : Bool :=
  let unit := p.strs.headD 0 == 1
  decide (p.n0 * d.w ≤ 4096) && (d.blk == 1 || (unit && p.n0 % d.blk == 0 && decide (p.n0 ≤ 512))) &&
    (d.fmt != 13 || unit)

/-- A run that crosses a group of 256 blocks of a Q4N object (R226). -/
def Pattern.crosses (p : Pattern) (d : Desc) : Bool :=
  d.fmt == 12 && (List.range p.runs).any fun r =>
    decide (0 ≤ p.idx r 0) && d.superIdx (p.idx r 0).toNat != d.superIdx (p.idx r (p.n0 - 1)).toNat

/-- The slot of a coefficient tile, and its rows as pieces (R180, R228). -/
def Desc.tileRow (d : Desc) (cs : List Nat) (j : Nat) : Piece := (8 * (66048 * d.slotOf cs + 512 * j), 4096)
def Desc.tilePieces (d : Desc) (cs : List Nat) : List Piece :=
  ((List.range (d.npos + 1)).map (d.tileRow cs)).filter d.inside
def Desc.tileAligned (d : Desc) (cs : List Nat) : Bool :=
  cs.getD d.waxis 0 % d.npos == 0 && inner cs 0 % d.e == 0

/-! ### Resolution at issue (R223) -/

/-- What a word asks of one object: its right, whether it writes, whether it moves a coefficient tile, the origin on the
innermost axis, whether block alignment is broken, and the pieces it touches within EXTENT. -/
structure PatReq where
  h      : Word
  origin : List Nat
  need   : Nat
  write  : Bool
  coef   : Bool
  inner  : Nat
  broken : Bool
  pieces : List Piece
  ver    : Option Nat
  deriving DecidableEq, Repr

/-- The descriptor of a live object. -/
def State.known (s : State) (h : Word) : Option Desc := if s.deadHandle h then none else some (s.desc h)

/-- The requests of a walk, and of a coefficient tile. -/
def walkReq (s : State) (c : Core) (h : Word) (write : Bool) (cs : List Nat) (p : Pattern) : PatReq :=
  let d := s.desc h
  let inner := inner cs 0
  { h, origin := cs, need := if write then 2 else 1, write, coef := false, inner, broken := inner % d.blk != 0 || p.crosses d,
    pieces := p.pieces d, ver := if write then none else c.pinOf h }
def tileReq (s : State) (c : Core) (h : Word) (write : Bool) (cs : List Nat) : PatReq :=
  let d := s.desc h
  { h, origin := cs, need := if write then 2 else 1, write, coef := true, inner := inner cs 0, broken := !d.tileAligned cs,
    pieces := d.tilePieces cs, ver := if write then none else c.pinOf h }

/-- The first byte, in the order of the walk, whose sector is in a state. -/
def State.firstPiece (s : State) (q : PatReq) (p : Served → Bool) : Option Nat :=
  (q.pieces.find? fun x => (s.span q.h (s.desc q.h) q.ver x.1 x.2).any p).map (·.1 / 8)

/-- Resolution of a word's objects, each condition tried on every object before the next (R223, orders 3 to 8): the object
that the fault names, and the fault. -/
def State.resolvePat (s : State) (c : Core) (k : ReqKind) (qs : List PatReq) : Option (PatReq × HFault) :=
  let viol (code : BitVec 8) := qs.findSome? fun q =>
    match s.violation (c.requester s.pkg k) q.h (some q.need) with
    | some (cause, owner) => if cause = code then some (q, ({ raise := ⟨cause, q.h, 0⟩, log := some owner } : HFault)) else none
    | none => none
  let on (f : PatReq → Option HFault) := qs.findSome? fun q => (f q).map fun x => (q, x)
  let at_ (q : PatReq) (cause : BitVec 8) (o : Nat) : HFault :=
    { raise := ⟨cause, q.h, BitVec.ofNat 64 o⟩,
      want := if cause = 0x0B then qs.map fun q => (q.h, q.ver, q.write, q.pieces) else [] }
  (viol 0x08).orElse fun _ => (viol 0x09).orElse fun _ =>
  (on fun q => if ((s.desc q.h).layout == 2) == q.coef then none else some { raise := ⟨0x05, 0, q.h⟩ }).orElse fun _ =>
  (on fun q => if q.broken then some (at_ q 0x0C q.inner) else none).orElse fun _ =>
  (on fun q => (s.firstPiece q (· == .missing)).map (at_ q 0x0B)).orElse fun _ =>
  on fun q =>
    if !q.write then none
    else if (s.desc q.h).replicated then some (at_ q 0x09 ((q.pieces.headD (0, 0)).1 / 8))
    else (s.firstPiece q fun x => match x with | .ok _ we => !we | .remote _ _ we _ => !we | _ => false).map fun o =>
      { at_ q 0x09 o with log := some (s.desc q.h).part }

/-- The checks of a pattern word in the order of R223, then the word's effect; a violation is recorded with the engine's kind and
the origin. -/
def State.withPattern (s : State) (k : ReqKind) (bad : Bool) (first count : Nat) (qs : List PatReq) (go : State → State) :
    State :=
  if bad then s.illegal
  else s.rowsIn first count <|
    match s.resolvePat s.core k qs with
    | some (q, f) => s.hFault k q.h q.origin f
    | none => go s

/-! ### Reading and writing pieces -/

/-- The sectors that pieces lie in, each once. -/
def sectorsOf (ps : List Piece) : List Nat := (ps.map fun p => p.1 / 512).eraseDups

/-- Reads sectors of an object as an engine does, without an L1 copy (R268): the data, or the address of the first that is
uncorrectable. -/
def State.readSectors (s : State) (core : Nat) (h : Word) (d : Desc) (ver : Option Nat) :
    List Nat → Except Nat (List (Nat × Nat)) × State
  | [] => (.ok [], s)
  | n :: t =>
    let (r, s) : Except Nat Nat × State := match s.locate h d ver (64 * n) with
      | .ok x _ =>
        match s.readSector core x false (classOf false false x.line) with
        | (some m, s) => (.ok m.toNat, s)
        | (none, s) => (.error x.pa, s)
      | .remote _ a _ _ =>
        let q := (s.coreOf core).requester s.pkg .fetch
        (s.askFar q h d (64 * n) [64 * n] 4 0 ver).readFar q.part core a
      | .missing => (.ok 0, s)
    match r with
    | .error e => (.error e, s)
    | .ok a =>
      match s.readSectors core h d ver t with
      | (.ok l, s) => (.ok ((n, a) :: l), s)
      | r => r

/-- The bits of a piece, from sectors that were read; no piece crosses a sector but whole rows. -/
def pieceBits (m : List (Nat × Nat)) (p : Piece) : Nat :=
  let at_ (n : Nat) : Nat := ((m.find? fun x => x.1 = n).map (·.2)).getD 0
  packNat 512 ((List.range ((p.1 + p.2 - 1) / 512 - p.1 / 512 + 1)).map fun i => at_ (p.1 / 512 + i)) / 2 ^ (p.1 % 512) % 2 ^ p.2

/-- Sectors of longer pieces. -/
def rowSectors (p : Piece) : List Nat := (List.range (p.2 / 512)).map fun i => p.1 / 512 + i

/-- A row as `fget` builds it: elements from bit 0, scales from byte 256, the super-scale at byte 264 (R153, R227). -/
def rowOf (w : Nat) (data scale sup : List Nat) : Vec :=
  BitVec.ofNat 4096 (packNat w data + packNat 8 scale * 2 ^ 2048 + packNat 32 sup * 2 ^ 2112)

/-- Writes pieces of an object, sector by sector, after the copies that versions need; a sector of another package is
forwarded there (R184). A piece crosses no sector. -/
def State.writePieces (s : State) (q : Requester) (h : Word) (d : Desc) (ps : List (Piece × Nat)) : State :=
  let far := ps.filter fun p => match s.locate h d none (p.1.1 / 512 * 64) with | .remote _ _ _ _ => true | _ => false
  ((sectorsOf (ps.map (·.1))).foldl (fun s n =>
    let mine := ps.filter fun p => p.1.1 / 512 = n
    match s.locate h d none (64 * n) with
    | .ok x _ => (s.cow h d (64 * n)).writeSector q.core x (classOf false false x.line) fun m =>
        mine.foldl (fun m p => putBits m (p.1.1 % 512) p.1.2 p.2) m
    | _ => s) s).forwardBits q h d (far.map fun p => (p.1.1, p.1.2, p.2 % 2 ^ p.1.2))

/-- Whether an engine write must wait for pages of the object's pool (R202), or for a missing object. -/
def State.writeWaits (s : State) (h : Word) (d : Desc) (ps : List Piece) : Bool :=
  let l := (sectorsOf ps).map fun n => (64 * n, s.locate h d none (64 * n))
  (s.poolShort h (l.filterMap fun p => match p.2 with | .ok _ _ => some p.1 | _ => none)).isSome ||
    l.any fun p => match p.2 with | .missing => true | .remote _ _ _ room => !room | _ => false

/-- The watch record of an engine's write: the first element that a watchpoint holds (R191). -/
def State.watchPieces (s : State) (q : Requester) (h : Word) (d : Desc) (ps : List Piece) : State :=
  match ps.find? fun p => d.watch && (s.holder h d (p.1 / 8)).isNone && (s.watchHit h d p.1 1).isSome with
  | some p => s.watchRecord q h d p.1 1
  | none => s

/-- The same for row j of a coefficient tile: row 0 is the header, which holds no element; a present row holds the elements of
the position that the header's bits give it. -/
def State.watchTile (s : State) (q : Requester) (h : Word) (d : Desc) (cs : List Nat) (pos : Option Nat) : State :=
  match pos with
  | none => s
  | some p =>
    let at_ := cs.set d.waxis (cs.getD d.waxis 0 + p)
    let lin := linOf d.dims at_
    let hit := if !d.watch ∨ hHome h ≠ s.pkg then none
      else (List.range d.e).findSome? fun i =>
        ((s.watches.filter fun w => w.home * 2 ^ 23 + w.slot = hKey h).find? fun w => w.lo ≤ lin + i && lin + i ≤ w.hi).map fun _ => lin + i
    match hit with
    | none => s
    | some n => { s with watchLog := ⟨h, n, q.kind, q.core, q.pkg, s.cycle⟩ :: s.watchLog }.sysPend 1

/-! ### Queues and status (R222, R229, R230) -/

def Core.chan (c : Core) (copy : Bool) (n : Nat) : Chan := vget (if copy then c.cp else c.fe) n {}
def Core.modChan (c : Core) (copy : Bool) (n : Nat) (f : Chan → Chan) : Core :=
  if copy then { c with cp := vset c.cp n (f (c.chan true n)) } else { c with fe := vset c.fe n (f (c.chan false n)) }

/-- The status word (R230). -/
def Chan.word (c : Chan) : Word :=
  BitVec.ofNat 64 (place 32 8 c.cause.toNat + place 24 8 c.nerr + place 8 4 c.queue.length + (if c.err then 1 else 0))

/-- A report clears ERR, CAUSE and NERR. -/
def Chan.reported (c : Chan) : Chan := { c with err := false, cause := 0, nerr := 0, bad := none, werr := [] }

/-- The lowest-numbered channel in error, fetch channels first: which one, and its status word (R229). -/
def Core.errChan (c : Core) (copies : Bool) : Option (Bool × Nat × Word) :=
  ((List.range 16).map (fun n => (false, n)) ++ (if copies then (List.range 16).map fun n => (true, n) else [])).findSome?
    fun p => if (c.chan p.1 p.2).err then some (p.1, p.2, (c.chan p.1 p.2).word) else none

def Core.reportAll (c : Core) (copies : Bool) : Core :=
  { c with fe := c.fe.map Chan.reported, cp := if copies then c.cp.map Chan.reported else c.cp }

/-- A command of a channel, by number, and its update. -/
def Chan.find (c : Chan) (seq : Nat) : Option ChanCmd := c.queue.find? fun q => q.seq = seq
def Chan.mod (c : Chan) (seq : Nat) (f : ChanCmd → ChanCmd) : Chan :=
  { c with queue := c.queue.map fun q => if q.seq = seq then f q else q }

/-- The first error of a command stands. -/
def ChanCmd.fail (c : ChanCmd) (cause : BitVec 8) (bad : Option Nat := none) : ChanCmd :=
  if c.err.isSome then c else { c with err := some cause, bad := bad }

/-- Issue of a command: its entry is held from now on, and it starts after a free time (R222, R419). -/
def State.pushCmd (s : State) (copy : Bool) (ch : Nat) (kind : ChanKind) (total : Nat) : State :=
  let c := s.core
  let cmd : ChanCmd :=
    { kind, seq := c.seq, issue := s.cycle, stg := c.staged (if copy then 1 else 0), phase := c.phase,
      pins := c.pins.map fun p => (p.home * 2 ^ 23 + p.slot, p.ver), total }
  (s.onCore fun c =>
    { c.modChan copy ch fun q => { q with queue := q.queue ++ [cmd] } with seq := c.seq + 1 }).schedFree .channel 1 ptPush
    (.channelCommandStart c.id copy ch)

/-- The oldest command of a copy channel, once started, is performed after a free time; a `clz` whose rows are all answered
leaves. -/
def State.armHead (s : State) (core ch : Nat) : State :=
  match ((s.coreOf core).chan true ch).queue with
  | c :: _ =>
    if !c.started then s
    else if c.kind = .clz then
      if c.runs.length = c.total then s.sched s.cycle ptEnd (.clzComplete core ch) else s
    else s.schedFree .copy 0 ptRead (.copyCommandComplete core ch)
  | [] => s

/-- A command leaves its channel: an error goes into the status word (R229). -/
def Chan.retire (c : Chan) (q : ChanCmd) (obj : List Nat) : Chan :=
  let c := { c with queue := c.queue.filter fun x => x.seq ≠ q.seq }
  match q.err with
  | none => c
  | some e => { c with err := true, cause := if c.err then c.cause else e, nerr := min 255 (c.nerr + 1),
                       bad := if c.bad.isSome then c.bad else q.bad, werr := obj ++ c.werr }

/-! ### Fetch commands (R227, R228, R232) -/

/-- Whether every run of a fetch command has been written or spoiled. -/
def ChanCmd.done (c : ChanCmd) : Bool := c.started && c.runs.length + c.spoiled.length == c.total

/-- The oldest fetch command, once all its rows stand, completes at the same point. -/
def State.pokeFetch (s : State) (core ch : Nat) : State :=
  match ((s.coreOf core).chan false ch).queue with
  | c :: _ => if c.done then s.sched s.cycle ptFill (.fetchCommandComplete core ch) else s
  | [] => s

/-- FETCH_COMMAND_COMPLETE (R229). -/
def execFetchCommandComplete (core ch : Nat) (s : State) : Host.Outcome State Fault Refusal :=
  s.event fun s =>
    match ((s.coreOf core).chan false ch).queue with
    | c :: _ =>
      if c.done then (s.modCore core fun k => k.modChan false ch fun q => q.retire c []).pokeFetch core ch else s
    | [] => s

/-- A fill of a row, unless a later command has filled it in this cycle or on this channel (R121, R222). -/
def Core.fill (c : Core) (ch seq row : Nat) (r : Row) : Core :=
  let later := (c.fills.any fun f => f.1 = row && decide (seq < f.2)) ||
    (c.chan false ch).queue.any fun q => decide (seq < q.seq) && (q.kind == .fget || q.kind == .fgetc) &&
      q.runs.any fun i => rowNum (vget q.stg 7 0) + i = row
  if later then c else { c.writeRow .fetch (c.tk.base + row) r with fills := (row, seq) :: c.fills }

/-- A run is written, or spoiled by an error. -/
def State.runDone (s : State) (core ch : Nat) (q : ChanCmd) (run : Nat) : State :=
  s.modCore core fun c => c.modChan false ch fun x => x.mod q.seq fun q => { q with runs := run :: q.runs }
def State.runSpoiled (s : State) (core ch : Nat) (q : ChanCmd) (run : Nat) (cause : BitVec 8) (bad : Option Nat := none) : State :=
  s.modCore core fun c => c.modChan false ch fun x => x.mod q.seq fun q => { q.fail cause bad with spoiled := run :: q.spoiled }

/-- A row of a walk (R227). Missing bytes, met by a command that was pushed again, wait for Lovage (R245). -/
def State.fetchRow (s : State) (core ch : Nat) (q : ChanCmd) (run : Nat) : State :=
  let h := vget q.stg 0 0
  let d := s.desc h
  let tag : Tag := if (vget q.stg 9 0).getLsbD 12 then tagC else tagS
  let row := rowNum (vget q.stg 7 0) + run
  let put (s : State) (v : Vec) : State := (s.runDone core ch q run).modCore core fun c => c.fill ch q.seq row ⟨v, tag⟩
  match (patternAt q.stg 8 (baseOf q.stg d)).run d run with
  | none => s.runSpoiled core ch q run 0x0A
  | some rb =>
    let ver := mget q.pins (hKey h)
    let secs := sectorsOf rb.all
    if secs.any fun n => s.locate h d ver (64 * n) == .missing then s.callLovage core
    else match s.readSectors core h d ver secs with
      | (.error pa, s) => s.runSpoiled core ch q run 0x18 (some pa)
      | (.ok m, s) => put s (rowOf d.w (rb.data.map (pieceBits m)) (rb.scale.map (pieceBits m)) (rb.sup.map (pieceBits m)))

/-- The rows of a stored tile from one on, as they are read; rows that are uncorrectable are spoiled (R229). -/
def State.tileRows (s : State) (core : Nat) (h : Word) (d : Desc) (ver : Option Nat) (cs : List Nat) :
    List Nat → List (Nat × Except Nat Vec) × State
  | [] => ([], s)
  | j :: t =>
    let p := d.tileRow cs j
    let (r, s) : Except Nat Vec × State :=
      match s.readSectors core h d ver (rowSectors p) with
      | (.error pa, s) => (.error pa, s)
      | (.ok m, s) => (.ok (BitVec.ofNat 4096 (pieceBits m p)), s)
    let (l, s) := s.tileRows core h d ver cs t
    ((j, r) :: l, s)

/-- A coefficient tile (R228): the header, then the present rows that it names; its rows are written at one point. A row that
the header names outside the window, or outside the object, is left unwritten, with a bounds error. DESIGN CHOICE:
notes/assumptions/48.md. -/
def State.fetchTile (s : State) (core ch : Nat) (q : ChanCmd) : State :=
  let h := vget q.stg 0 0
  let d := s.desc h
  let cs := originOf q.stg d.rank
  let ver := mget q.pins (hKey h)
  let dst := rowNum (vget q.stg 7 0)
  let spoil (cause : BitVec 8) (bad : Option Nat) (s : State) : State :=
    s.modCore core fun c => c.modChan false ch fun x => x.mod q.seq fun q => { q.fail cause bad with total := 0 }
  let rows (s : State) (hd : Row) (l : List (Nat × Except Nat Vec)) : State :=
    let tag : Tag := BitVec.ofNat 4 (hdrTag hd.data)
    let good := (0, hd) :: l.filterMap fun p => match p.2 with | .ok v => some (p.1, ⟨v, tag⟩) | .error _ => none
    let bad := l.findSome? fun p => match p.2 with | .error pa => some pa | .ok _ => none
    s.modCore core fun c =>
      let c := good.foldl (fun c p => c.fill ch q.seq (dst + p.1) p.2) c
      c.modChan false ch fun x => x.mod q.seq fun q =>
        let q := match bad with | some pa => q.fail 0x18 (some pa) | none => q
        { q with runs := good.map (·.1), total := good.length }
  if !d.inside (d.tileRow cs 0) then spoil 0x0A none s
  else if (d.tilePieces cs).any fun p => (s.span h d ver p.1 p.2).any (· == .missing) then s.callLovage core
  else
    match s.tileRows core h d ver cs [0] with
    | ([(_, .ok v)], s) =>
      if !hdrValid ⟨v, tagX⟩ then spoil 0x05 none s
      else
        let js := (List.range (hdrCnt v)).map (· + 1)
        let fits (j : Nat) : Bool := d.inside (d.tileRow cs j) && decide (dst + j < (s.coreOf core).tk.rows)
        let (l, s) := s.tileRows core h d ver cs (js.filter fits)
        let s := rows s ⟨v, tagX⟩ l
        if js.all fits then s
        else s.modCore core fun c => c.modChan false ch fun x => x.mod q.seq (·.fail 0x0A)
    | ([(_, .error pa)], s) => spoil 0x18 (some pa) s
    | (_, s) => s

/-- A prefetch into the die's L2 (R232): sectors that would fault or are not RESIDENT_HBM are skipped. -/
def State.fetchAhead (s : State) (core : Nat) (q : ChanCmd) : State :=
  let h := vget q.stg 0 0
  let d := s.desc h
  let ok := (s.violation ((s.coreOf core).requester s.pkg .fetch) h (some 1)).isNone && d.layout != 2
  if !ok then s
  else
    let ver := mget q.pins (hKey h)
    (sectorsOf ((patternAt q.stg 8 (baseOf q.stg d)).pieces d)).foldl (fun s n =>
      match s.locate h d ver (64 * n) with
      | .ok x _ => if paSpace x.pa = 0 then (s.readSector core x false (classOf false false x.line)).2 else s
      | _ => s) s

/-- FETCH_ROW_WRITTEN (R227). -/
def execFetchRowWritten (core ch seq run : Nat) (s : State) : Host.Outcome State Fault Refusal :=
  s.memoryEvent core (.fetchRowWritten core ch seq run) fun s =>
    match ((s.coreOf core).chan false ch).find seq with
    | none => s
    | some q =>
      if q.runs.contains run || q.spoiled.contains run || q.done then s
      else
        let s := match q.kind with
          | .fgetc => s.fetchTile core ch q
          | .fpref => (s.fetchAhead core q).runDone core ch q 0
          | _ => s.fetchRow core ch q run
        s.pokeFetch core ch

/-! ### Starting (R222, R245) -/

/-- The objects of a command as its staging registers name them. -/
def ChanCmd.reqs (q : ChanCmd) (s : State) (c : Core) : List PatReq :=
  let g (i : Nat) : Word := vget q.stg i 0
  let h := g 0
  let d := s.desc h
  let cs := originOf q.stg d.rank
  match q.kind with
  | .fget => [walkReq s c h false cs (patternAt q.stg 8 (baseOf q.stg d))]
  | .fgetc => [tileReq s c h false cs]
  | .cput => [walkReq s c h true cs (patternAt q.stg 9 (baseOf q.stg d))]
  | .cputc => [tileReq s c h true cs]
  | .cmov =>
    let sd := s.desc (g 7)
    let lin := wrap64 (g 8).toInt
    [walkReq s c h true cs (patternAt q.stg 9 (baseOf q.stg d)),
     walkReq s c (g 7) false (coordsOf sd.dims (g 8).toNat) (patternAt q.stg 9 lin)]
  | .fpref | .clz => []

/-- CHANNEL_COMMAND_START (R222). A command that was pushed again on resumption is resolved afresh: a missing object waits
for Lovage, any other failure is an error of the command (R245). The rows of `clz` leave in Machine/Landing.lean. -/
def State.startCmd (s : State) (core : Nat) (copy : Bool) (ch : Nat) (q : ChanCmd) : State :=
  let c := s.coreOf core
  let setCmd (f : ChanCmd → ChanCmd) (s : State) : State := s.modCore core fun k => k.modChan copy ch fun x => x.mod q.seq f
  let qs := (q.reqs s c).map fun r => if r.write then r else { r with ver := mget q.pins (hKey r.h) }
  match (if q.again then s.resolvePat c (if copy then .copy else .fetch) qs else none) with
  | some (r, f) =>
    if f.raise.cause = 0x0B then s.callLovage core
    else
      let s := match f.log with
        | some owner => s.logViolation owner (c.requester s.pkg (if copy then .copy else .fetch)) f.raise.cause r.h r.origin
        | none => s
      let s := setCmd (fun q => { q.fail f.raise.cause with started := true, total := 0 }) s
      if copy then s.armHead core ch else s.pokeFetch core ch
  | none =>
    let s := setCmd (fun q => { q with started := true }) s
    if copy then
      (match (c.chan true ch).queue with
       | x :: _ => if x.seq = q.seq then s.armHead core ch else s
       | [] => s)
    else (List.range q.total).foldl (fun s r =>
      s.schedFree .fetchRow 0 ptFill (.fetchRowWritten core ch q.seq r)) s

/-! ### Copies (R235, R236) -/

/-- One run of `cput`. -/
def State.putRun (s : State) (core : Nat) (q : ChanCmd) (run : Nat) : Option (BitVec 8) × State :=
  let c := s.coreOf core
  let h := vget q.stg 0 0
  let d := s.desc h
  let r := c.row (rowNum (vget q.stg 7 0) + run)
  let who := c.requester s.pkg .copy
  if Tag.isH r.tag || Tag.isX r.tag then (some 0x05, s)
  else if (c.pinOf h).isSome then (some 0x09, s)
  else
    match (patternAt q.stg 9 (baseOf q.stg d)).run d run with
    | none => (some 0x0A, s)
    | some rb =>
      let data := rb.data.zipIdx.map fun p => (p.1, elem d.w r.data p.2)
      let scale := rb.scale.zipIdx.map fun p => (p.1, elem 8 r.data (256 + p.2))
      let sup := rb.sup.map fun p => (p, elem 32 r.data 66)
      (none, (s.watchPieces who h d rb.data).writePieces who h d (data ++ scale ++ sup))

/-- `cput.c`: the header row and its present rows go to the tile's slot. -/
def State.putTile (s : State) (core : Nat) (q : ChanCmd) : Option (BitVec 8) × State :=
  let c := s.coreOf core
  let h := vget q.stg 0 0
  let d := s.desc h
  let cs := originOf q.stg d.rank
  let src := rowNum (vget q.stg 7 0)
  let who := c.requester s.pkg .copy
  let hd := c.row src
  let present := (List.range 128).filter (hdrPres hd.data).getLsbD
  if !hdrValid hd then (some 0x05, s)
  else if (c.pinOf h).isSome then (some 0x09, s)
  else
    (List.range (hdrCnt hd.data + 1)).foldl (fun (st : Option (BitVec 8) × State) j =>
      let r := c.row (src + j)
      let p := d.tileRow cs j
      if 0 < j && r.tag != BitVec.ofNat 4 (hdrTag hd.data) then (st.1.orElse fun _ => some 0x05, st.2)
      else if !d.inside p then (st.1.orElse fun _ => some 0x0A, st.2)
      else
        let ps : List (Piece × Nat) := (List.range 8).map fun i => ((p.1 + 512 * i, 512), elem 512 r.data i)
        (st.1, (st.2.watchTile who h d cs (if j = 0 then none else present[j - 1]?)).writePieces who h d ps))
      (none, s)

/-- One run of `cmov`: an element whose source finds an error stays unwritten. -/
def State.moveRun (s : State) (core : Nat) (q : ChanCmd) (run : Nat) : Option (BitVec 8) × State :=
  let c := s.coreOf core
  let h := vget q.stg 0 0
  let src := vget q.stg 7 0
  let d := s.desc h
  let sd := s.desc src
  let who := c.requester s.pkg .copy
  let ver := mget q.pins (hKey src)
  let from_ := patternAt q.stg 9 (wrap64 (vget q.stg 8 0).toInt)
  let to_ := patternAt q.stg 9 (baseOf q.stg d)
  let get (st : Option (BitVec 8) × List (Option Nat) × State) (j : Nat) : Option (BitVec 8) × List (Option Nat) × State :=
    match sd.bitAt (from_.idx run j) with
      | none => (st.1.orElse fun _ => some 0x0A, st.2.1 ++ [none], st.2.2)
      | some b =>
        match st.2.2.readSectors core src sd ver [b / 512] with
        | (.ok m, s) => (st.1, st.2.1 ++ [some (pieceBits m (b, sd.w))], s)
        | (.error _, s) => (st.1.orElse fun _ => some 0x18, st.2.1 ++ [none], s)
  let (e, vals, s) := (List.range from_.n0).foldl get (none, [], s)
  if (c.pinOf h).isSome then (e.orElse fun _ => some 0x09, s)
  else
    match to_.run d run with
    | none => (e.orElse fun _ => some 0x0A, s)
    | some rb =>
      let ps := (rb.data.zip vals).filterMap fun p => p.2.map fun v => (p.1, v)
      (e, (s.watchPieces who h d (ps.map (·.1))).writePieces who h d ps)

/-- Whether a copy must wait: pages of the pool, or a missing object of a command pushed again. -/
def ChanCmd.waits (q : ChanCmd) (s : State) (c : Core) : Bool :=
  (q.reqs s c).any fun r =>
    if r.write then s.writeWaits r.h (s.desc r.h) r.pieces
    else (sectorsOf r.pieces).any fun n => s.locate r.h (s.desc r.h) (mget q.pins (hKey r.h)) (64 * n) == .missing

/-- COPY_COMMAND_COMPLETE (R235, R236): the oldest command of the channel is performed, run by run in rising order, and
leaves. -/
def execCopyCommandComplete (core ch : Nat) (s : State) : Host.Outcome State Fault Refusal :=
  s.memoryEvent core (.copyCommandComplete core ch) fun s =>
    match ((s.coreOf core).chan true ch).queue with
    | [] => s
    | q :: _ =>
      if !q.started || q.kind == .clz then s
      else if q.err.isNone && q.waits s (s.coreOf core) then s.callLovage core
      else
        let runs := if q.err.isSome then [] else List.range (patternAt q.stg 9 0).runs
        let over_ (f : State → Nat → Option (BitVec 8) × State) : Option (BitVec 8) × State :=
          runs.foldl (fun st r => let (e, s) := f st.2 r; (st.1.orElse fun _ => e, s)) (none, s)
        let (e, s) := match q.kind with
          | .cputc => if q.err.isSome then (none, s) else s.putTile core q
          | .cmov => over_ fun s r => s.moveRun core q r
          | _ => over_ fun s r => s.putRun core q r
        let q := match e with | some e => q.fail e | none => q
        (s.modCore core fun c => c.modChan true ch fun x => x.retire q [hKey (vget q.stg 0 0)]).armHead core ch

/-! ### The words of class 10 -/

/-- Reserved bits of fe.9 and fe.12, or of cp.10 and cp.13 (R224, R234). -/
def feReserved (r : Vector Word 16) : Bool :=
  (vget r 9 0).toNat / 2 ^ 13 ≠ 0 || fieldN (vget r 9 0) 10 2 ≠ 0 || fieldN (vget r 12 0) 32 32 ≠ 0
def cpReserved (r : Vector Word 16) : Bool := (vget r 10 0).toNat / 2 ^ 10 ≠ 0 || fieldN (vget r 13 0) 32 32 ≠ 0

/-- Whether a known object breaks a rule. -/
def State.ruleBroken (s : State) (h : Word) (ok : Desc → Bool) : Bool :=
  match s.known h with | some d => !ok d | none => false

/-- `fget`, `fget.c` (R223, R227, R228). -/
def State.fetchWord (s : State) (ch : Nat) (c : Bool) : State :=
  let r := s.core.staged 0
  let h := vget r 0 0
  let s := s.learn h
  let d := s.desc h
  let cs := originOf r d.rank
  let dst := rowNum (vget r 7 0)
  if c then
    s.withPattern .fetch false dst (match s.known h with | some d => d.npos + 1 | none => 1) [tileReq s s.core h false cs]
      fun s => s.pushCmd false ch .fgetc 1
  else
    let p := patternAt r 8 (baseOf r d)
    s.withPattern .fetch (feReserved r || s.ruleBroken h p.fmtOk) dst p.runs
      [walkReq s s.core h false cs p] fun s => s.pushCmd false ch .fget p.runs

/-- `fget` (R227). -/
def execFget (n : BitVec 4) (c : Bool) (s : State) : Host.Outcome State Fault Refusal :=
  s.computeWord (.fget n c) fun s => s.fetchWord n.toNat c

/-- `fpref` (R232): no fault. -/
def execFpref (n : BitVec 4) (s : State) : Host.Outcome State Fault Refusal :=
  s.computeWord (.fpref n) fun s => s.pushCmd false n.toNat .fpref 1

/-- `fcancel` (R233). -/
def execFcancel (n : BitVec 4) (s : State) : Host.Outcome State Fault Refusal :=
  s.computeWord (.fcancel n) fun s =>
    s.onCore fun c => c.modChan false n.toNat fun q => { q with queue := q.queue.filter (·.started) }

/-- The limits of the operator chain (R242), as far as fe.13 decides them. -/
def chainOk (x : Word) (n0 : Nat) : Bool :=
  match efOf (fieldN x 0 4) with
  | none => false
  | some e =>
    decide (n0 * e.width ≤ 4096) && (!(x.getLsbD 7 || x.getLsbD 8) || (x.getLsbD 4 && decide (fieldN x 0 4 ≤ 2)))

/-- `sbind` (R241, R242). -/
def State.bindStream (s : State) (n : Nat) : State :=
  let r := s.core.staged 0
  let h := vget r 0 0
  let s := s.learn h
  let d := s.desc h
  let x := vget r 13 0
  let p := patternAt r 8 (baseOf r d)
  let bad := feReserved r || x.toNat / 2 ^ 9 ≠ 0 || !chainOk x p.n0 ||
    s.ruleBroken h fun d => p.fmtOk d && (x.getLsbD 4 || (d.fmt == fieldN x 0 4 && decide (d.fmt ≤ 10)))
  s.withPattern .fetch bad 0 0 [walkReq s s.core h false (originOf r d.rank) p] fun s =>
    let st : VStream :=
      { bound := true, stg := r, ftz := vfFtz s.core.arch.vfmt, total := p.runs,
        pins := s.core.pins.map fun p => (p.home * 2 ^ 23 + p.slot, p.ver) }
    let mine := fun e => match e with | Instr.streamVectorFetched c q => c == s.core.id && q == n | _ => false
    ((s.unsched mine).onCore fun c => { c with streams := vset c.streams n st }).schedFree .stream 1 ptPush
      (.streamVectorFetched s.core.id n)

/-- `sbind` (R241). -/
def execSbind (n : BitVec 4) (s : State) : Host.Outcome State Fault Refusal :=
  s.computeWord (.sbind n) fun s => s.bindStream n.toNat

/-- `sfree` (R244). -/
def execSfree (n : BitVec 4) (s : State) : Host.Outcome State Fault Refusal :=
  s.computeWord (.sfree n) fun s =>
    let mine := fun e => match e with | Instr.streamVectorFetched c q => c == s.core.id && q == n.toNat | _ => false
    (s.unsched mine).onCore fun c => { c with streams := vset c.streams n.toNat {} }

/-- One element through the operator chain (R242). -/
def chainElem (x y : Word) (ftz : Bool) (fmt scale sup p : Nat) : Nat × FlagSet :=
  let r : RMode := { ftz, rz := x.getLsbD 5, sat := x.getLsbD 6 }
  let to_ := (efOf (fieldN x 0 4)).getD (.fp .f32)
  let first : Nat × FlagSet :=
    if fmt = 11 then convert (.fp .f32) to_ r (mxDecode scale p)
    else if fmt = 12 then convert (.fp .f32) to_ r (q4nDecode scale sup p)
    else if fmt = 13 then convert (.int 4 true) to_ r p
    else convert ((efOf fmt).getD (.fp .f32)) to_ r p
  match to_ with
  | .int _ _ => first
  | .fp f =>
    let m : RMode := { ftz }
    let a := if x.getLsbD 7 then
        let z := f.finish m ((f.read ftz first.1).mul (FF.f32.read ftz (fieldN y 0 32)))
        (z.1, first.2 ||| z.2)
      else first
    if x.getLsbD 8 then
      let z := f.finish m ((f.read ftz a.1).add (FF.f32.read ftz (fieldN y 32 32)))
      (z.1, a.2 ||| z.2)
    else a

/-- A run as a stream's vector (R242). -/
def chainVec (st : VStream) (fmt : Nat) (data scale sup : List Nat) : Vec × FlagSet :=
  let x := vget st.stg 13 0
  if !x.getLsbD 4 then (ofElems (fmtWidth fmt) data, 0)
  else
    let blk := if fmt = 11 then 32 else 64
    let l := data.zipIdx.map fun p => chainElem x (vget st.stg 14 0) st.ftz fmt (scale.getD (p.2 / blk) 0) (sup.headD 0) p.1
    (ofElems (fmtWidth (fieldN x 0 4)) (l.map (·.1)), l.foldl (fun f p => f ||| p.2) 0)

/-- STREAM_VECTOR_FETCHED (R241): the walker's next run, in order, while its buffer holds fewer than four vectors. -/
def execStreamVectorFetched (core q : Nat) (s : State) : Host.Outcome State Fault Refusal :=
  s.memoryEvent core (.streamVectorFetched core q) fun s =>
    let st := vget (s.coreOf core).streams q {}
    if !st.bound || 4 ≤ st.buf.length || st.total ≤ st.next || st.err.isSome then s
    else
      let h := vget st.stg 0 0
      let d := s.desc h
      let keep (f : VStream → VStream) (s : State) : State :=
        s.modCore core fun c => { c with streams := vset c.streams q (f (vget c.streams q {})) }
      let got (v : SVec) (s : State) : State :=
        let s := keep (fun st => { st with buf := st.buf ++ [v], next := st.next + 1 }) s
        if st.buf.length + 1 < 4 && st.next + 1 < st.total then s.schedFree .stream 1 ptPush (.streamVectorFetched core q)
        else s
      let p := patternAt st.stg 8 (baseOf st.stg d)
      match p.run d st.next with
      | none =>
        let out := ((List.range p.n0).find? fun j => (d.bitAt (p.idx st.next j)).isNone).getD 0
        keep (fun st => { st with err := some ⟨0x0A, h, BitVec.ofInt 64 (p.idx st.next out * d.w / 8)⟩ }) s
      | some rb =>
        let ver := mget st.pins (hKey h)
        let secs := sectorsOf rb.all
        if secs.any fun n => s.locate h d ver (64 * n) == .missing then s.callLovage core
        else match s.readSectors core h d ver secs with
          | (.error pa, s) =>
            keep (fun st => { st with err := some ⟨0x18, BitVec.ofNat 64 pa, (s.coreOf core).prestart.zeroExtend 64⟩ }) s
          | (.ok m, s) =>
            let v := chainVec st d.fmt (rb.data.map (pieceBits m)) (rb.scale.map (pieceBits m)) (rb.sup.map (pieceBits m))
            got ⟨v.1, st.tag, v.2⟩ s

/-! ### The words of class 11 -/

/-- `cput`, `cput.c` (R223, R235). -/
def State.putWord (s : State) (ch : Nat) (c : Bool) : State :=
  let r := s.core.staged 1
  let h := vget r 0 0
  let s := s.learn h
  let d := s.desc h
  let cs := originOf r d.rank
  let src := rowNum (vget r 7 0)
  if c then
    s.withPattern .copy false src (match s.known h with | some d => d.npos + 1 | none => 1) [tileReq s s.core h true cs]
      fun s => s.pushCmd true ch .cputc 1
  else
    let p := patternAt r 9 (baseOf r d)
    s.withPattern .copy (cpReserved r || s.ruleBroken h p.fmtOk) src p.runs
      [walkReq s s.core h true cs p] fun s => s.pushCmd true ch .cput p.runs

/-- `cput` (R235). -/
def execCput (n : BitVec 4) (c : Bool) (s : State) : Host.Outcome State Fault Refusal :=
  s.computeWord (.cput n c) fun s => s.putWord n.toNat c

/-- `cmov` (R226, R236). -/
def State.cmovWord (s : State) (ch : Nat) : State :=
  let r := s.core.staged 1
  let h := vget r 0 0
  let src := vget r 7 0
  let s := (s.learn h).learn src
  let d := s.desc h
  let sd := s.desc src
  let to_ := patternAt r 9 (baseOf r d)
  let from_ := patternAt r 9 (wrap64 (vget r 8 0).toInt)
  let four := fun d => to_.fmtOk d && fmtWidth d.fmt != 4
  let bad := cpReserved r || s.ruleBroken h four || s.ruleBroken src four ||
    (match s.known h, s.known src with | some a, some b => a.fmt != b.fmt | _, _ => false)
  s.withPattern .copy bad 0 0
    [walkReq s s.core h true (originOf r d.rank) to_,
     walkReq s s.core src false (coordsOf sd.dims (vget r 8 0).toNat) from_]
    fun s => s.pushCmd true ch .cmov to_.runs

/-- `cmov` (R236). -/
def execCmov (n : BitVec 4) (s : State) : Host.Outcome State Fault Refusal :=
  s.computeWord (.cmov n) fun s => s.cmovWord n.toNat

/-- `cdrain` (R238): the channel is empty when it issues (R34). DEDUCED: notes/assumptions/17.md. -/
def State.drainChan (s : State) (n : Nat) (t fetch : Bool) (d : XReg) : State :=
  let w := (s.core.chan (!fetch) n).word
  let s := s.onCore fun c => c.modChan (!fetch) n Chan.reported
  if t && w.getLsbD 0 then s.fault 0x1B w (BitVec.ofNat 64 n) else s.writeX d w 1

/-- `cdrain` (R238). -/
def execCdrain (n : BitVec 4) (t f : Bool) (d : XReg) (s : State) : Host.Outcome State Fault Refusal :=
  s.computeWord (.cdrain n t f d) fun s => s.drainChan n.toNat t f d

/-- `cstat` (R239). -/
def execCstat (n : BitVec 4) (f : Bool) (d : XReg) (s : State) : Host.Outcome State Fault Refusal :=
  s.computeWord (.cstat n f d) fun s =>
    (s.produceX d (s.core.chan (!f) n.toNat).word (s.cycle + 2)).onCore fun c => c.modChan (!f) n.toNat Chan.reported

end Sys2Proof.Machine
end

