-- ==== Sys2Proof/Machine/Landing.lean ====
section
/-! DEFINITION. Landing zones, slots and arrival barriers (R246..R266): requests and grants, what a zone does with an
arriving row, barrier arrivals and deadlines, the zone words, and `clz` on the sending side. Arrivals are decided at the
arrival point of a cycle, the first write point of R121. -/

namespace Sys2Proof.Machine

open Sys2Proof

/-! ### Pairs -/

def Core.pair (c : Core) (n : Nat) : Pair := vget c.pairs n {}
def Core.modPair (c : Core) (n : Nat) (f : Pair → Pair) : Core := { c with pairs := vset c.pairs n (f (c.pair n)) }

/-- A zone accepts only while it is OPEN and its barrier ARMED (R249). -/
def Pair.accepts (p : Pair) : Bool := p.zone == .opened && p.bar == .armed

def Pair.raiseGen (p : Pair) : Pair := { p with gen := p.gen + 1 }
def Pair.freeSlots (p : Pair) : Pair := { p with slots := Vector.replicate 8 {} }
def Pair.arm (p : Pair) (expect deadline : Nat) : Pair :=
  { p with bar := .armed, arrived := 0, zfault := false, expect := expect, deadline := deadline }

/-- Whether arrivals are outstanding: a RESERVED slot has a missing row (R263). -/
def Pair.outstanding (p : Pair) : Bool := p.slots.toList.any fun s => s.state == .reserved && s.miss != 0

/-- `lzclose` (R263). -/
def Pair.close (p : Pair) : Pair :=
  if p.zone = .closed then p else { p.raiseGen.freeSlots with zone := .closed, bar := .idle }

/-- The effect of a zone word (R263). -/
def Pair.act (p : Pair) : LzOp → Pair
  | .opens base nrows expect deadline =>
    { p.raiseGen.freeSlots with base := base, nrows := nrows, alloc := 0, zone := .opened, stale := 0 }.arm expect deadline
  | .closes => p.close
  | .clears => { p.raiseGen.freeSlots with alloc := 0, zone := .opened, bar := .idle }
  | .inits expect deadline =>
    let p := if p.bar = .armed || p.outstanding then p.raiseGen else p
    let p := if p.zone = .closed then p else { p.freeSlots with alloc := 0, zone := .opened }
    p.arm expect deadline

/-- The acts due by a cycle, in order of issue. -/
def Core.landPairs (c : Core) (cyc : Nat) : Core :=
  let due := c.pairPend.filter fun p => p.1 ≤ cyc
  { due.foldl (fun c p => c.modPair p.2.1 fun q => q.act p.2.2) c with
    pairPend := c.pairPend.filter fun p => ¬ p.1 ≤ cyc }

/-- Every zone of a task is closed, as `lzclose` would (R60, R293), after the zone words that have still to act. A pair keeps its generation alone: the next task finds
the Reset values of R265, and no barrier armed (R247, R299). DEDUCED: notes/assumptions/22.md. -/
def Core.closeZones (c : Core) : Core :=
  let c := c.pairPend.foldl (fun c p => c.modPair p.2.1 fun q => q.act p.2.2) c
  { c with pairs := c.pairs.map fun p => { gen := p.close.gen }, pairPend := [] }

/-- The zone, slot and barrier words (R265). -/
def Pair.zoneWord (p : Pair) : Word :=
  let used := packNat 1 (p.slots.toList.map fun s => if s.state = .free then 0 else 1)
  let st := match p.zone with | .closed => 0 | .opened => 1 | .complete => 2 | .timedout => 3 | .faulted => 4
  BitVec.ofNat 64 (place 40 8 used + place 16 13 p.alloc + place 8 8 p.gen.toNat + st)

def LSlot.missing (s : LSlot) : Nat := ((List.range s.slen).filter s.miss.getLsbD).length

def LSlot.word (s : LSlot) : Word :=
  let st := match s.state with | .free => 0 | .reserved => 1 | .released => 2
  BitVec.ofNat 64 (place 62 2 st + place 48 13 s.zrow + place 32 11 s.missing + place 21 11 s.slen + place 10 9 s.pkg +
    place 0 10 s.core)

def Pair.barWord (p : Pair) : Word :=
  let st := match p.bar with | .idle => 0 | .armed => 1 | .complete => 2 | .timedout => 3
  BitVec.ofNat 64 (place 56 8 p.stale + place 48 8 p.gen.toNat + place 32 16 p.arrived + place 16 16 p.expect +
    (if p.zfault then 8 else 0) + st)

/-- The value of an `lzstat` selector (R265). -/
def Pair.statWord (p : Pair) (x : Nat) : Word :=
  if x = 0 then p.zoneWord
  else if x ≤ 8 then (vget p.slots (x - 1) {}).word
  else if 16 ≤ x ∧ x < 144 then
    let s := vget p.slots ((x - 16) / 16) {}
    BitVec.ofNat 64 (s.miss.toNat % 2 ^ s.slen / 2 ^ (64 * ((x - 16) % 16)) % 2 ^ 64)
  else 0

/-! ### The receiving side (R250, R251, R254, R255) -/

/-- A task that is there to receive: SAVED contexts answer as CLOSED (R259). -/
def Core.holds (c : Core) (n : Nat) : Bool := c.task.isSome && decide (n < c.tk.z)

/-- How a row is answered. -/
inductive Answer where
  | accept | stale | nack | fault
  deriving DecidableEq, Repr

def sat255 (n : Nat) : Nat := min 255 (n + 1)

/-- ARRIVED reaches EXPECT: the barrier, and an OPEN zone, become COMPLETE (R253). -/
def Pair.counted (p : Pair) : Pair :=
  let p := { p with arrived := p.arrived + 1 }
  if p.arrived = p.expect then { p with bar := .complete, zone := if p.zone = .opened then .complete else p.zone } else p

/-- The decision on an arriving row: the answer, the pair, and the row of the window that it writes (R251). -/
def Pair.decide (p : Pair) (r : LandingRow) : Answer × Pair × Option Nat :=
  if p.zone = .closed then (.nack, p, none)
  else if r.gen ≠ p.gen then (.stale, { p with stale := sat255 p.stale }, none)
  else if !p.accepts then (.nack, p, none)
  else
    let s := vget p.slots r.slot {}
    if s.state ≠ .reserved ∨ s.pkg ≠ r.fromPkg ∨ s.core ≠ r.fromCore ∨ s.slen ≤ r.off then
      (.fault, { p with zone := .faulted, bar := .timedout, zfault := true }, none)
    else
      let fresh := s.miss.getLsbD r.off
      let q := { p with slots := vset p.slots r.slot { s with miss := s.miss &&& ~~~(BitVec.ofNat 1024 (2 ^ r.off)) } }
      (.accept, if fresh then q.counted else q, some (p.base + s.zrow + r.off))

/-- A `clz` learns the answer to one of its rows (R266). An answer that comes once all its rows are answered or undelivered
changes nothing. -/
def State.clzAnswer (s : State) (core ch cmd : Nat) (ok : Bool) : State :=
  match ((s.coreOf core).chan true ch).queue.find? fun q =>
      q.kind == .clz && q.started && q.seq == cmd && decide (q.runs.length < q.total) with
  | none => s
  | some q =>
    let f (q : ChanCmd) : ChanCmd :=
      let q := { q with runs := q.runs.length :: q.runs }
      if ok then q else q.fail 0x0F
    let s := s.modCore core fun c => c.modChan true ch fun x => x.mod q.seq f
    if q.runs.length + 1 = q.total then s.sched s.cycle ptEnd (.clzComplete core ch) else s

/-- A packet toward another package (R375). -/
def State.send (s : State) (pkg core : Nat) (b : PacketBody) : State :=
  s.post pkg core b (s.nextPort pkg)

/-- The answer to a row goes back to its sender. -/
def State.answerRow (s : State) (r : LandingRow) (ok : Bool) : State :=
  if r.fromPkg = s.pkg then s.clzAnswer r.fromCore r.fromCh r.cmd ok
  else s.send r.fromPkg r.fromCore (.answer r.fromCore r.fromCh r.cmd ok)

/-- A row that an arrival writes keeps the landed data through a rollback and a cancellation (R259): what was logged of it
before goes. -/
def Core.keepLanded (c : Core) (p : Nat) : Core :=
  { c with rowLog := c.rowLog.filter fun e => e.row ≠ p
           ckptLate := c.ckptLate.filter fun e => e.1 ≠ p
           phaseLate := c.phaseLate.filter fun e => e.1 ≠ p }

/-- LANDING_ROW_ARRIVAL (R251). -/
def execLandingRowArrival (core : Nat) (r : LandingRow) (s : State) : Host.Outcome State Fault Refusal :=
  s.event fun s =>
    let c := s.coreOf core
    if !c.holds r.zone then s.answerRow r false
    else
      let (a, p, row) := (c.pair r.zone).decide r
      let s := s.modCore core fun c =>
        let c := c.modPair r.zone fun _ => p
        match row with
        | some n => (c.keepLanded (c.tk.base + n)).putRow (c.tk.base + n) ⟨r.data, r.tag⟩
        | none => c
      let s := if a = .accept then s.sched s.cycle ptEnd (.meterAdd c.tk.part c.tk.rid 11 1) else s
      s.answerRow r (a == .accept)

/-- Lowest index of a FREE slot. -/
def Pair.freeSlot (p : Pair) : Option Nat := p.slots.toList.findIdx? fun s => s.state == .free

/-- A grant word (R250). -/
def grantWord (res zrow gen slot zone pkg core : Nat) : Word :=
  BitVec.ofNat 64 (place 62 2 res + place 48 13 zrow + place 36 8 gen + place 33 3 slot + place 29 4 zone +
    place 10 9 pkg + place 0 10 core)

/-- The decision on a request: the grant word and the pair (R250). -/
def Pair.grant (p : Pair) (q : ResReq) : Word × Pair :=
  let no (res : Nat) : Word := grantWord res 0 0 0 q.zone q.pkg q.core
  if !p.accepts then (no 2, p)
  else match p.freeSlot with
    | none => (no 1, p)
    | some i =>
      if p.nrows < p.alloc + q.slen then (no 1, p)
      else
        (grantWord 0 p.alloc p.gen.toNat i q.zone q.pkg q.core,
          { p with
            slots := vset p.slots i { state := .reserved, pkg := q.fromPkg, core := q.fromCore, zrow := p.alloc,
                                      slen := q.slen, miss := BitVec.ofNat 1024 (2 ^ q.slen - 1) }
            alloc := p.alloc + q.slen })

/-- The time-out of the request that a grant word answers: its register, zone and target are the request's (R250). -/
def grantLate (core : Nat) (d : XReg) (w : Word) : Instr := .lzresTimeout core d (fieldN w 29 4) (fieldN w 0 19)

/-- A grant word reaches its register, unless the request's time-out has come, or comes first (R250). -/
def State.deliverGrant (s : State) (core : Nat) (d : XReg) (w : Word) : State :=
  match s.agenda.find? fun e => e.2 == grantLate core d w with
  | none => s
  | some e =>
    let (n, s) := s.draw .grant
    if s.cycle + 1 + n ≤ e.1 / 16 then
      (s.unsched (· == grantLate core d w)).sched (s.cycle + 1 + n) ptLand (.valueArrives core (.x d w))
    else s

/-- The partition of the task on a core of this package. -/
def State.partOf (s : State) (core : Nat) : Option Nat := (s.coreOf core).task.map (·.part)

/-- Whether a task of a partition is SAVED that ran on a core. -/
def State.savedFrom (s : State) (core part : Nat) : Bool :=
  s.saves.any fun e => e.2.ctx.id = core && e.2.ctx.tk.part = part && e.2.ctx.task.isSome

/-- RESERVATION_REQUEST (R250). A task that is SAVED answers as CLOSED (R259). -/
def execReservationRequest (core : Nat) (q : ResReq) (s : State) : Host.Outcome State Fault Refusal :=
  s.event fun s =>
    let c := s.coreOf core
    let (w, s) : Word × State :=
      if 768 ≤ core || (s.partOf core != some q.part && !s.savedFrom core q.part) then
        (grantWord 3 0 0 0 q.zone q.pkg q.core, s)
      else if !c.holds q.zone || s.partOf core != some q.part then (grantWord 2 0 0 0 q.zone q.pkg q.core, s)
      else
        let (w, p) := (c.pair q.zone).grant q
        (w, s.modCore core fun c => c.modPair q.zone fun _ => p)
    match q.dest with
    | some d => if q.fromPkg = s.pkg then s.deliverGrant q.fromCore d w else s.send q.fromPkg q.fromCore (.grant q.fromCore d w)
    | none => s

/-- LZRES_TIMEOUT (R250): RESULT 11 after 65,536 cycles, in the next; `target` is PKG and CORE as the request named them. -/
def execLzresTimeout (core : Nat) (dest : XReg) (zone target : Nat) (s : State) : Host.Outcome State Fault Refusal :=
  s.event fun s => s.sched (s.cycle + 1) ptLand (.valueArrives core (.x dest (grantWord 3 0 0 0 zone (target / 2 ^ 10) (target % 2 ^ 10))))

/-- A slot's release, where the owner and the generation still agree (R264). -/
def Pair.release (p : Pair) (slot pkg core gen : Nat) : Pair :=
  let s := vget p.slots slot {}
  if s.state = .reserved ∧ s.pkg = pkg ∧ s.core = core ∧ p.gen.toNat = gen then
    { p with slots := vset p.slots slot { s with state := .released } }
  else p

def State.releaseAt (s : State) (core fromPkg fromCore : Nat) (rel : Word) : State :=
  let zone := fieldN rel 29 4
  if (s.coreOf core).holds zone then
    s.modCore core fun c => c.modPair zone fun p => p.release (fieldN rel 33 3) fromPkg fromCore (fieldN rel 36 8)
  else s

/-- A sync request of a core is accepted, or refused with a fault (R214). -/
def State.accept (s : State) (core : Nat) (r : SyncResult) : State :=
  s.modCore core fun c => if c.asking.isSome then { c with accepted := some r, relOut := [], askDue := none } else c

/-! ### Releases (R208, R209) -/

/-- Flush markers of a release toward a package, one on each live path (R209); the release is not performed there before an
answer comes. -/
def State.sendMarkers (s : State) (pkg core rel : Nat) (alone : Bool) : State :=
  let paths := s.livePaths
  (paths.foldl (fun s p => s.post pkg core (.marker core rel p paths.length alone) (some p)) s).modCore core fun c =>
    { c with relOut := c.relOut ++ [(pkg, rel, paths)] }

/-- The L1 copies of the package that are live and older than their line's newest value. -/
def State.staleCopies (s : State) : List (Nat × Nat × Nat) :=
  (s.core :: s.parked).flatMap fun c => c.l1.filterMap fun l =>
    if c.ltime ≤ l.lrts ∧ l.data ≠ s.peekLine l.line then some (c.id, l.line, l.lrts) else none

/-- Whether one of the copies that a release found older than their lines can still be read (R208). -/
def State.copyLives (s : State) (l : List (Nat × Nat × Nat)) : Bool :=
  l.any fun w =>
    let k := s.coreOf w.1
    decide (k.ltime ≤ w.2.2) && k.l1.any fun l => l.line = w.2.1 && l.lrts = w.2.2

/-- Whether a release still waits for the lease of a copy that its request found (R208): a read by another core could yet
return an older value. -/
def State.releaseWaits (s : State) (core : Nat) : Bool := s.copyLives (s.coreOf core).relWait

/-- Whether a release of another package, by its number there, waits for the leases of the copies of this package that stood when its
markers had been gathered (R208, R209). -/
def State.outerWaits (s : State) (src rel : Nat) : Bool × State :=
  match s.relStale.find? fun e => e.1 = src && e.2.1 = rel with
  | some e =>
    if s.copyLives e.2.2 then (true, s) else (false, { s with relStale := s.relStale.filter fun e => ¬ (e.1 = src ∧ e.2.1 = rel) })
  | none =>
    let l := s.staleCopies
    if l.isEmpty then (false, s) else (true, { s with relStale := (src, rel, l) :: s.relStale })

/-- SLOT_RELEASE_AT_TARGET (R264): the releasing word may then issue. -/
def execSlotReleaseAtTarget (core fromPkg fromCore : Nat) (rel : Word) (s : State) : Host.Outcome State Fault Refusal :=
  s.event fun s =>
    let s := s.releaseAt core fromPkg fromCore rel
    if fromPkg = s.pkg then s.accept fromCore .ok else s.send fromPkg fromCore (.done fromCore 0)

/-- An `lzrel` without an answer within 65,536 cycles faults (R262). -/
def State.releaseLate (s : State) (core : Nat) : State :=
  match (s.coreOf core).asking.map decodeWord with
  | some (.ok (_, .lzrel)) => s.accept core (.fault 0x0F ((s.coreOf core).arch.getStg 4 8) 0)
  | _ => s

/-- LZREL_TIMEOUT (R262). -/
def execLzrelTimeout (core : Nat) (s : State) : Host.Outcome State Fault Refusal :=
  s.event fun s => s.releaseLate core

/-- A barrier arrival's decision (R253, R254): whether the sender takes it as performed. -/
def State.arriveAt (s : State) (core part pair : Nat) (bgen : BitVec 8) : Bool × State :=
  let c := s.coreOf core
  if !c.holds pair || c.tk.part != part then (false, s)
  else
    (true, s.modCore core fun c => c.modPair pair fun p =>
      if p.bar = .armed ∧ bgen = p.gen then p.counted else { p with stale := sat255 p.stale })

/-- A landing row that a core has sent within this package and that is still on its way. -/
def State.rowsOnWay (s : State) (pkg core : Nat) : Bool :=
  s.agenda.any fun e => match e.2 with | .landingRowArrival _ r => r.fromPkg == pkg && r.fromCore == core | _ => false

/-- BARRIER_ARRIVAL (R221, R254): held back while rows that the signalling task sent earlier are undecided, or writes that it
releases could yet be missed here. -/
def execBarrierArrival (core fromPkg : Nat) (sender : Sender) (pair : Nat) (bgen : BitVec 8) (s : State) :
    Host.Outcome State Fault Refusal :=
  s.event fun s =>
    let (stale, s) := if fromPkg = s.pkg then (s.releaseWaits sender.core, s) else s.outerWaits fromPkg sender.rel
    if s.rowsOnWay fromPkg sender.core || stale then
      s.sched (s.cycle + 1) ptArrive (.barrierArrival core fromPkg sender pair bgen)
    else
      let (ok, s) := s.arriveAt core sender.part pair bgen
      if fromPkg = s.pkg then
        s.accept sender.core (if ok then .ok else .fault 0x0F ((s.coreOf sender.core).arch.getStg 4 2) 0)
      else s.send fromPkg sender.core (if ok then .done sender.core sender.rel else .nacked sender.core sender.rel 0x0F)

/-- BARRIER_DEADLINE (R255): at the end of the deadline's cycle. -/
def execBarrierDeadline (core pair : Nat) (s : State) : Host.Outcome State Fault Refusal :=
  s.event fun s => s.modCore core fun c => c.modPair pair fun p =>
    if p.bar = .armed ∧ p.deadline = s.cycle then
      { p with bar := .timedout, zone := if p.zone = .opened then .timedout else p.zone }
    else p

/-! ### The zone words (R260..R265) -/

def State.sy (s : State) (i : Nat) : Word := s.core.arch.getStg 4 i

/-- A word that acts on pair n at issue + 1. -/
def State.actPair (s : State) (n : Nat) (op : LzOp) : State :=
  let s := s.onCore fun c => { c with pairPend := c.pairPend ++ [(s.cycle + 1, n, op)] }
  match op with
  | .opens _ _ _ dl | .inits _ dl => s.sched dl ptEnd (.barrierDeadline s.core.id n)
  | _ => s

/-- A pair that the task holds, or the fault of R246. -/
def State.withPair (s : State) (n : Nat) (cause : BitVec 8) (k : State) : State :=
  if n < s.core.tk.z then k else s.fault cause (BitVec.ofNat 64 n)

/-- EXPECT and TIMEOUT are out of range, or a reserved bit of sy.5 or sy.6 is set (R261, R262). -/
def State.armBad (s : State) : Bool :=
  fieldN (s.sy 5) 32 32 != 0 || fieldN (s.sy 5) 13 3 != 0 || fieldN (s.sy 5) 16 16 == 0 || fieldN (s.sy 6) 32 32 != 0 ||
    fieldN (s.sy 6) 0 32 == 0

/-- `lzopen` (R262, R263). -/
def execLzopen (n : BitVec 4) (s : State) : Host.Outcome State Fault Refusal :=
  s.computeWord (.lzopen n) fun s =>
    let base := rowNum (s.sy 4)
    let rows := fieldN (s.sy 5) 0 13 + 1
    if s.armBad then s.illegal
    else s.withPair n.toNat 0x0F <|
      if (s.core.pair n.toNat).zone ≠ .closed then s.fault 0x0F (n.zeroExtend 64)
      else s.rowsIn base rows <|
        s.actPair n.toNat (.opens base rows (fieldN (s.sy 5) 16 16) (s.cycle + fieldN (s.sy 6) 0 32))

/-- `lzclose` (R263). -/
def execLzclose (n : BitVec 4) (s : State) : Host.Outcome State Fault Refusal :=
  s.computeWord (.lzclose n) fun s => s.withPair n.toNat 0x0F (s.actPair n.toNat .closes)

/-- `lzclr` (R262, R263). -/
def execLzclr (n : BitVec 4) (s : State) : Host.Outcome State Fault Refusal :=
  s.computeWord (.lzclr n) fun s => s.withPair n.toNat 0x0F <|
    if (s.core.pair n.toNat).zone = .closed then s.fault 0x0F (n.zeroExtend 64) else s.actPair n.toNat .clears

/-- `barinit` (R246, R263). -/
def execBarinit (n : BitVec 4) (s : State) : Host.Outcome State Fault Refusal :=
  s.computeWord (.barinit n) fun s =>
    if s.armBad then s.illegal
    else s.withPair n.toNat 0x10 <|
      s.actPair n.toNat (.inits (fieldN (s.sy 5) 16 16) (s.cycle + fieldN (s.sy 6) 0 32))

/-- `lzstat` (R262, R265). -/
def execLzstat (n : BitVec 4) (d x : XReg) (s : State) : Host.Outcome State Fault Refusal :=
  s.computeWord (.lzstat n d x) fun s => s.withPair n.toNat 0x0F <|
    s.produceX d ((s.core.pair n.toNat).statWord (s.getX x).toNat) (s.cycle + 2)

/-- `barstat` (R265). -/
def execBarstat (n : BitVec 4) (d : XReg) (s : State) : Host.Outcome State Fault Refusal :=
  s.computeWord (.barstat n d) fun s => s.withPair n.toNat 0x10 <|
    s.produceX d (s.core.pair n.toNat).barWord (s.cycle + 2)

/-- `lzres` (R250, R262, R264). A target that names no member, no core of the package, or nobody's task is answered by the
time-out's word. -/
def State.reserve (s : State) (d : XReg) : State :=
  let t := s.sy 2
  let pkg := fieldN t 10 9
  let core := fieldN t 0 10
  let zone := fieldN (s.sy 7) 0 4
  if t.toNat / 2 ^ 19 ≠ 0 ∨ (s.sy 7).toNat / 2 ^ 26 ≠ 0 ∨ fieldN (s.sy 7) 4 12 ≠ 0 then s.illegal
  else
    let s := (s.awaitX d).onCore fun c => { c with lzresOut := c.lzresOut ++ [d] }
    let q : ResReq := { fromPkg := s.pkg, fromCore := s.core.id, part := s.core.tk.part, zone, slen := fieldN (s.sy 7) 16 10 + 1, pkg, core, dest := some d }
    if !s.members.contains pkg || 768 ≤ core then
      let (n, s) := s.draw .grant
      s.sched (s.cycle + 1 + n % 65536) ptLand (.valueArrives s.core.id (.x d (grantWord 3 0 0 0 zone pkg core)))
    else
      let s := s.sched (s.cycle + 65536) ptEnd (.lzresTimeout s.core.id d zone (fieldN t 0 19))
      if pkg = s.pkg then
        let (n, s) := s.draw .grant
        if n < 65535 then s.sched (s.cycle + 1 + n) ptArrive (.reservationRequest core q) else s
      else s.send pkg s.core.id (.reserve core q)

/-- `lzres` (R264). -/
def execLzres (d : XReg) (s : State) : Host.Outcome State Fault Refusal :=
  s.computeWord (.lzres d) fun s => s.reserve d

/-! ### The sending side (R237, R258, R266) -/

/-- The rows of a `clz` leave, each read at the engine read point (R237). -/
def State.sendRows (s : State) (core ch : Nat) (q : ChanCmd) : State :=
  let c := s.coreOf core
  let t := vget q.stg 14 0
  let pkg := fieldN t 10 9
  let to_ := fieldN t 0 10
  let src := rowNum (vget q.stg 7 0)
  let s := s.modCore core fun c => c.modChan true ch fun x => x.mod q.seq fun q => { q with started := true, sent := s.cycle }
  let row (i : Nat) : LandingRow :=
    let r := c.row (src + i)
    { fromPkg := s.pkg, fromCore := core, fromCh := ch, cmd := q.seq, zone := fieldN t 29 4, slot := fieldN t 33 3,
      off := fieldN (vget q.stg 15 0) 16 13 + i, gen := BitVec.ofNat 8 (fieldN t 36 8), data := r.data, tag := r.tag }
  let s := (List.range q.total).foldl (fun s i =>
    if pkg = s.pkg then
      let (n, s) := s.draw .landing
      s.sched (s.cycle + 1 + n % 65535) ptArrive (.landingRowArrival to_ (row i))
    else (s.send pkg core (.landing to_ (row i))).sched s.cycle ptEnd (.meterAdd c.tk.part c.tk.rid 9 512)) s
  let s := s.sched (s.cycle + 65536) ptEnd (.rowUndelivered core ch)
  if ((s.coreOf core).chan true ch).queue.any fun x => !x.started then
    s.schedFree .channel 0 ptRead (.channelCommandStart core true ch)
  else s

/-- Whether a core is being collected or is STOPPED: no further command starts there (R245). -/
def Core.collected (c : Core) : Bool := c.state == .stopping || c.state == .stopped

/-- The next `clz` of a channel, whose rows leave once the earlier ones are answered (R222 lets it wait). -/
def State.nextClz (s : State) (core ch : Nat) : State :=
  match ((s.coreOf core).chan true ch).queue.find? fun q => q.kind == .clz with
  | some q => if q.started || (s.coreOf core).collected then s else s.schedFree .channel 0 ptRead (.channelCommandStart core true ch)
  | none => s

/-- CHANNEL_COMMAND_START (R222): the channel's first command that has not started; none starts in the cycle of its issue, which has
a start of its own to come. The rows of a `clz` leave at a read point, once every
earlier `clz` of the channel is complete. -/
def execChannelCommandStart (core : Nat) (copy : Bool) (ch : Nat) (s : State) : Host.Outcome State Fault Refusal :=
  s.event fun s =>
    match ((s.coreOf core).chan copy ch).queue.find? fun q => !q.started with
    | none => s
    | some q =>
      if s.cycle ≤ q.issue && !q.again then s
      else if q.kind = .clz then
        if s.clock % 16 ≠ ptRead then
          s.sched (if s.clock % 16 < ptRead then s.cycle else s.cycle + 1) ptRead (.channelCommandStart core copy ch)
        else if ((s.coreOf core).chan copy ch).queue.any fun x => x.kind == .clz && x.started then s
        else s.sendRows core ch q
      else s.startCmd core copy ch q

/-- CLZ_COMPLETE (R266): in the channel's order. -/
def execClzComplete (core ch : Nat) (s : State) : Host.Outcome State Fault Refusal :=
  s.event fun s =>
    match ((s.coreOf core).chan true ch).queue with
    | q :: _ =>
      if q.kind = .clz ∧ q.started ∧ q.runs.length = q.total then
        ((s.modCore core fun c => c.modChan true ch fun x => x.retire q []).armHead core ch).nextClz core ch
      else s
    | [] => s

/-- ROW_UNDELIVERED (R258): rows without an answer 65,536 cycles after they left are undelivered. -/
def execRowUndelivered (core ch : Nat) (s : State) : Host.Outcome State Fault Refusal :=
  s.event fun s =>
    match ((s.coreOf core).chan true ch).queue.find? fun q => q.kind == .clz && q.started with
    | none => s
    | some q =>
      if s.cycle < q.sent + 65536 ∨ q.total ≤ q.runs.length then s
      else
        (s.modCore core fun c => c.modChan true ch fun x => x.mod q.seq fun q =>
          { q.fail 0x0F with runs := List.range q.total }).sched s.cycle ptEnd (.clzComplete core ch)

/-- `clz` (R237): its checks, and the queue entry. -/
def State.landWord (s : State) (ch : Nat) : State :=
  let r := s.core.staged 1
  let t := vget r 14 0
  let x := vget r 15 0
  let n := fieldN x 0 13 + 1
  let pkg := fieldN t 10 9
  let bad := t.toNat / 2 ^ 44 ≠ 0 ∨ fieldN t 19 10 ≠ 0 ∨ x.toNat / 2 ^ 29 ≠ 0 ∨ fieldN x 13 3 ≠ 0
  if bad then s.illegal
  else s.rowsIn (rowNum (vget r 7 0)) n <|
    if !s.members.contains pkg ∨ 768 ≤ fieldN t 0 10 then s.fault 0x0F t
    else
      let c := s.core
      let cmd : ChanCmd := { kind := .clz, seq := c.seq, issue := s.cycle, stg := r, phase := c.phase, total := n }
      (s.onCore fun c =>
        { c.modChan true ch fun q => { q with queue := q.queue ++ [cmd] } with seq := c.seq + 1 }).schedFree .channel 1 ptRead
        (.channelCommandStart c.id true ch)

/-- `clz` to a landing zone (R237). -/
def execClzCopy (n : BitVec 4) (s : State) : Host.Outcome State Fault Refusal :=
  s.computeWord (.clzCopy n) fun s => s.landWord n.toNat

end Sys2Proof.Machine
end

