-- ==== Sys2Proof/Machine/Tasks.lean ====
section
/-! DEFINITION. Regions, graph images, kicks, placement, tasks and phases (R59..R61, R289..R310): the launch unit, the
dispatchers, phase starts, retirement and feedback. Conditions are looked at when the point `ptEnd` of a cycle is
reached (`State.poll`). -/

namespace Sys2Proof.Machine

open Sys2Proof

/-- An operation with a core in focus; the focus returns. -/
def State.onFocus (s : State) (i : Nat) (f : State → State) : State :=
  let here := s.core.id
  (f (s.focus i)).focus here

/-- Whether a step that `p` selects is scheduled. -/
def State.isSched (s : State) (p : Instr → Bool) : Bool := s.agenda.any fun e => p e.2

/-! ### Regions (R289..R291) -/

def State.region? (s : State) (rid : Nat) : Option Region := s.regions.find? fun r => r.rid = rid
def State.modRegion (s : State) (rid : Nat) (f : Region → Region) : State :=
  { s with regions := s.regions.map fun r => if r.rid = rid then f r else r }

/-- A field's effective value: the parent's where the inherit bit is set (R291). -/
def effFrom {α : Type} (l : List Region) (bit : Nat) (get : Region → α) (dflt : α) (rid : Nat) : Nat → α
  | 0 => dflt
  | n + 1 =>
    match l.find? fun r => r.rid = rid with
    | none => dflt
    | some r =>
      match r.parent with
      | none => get r
      | some p => if r.inh.getLsbD bit then effFrom l bit get dflt p n else get r

def State.eff {α : Type} (s : State) (bit : Nat) (get : Region → α) (dflt : α) (rid : Nat) : α :=
  effFrom s.regions bit get dflt rid (s.regions.length + 1)

def State.effCores (s : State) (rid : Nat) : List Nat :=
  let v := s.eff 0 (·.coreset) 0 rid
  (List.range 768).filter v.getLsbD
def State.effPrio (s : State) (rid : Nat) : Nat := (s.eff 1 (·.prio) 0 rid).toNat
def State.effFpol (s : State) (rid : Nat) : BitVec 2 := s.eff 2 (·.fpol) 0 rid
def State.effRowcap (s : State) (rid : Nat) : Nat := s.eff 3 (·.rowcap) 0 rid
def State.effLzcap (s : State) (rid : Nat) : Nat := s.eff 4 (·.lzcap) 0 rid
def State.effQuota (s : State) (rid i : Nat) : Nat := s.eff 5 (fun r => vget r.quota i 0) 0 rid
def State.effLock (s : State) (rid : Nat) : Bool := s.eff 6 (·.lock) false rid

/-- Whether a region is another or a descendant of it. -/
def State.within (s : State) (rid top : Nat) : Nat → Bool
  | 0 => false
  | n + 1 => rid = top || (match s.region? rid with
    | some r => (match r.parent with | some p => s.within p top n | none => false)
    | none => false)
def State.isIn (s : State) (rid top : Nat) : Bool := s.within rid top (s.regions.length + 1)

/-! ### Graph images (R294..R298) -/

/-- Bits lo .. lo + n − 1 of the record that begins at a byte of an image. -/
def imgField (img : List (BitVec 8)) (off lo n : Nat) : Nat :=
  packNat 8 (((img.drop (off + lo / 8)).take ((lo % 8 + n + 7) / 8)).map (·.toNat)) / 2 ^ (lo % 8) % 2 ^ n

def imgNodes (img : List (BitVec 8)) : Nat := imgField img 0 0 16
def imgFbh (img : List (BitVec 8)) : Word := BitVec.ofNat 64 (imgField img 0 64 64)
def imgDefaults (img : List (BitVec 8)) : Vector Word 64 :=
  let at_ := imgField img 0 128 32 * 64
  Vector.ofFn fun i => BitVec.ofNat 64 (imgField img (at_ + 8 * i.val) 0 64)

/-- A field of node record i. -/
def imgNode (img : List (BitVec 8)) (i lo n : Nat) : Nat := imgField img (imgField img 0 32 32 * 128 + 128 * i) lo n

def nodeCode (g : List (BitVec 8)) (i : Nat) : Word := BitVec.ofNat 64 (imgNode g i 0 64)
def nodeEntry (g : List (BitVec 8)) (i : Nat) : Nat := imgNode g i 64 32
def nodeOvf (g : List (BitVec 8)) (i : Nat) : Word := BitVec.ofNat 64 (imgNode g i 128 64)
def nodeTs (g : List (BitVec 8)) (i k : Nat) : Nat := imgNode g i (192 + 16 * k) 16 + 1
def nodePhases (g : List (BitVec 8)) (i : Nat) : Nat := imgNode g i 240 4 + 1
def nodeZ (g : List (BitVec 8)) (i : Nat) : Nat := imgNode g i 244 5
def nodeIsreg (g : List (BitVec 8)) (i : Nat) : Nat := imgNode g i 249 6
def nodeRows (g : List (BitVec 8)) (i : Nat) : Nat := imgNode g i 256 13 + 1
def nodeCarve (g : List (BitVec 8)) (i : Nat) : Nat := imgNode g i 272 13
def nodeInBase (g : List (BitVec 8)) (i : Nat) : Nat := imgNode g i 320 32
def nodeDepBase (g : List (BitVec 8)) (i : Nat) : Nat := imgNode g i 384 32
def nodeNdep (g : List (BitVec 8)) (i : Nat) : Nat := imgNode g i 416 8
def nodeDoneEv (g : List (BitVec 8)) (i : Nat) : Nat := imgNode g i 424 8
def nodeTiles (g : List (BitVec 8)) (i : Nat) : Nat := nodeTs g i 0 * nodeTs g i 1 * nodeTs g i 2

/-- Input record k of phase p, as raw bits, and its fields (R296). -/
def nodeInput (g : List (BitVec 8)) (i p k : Nat) : BitVec 1024 :=
  BitVec.ofNat 1024 (imgField g (nodeInBase g i * 128 + 128 * (8 * p + k)) 0 1024)
def recF (r : BitVec 1024) (lo n : Nat) : Nat := r.toNat / 2 ^ lo % 2 ^ n
def recKind (r : BitVec 1024) : Nat := recF r 0 2
def recCoef (r : BitVec 1024) : Bool := recF r 2 1 == 1
def recTagC (r : BitVec 1024) : Bool := recF r 3 1 == 1
def recSlot (r : BitVec 1024) : Nat := recF r 4 6
def recRow (r : BitVec 1024) : Nat := recF r 10 13
def recRows (r : BitVec 1024) : Nat := recF r 33 13 + 1
def recN0 (r : BitVec 1024) : Nat := recF r 46 10 + 1
def recB (r : BitVec 1024) (i : Nat) : Int := intOfPat 64 true (recF r (64 + 64 * i) 64)
def recA (r : BitVec 1024) (i j : Nat) : Int := intOfPat 16 true (recF r (448 + 64 * i + 16 * j) 16)
def recForeign (r : BitVec 1024) : Bool := recKind r == 3 && recF r 448 1 == 1

/-- A dependence record of a node: KIND, PSLOT, VALUE (R298). -/
def nodeDep (g : List (BitVec 8)) (i k : Nat) : Nat × Nat × Nat :=
  let at_ := nodeDepBase g i * 16 + 16 * k
  (imgField g at_ 0 2, imgField g at_ 2 6, imgField g at_ 64 64)

/-! ### Replays and events (R205, R293, R305) -/

def State.graph? (s : State) (h : Word) : Option Graph := s.graphs.find? fun g => g.handle = h
def State.imageOf (s : State) (h : Word) : List (BitVec 8) := match s.graph? h with | some g => g.image | none => []

def State.replay? (s : State) (rid n : Nat) : Option Replay := s.replays.reverse.find? fun r => r.rid = rid && r.replay = n
/-- Updates the latest replay of a token. -/
def State.modReplay (s : State) (rid n : Nat) (f : Replay → Replay) : State :=
  match s.replays.reverse.findIdx? fun r => r.rid = rid && r.replay = n with
  | none => s
  | some i => { s with replays := s.replays.modify (s.replays.length - 1 - i) f }

def Replay.event (r : Replay) (e : Nat) : EvState := (mget r.events e).getD .idle

/-- An event ends FIRED or ABANDONED once; firing it again changes nothing (R220). -/
def Replay.endEvent (r : Replay) (e : Nat) (st : EvState) : Replay :=
  if e = 0 ∨ r.event e ≠ .idle then r else { r with events := mput r.events e st }

/-- A generation is in flight until every task of its replay has retired or been abandoned (R302). -/
def Replay.inFlight (r : Replay) : Bool := r.nodes.any fun n => n == .waiting || n == .created

/-- The end of a node: its DONEEV, and, when it is the last, the replay's entry (R293, R295). -/
def State.nodeEnd (s : State) (rid n node : Nat) (ab : Bool) : State :=
  s.modReplay rid n fun r =>
    let r := { r with nodes := r.nodes.set node (if ab then .abandoned else .done) }
    let r := r.endEvent (nodeDoneEv (s.imageOf r.graph) node) (if ab then .abandoned else .fired)
    if r.inFlight || r.st ≠ .running then r
    else { r with st := if r.nodes.any (· == .abandoned) then .abandoned else .done }

/-- A task has retired or been abandoned: it is recorded, and its node may end (R293). -/
def State.taskEnd (s : State) (rid n node tile : Nat) (ab : Bool) : State :=
  let mine (t : TaskRec) : Bool := t.rid = rid && t.replay = n && t.node = node
  let mark (t : TaskRec) : TaskRec :=
    if mine t && t.tile == tile then { t with st := if ab then .abandoned else .retired } else t
  let s := { s with tasks := s.tasks.map mark }
  let all := s.tasks.filter mine
  if all.all (fun t => t.st == .retired || t.st == .abandoned) then
    let s := s.nodeEnd rid n node (all.any fun t => t.st == .abandoned)
    { s with tasks := s.tasks.filter fun t => !mine t }
  else s

/-- Whether what waits for an event may go on; none while it may still fire, some false once it cannot. -/
def EvState.holds : EvState → Option Bool
  | .fired => some true
  | .abandoned => some false
  | _ => none

/-- How a KIND-1 dependence stands once the launch unit has armed it (R298, R305): it fires when VCUR reaches VALUE, and is lost with
its object. When the news of an object homed elsewhere comes is free. DESIGN CHOICE: notes/assumptions/2.md. -/
def State.depNow (s : State) (r : Replay) (d : Nat × Nat × Nat) (st : EvState) : EvState :=
  let h := vget r.gen d.2.1 0
  if st ≠ .armed then st
  else if s.deadHandle h then .abandoned
  else if hHome h = s.pkg then (if d.2.2 ≤ (s.desc h).vcur then .fired else .armed)
  else if Config.choice s.cycle 2 % 2 = 1 then .fired else .armed

/-- The launch unit arms the KIND-1 dependences of a new replay: one whose handle fails R189 is lost, and logged (R190). -/
def State.armDeps (s : State) (r : Replay) (image : List (BitVec 8)) : State × Replay :=
  let q : Requester := ⟨r.part, .core, 1023, s.pkg⟩
  let all := (List.range (imgNodes image)).flatMap fun i => (List.range (nodeNdep image i)).map fun k => (i, k)
  (all.filter fun p => (nodeDep image p.1 p.2).1 = 1).foldl (fun (st : State × Replay) p =>
    let d := nodeDep image p.1 p.2
    let h := vget r.gen d.2.1 0
    let s := st.1.learn h
    let put (e : EvState) : Replay := { st.2 with deps := mput st.2.deps (256 * p.1 + p.2) e }
    match s.violation q h (some 1) with
    | some (cause, owner) => (s.logViolation owner q cause h [], put .abandoned)
    | none => (s, put (s.depNow r d .armed))) (s, r)

/-- The dependences that are armed, as publishes and destroyed objects leave them at the end of a cycle. -/
def State.pollDeps (s : State) : State :=
  { s with replays := s.replays.map fun r =>
      { r with deps := r.deps.map fun p => (p.1, s.depNow r (nodeDep (s.imageOf r.graph) (p.1 / 256) (p.1 % 256)) p.2) } }

/-- Whether a dependence, at its place among its replay's, holds (R298, R305). -/
def Replay.depHolds (r : Replay) (at_ : Nat) (d : Nat × Nat × Nat) : Option Bool :=
  if d.1 = 0 then
    match r.nodes[d.2.2]? with
    | some .done => some true
    | some .abandoned => some false
    | _ => none
  else EvState.holds (if d.1 = 1 then (mget r.deps at_).getD .idle else r.event d.2.2)

/-- How a waiting node stands: some true to be created, some false to be abandoned. -/
def State.nodeReady (s : State) (r : Replay) (node : Nat) : Option Bool :=
  let g := s.imageOf r.graph
  let ds := (List.range (nodeNdep g node)).map fun k => r.depHolds (256 * node + k) (nodeDep g node k)
  if ds.any (· == some false) then some false else if ds.all (· == some true) then some true else none

/-- Placement (R304): the core of tile t. -/
def placeTile (cores : List Nat) (node t : Nat) : Nat :=
  cores.getD ((t + node * 2654435761 % cores.length) % cores.length) 0

/-- NODE_CREATE (R305): a node whose dependences hold gets its tasks; one that can no longer hold is abandoned. -/
def execNodeCreate (rid replay node : Nat) (s : State) : Host.Outcome State Fault Refusal :=
  s.event fun s =>
    match s.replay? rid replay with
    | none => s
    | some r =>
      if r.nodes[node]? ≠ some .waiting then s
      else
        match s.nodeReady r node with
        | none => s
        | some false => s.nodeEnd rid replay node true
        | some true =>
          let ts := (List.range (nodeTiles (s.imageOf r.graph) node)).map fun t =>
            ({ rid := rid, replay := replay, node := node, tile := t, core := placeTile r.cores node t } : TaskRec)
          let s := s.modReplay rid replay fun r => { r with nodes := r.nodes.set node .created }
          { s with tasks := s.tasks ++ ts }

/-! ### Kicks (R300..R303, R313) -/

/-- Fields of a kick packet. -/
def pktWord (p : List Word) (i : Nat) : Word := p.getD i 0
def pktReplay (p : List Word) : Nat := fieldN (pktWord p 1) 0 16
def pktFb (p : List Word) : Bool := (pktWord p 1).getLsbD 16
def pktNtab (p : List Word) : Nat := fieldN (pktWord p 3) 16 16
def pktNinl (p : List Word) : Nat := fieldN (pktWord p 3) 0 3

/-- A packet as R301 allows it. -/
def pktOk (p : List Word) : Bool :=
  decide (p.length = 16) && (pktWord p 1).toNat / 2 ^ 17 == 0 && fieldN (pktWord p 3) 32 32 == 0 &&
  fieldN (pktWord p 3) 3 13 == 0 && decide (pktNtab p ≤ 4096) && decide (pktNinl p ≤ 6) &&
  (pktNtab p != 0 || pktWord p 2 == 0) && ((List.range 12).all fun k => decide (k < 2 * pktNinl p) || pktWord p (4 + k) == 0)

/-- A status word (R303). DEDUCED: notes/assumptions/36.md. -/
def kickWord (rid replay infl code : Nat) : Word :=
  BitVec.ofNat 64 (place 48 16 rid + place 32 16 replay + place 8 8 infl + code % 256)

/-- Bytes of an object as an agent outside the compute dies reads them; none where one is not served. -/
def State.readObject (s : State) (h : Word) (off len : Nat) : Option (List Nat) × State :=
  let d := s.desc h
  if d.extent < off + len then (none, s)
  else
    let secs := if len = 0 then [] else (List.range ((off + len - 1) / 64 - off / 64 + 1)).map fun i => off / 64 + i
    let (data, s) := secs.foldl (fun (st : Option (List (Nat × Nat)) × State) n =>
      match st.1, st.2.locate h d none (64 * n) with
      | some l, .ok x _ =>
        match st.2.outerRead x with
        | (some m, s) => (some ((n, m.toNat) :: l), s)
        | (none, s) => (none, s)
      | some l, .remote _ a _ _ =>
        let q : Requester := ⟨d.part, .host, 1023, st.2.pkg⟩
        match (st.2.askFar q h d (64 * n) [64 * n] 4 0).readFar d.part 1023 a with
        | (.ok m, s) => (some ((n, m) :: l), s)
        | (.error _, s) => (none, s)
      | _, _ => (none, st.2)) (some [], s)
    (data.map fun l => (List.range len).map fun i => pieceBits l (8 * (off + i), 8), s)

/-- Parameter patches, later writes standing; none where a slot is above 63. -/
def applyPatches (g : Vector Word 64) : List (Nat × Word) → Option (Vector Word 64)
  | [] => some g
  | (i, w) :: t => if 63 < i then none else applyPatches (vset g i w) t

/-- The launch unit's check of a handle: a violation is logged (R190). -/
def State.launchCheck (s : State) (part : Nat) (h : Word) (need : Nat) : Bool × State :=
  let s := s.learn h
  let q : Requester := ⟨part, .host, 1023, s.pkg⟩
  match s.violation q h (some need) with
  | some (cause, owner) => (false, s.logViolation owner q cause h [])
  | none => (true, s)

/-- The patches of a packet: table entries, then inline ones. -/
def State.patches (s : State) (part : Nat) (p : List Word) : Option (List (Nat × Word)) × State :=
  let inl := (List.range (pktNinl p)).map fun k => ((pktWord p (4 + 2 * k)).toNat, pktWord p (5 + 2 * k))
  if pktNtab p = 0 then (some inl, s)
  else
    match s.launchCheck part (pktWord p 2) 1 with
    | (false, s) => (none, s)
    | (true, s) =>
    match s.readObject (pktWord p 2) 0 (16 * pktNtab p) with
    | (none, s) => (none, s)
    | (some bs, s) =>
      (some ((List.range (pktNtab p)).map (fun e =>
        (packNat 8 ((bs.drop (16 * e)).take 8), BitVec.ofNat 64 (packNat 8 ((bs.drop (16 * e + 8)).take 8)))) ++ inl), s)

/-- Places in flight of a partition's kick page, and the lowest that is free (R300, R303). -/
def State.flights (s : State) (part : Nat) : List Nat := (s.replays.filter fun r => r.part = part && r.inFlight).map (·.place)
def freePlace (l : List Nat) : Nat := ((List.range 4).find? fun i => !l.contains i).getD 0

/-- The launch unit's decision on a kick, in the order of R302: the code, the region for the status word, and the state. -/
def State.takeKick (s : State) (part : Nat) (from_ : Option Nat) (p : List Word) : Nat × Nat × State :=
  if !pktOk p then (7, 0, s)
  else
    let h := pktWord p 0
    let (ok, s) := s.launchCheck part h 128
    match (if ok then s.graphs.find? fun g => hKey g.handle = hKey h && hGen g.handle = hGen h && g.part = part else none) with
    | none => (2, 0, s)
    | some g =>
      let bad8 := match from_ with | some own => !s.isIn g.rid own | none => false
      if bad8 then (8, g.rid, s)
      else if (s.region? g.rid).map (·.st) ≠ some 1 then (6, g.rid, s)
      else
        let cores := s.effCores g.rid
        if cores.isEmpty then (4, g.rid, s)
        else if (List.range (imgNodes g.image)).any fun i =>
            decide (s.effRowcap g.rid < nodeRows g.image i + nodeCarve g.image i) || decide (s.effLzcap g.rid < nodeZ g.image i)
          then (5, g.rid, s)
        else if 4 ≤ (s.flights part).length then (1, g.rid, s)
        else if s.replays.any fun r => r.rid = g.rid && r.replay = pktReplay p && r.inFlight then (9, g.rid, s)
        else
          let (l, s) := s.patches part p
          match l.bind (applyPatches (g.latest.getD (imgDefaults g.image))) with
          | none => (3, g.rid, s)
          | some gen =>
            let place := freePlace (s.flights part)
            let infl := (s.flights part).length + 1
            let r : Replay :=
              { part, rid := g.rid, replay := pktReplay p, graph := g.handle, genNo := (g.kicks + 1) % 2 ^ 32, gen, cores,
                fb := pktFb p, infl, place, nodes := List.replicate (imgNodes g.image) .waiting }
            let (s, r) := s.armDeps r g.image
            (0, g.rid, { s with
              graphs := s.graphs.map fun x => if x.handle = g.handle && x.part = part then { x with latest := some gen, kicks := x.kicks + 1 } else x
              replays := (s.replays.filter fun x => !(x.part = part && x.place = place)) ++ [r] })

/-- A partition's command window. -/
def State.window (s : State) (k : Nat) : Window := (mget s.windows k).getD {}
def State.modWindow (s : State) (k : Nat) (f : Window → Window) : State :=
  { s with windows := mput s.windows k (f (s.window k)) }

/-- KICK (R302): the status word stands in the partition's kick page; a `gkick` receives it in its register. A graph is held against
the region of the task that issued the `gkick` (R313). -/
def execKick (part : Nat) (src : KickSource) (pkt : List Word) (s : State) : Host.Outcome State Fault Refusal :=
  s.event fun s =>
    let from_ := match src with | .core _ own _ => some own | _ => none
    let (code, rid, s) := s.takeKick part from_ pkt
    let replay := if pkt.length = 16 then pktReplay pkt else 0
    let w := kickWord rid replay (s.flights part).length code
    let s := s.modWindow part fun x => { x with kick := w }
    match src with
    | .core i _ (some d) =>
      let (n, s) := s.draw .kick
      s.sched (s.cycle + 1 + n) ptLand (.valueArrives i (.x d w))
    | _ => s

/-- `gkick` (R313). -/
def execGkick (d : XReg) (s : State) : Host.Outcome State Fault Refusal :=
  s.computeWord (.gkick d) fun s =>
    s.withRow (rowNum (s.sy 9)) fun r =>
      let pkt := (List.range 16).map fun i => getWordAt r.data i
      let s := (s.awaitX d).onCore fun c => { c with gkickOut := c.gkickOut ++ [d] }
      s.schedFree .kick 1 ptPush (.kick s.core.tk.part (.core s.core.id s.core.tk.rid (some d)) pkt)

/-! ### Taking a task (R306, R308, R309) -/

/-- An event input of a task: how its event stands. -/
def State.replayEvent (s : State) (rid n e : Nat) : EvState :=
  match s.replay? rid n with | some r => r.event e | none => .idle

def State.eventInput (s : State) (events : Vector TEvent 64) (params : Vector Word 64) (rid n : Nat) (r : BitVec 1024) : EvState :=
  if recForeign r then
    let tok := vget params (recSlot r) 0
    s.replayEvent (fieldN tok 48 16) (fieldN tok 32 16) (recRow r)
  else if recRow r < 64 then (vget events (recRow r) {}).st
  else s.replayEvent rid n (recRow r)

def settled (e : EvState) : Bool := e == .fired || e == .abandoned

/-- Whether a core may take a task: it holds none, and Lovage is not restoring one into it (R306, R318). -/
def Core.free (c : Core) : Bool :=
  !c.isSys && (c.state == .idle || c.state == .saved) && c.task.isNone && !c.discarding && c.errand != 2

/-- Rows of the HOME 11 pages that Lovage keeps in a core's object carve-out (R280): 128 for each page that an extent table names. -/
def State.objectRows (s : State) (core : Nat) : Nat :=
  let pages := s.descs.flatMap fun p =>
    let d : Desc := p.2
    if d.ext = 0 then [] else (List.range ((d.extent + 65535) / 65536)).filterMap fun n =>
      match s.walk d.ext (65536 * n) with
      | some (e, off) => if entHome e = 3 ∧ e / 2 ^ 54 % 1024 = core then some ((entAddr e + off) / 65536) else none
      | none => none
  128 * pages.eraseDups.length

/-- Created tasks on a core's list whose phase-0 events are settled, whose rows fit and whose region is not stopped (R355). -/
def State.candidates (s : State) (core : Nat) : List TaskRec :=
  s.tasks.filter fun t =>
    t.core = core && t.st == .created && ((s.region? t.rid).all fun r => r.st ≠ 3) &&
    match s.replay? t.rid t.replay with
    | none => false
    | some r =>
      let g := s.imageOf r.graph
      decide (nodeRows g t.node + nodeCarve g t.node + s.objectRows core ≤ 8192) &&
      (List.range 8).all fun k =>
        let i := nodeInput g t.node 0 k
        recKind i != 3 || settled (s.eventInput (Vector.replicate 64 {}) r.gen t.rid t.replay i)

/-- A region's effective priority on a core. -/
def State.prioOn (s : State) (c : Core) (rid : Nat) : Nat := min 7 (s.effPrio rid + (mget c.aging rid).getD 0)

def maxOf (l : List Nat) : Nat := l.foldl max 0

/-- The region that starts next, and the credits that the choice leaves (R306). -/
def State.pickRegion (s : State) (c : Core) (l : List TaskRec) : Option (Nat × List (Nat × Int)) :=
  let rids := (l.map (·.rid)).eraseDups
  let top := maxOf (rids.map (s.prioOn c))
  let con := rids.filter fun r => s.prioOn c r = top
  let weight (r : Nat) : Int := (s.effCores r).length
  let credits := con.foldl (fun m r => mput m r ((mget m r).getD 0 + weight r)) c.credits
  let best := con.foldl (fun (b : Option Nat) r => match b with
    | none => some r
    | some x =>
      let cr := (mget credits r).getD 0
      let cx := (mget credits x).getD 0
      if cx < cr ∨ (cx = cr ∧ r < x) then some r else some x) none
  best.map fun r => (r, mput credits r ((mget credits r).getD 0 - (con.map weight).foldl (· + ·) 0))

/-- The first task of a region: oldest replay, then node, then tile. A token names the latest replay that bears it. -/
def firstTask (replays : List Replay) (l : List TaskRec) : Option TaskRec :=
  let age (t : TaskRec) : Nat :=
    replays.length - (replays.reverse.findIdx? fun r => r.rid = t.rid && r.replay = t.replay).getD 0
  l.foldl (fun (b : Option TaskRec) t => match b with
    | none => some t
    | some x =>
      if age t < age x ∨ (age t = age x ∧ (t.node < x.node ∨ (t.node = x.node ∧ t.tile < x.tile))) then some t else some x) none

/-- The words of a code object's text (R16), or the fault that stands in their place: the handle fails the check for EXEC
(R177, R178), bytes are not served (R186), or a sector is uncorrectable (R328). DESIGN CHOICE: notes/assumptions/8.md. -/
def State.codeText (s : State) (part core : Nat) (h : Word) : Except Raise (List IWord) × State :=
  let s := s.learn h
  let q : Requester := ⟨part, .core, core, s.pkg⟩
  match s.violation q h (some 128) with
  | some (cause, owner) => (.error ⟨cause, h, 0⟩, s.logViolation owner q cause h [])
  | none =>
    let d := s.desc h
    let n := min (prodL d.dims * d.w / 32) (d.extent / 4)
    if n = 0 then (.ok [], s)
    else
      let span := s.span h d none 0 (32 * n)
      match firstMissing 0 span with
      | some o => (.error ⟨0x0B, h, BitVec.ofNat 64 o⟩, s)
      | none =>
        match s.readServed core false 1 false span with
        | (.ok v, s) => (.ok ((List.range n).map fun i => BitVec.ofNat 32 (v / 2 ^ (32 * i))), s)
        | (.error pa, s) => (.error ⟨0x18, BitVec.ofNat 64 pa, 0⟩, s)

/-- Whether a core's text is still to be read while its die's L2 holds new requests (R272). -/
def State.textHeld (s : State) (c : Core) : Bool := c.text.isEmpty && s.l2Holds c.id

/-- A core's text is read from the task's code object, once the L2 takes requests; a fault waits for its first group. -/
def State.loadText (s : State) (core : Nat) : State :=
  let c := s.coreOf core
  if c.task.isNone || !c.text.isEmpty || s.textHeld c then s
  else
    let (r, s) := s.codeText c.tk.part core c.tk.code
    s.modCore core fun c => match r with
      | .ok l => { c with text := l, startErr := none }
      | .error e => { c with startErr := some e }

/-- A core as a task finds it at its start (R41, R42, R48, R89, R117, R154, R156, R158, R205, R247, R308). -/
def Core.begin (c : Core) (t : Task) (ovf : Word) (entry : Nat) : Core :=
  { c with
    arch := { ovfptr := ovf, pc := BitVec.ofNat 64 entry }, state := .running, task := some t, text := [], phase := 0,
    waiting := true, ending := false, issueAt := 0, fpDue := 0, chView := none, resumeAt := none, relOut := [],
    relWait := [], wanted := [], taken := none, loopsNext := none, vout := none, raised := none,
    pend := [], rowPend := [], rows := c.rows.filter fun r => decide (r.1 < c.objRows), resolved := false,
    accepted := none, asking := none, mcmds := [], wloads := [], mtile := none, merr := none, ovf := none, pushHeld := [],
    mwaits := [], wave := none, fe := Vector.replicate 16 {}, cp := Vector.replicate 16 {},
    streams := Vector.replicate 8 {}, fills := [], pairPend := [], events := Vector.replicate 64 {}, pins := [],
    inputsIn := [], inputErr := none, inputBad := 0, fetching := false, inPhase := 0, inPins := [], startErr := none, lzresOut := [],
    gkickOut := [], physOut := [], varOut := 0, prestart := 0, ckpts := 0, ckpt := {}, phaseCk := {}, rowLog := [], interval := 0,
    logLost := false, valueLog := [], groups := 0, recover := none, ckptDue := false, ckptTile := none, ckptWave := none,
    wasHalt := false, discarding := false, fbPhases := 0, fbEng := 0, fbFe := 0, fbIn := 0,
    fbBusy := 0 }

/-- TASK_TAKE (R306): a free core's dispatcher takes the task that R306 chooses. The cycle counts for CORE_BUSY (R356). -/
def execTaskTake (core : Nat) (s : State) : Host.Outcome State Fault Refusal :=
  s.event fun s =>
    let c := s.coreOf core
    if !c.free then s
    else
      match s.pickRegion c (s.candidates core) with
      | none => s
      | some (rid, credits) =>
        match firstTask s.replays ((s.candidates core).filter fun t => t.rid = rid) with
        | none => s
        | some t =>
          match s.replay? t.rid t.replay with
          | none => s
          | some r =>
            let s := s.modCore core fun c => { c with objRows := s.objectRows core }
            let c := s.coreOf core
            let g := s.imageOf r.graph
            let i := t.node
            let ts1 := nodeTs g i 1
            let ts2 := nodeTs g i 2
            let task : Task :=
              { part := r.part, rid := t.rid, replay := t.replay, node := i, tile := t.tile,
                tc := #v[t.tile / (ts1 * ts2), t.tile / ts2 % ts1, t.tile % ts2], phases := nodePhases g i,
                isreg := nodeIsreg g i, z := nodeZ g i, rows := nodeRows g i, carve := nodeCarve g i, base := c.objRows,
                pgen := r.genNo, params := r.gen, lock := s.effLock t.rid, code := nodeCode g i,
                inputs := (List.range (8 * nodePhases g i)).map fun k => (k, nodeInput g i (k / 8) (k % 8)),
                fbh := if r.fb then imgFbh g else 0 }
            let aged := fun e => match e with | Instr.priorityAging k x => k == core && x == rid | _ => false
            let s := (((s.unsched aged).wakeL1 core).modCore core fun c =>
              { c.begin task (nodeOvf g i) (nodeEntry g i) with credits, aging := mdel c.aging rid }).loadText core
            let s := s.sched s.cycle ptEnd (.meterAdd r.part t.rid 12 1)
            { s with tasks := s.tasks.map fun x =>
                if x.rid = t.rid && x.replay = t.replay && x.node = i && x.tile = t.tile then { x with st := .running } else x }

/-- Whether a region has a task waiting on a core. -/
def State.awaits (s : State) (core rid : Nat) : Bool := (s.candidates core).any fun t => t.rid = rid

/-- PRIORITY_AGING (R306): every 2^20 cycles in which the region has had a task waiting there. -/
def execPriorityAging (core rid : Nat) (s : State) : Host.Outcome State Fault Refusal :=
  s.event fun s =>
    if s.awaits core rid then
      s.modCore core fun c => { c with aging := mput c.aging rid (min 7 ((mget c.aging rid).getD 0 + 1)) }
    else s

/-! ### Declared inputs (R297, R307, R308) -/

def Core.input (c : Core) (k : Nat) : BitVec 1024 := (mget c.tk.inputs (8 * c.inPhase + k)).getD 0

/-- The indices of the tile inputs of the phase whose inputs are fetched. -/
def Core.tiles (c : Core) : List Nat := (List.range 8).filter fun k => recKind (c.input k) = 1

/-- Whether every event input of that phase is FIRED or ABANDONED. -/
def State.eventsSettled (s : State) (c : Core) : Bool :=
  (List.range 8).all fun k =>
    let r := c.input k
    recKind r != 3 || settled (s.eventInput c.events c.tk.params c.tk.rid c.tk.replay r)

/-- The origin of a tile input (R297). -/
def inputOrigin (r : BitVec 1024) (tc : Vector Nat 3) (rank : Nat) : List Int :=
  (List.range rank).map fun i =>
    wrap64 (recB r i + recA r i 0 * vget tc 0 0 + recA r i 1 * vget tc 1 0 + recA r i 2 * vget tc 2 0)

/-- An input has ended: with its rows, or with the first error of the phase (R308). -/
def Core.inputDone (c : Core) (k : Nat) (err : Option (Nat × BitVec 8)) (pa : Nat := 0) : Core :=
  { c with inputsIn := k :: c.inputsIn, inputErr := if c.inputErr.isSome then c.inputErr else err,
           inputBad := if c.inputErr.isSome then c.inputBad else pa }

/-- A tile input as `fget` or `fget.c` would ask for it (R297): its handle, whether its origin is inside the object's coordinates, its pattern
and its request; coordinates stand as 64-bit registers would hold them. -/
def State.inputReq (s : State) (c : Core) (k : Nat) : Pattern × PatReq :=
  let r := c.input k
  let h := vget c.tk.params (recSlot r) 0
  let d := s.desc h
  let cs := (inputOrigin r c.tk.tc d.rank).map fun i => (BitVec.ofInt 64 i).toNat
  let n0 := recN0 r
  let p : Pattern := { base := wrap64 (linOf d.dims cs), n0, ns := [recRows r, 1, 1, 1],
                       strs := [1, (if d.rank = 1 then (n0 : Int) else (inner d.dims 0 : Int)), 0, 0, 0] }
  let q := if recCoef r then tileReq s c h false cs else walkReq s c h false cs p
  (p, { q with ver := mget c.inPins (hKey h) })

/-- The rows that a tile input may write (R223, R228). -/
def State.inputRows (s : State) (h : Word) (r : BitVec 1024) : Nat :=
  if recCoef r then (match s.known h with | some d => d.npos + 1 | none => 1) else recRows r

/-- One tile input is brought into its rows, with the checks of R223; a missing object waits for Lovage (R308). -/
def State.fetchInput (s : State) (core k : Nat) : State :=
  let s := s.learn (vget (s.coreOf core).tk.params (recSlot ((s.coreOf core).input k)) 0)
  let c := s.coreOf core
  let r := c.input k
  let (p, q) := s.inputReq c k
  let d := s.desc q.h
  let ends (cause : BitVec 8) (s : State) (pa : Nat := 0) : State :=
    s.modCore core fun c => c.inputDone k (some (k, cause)) pa
  let put (l : List (Nat × Row)) (err : Option (BitVec 8 × Nat)) (s : State) : State :=
    s.modCore core fun c =>
      (l.foldl (fun c p => c.writeRow .fetch (c.tk.base + recRow r + p.1) p.2) c).inputDone k
        (err.map fun e => (k, e.1)) ((err.map (·.2)).getD 0)
  if !recCoef r && s.ruleBroken q.h p.fmtOk then ends 0x01 s
  else if c.tk.rows < recRow r + s.inputRows q.h r then ends 0x0A s
  else match s.resolvePat c .fetch [q] with
  | some (_, f) =>
    if f.raise.cause = 0x0B then s.callLovage core
    else ends f.raise.cause <| match f.log with
      | some owner => s.logViolation owner (c.requester s.pkg .fetch) f.raise.cause q.h q.origin
      | none => s
  | none =>
    if recCoef r then
      if !d.inside (d.tileRow q.origin 0) then ends 0x0A s
      else match s.tileRows core q.h d q.ver q.origin [0] with
        | ([(_, .ok v)], s) =>
          if !hdrValid ⟨v, tagX⟩ then ends 0x05 s
          else
            let js := (List.range (hdrCnt v)).map (· + 1)
            let fits (j : Nat) : Bool := d.inside (d.tileRow q.origin j) && decide (recRow r + j < c.tk.rows)
            let (l, s) := s.tileRows core q.h d q.ver q.origin (js.filter fits)
            let rows := l.filterMap fun p => match p.2 with
              | .ok v' => some (p.1, (⟨v', BitVec.ofNat 4 (hdrTag v)⟩ : Row))
              | .error _ => none
            let bad : Option (BitVec 8 × Nat) :=
              l.findSome? fun p => match p.2 with | .error pa => some (0x18, pa) | .ok _ => none
            put ((0, ⟨v, tagX⟩) :: rows) (bad.orElse fun _ => if js.all fits then none else some (0x0A, 0)) s
        | ([(_, .error pa)], s) => ends 0x18 s pa
        | (_, s) => ends 0x18 s
    else
      let step (st : List (Nat × Row) × Option (BitVec 8 × Nat) × State) (j : Nat) :
          List (Nat × Row) × Option (BitVec 8 × Nat) × State :=
        match p.run d j with
        | none => (st.1, st.2.1.orElse fun _ => some (0x0A, 0), st.2.2)
        | some rb =>
          match st.2.2.readSectors core q.h d q.ver (sectorsOf rb.all) with
          | (.error pa, s) => (st.1, (if st.2.1.any fun e => e.1 = 0x18 then st.2.1 else some (0x18, pa)), s)
          | (.ok m, s) =>
            (st.1 ++ [(j, ⟨rowOf d.w (rb.data.map (pieceBits m)) (rb.scale.map (pieceBits m)) (rb.sup.map (pieceBits m)),
              if recTagC r then tagC else tagS⟩)], st.2.1, s)
      let (rows, err, s) := (List.range (recRows r)).foldl step ([], none, s)
      put rows err s

/-- PHASE_INPUT_FETCH (R307): with 0 the dispatcher begins fetching the tile inputs of the phase, under the pins then in
force; with k + 1 input k's rows arrive. -/
def execPhaseInputFetch (core input : Nat) (s : State) : Host.Outcome State Fault Refusal :=
  s.event fun s =>
    let c := s.coreOf core
    if c.task.isNone then s
    else if input = 0 then
      if c.fetching then s
      else
        let s := s.modCore core fun c =>
          { c with fetching := true, inputsIn := [], inputErr := none,
                   inPins := c.pins.map fun p => (p.home * 2 ^ 23 + p.slot, p.ver) }
        c.tiles.foldl (fun s k => s.schedFree .inputs 1 ptFill (.phaseInputFetch core (k + 1))) s
    else if !c.fetching || c.inputsIn.contains (input - 1) then s
    else if s.l2Holds core then s.sched (vget s.dies (core / 32) {}).holdTo ptFill (.phaseInputFetch core input)
    else s.fetchInput core (input - 1)

/-! ### Checkpoints (R61, R324..R326) -/

/-- A checkpoint of a core, values on their way included (R61), that resumes at `pc`. -/
def State.takeCkpt (s : State) (core : Nat) (pc : Word) : State :=
  let c := (s.coreOf core).checkpoint s.cycle pc
  let a := s.agenda.foldl (fun a e => match e.2 with
    | .valueArrives k (.x r w) => if k = core then (a.setX r w).markX r true else a
    | .valueArrives k (.v r d t) => if k = core then (a.setV r d t).markV r true else a
    | _ => a) c.ckpt
  s.putCore { c with ckpt := a, ckptTile := none, ckptWave := none }

/-- `ckpt` (R61): taken at the end of its group. -/
def execCkpt (s : State) : Host.Outcome State Fault Refusal :=
  s.computeWord .ckpt fun s => s.onCore fun c => { c with ckptDue := true }

/-! ### Phases (R59, R257, R307, R308, R328) -/

/-- `phase` (R59, R257, R307). -/
def execPhase (s : State) : Host.Outcome State Fault Refusal :=
  s.computeWord .phase fun s => s.engineError fun s =>
    let c := s.core
    if c.tk.phases ≤ c.phase + 1 then s.illegal
    else
      let next (k : Nat) : BitVec 1024 := (mget c.tk.inputs (8 * (c.phase + 1) + k)).getD 0
      match (List.range 8).find? fun k =>
          (recKind (next k) = 2 && (c.pair (recRow (next k))).bar == .idle) ||
          (recKind (next k) = 3 && !recForeign (next k) && decide (recRow (next k) < 64) &&
            (vget c.events (recRow (next k)) {}).st == .idle) with
      | some k => s.fault 0x10 (BitVec.ofNat 64 (recRow (next k)))
      | none => s.onCore fun c => { c with waiting := true }

/-- Whether the phase that a core waits for may start (R307). -/
def State.phaseReady (s : State) (c : Core) : Bool :=
  c.state == .running && c.waiting && !c.ending && !s.textHeld c && c.inPhase ≤ c.tk.phases &&
  (c.fe.toList.all fun q => q.queue.all fun x => x.kind != .fget && x.kind != .fgetc) && c.wave.isNone && c.matrixIdle &&
  (c.tiles.all fun k => c.inputsIn.contains k) && s.eventsSettled c &&
  (List.range 8).all fun k =>
    let r := c.input k
    recKind r != 2 || (c.pair (recRow r)).bar == .complete || (c.pair (recRow r)).bar == .timedout

/-- The input status word (R308). -/
def State.inputStatus (s : State) (c : Core) : Word :=
  BitVec.ofNat 64 (packNat 1 ((List.range 8).map fun k =>
    let r := c.input k
    if (recKind r = 2 ∧ (c.pair (recRow r)).bar = .timedout) ∨
       (recKind r = 3 ∧ s.eventInput c.events c.tk.params c.tk.rid c.tk.replay r = .abandoned) then 1 else 0))

/-- The lines of an object homed elsewhere that stand here, by page. -/
def State.linesOf (s : State) (h : Word) (d : Desc) (line : Nat) : Bool :=
  (List.range ((d.extent + 65535) / 65536)).any fun n =>
    match s.locate h d none (65536 * n) with
    | .ok x _ => x.line / 1024 == line / 1024
    | _ => false

/-- What a FIRED task event does at the start of the phase that declares it (R206, R272): after a publish by a core of the die,
LTIME passes its timestamp; otherwise the lines of an object homed on another package leave the core and its die. -/
def State.applyEvent (s : State) (core : Nat) (e : TEvent) : State :=
  let die := dieOfCore core
  if e.st ≠ .fired then s
  else if e.pubDie = die then
    let n := (s.die die).rebase.toNat - e.rb
    s.modCore core fun c => { c with ltime := max c.ltime ((e.ts - n * 2 ^ 38) + 1) }
  else if e.home = s.pkg then s
  else
    let h : Word := BitVec.ofNat 64 ((e.home * 2 ^ 23 + e.slot) * 2 ^ 32)
    let mine := s.linesOf h (s.desc h)
    let s := s.modCore core fun c => { c with l1 := c.l1.filter fun l => !mine l.line }
    (s.die die).l2.foldl (fun s l => if mine l.line then s.evictL2 die l else s) s

/-- A phase starts (R307, R308): PHASE, the input status word, the phase-start checkpoint and the next inputs. DEDUCED: notes/assumptions/36.md. -/
def State.startPhase (s : State) (core : Nat) : State :=
  let c := s.coreOf core
  let w := s.inputStatus c
  let s := (List.range 8).foldl (fun s k =>
    let r := c.input k
    if recKind r = 3 && !recForeign r && decide (recRow r < 64) then s.applyEvent core (vget c.events (recRow r) {}) else s) s
  let last := c.rowPend.foldl (fun m r => max m (r.due + 1)) (c.pend.foldl (fun m p => max m p.due) 0)
  let err : Option Raise := c.inputErr.map fun e =>
    if e.2 = 0x18 then ⟨0x18, BitVec.ofNat 64 c.inputBad, c.prestart.zeroExtend 64⟩
    else ⟨0x1B, BitVec.ofNat 64 (place 32 8 e.2.toNat + 2 ^ 24 + 1), BitVec.ofNat 64 (0x100 + e.1)⟩
  let again := c.inPhase = c.phase
  let s := s.modCore core fun c =>
    let c : Core := { c with
      phase := c.inPhase, waiting := false, issueAt := max (s.cycle + 4) last, prestart := if again then c.prestart else 0,
      startErr := err.orElse fun _ => c.startErr, fbPhases := c.fbPhases + 1, rowLog := [], interval := 0, logLost := false, ckpts := 0,
      inPhase := c.inPhase + 1, fetching := false, inputsIn := [], inputErr := none }
    if c.tk.isreg = 0 then c
    else
      let r : XReg := BitVec.ofNat 6 c.tk.isreg
      { c with arch := (c.arch.setX r w).markX r true, pend := c.pend.filter fun p => !p.hitsX r }
  let s := s.takeCkpt core (s.coreOf core).arch.pc
  s.modCore core fun c => { c with phaseCk := c.ckpt, phaseLate := c.ckptLate }

/-- PHASE_START (R307): the errors that its joins consume (R229, R308, R328), or the start. -/
def execPhaseStart (core : Nat) (s : State) : Host.Outcome State Fault Refusal :=
  s.event fun s =>
    let c := s.coreOf core
    if !s.phaseReady c then s
    else
      match c.errChan false with
      | some (_, n, w) =>
        let bad := (c.fe.toList.findSome? fun q => if q.cause = 0x18 then q.bad else none)
        let s := s.modCore core fun c => c.reportAll false
        s.onFocus core fun s =>
          match bad with
          | some pa => s.consumeBad (BitVec.ofNat 64 pa)
          | none => (s.halt ⟨0x1B, w, BitVec.ofNat 64 n⟩ (addrOf c.gstart) (addrOf c.gend) 0).onCore fun c =>
              { c with waiting := false }
      | none =>
        match c.inputErr with
        | some (_, cause) =>
          if cause ≠ 0x18 then s.startPhase core
          else if c.inPhase ≠ c.phase then s.onFocus core fun s => s.consumeBad (BitVec.ofNat 64 c.inputBad)
          else if c.prestart.toNat < 3 then
            s.modCore core fun c =>
              { c with prestart := c.prestart + 1, fetching := false, inputsIn := [], inputErr := none }
          else s.startPhase core
        | none => s.startPhase core

/-! ### Retirement (R60, R118, R310) -/

/-- `tend` (R60): the joins follow (`State.pollTend`). -/
def execTend (s : State) : Host.Outcome State Fault Refusal :=
  s.computeWord .tend fun s => s.engineError fun s => s.onCore fun c => { c with ending := true }

/-- An armed event on an object is ABANDONED when the object goes (R205). -/
def Core.loseEvents (key : Nat) (c : Core) : Core :=
  { c with events := c.events.map fun e =>
    if e.st = .armed ∧ e.home * 2 ^ 23 + e.slot = key then { e with st := .abandoned } else e }

/-- The same on every core, and in the images of tasks that are SAVED. -/
def State.loseEvents (s : State) (key : Nat) : State :=
  { s with saves := s.saves.map fun (p : Nat × Image) => (p.1, { p.2 with ctx := p.2.ctx.loseEvents key }) }.allCores
    (Core.loseEvents key)

/-- Eight 64-bit words of a sector, each with its addend (R310). -/
def addWords (adds : List Nat) (m : Mask) : Mask :=
  BitVec.ofNat 512 (packNat 64 ((List.range 8).map fun i => m.toNat / 2 ^ (64 * i) % 2 ^ 64 + adds.getD i 0))

/-- The adds to a feedback record (R310). -/
def State.feedback (s : State) (c : Core) : State :=
  let h := c.tk.fbh
  if h = 0 then s
  else
    let s := s.learn h
    let d := s.desc h
    let q := c.requester s.pkg .core
    let off := 64 * (c.tk.node * 768 + c.id)
    let adds : List Nat := [c.fbBusy, c.fbIn, c.fbFe, c.fbEng, c.fbPhases, 1, 0, 0]
    match s.violation q h (some 2) with
    | some (cause, owner) => s.logViolation owner q cause h []
    | none =>
      if d.extent < off + 64 then s.logViolation d.part q 0x0A h []
      else if d.replicated then s.logViolation d.part q 0x09 h []
      else match s.locate h d none off with
        | .ok x true =>
          if (s.poolShort h [off]).isSome then s.logViolation d.part q 0x0B h []
          else match (s.cow h d off).atomicSector c.id x false (addWords adds) with
            | (some _, s) => s
            | (none, _) => s.logViolation d.part q 0x18 h []
        | .ok _ false => s.logViolation d.part q 0x09 h []
        | .remote pkg _ _ _ => s.toPackage pkg c.id (.feedback c.tk.part c.id h off adds)
        | .missing => s.logViolation d.part q 0x0B h []

/-- The pins of a core's task are released, and versions that nothing keeps leave (R202, R219). Whether an operation
still reads a version under a pin counts. -/
def Core.reads (c : Core) (key v : Nat) : Bool :=
  c.pins.any (fun p => p.home * 2 ^ 23 + p.slot = key && p.ver = v) ||
  c.inPins.any (fun p => p.1 = key && p.2 = v) ||
  c.fe.toList.any (fun q => q.queue.any fun x => x.pins.any fun p => p.1 = key && p.2 = v) ||
  c.cp.toList.any (fun q => q.queue.any fun x => x.pins.any fun p => p.1 = key && p.2 = v) ||
  c.streams.toList.any (fun q => q.bound && decide (q.next < q.total) && q.pins.any fun p => p.1 = key && p.2 = v) ||
  c.wloads.any (fun w => hKey w.hnd = key && w.ver = some v) || c.mtile.any fun m => hKey m.hnd = key && m.ver = some v

def State.versionKept (s : State) (key v : Nat) : Bool :=
  Desc.vcur ((mget s.descs key).getD 0) = v || s.pinned.any (fun p => p.2.1 = key && p.2.2 = v) ||
  s.core.reads key v || (s.parked.any fun c => c.reads key v) || s.saves.any fun p => p.2.ctx.reads key v

/-- Versions that are no longer kept release their page copies into the object's pool (R202). -/
def State.dropVersions (s : State) (key : Nat) : State :=
  let (keep, gone) := s.kept.partition fun k => k.slot ≠ key || s.versionKept key k.ver
  let used := keep.filterMap fun k => if k.slot = key then some (k.pages.map (·.2)) else none
  let pages := (gone.flatMap fun k => k.pages.map (·.2)).eraseDups.filter fun w => !used.flatten.contains w
  { s with kept := keep, pool := pages.map (fun w => (key, w.toNat / 2 ^ 16 % 2 ^ 30 * 2 ^ 16)) ++ s.pool }

/-- Versions whose last reader has ended are released (R202). -/
def State.pollVersions (s : State) : State :=
  (((s.kept.filter fun k => !s.versionKept k.slot k.ver).map (·.slot)).eraseDups).foldl State.dropVersions s

def State.setVpin (s : State) (key : Nat) : State :=
  let n := ((s.pinned.filterMap fun p => if p.2.1 = key then some p.2.2 else none).eraseDups).length
  match mget s.descs key with
  | some d => { s with descs := mput s.descs key (Desc.set d 436 2 n) }
  | none => s

/-- The homes elsewhere of pinned objects are told that the pins end (R219). -/
def State.unpinFar (s : State) (part core : Nat) (l : List Pin) : State :=
  (l.filter fun p => p.home ≠ s.pkg).foldl (fun s p =>
    s.send p.home core (.pin part core (BitVec.ofNat 64 ((p.home * 2 ^ 23 + p.slot) * 2 ^ 32)) none p.holder)) s

def State.releasePins (s : State) (core : Nat) : State :=
  let c := s.coreOf core
  let s := s.unpinFar c.tk.part core c.pins
  let keys := ((s.pinned.filter fun p => p.1 = core).map fun p => p.2.1).eraseDups
  let s := { s with pinned := s.pinned.filter fun p => p.1 ≠ core }.modCore core fun c => { c with pins := [], inPins := [] }
  keys.foldl (fun s k => (s.setVpin k).dropVersions k) s

/-- A kick on its way from a core whose task is gone answers no register. -/
def Instr.unanswered (core : Nat) : Instr → Instr
  | .kick part (.core i rid d) pkt => .kick part (.core i rid (if i = core then none else d)) pkt
  | i => i

/-- The task leaves the core: its zones close, its pins, events and rows return; the core is IDLE. What its registers and rows hold
stands until the next task (R386). -/
def State.freeCore (s : State) (core : Nat) (ev : EvState) : State :=
  let s := (s.releasePins core).unsched fun e => Instr.ofCommand core e ||
    (match e with
      | .valueArrives k _ | .lzresTimeout k _ _ _ | .recoveryComplete k _ | .collectorDone k | .saveComplete k
      | .discardComplete k => k = core
      | _ => false)
  let s : State := { s with agenda := s.agenda.map fun e => (e.1, Instr.unanswered core e.2) }
  s.modCore core fun c =>
    { (c.settled s.cycle).closeZones with
      state := .idle, task := none, text := [], ending := false, waiting := false, streams := Vector.replicate 8 {}, varOut := 0,
      mcmds := [], wloads := [], mtile := none, wave := none, pushHeld := [], mwaits := [], merr := none, ovf := none,
      fe := Vector.replicate 16 {}, cp := Vector.replicate 16 {}, asking := none, accepted := none, resolved := false,
      lzresOut := [], gkickOut := [], physOut := [], chView := none, resumeAt := none, relOut := [], relWait := [], wanted := [],
      startErr := none, rowLog := [], discarding := false, fetching := false,
      recover := none, wasHalt := false, ckptTile := none, ckptWave := none,
      events := c.events.map fun e => { e with st := if ev = .abandoned then .abandoned else .idle } }

/-- A task retires (R60, R310). -/
def State.retire (s : State) (core : Nat) : State :=
  let c := s.coreOf core
  let t := c.tk
  ((s.feedback c).freeCore core .idle).taskEnd t.rid t.replay t.node t.tile false

/-- Whether every engine operation of an ending task has been joined (R60, R207): requests of the sync engine that are still to be
answered, `lzres` and `gkick`, are operations too. -/
def Core.joined (c : Core) : Bool :=
  c.lzresOut.isEmpty && c.gkickOut.isEmpty && c.wave.isNone && c.matrixIdle && (c.fe.toList.all fun q => q.queue.isEmpty) && (c.cp.toList.all fun q => q.queue.isEmpty)

/-- `tend` once joined: an error that a channel reports is delivered as `cdrain` would (R60); else the task retires. A row that is held
behind a full queue, and what the engine would push after it, has no group left to report to (R159). -/
def State.pollTend (s : State) (c : Core) : State :=
  let s := s.dropHeld c.id
  let c := s.coreOf c.id
  if !(c.ending && c.state == .running && c.joined) then s
  else
    match c.errChan true with
    | some (_, n, w) =>
      (s.modCore c.id fun c => c.reportAll true).onFocus c.id fun s =>
        (s.halt ⟨0x1B, w, BitVec.ofNat 64 n⟩ (addrOf c.gstart) (addrOf c.gend) 0).onCore fun c => { c with ending := false }
    | none => s.retire c.id

/-! ### What the dispatchers and the launch unit look at in every cycle (R305..R307) -/

def State.pollNodes (s : State) : State :=
  s.replays.foldl (fun s r =>
    (List.range r.nodes.length).foldl (fun s i =>
      let mine := fun e => match e with | Instr.nodeCreate a b n => a == r.rid && b == r.replay && n == i | _ => false
      if r.nodes[i]? = some .waiting && (s.nodeReady r i).isSome && !s.isSched mine then
        let (n, s) := s.draw .create
        s.sched (s.cycle + 1 + n % 4095) ptPush (.nodeCreate r.rid r.replay i)
      else s) s) s

/-- A free core takes a task within 64 cycles, and a region with a task waiting on a core ages there by one for every 2^20 cycles (R306). -/
def State.pollTake (s : State) (core : Nat) : State :=
  let taking := fun e => match e with | Instr.taskTake k => k == core | _ => false
  let l := s.candidates core
  let s := if (s.coreOf core).free && !l.isEmpty && !s.isSched taking then
      let (n, s) := s.draw .dispatch
      s.sched (s.cycle + 1 + n % 63) ptPush (.taskTake core)
    else s
  (l.map (·.rid)).eraseDups.foldl (fun s rid =>
    let aging := fun e => match e with | Instr.priorityAging k x => k == core && x == rid | _ => false
    if s.isSched aging then s else s.sched (s.cycle + 2 ^ 20) ptEnd (.priorityAging core rid)) s

def State.pollPhase (s : State) (c : Core) : State :=
  let begins := fun e => match e with | Instr.phaseInputFetch k 0 => k == c.id | _ => false
  if c.task.isNone || c.state == .saved then s
  else
    let s := if !c.fetching && c.inPhase < c.tk.phases && s.eventsSettled c && !s.isSched begins then
        s.sched s.cycle ptEnd (.phaseInputFetch c.id 0)
      else s
    let s := if c.waiting && c.startErr.isNone then s.loadText c.id else s
    if s.phaseReady c then s.sched s.cycle ptEnd (.phaseStart c.id) else s

/-- The cores that have left their reset state, the focus core first. -/
def State.cores (s : State) : List Core := s.core :: s.parked

/-- The look at `ptEnd`. -/
def State.poll (s : State) : State :=
  let s := (s.unsched fun e => match e with | .priorityAging k x => !s.awaits k x | _ => false).pollDeps
  let s := s.cores.foldl (fun s c => (s.pollTend c)) s
  let s := s.cores.foldl (fun s c => s.pollPhase c) s
  let s := s.pollNodes
  (s.tasks.map (·.core)).eraseDups.foldl State.pollTake s

end Sys2Proof.Machine
end

