-- ==== Sys2Proof/Machine/Sync.lean ====
section
/-! DEFINITION. The sync-engine words (R201..R221) and `lzrel` (R264): what a request does when it is accepted, at the
object's home or at its target, and the words that wait for that. The arrival of values and of resolutions stands here
too (R33, R193). A word whose request is not yet accepted performs it at once; the step asks first and waits (R214). -/

namespace Sys2Proof.Machine

open Sys2Proof

/-! ### Publishing (R201..R206, R215) -/

/-- The task events of every core that wait for a version of an object fire (R205). -/
def fireEvents (key ver die ts rb : Nat) (c : Core) : Core :=
  { c with events := c.events.map fun e =>
      if e.st = .armed ∧ e.home * 2 ^ 23 + e.slot = key ∧ e.ver ≤ ver then
        { e with st := .fired, pubDie := die, ts := ts, rb := rb }
      else e }

/-- The news of a publish goes to the packages that wait for it. -/
def State.tellPublish (s : State) (key ver pkg core : Nat) : State :=
  let to_ := ((s.subs.filter fun r => r.2.1 = key ∧ r.2.2 ≤ ver).map (·.1)).eraseDups
  to_.foldl (fun s p => s.send p core (.published key ver pkg core))
    { s with subs := s.subs.filter fun r => !(r.2.1 = key ∧ r.2.2 ≤ ver) }

/-- An object of this package has changed, or gone: the other packages are told (R205). -/
def State.tellChange (s : State) (key : Nat) (d : Option Desc) : State :=
  (s.members.filter (· ≠ s.pkg)).foldl (fun s p => s.send p 1023 (.changed key d)) s

/-- The sectors of a page of an object, read for a copy of it. -/
def State.readPage (s : State) (h : Word) (page : Nat) : Option (List Mask) × State :=
  (List.range 1024).foldl (fun (st : Option (List Mask) × State) i =>
    match st.1, st.2.locate h (st.2.desc h) none (65536 * page + 64 * i) with
    | some l, .ok x _ => (match st.2.outerRead x with | (some m, s) => (some (l ++ [m]), s) | (none, s) => (none, s))
    | _, _ => (none, st.2)) (some [], s)

/-- Lovage updates the copies of a replicated object (R188). Which packages have one is Lovage's choice. DESIGN CHOICE:
notes/assumptions/50.md. -/
def State.sendReplicas (s : State) (key : Nat) : State :=
  let d : Desc := (mget s.descs key).getD 0
  let others := s.members.filter (· ≠ s.pkg)
  if !d.replicated ∨ others.isEmpty then s
  else
    let (pages, s) := (List.range ((d.extent + 65535) / 65536)).foldl (fun (st : List (Nat × List Mask) × State) i =>
      match st.2.readPage (BitVec.ofNat 64 (key * 2 ^ 32)) i with
      | (some l, s) => (st.1 ++ [(i, l)], s)
      | (none, s) => (st.1, s)) ([], s)
    others.foldl (fun s p =>
      let (n, s) := s.choose 2
      if n = 0 then s else s.send p 1023 (.replica key d pages)) s

/-- The publish of version `ver` of an object homed here, by a core of package `pkg`: the draft as it stands becomes the
version. A publisher of another package has no die here. -/
def State.publish (s : State) (pkg core key ver : Nat) : State :=
  let d : Desc := (mget s.descs key).getD 0
  let die := if pkg = s.pkg then dieOfCore core else 24
  let ts := if pkg = s.pkg then (s.coreOf core).ltime else 0
  let rb := (s.die die).rebase.toNat
  (({ s with
      saves := s.saves.map fun (p : Nat × Image) => (p.1, { p.2 with ctx := fireEvents key ver die ts rb p.2.ctx })
      descs := mput s.descs key (Desc.set d 256 32 ver)
      kept := { slot := key, ver := ver } :: s.kept
      pubs := { slot := key, ver := ver, die := die, ts := ts, rb := rb } :: s.pubs }).allCores
    (fireEvents key ver die ts rb)).dropVersions key |>.sendReplicas key |>.tellChange key (some (Desc.set d 256 32 ver))
    |>.tellPublish key ver pkg core

/-- The publish that first made VCUR at least `ver` (R205): publishes are listed newest first. Version 0 needed none. -/
def firstPublish (l : List PubRec) (key ver : Nat) : Option PubRec :=
  if ver = 0 then none else (l.filter fun p => p.slot = key && decide (ver ≤ p.ver)).getLast?

/-- The copy commands of a core that write an object and are not complete (R215). -/
def Core.copiesTo (c : Core) (key : Nat) : Bool :=
  c.cp.toList.any fun q => q.queue.any fun x => x.kind != .clz && hKey (vget x.stg 0 0) == key

/-- The lowest copy channel in which a write to an object has ended in an error that nothing has reported. -/
def Core.writeErr (c : Core) (key : Nat) : Option Nat :=
  (List.range 16).find? fun n => (c.chan true n).werr.contains key

/-- The errors that a publish's join reports are consumed. -/
def Core.consumeWriteErrs (c : Core) (key : Nat) : Core :=
  { c with cp := c.cp.map fun q => if q.werr.contains key then q.reported else q }

/-- The other packages that hold an object's home, a shard or a replica of it (R209, R215). Where replicas stand is Lovage's
matter: every member may hold one; so may it hold a shard of an object homed elsewhere. DEDUCED: notes/assumptions/50.md. -/
def State.releasesTo (s : State) (h : Word) (d : Desc) : List Nat :=
  let others := s.members.filter (· ≠ s.pkg)
  if d.replicated then others
  else if hHome h ≠ s.pkg then (if d.shaxis = 7 then [hHome h] else others)
  else if d.shaxis = 7 then []
  else others.filter fun p =>
    (List.range ((d.dims.getD d.shaxis 0 + d.shblk - 1) / d.shblk)).any fun i =>
      let e := s.shardEntry d i
      decide (e % 8 ≤ 2) && e / 8 % 512 == p

/-- What a sync request finds, and the state it leaves. -/
abbrev Synced := SyncResult × State

def Synced.fails (s : State) (cause : BitVec 8) (info : Word := 0) (aux : Word := 0) : Synced :=
  (.fault cause info aux, s)

/-- The handle check of a sync word (R214): a violation is logged. -/
def State.syncCheck (s : State) (h : Word) (need : Nat) (k : State → Synced) : Synced :=
  let s := s.learn h
  let q := s.core.requester s.pkg .core
  match s.violation q h (some need) with
  | some (c, owner) => (.fault c h 0, s.logViolation owner q c h [])
  | none => k s

/-- A publish's checks before its markers leave: the handle, and the writes that it joins (R215). -/
def State.pubCheck (s : State) (h : Word) (k : State → Synced) : Synced :=
  s.syncCheck h 8 fun s =>
    match s.core.writeErr (hKey h) with
    | some n => (.fault 0x1B (s.core.chan true n).word (BitVec.ofNat 64 n), s.onCore fun c => c.consumeWriteErrs (hKey h))
    | none => k s

/-- The version that a publish makes at the home, if it makes one. -/
def pubVersion (vcur : Nat) (chosen : Option Nat) : Except (BitVec 8) (Option Nat) :=
  match chosen with
  | none => if vcur = 2 ^ 32 - 1 then .error 0x0D else .ok (some (vcur + 1))
  | some v => if 2 ^ 32 ≤ v then .error 0x0D else .ok (if v ≤ vcur then none else some v)

/-- `opub` and `over` (R215): performed at the object's home. Toward a home elsewhere the request has left with its markers, and
the home has answered. -/
def State.pubRequest (s : State) (chosen : Option Nat) : Synced :=
  let h := s.sy 0
  s.pubCheck h fun s =>
    match pubVersion (s.desc h).vcur chosen with
    | .error c => Synced.fails s c h
    | .ok none => (.ok, s)
    | .ok (some v) =>
      if hHome h = s.pkg then (.ok, s.publish s.pkg s.core.id (hKey h) v)
      else (.ok, s.toPackage (hHome h) s.core.id (.publish s.core.tk.part s.core.id h chosen 0 0))

/-! ### Events and pins (R205, R217..R219) -/

/-- What the firing publish of an object homed elsewhere recorded, if a core of this package made it (R205). -/
def State.ownPublish (s : State) (key core : Nat) : Nat × Nat × Nat :=
  match s.pubs.find? fun p => p.slot = key && p.ver = core with
  | some p => (p.die, p.ts, p.rb)
  | none => (24, 0, 0)

/-- `osub` (R217). The home of an object elsewhere is told, and fires the event by a packet, or has fired it already: which, and
whose publish it was, is free. DESIGN CHOICE: notes/assumptions/50.md. -/
def State.subRequest (s : State) (ev : Nat) : Synced :=
  let h := s.sy 0
  let v := s.sy 1
  let put (e : TEvent) (s : State) : Synced := (.ok, s.onCore fun c => { c with events := vset c.events ev e })
  let e : TEvent := { st := .armed, home := hHome h, slot := hKey h % 2 ^ 23, gen := hGen h, ver := v.toNat }
  if 2 ^ 32 ≤ v.toNat then Synced.fails s 0x01 s.wordInfo
  else s.syncCheck h 1 fun s =>
    if hHome h = s.pkg then
      if v.toNat ≤ (s.desc h).vcur then
        match firstPublish s.pubs (hKey h) v.toNat with
        | some p => put { e with st := .fired, pubDie := p.die, ts := p.ts, rb := p.rb } s
        | none => put { e with st := .fired, pubDie := 24 } s
      else put e s
    else
      let mine := s.pubs.filter fun p => p.slot = hKey h
      let (n, s) := s.choose (mine.length + 2)
      let s := s.send (hHome h) s.core.id (.subscribe s.core.tk.part s.core.id h v.toNat)
      put (if n = 0 then e else match mine[n - 2]? with
        | some p => if n = 1 then { e with st := .fired, pubDie := 24 }
          else { e with st := .fired, pubDie := p.die, ts := p.ts, rb := p.rb }
        | none => { e with st := .fired, pubDie := 24 }) s

/-- The task's pin on an object is released (R218, R219). -/
def State.unpin (s : State) (key : Nat) : State :=
  let i := s.core.id
  if s.core.pins.any fun p => p.home * 2 ^ 23 + p.slot = key then
    let mine := s.core.pins.filter fun p => p.home * 2 ^ 23 + p.slot = key
    let s := s.onCore fun c => { c with pins := c.pins.filter fun p => p.home * 2 ^ 23 + p.slot ≠ key }
    if key / 2 ^ 23 ≠ s.pkg then s.unpinFar s.core.tk.part i mine
    else
      let s := { s with pinned := s.pinned.filter fun p => ¬ (p.1 = i ∧ p.2.1 = key) }
      (s.setVpin key).dropVersions key
  else s

/-- The versions of an object that tasks pin, each once (R203). -/
def State.pinnedVers (s : State) (key : Nat) : List Nat :=
  (s.pinned.filterMap fun p => if p.2.1 = key then some p.2.2 else none).eraseDups

/-- Whether a pin of a version can be added at the object's home (R218). -/
def State.mayPin (s : State) (key v : Nat) : Bool :=
  let vcur := Desc.vcur ((mget s.descs key).getD 0)
  let vs := s.pinnedVers key
  decide (v ≤ vcur) && (v == vcur || vs.contains v) && (vs.contains v || decide (vs.length < 2))

/-- A holder's pin of a version is added at the home. -/
def State.addPin (s : State) (who key v : Nat) : State :=
  { s with
    pinned := (who, key, v) :: s.pinned
    kept := if (s.keptVer key v).isSome then s.kept else { slot := key, ver := v } :: s.kept }.setVpin key

/-- `opin` (R218). Whether the home of an object elsewhere grants the pin is free. DESIGN CHOICE: notes/assumptions/50.md. -/
def State.pinRequest (s : State) : Synced :=
  let h := s.sy 0
  let v := (s.sy 1).toNat
  let key := hKey h
  let full (s : State) : Synced := Synced.fails s 0x0E h (BitVec.ofNat 64 v)
  let add (n : Nat) (s : State) : State := s.onCore fun c => { c with pins := c.pins ++ [⟨hHome h, key % 2 ^ 23, v, n⟩] }
  if 2 ^ 32 ≤ v then Synced.fails s 0x01 s.wordInfo
  else s.syncCheck h 16 fun s =>
    let s := s.unpin key
    if 16 ≤ s.core.pins.length then full s
    else if hHome h = s.pkg then
      if s.mayPin key v then (.ok, (add 0 s).addPin s.core.id key v) else full s
    else
      let holder := s.sent
      let s := s.send (hHome h) s.core.id (.pin s.core.tk.part s.core.id h (some v) holder)
      let (n, s) := s.choose 2
      if n = 0 then full s else (.ok, add holder s)

/-- `ounpin` (R219). -/
def State.unpinRequest (s : State) : Synced :=
  let h := s.sy 0
  s.syncCheck h 16 fun s => (.ok, s.unpin (hKey h))

/-! ### Signals and releases (R220, R221, R264) -/

/-- `evsig` (R220). -/
def State.signal (s : State) (ev : Nat) : State :=
  s.modReplay s.core.tk.rid s.core.tk.replay fun r => r.endEvent ev .fired

/-- The checks of `evsig.b` on its staging registers, and its target (R213, R221). -/
def State.arrivalTarget (s : State) : Except SyncResult (Nat × Nat × BitVec 8) :=
  let t := s.sy 2
  if t.toNat / 2 ^ 19 ≠ 0 ∨ (s.sy 3).toNat / 2 ^ 8 ≠ 0 then .error (.fault 0x01 s.wordInfo 0)
  else if !s.members.contains (fieldN t 10 9) || 768 ≤ fieldN t 0 10 then .error (.fault 0x0F t 0)
  else .ok (fieldN t 10 9, fieldN t 0 10, (s.sy 3).truncate 8)

/-- The core as the sender of an arrival. -/
def State.sender (s : State) : Sender := { core := s.core.id, part := s.core.tk.part, rel := s.sent }

/-- The markers and the arrival toward another package. -/
def State.sendArrival (s : State) (pkg core n : Nat) (bgen : BitVec 8) : State :=
  (s.sendMarkers pkg s.core.id s.sender.rel false).send pkg s.core.id (.arrival core s.sender n bgen s.livePaths.length)

/-- `evsig.b` (R221): within the package the arrival is decided at once; toward another package it leaves behind its markers. -/
def State.arrivalRequest (s : State) (n : Nat) : Synced :=
  match s.arrivalTarget with
  | .error r => (r, s)
  | .ok (pkg, core, bgen) =>
    if pkg = s.pkg then
      let (ok, s) := s.arriveAt core s.core.tk.part n bgen
      if ok then (.ok, s) else Synced.fails s 0x0F (s.sy 2)
    else (.ok, s.sendArrival pkg core n bgen)

/-- `lzrel` (R264). -/
def State.releaseRequest (s : State) : Synced :=
  let r := s.sy 8
  let pkg := fieldN r 10 9
  let core := fieldN r 0 10
  if !s.members.contains pkg || 768 ≤ core then Synced.fails s 0x0F r
  else if pkg = s.pkg then (.ok, s.releaseAt core s.pkg s.core.id r)
  else (.ok, s.send pkg s.core.id (.release core r))

/-! ### Acceptance (R214) -/

/-- A sync request of the focus core is performed: what it finds. -/
def State.syncPerform (s : State) : Instr → Synced
  | .opub => s.pubRequest none
  | .over => s.pubRequest (some (s.sy 1).toNat)
  | .osub e => s.subRequest e.toNat
  | .opin => s.pinRequest
  | .ounpin => s.unpinRequest
  | .evsig e => (.ok, s.signal e.toNat)
  | .evsigB n => s.arrivalRequest n.toNat
  | .lzrel => s.releaseRequest
  | _ => (.ok, s)

/-- The words whose request must be accepted before their group issues. -/
def Instr.syncWord : Instr → Bool
  | .opub | .over | .osub _ | .opin | .ounpin | .evsig _ | .evsigB _ | .lzrel => true
  | _ => false

/-- What the request waits for before it is sent: a publish for the copies that write its object (R215), a release for the
earlier `clz` (R264). -/
def State.syncHeld (s : State) : Instr → Bool
  | .opub | .over => s.core.copiesTo (hKey (s.sy 0))
  | .lzrel => s.core.cp.toList.any fun q => q.queue.any fun x => x.kind == .clz
  | _ => false

/-- The words that release writes (R208). -/
def Instr.releases : Instr → Bool
  | .opub | .over | .evsig _ | .evsigB _ => true
  | _ => false

/-- The packages to which the markers of a publish go: those that hold the object's home, a shard or a replica (R209, R215). None where
a check already fails, or where a publish at home makes no version and so is no release. -/
def State.publishTo (s : State) (chosen : Option Nat) : List Nat :=
  let h := s.sy 0
  let none_ := match pubVersion (s.desc h).vcur chosen with | .ok (some _) => false | _ => hHome h == s.pkg
  match s.pubCheck h fun s => (.ok, s) with
  | (.fault _ _ _, _) => []
  | (.ok, _) => if none_ then [] else s.releasesTo h (s.desc h)

/-- A release whose effect another package will see (R209). -/
def State.releasesFar (s : State) : Instr → Bool
  | .opub => !(s.publishTo none).isEmpty
  | .over => !(s.publishTo (some (s.sy 1).toNat)).isEmpty
  | .evsigB _ => match s.arrivalTarget with | .ok (pkg, _) => pkg != s.pkg | .error _ => false
  | _ => false

/-- The request of a publish leaves: markers go to the packages that it reaches, and it is performed once they are gathered
(R209, R215). -/
def State.sendPublish (s : State) (chosen : Option Nat) (plain : State → State) : State :=
  let h := s.sy 0
  let rel := s.sent
  let to_ := s.publishTo chosen
  if to_.isEmpty then plain s
  else
    let s := to_.foldl (fun s p =>
      let far := decide (p = hHome h)
      let s := s.sendMarkers p s.core.id rel (!far)
      if far then s.send p s.core.id (.publish s.core.tk.part s.core.id h chosen rel s.livePaths.length) else s) s
    s.onCore fun c => { c with askDue := some (s.cycle + 65536) }

/-- The request of the sync word at issue leaves (R214). Within the package it is performed after a free time, an arrival and a
release at their target; toward another package it is answered from there. A release that is not performed within 65,536 cycles times
out (R209, R262). -/
def State.sendRequest (s : State) (i : Instr) : State :=
  let here := s.core.id
  let plain (s : State) : State := s.schedFree .sync 0 ptEnd (.syncRequestAccepted here)
  let timed (s : State) : State := s.onCore fun c => { c with askDue := some (s.cycle + 65536) }
  match i with
  | .opub => s.sendPublish none plain
  | .over => s.sendPublish (some (s.sy 1).toNat) plain
  | .evsigB n =>
    match s.arrivalTarget with
    | .ok (pkg, core, bgen) =>
      if pkg = s.pkg then s.schedFree .sync 0 ptArrive (.barrierArrival core s.pkg s.sender n.toNat bgen)
      else timed (s.sendArrival pkg core n.toNat bgen)
    | .error _ => plain s
  | .lzrel =>
    let r := s.sy 8
    let pkg := fieldN r 10 9
    let core := fieldN r 0 10
    if 768 ≤ core || !s.members.contains pkg then plain s
    else if pkg = s.pkg then
      let (d, s) := s.draw .sync
      timed (if d < 65536 then s.sched (s.cycle + d) ptArrive (.slotReleaseAtTarget core s.pkg here r) else s)
    else timed ((s.send pkg here (.release core r)).onCore fun c => { c with relOut := [(pkg, 0, [])] })
  | _ => plain s

/-- The sync word at issue sends its request (R214). A release toward another package leaves only once no copy of this package can
return a value older than what it releases (R208); a pin waits for the copies of its own core, so that reads under it see the version
(R218). -/
def State.sendSync (s : State) (w : IWord) (i : Instr) : State :=
  let old := s.staleCopies
  let s := (s.learn (s.sy 0)).onCore fun c =>
    { c with asking := some w, relOut := [], askDue := none
             relWait := if Instr.releases i then old else if i = .opin then old.filter fun p => p.1 = c.id else [] }
  if s.releaseWaits s.core.id && s.releasesFar i then s.sched (s.cycle + 1) ptEnd (.syncRequestAccepted s.core.id)
  else s.sendRequest i

/-- Whether a core has accesses under way to an object, by slot with home, or to any: started commands, stream weights, inputs. -/
def State.usesObject (s : State) (c : Core) (key : Option Nat) : Bool :=
  let on (h : Word) : Bool := key.all (· == hKey h)
  (c.wloads.any fun w => w.stream && on w.hnd) ||
    (c.fetching && c.tiles.any fun k => !c.inputsIn.contains k && on (s.inputReq c k).2.h) ||
    (c.fe.toList ++ c.cp.toList).any fun x => x.queue.any fun q =>
      q.started && q.kind != .clz && (on (vget q.stg 0 0) || (q.kind == .cmov && on (vget q.stg 7 0)))

/-- `hinv` first lets the accesses already resolved under the entries complete (R341, R187), within the 10,000 cycles that its
acknowledgement takes at most. DEDUCED: notes/assumptions/20.md. -/
def State.entriesBusy (s : State) : Instr → Bool
  | .hinv a =>
    let h := s.getX a
    (s.core.askDue.any fun t => decide (s.cycle < t)) &&
      s.cores.any fun c => s.usesObject c (if h = 0 then none else some (hKey h))
  | _ => false

/-- SYNC_REQUEST_ACCEPTED (R214): a release is performed, or leaves for another package, once no copy that its request found can
return an older value. -/
def execSyncRequestAccepted (core : Nat) (s : State) : Host.Outcome State Fault Refusal :=
  s.event fun s => s.onFocus core fun s =>
    match s.core.asking with
    | none => s
    | some w =>
      if s.core.accepted.isSome then s
      else if s.releaseWaits core then s.sched (s.cycle + 1) ptEnd (.syncRequestAccepted core)
      else match decodeWord w with
        | .ok (_, i) =>
          if s.entriesBusy i then s.sched (s.cycle + 1) ptEnd (.syncRequestAccepted core)
          else if s.core.askDue.isNone && s.releasesFar i then s.sendRequest i
          else
            let (r, s) := s.syncPerform i
            s.accept core r
        | .error _ => s

/-- A version of an object homed elsewhere has been published: VCUR is at least that. -/
def State.heardOf (s : State) (key v : Nat) : State :=
  match mget s.far key with
  | some d => { s with far := mput s.far key (Desc.set d 256 32 (max (Desc.vcur d) v)) }
  | none => s

/-- The answer of another package to a release of a core: done, or refused with a cause. A publish at home is performed when every
package has gathered its markers; a publisher's own die and time are kept for the events that the publish fires here (R205). -/
def State.relAnswer (s : State) (src core rel : Nat) (bad : Option (BitVec 8)) : State :=
  let c := s.coreOf core
  if c.accepted.isSome || c.asking.isNone || !(c.relOut.any fun r => r.1 = src ∧ r.2.1 = rel) then s
  else
    let i := c.asking.map decodeWord
    let info : Word := match i with
      | some (.ok (_, .evsigB _)) => c.arch.getStg 4 2
      | some (.ok (_, .lzrel)) => c.arch.getStg 4 8
      | _ => c.arch.getStg 4 0
    match bad with
    | some cause => s.accept core (.fault cause info 0)
    | none =>
      let left := c.relOut.filter fun r => ¬ (r.1 = src ∧ r.2.1 = rel)
      let s := s.modCore core fun c => { c with relOut := left }
      if !left.isEmpty then s
      else match i with
        | some (.ok (_, .opub)) | some (.ok (_, .over)) =>
          if hHome info = s.pkg then s.sched s.cycle ptEnd (.syncRequestAccepted core)
          else
            let die := dieOfCore core
            let s := match i with
              | some (.ok (_, .over)) => s.heardOf (hKey info) (c.arch.getStg 4 1).toNat
              | _ => s
            { s with pubs := { slot := hKey info, ver := core, die, ts := c.ltime, rb := (s.die die).rebase.toNat } ::
                s.pubs.filter fun p => ¬ (p.slot = hKey info ∧ p.ver = core) }.accept core .ok
        | _ => s.accept core .ok

/-- A path has failed: the markers that went over it go again over a surviving one (R209). -/
def State.resendMarkers (s : State) (port : Nat) : State :=
  (s.core :: s.parked).foldl (fun s c => c.relOut.foldl (fun s r =>
    match r.2.2.contains port, s.livePaths with
    | true, _ :: _ =>
      s.send r.1 c.id (.marker c.id r.2.1 port r.2.2.length (match c.asking.map decodeWord with
        | some (.ok (_, .opub)) | some (.ok (_, .over)) => decide (r.1 ≠ hHome (c.arch.getStg 4 0))
        | _ => false))
    | _, _ => s) s) s

/-- The markers of a release could not all be gathered in time (R209): it is not performed, and its word faults (R215, R221). -/
def State.markersLate (s : State) (core : Nat) : State :=
  s.onFocus core fun s =>
    match s.core.asking.map decodeWord with
    | some (.ok (_, .evsigB _)) => s.accept core (.fault 0x0F (s.sy 2) 0)
    | some (.ok (_, .opub)) | some (.ok (_, .over)) => s.accept core (.fault 0x0B (s.sy 0) 0)
    | _ => s

/-- MARKER_TIMEOUT (R209). -/
def execMarkerTimeout (core : Nat) (s : State) : Host.Outcome State Fault Refusal :=
  s.event fun s => s.markersLate core

/-- The answer that a release of a core waits for is due (R209, R262). -/
def State.pollAsk (s : State) (c : Core) : State :=
  match c.askDue with
  | none => s
  | some t =>
    if s.cycle < t || c.accepted.isSome then s
    else ((s.markersLate c.id).releaseLate c.id).modCore c.id fun c => { c with askDue := none }

/-- A sync word at its issue: what its request found (R214). A publish may not issue before its joins. -/
def State.syncIssue (s : State) (i : Instr) : State :=
  let (r, s) : Synced := match s.core.accepted with
    | some r => (r, s)
    | none => s.syncPerform i
  let s := s.onCore fun c => { c with accepted := none, asking := none }
  match r with
  | .ok => s
  | .fault c info aux => s.fault c info aux

/-- `opub` (R215). -/
def execOpub (s : State) : Host.Outcome State Fault Refusal := s.computeWord .opub fun s => s.syncIssue .opub
/-- `osub` (R217). -/
def execOsub (e : BitVec 8) (s : State) : Host.Outcome State Fault Refusal :=
  s.computeWord (.osub e) fun s => s.syncIssue (.osub e)
/-- `opin` (R218). -/
def execOpin (s : State) : Host.Outcome State Fault Refusal := s.computeWord .opin fun s => s.syncIssue .opin
/-- `ounpin` (R219). -/
def execOunpin (s : State) : Host.Outcome State Fault Refusal := s.computeWord .ounpin fun s => s.syncIssue .ounpin
/-- `over` (R215). -/
def execOver (s : State) : Host.Outcome State Fault Refusal := s.computeWord .over fun s => s.syncIssue .over
/-- `evsig` (R220). -/
def execEvsig (e : BitVec 8) (s : State) : Host.Outcome State Fault Refusal :=
  s.computeWord (.evsig e) fun s => s.syncIssue (.evsig e)
/-- `evsig.b` (R221). -/
def execEvsigB (n : BitVec 8) (s : State) : Host.Outcome State Fault Refusal :=
  s.computeWord (.evsigB n) fun s => s.syncIssue (.evsigB n)
/-- `lzrel` (R264). -/
def execLzrel (s : State) : Host.Outcome State Fault Refusal := s.computeWord .lzrel fun s => s.syncIssue .lzrel

/-! ### Arrivals (R33, R193) -/

/-- A value reaches its register: it is full, and a checkpoint that holds the register empty receives it too (R61). -/
def Arch.arrive (a : Arch) : Arrival → Arch
  | .x r w => (a.setX r w).markX r true
  | .v r d t => (a.setV r d t).markV r true

/-- Whether the arrival's register is empty. -/
def Arch.lacksFor (a : Arch) : Arrival → Bool
  | .x r _ => !a.fullX r
  | .v r _ _ => !a.fullV r

/-- Fixed writes of later words that land with a value stand over it (R32). -/
def Core.landOver (c : Core) (cyc : Nat) (a : Arrival) : Core :=
  let mine (p : Pend) : Bool := p.due ≤ cyc && p.dest.forReg a
  { (c.pend.filter mine).foldl (fun c p => c.land p.dest) c with pend := c.pend.filter fun p => !mine p }

/-- VALUE_ARRIVES (R33): the value is logged (R326). -/
def execValueArrives (core : Nat) (a : Arrival) (s : State) : Host.Outcome State Fault Refusal :=
  s.event fun s => s.modCore core fun c => Core.landOver (cyc := s.cycle) (a := a) <|
    let fill (k : Arch) : Arch := if k.lacksFor a then k.arrive a else k
    let gone (l : List XReg) : List XReg := match a with | .x r _ => l.erase r | .v _ _ _ => l
    { c with
      arch := c.arch.arrive a, ckpt := fill c.ckpt, phaseCk := fill c.phaseCk, varOut := c.varOut - 1,
      valueLog := logFill a s.cycle c.valueLog, lzresOut := gone c.lzresOut, gkickOut := gone c.gkickOut, physOut := gone c.physOut }

/-- The overflow object, where OVFPTR names one (R123). -/
def State.spillObject (s : State) : List Word := if s.core.arch.ovfptr = 0 then [] else [s.core.arch.ovfptr]

/-- The handles that a word resolves before it issues (R123, R193, R223): the descriptors and translations are then held. -/
def State.resolves (s : State) : Instr → List Word
  | .hld _ h _ _ | .hst _ h _ _ | .hlds _ h _ _ | .hsts _ h _ _ | .hinfo _ h _ _ | .hvadd _ h _ _ | .hvmax _ h _ _
  | .haadd _ h _ _ _ | .hamax _ h _ _ _ | .hamin _ h _ _ _ | .hamaxn _ h _ _ _ | .haminn _ h _ _ _ | .haand _ h _ _ _
  | .haor _ h _ _ _ | .haxor _ h _ _ _ | .haswp _ h _ _ _ | .hacas _ h _ _ _ | .hfadd _ h _ _ _ | .hfamax _ h _ _ _
  | .hfamin _ h _ _ _ => [s.getX h]
  | .fget _ _ | .sbind _ => [s.core.arch.getStg 0 0]
  | .cput _ _ => [s.core.arch.getStg 1 0]
  | .cmov _ => [s.core.arch.getStg 1 0, s.core.arch.getStg 1 7]
  | .sld _ o | .sst _ o => (match spillTierX s.core.tk.carve o.toNat with | .overflow _ => s.spillObject | _ => [])
  | .vsld _ o | .vsst _ o => (match spillTierV s.core.tk.carve o.toNat with | .overflow _ => s.spillObject | _ => [])
  | _ => []

/-- RESOLUTION_COMPLETE (R193): the word at issue may go on. -/
def execResolutionComplete (core : Nat) (s : State) : Host.Outcome State Fault Refusal :=
  s.event fun s => s.onFocus core fun s =>
    match s.core.asking.map decodeWord with
    | some (.ok (_, i)) => ((s.resolves i).foldl State.learn s).onCore fun c =>
        { c with asking := none, resolved := true, xlate := (c.xlate ++ (s.resolves i).map hKey).eraseDups }
    | _ => s

end Sys2Proof.Machine
end

