-- ==== Sys2Proof/Machine/Recovery.lean ====
section
/-! DEFINITION. Control of a core from outside it (R317..R330): pre-emption and the collector, context save and restore,
resumption, rollback, discard, automatic recovery, thermal gating's slower core clock (R379), and the ends that Lovage gives
to tasks and regions: the fault policies (R292), abandonment (R293) and teardown (R311). -/

namespace Sys2Proof.Machine

open Sys2Proof

/-! ### The text and its groups (R18) -/

/-- The number of words of the group that begins at a word: it runs to the first clear chain bit; none when the text ends
before that. -/
def groupLen : List IWord → Option Nat
  | [] => none
  | w :: t => if w.getLsbD 31 then (groupLen t).map (· + 1) else some 1

/-- The address of the first word after the group at a core's program counter. -/
def Core.nextAddr (c : Core) : Nat :=
  match indexOf c.arch.pc.toNat with
  | some w => addrOf (w + ((groupLen (c.text.drop w)).getD 1))
  | none => c.arch.pc.toNat

/-! ### A core's own clock (R327, R379) -/

/-- A step whose time counts in core cycles of a core. -/
def Instr.coreTimed (i : Nat) : Instr → Bool
  | .valueArrives k _ | .resultRowPush k _ _ | .heldRowEntersQueue k _ | .weightLoadComplete k _ | .mtilePassStart k
  | .waveletCommandWrite k | .barrierDeadline k _ => k = i
  | _ => false

/-- The engine steps that a re-run repeats. -/
def Instr.engineTimed (i : Nat) : Instr → Bool
  | .resultRowPush k _ _ | .heldRowEntersQueue k _ | .weightLoadComplete k _ | .mtilePassStart k
  | .waveletCommandWrite k => k = i
  | _ => false

/-- A core loses `d` cycles: everything that its engines and its results on their way still do moves by as much. -/
def Core.lose (c : Core) (d : Nat) : Core :=
  { c with
    pend := c.pend.map fun p => { p with due := p.due + d }
    rowPend := c.rowPend.map fun p => { p with due := p.due + d }
    mcmds := c.mcmds.map fun m => { m with start := m.start + d, sigma := if m.sigma = 0 then 0 else m.sigma + d }
    wloads := c.wloads.map fun w => { w with issue := w.issue + d }
    mtile := c.mtile.map fun t => { t with sigma := t.sigma + d }
    wave := c.wave.map fun w => { w with s := w.s + d, T := w.T + d }
    pushHeld := c.pushHeld.map fun p => (p.1 + d, p.2)
    heldAt := c.heldAt + d
    fpDue := c.fpDue + d
    valueLog := c.valueLog.map fun e => if e.value.isNone then { e with issue := e.issue + d } else e
    recover := c.recover.map fun r => { r with since := r.since + d, coming := r.coming.map fun p => (p.1 + d, p.2) }
    issueAt := c.issueAt + d }

def State.reAgenda (s : State) (p : Instr → Bool) (d : Nat) : State :=
  let move (e : Nat × Instr) : Nat × Instr := if p e.2 then (e.1 + 16 * d, e.2) else e
  { s with agenda := (s.agenda.map move).foldl (fun l e => agendaPut l e.1 e.2) [] }

/-- A deadline inside a word that acts later moves with it. -/
def LzOp.later (d : Nat) : LzOp → LzOp
  | .opens b n e t => .opens b n e (t + d)
  | .inits e t => .inits e (t + d)
  | o => o

/-- Thermal gating takes one cycle from every core of a die; deadlines of its barriers count core cycles too (R379). DEDUCED: notes/assumptions/40.md. -/
def State.gateCycle (s : State) (die : Nat) : State :=
  s.cores.foldl (fun s c =>
    if c.isSys || dieOfCore c.id ≠ die then s
    else
      (s.modCore c.id fun c => { c.lose 1 with
        pairs := c.pairs.map fun p => if p.bar = .armed then { p with deadline := p.deadline + 1 } else p
        pairPend := c.pairPend.map fun p => (p.1 + 1, p.2.1, LzOp.later 1 p.2.2) }).reAgenda (Instr.coreTimed c.id) 1) s

/-! ### Stopping (R319..R321) -/

/-- STOP (R318): a core that runs, or is halted, begins to stop; `tend` already issued goes on (R320). A request for
resolution that is under way is dropped, and commands that have not started wait for the resumption (R245). -/
def State.stopCore (s : State) (i : Nat) : State :=
  let c := s.coreOf i
  if c.isSys || (c.state ≠ .running && c.state ≠ .halted) || c.ending then s
  else
    let sync := match c.asking.map decodeWord with | some (.ok (_, w)) => Instr.syncWord w | _ => false
    let s := s.unsched fun e => match e with
      | .channelCommandStart k _ _ => k = i
      | .resolutionComplete k => k = i && !sync
      | _ => false
    s.modCore i fun c =>
      { c with state := .stopping, wasHalt := c.state == .halted, clack := 0, resumeAt := none,
               asking := if sync then c.asking else none, resolved := false }

/-- STOP (R318, R319). -/
def execStop (core : Nat) (s : State) : Host.Outcome State Fault Refusal := s.event fun s => s.stopCore core

def chansStopped (l : List Chan) : Bool := l.all fun q => q.queue.all fun x => !x.started

/-- The acknowledgements of the nine units, bit 0 first (R319). The matrix engine has run its commands, stands between passes of
an `mtile` whose rows are written, or has nothing left but pushes behind a held row, which the context holds (R172). -/
def State.acks (s : State) (c : Core) : BitVec 9 :=
  let tile (m : MCmd) : Bool := m.tile && (match c.mtile with | some t => t.paused | none => false) &&
    (m.sigma == 0 || decide (m.sigma + 17 + m.mrows ≤ s.cycle))
  let stuck (m : MCmd) : Bool := c.held && decide (m.left ≤ (c.pushHeld.filter fun p => p.2.1 = m.seq).length)
  let l : List Bool := [
    c.pend.isEmpty && c.rowPend.isEmpty,
    c.varOut == 0,
    c.asking.isNone,
    (c.mcmds.all fun m => m.left == 0 || tile m || stuck m) && c.wloads.all fun w => !w.cmd,
    chansStopped c.fe.toList && chansStopped c.cp.toList,
    !(s.isSched fun e => match e with | .streamVectorFetched k _ => k = c.id | _ => false),
    (match c.wave with | none => true | some w => w.stop.isSome),
    (c.pairs.toList.all fun p => p.bar != .armed) && c.pairPend.isEmpty,
    c.recover.isNone]
  BitVec.ofNat 9 (packNat 1 (l.map fun b => if b then 1 else 0))

/-- A stopping core at the end of a cycle: the wavelet engine stops at the end of its level (R142), and the collector is done
in the cycle after the last acknowledgement. -/
def State.pollStop (s : State) (c : Core) : State :=
  if c.state ≠ .stopping then s
  else
    let s := match c.wave with
      | some w =>
        if w.stop.isNone ∧ w.stopAt s.cycle = some s.cycle then
          (s.unsched fun e => match e with | .waveletCommandWrite k => k = c.id | _ => false).modCore c.id fun c =>
            { c with wave := some { w with stop := some (w.T - s.cycle) } }
        else s
      | none => s
    let a := s.acks (s.coreOf c.id)
    let s := s.modCore c.id fun c => { c with clack := a }
    if a = BitVec.allOnes 9 ∧ !(s.isSched fun e => match e with | .collectorDone k => k = c.id | _ => false) then
      s.sched (s.cycle + 1) ptLand (.collectorDone c.id)
    else s

/-- COLLECTOR_DONE (R319, R321): STOPPED, with a checkpoint that holds a paused `mtile` and a stopped wavelet command
(R61). Loads that a paused `mtile` began are dropped: it reloads on resumption (R172). -/
def execCollectorDone (core : Nat) (s : State) : Host.Outcome State Fault Refusal :=
  s.event fun s =>
    if (s.coreOf core).state ≠ .stopping then s
    else
      let s := s.unsched fun e => match e with | .weightLoadComplete k _ => k = core | _ => false
      let s := s.modCore core fun c =>
        { (c.wloads.foldl (fun c w => c.modSlot w.slot fun sl => { sl with state := .empty, gran := 0, image := [] }) c) with
          wloads := [], state := .stopped }
      let s := s.takeCkpt core (s.coreOf core).arch.pc
      (s.modCore core fun c => { c with
        ckptTile := c.mtile.bind fun t => (c.mcmds.find? fun m => m.seq = t.seq).map fun m => (t, m)
        ckptWave := c.wave }).sysPend 5

/-! ### Resuming (R40, R142, R172, R245, R318) -/

/-- Whether a stream's walker has vectors to bring (R241). -/
def VStream.walking (v : VStream) : Bool := v.bound && decide (v.next < v.total) && decide (v.buf.length < 4) && v.err.isNone

/-- The walkers of a core that nothing drives fetch again. -/
def State.resumeStreams (s : State) (i : Nat) : State :=
  (List.range 8).foldl (fun s n =>
    let mine := fun e => match e with | Instr.streamVectorFetched k q => k == i && q == n | _ => false
    if (vget (s.coreOf i).streams n {}).walking && !s.isSched mine then s.schedFree .stream 1 ptPush (.streamVectorFetched i n)
    else s) s

/-- A paused `mtile` reloads the slot of its next pass, and a stopped wavelet command writes after the cycles that remained. -/
def State.resumeUnits (s : State) (i : Nat) : State :=
  let c := s.coreOf i
  let s := match c.mtile with
    | some t =>
      let depth := ((classB t.mfmt).getD .h16).depth
      if t.paused then
        let s := s.modCore i fun c => { c with mtile := some { t with paused := false, sigma := s.cycle + 2 } }
        s.onFocus i fun s => s.streamInto (t.slot + t.next % 2) t.mfmt t.hnd t.n0 (t.k0 + t.next * depth) t.ver false
      else s
    | none => s
  let s := match c.wave with
    | some w =>
      match w.stop with
      | some r =>
        (s.modCore i fun c => { c with wave := some { w with stop := none, s := w.s + (s.cycle + r) - w.T, T := s.cycle + r } }).sched (s.cycle + r) ptWave
          (.waveletCommandWrite i)
      | none => s
    | none => s
  s

/-- The engines of a core go on: the matrix and wavelet engines, unstarted commands, pushed again in order, and the stream walkers. -/
def State.resumeEngines (s : State) (i : Nat) : State :=
  let s := s.resumeUnits i
  let again (s : State) (copy : Bool) : State :=
    (List.range 16).foldl (fun s n =>
      let waiting := ((s.coreOf i).chan copy n).queue.filter fun x => !x.started
      let starts := fun e => match e with | Instr.channelCommandStart k b m => k == i && b == copy && m == n | _ => false
      if waiting.isEmpty || s.isSched starts then s
      else
        let s := s.modCore i fun c => c.modChan copy n fun q =>
          { q with queue := q.queue.map fun x => if x.started then x else { x with again := true } }
        waiting.foldl (fun s _ => s.schedFree .channel 1 ptPush (.channelCommandStart i copy n)) s) s
  (again (again s false) true).resumeStreams i

/-- Whether RESUME and its relatives are allowed. -/
def Core.mayResume (c : Core) : Bool := !c.isSys && (c.state == .halted || c.state == .stopped) && !c.discarding

/-- A HALTED or STOPPED core issues again at an address: every fixed result lands first, and values that are still outstanding
are waited for, so that the resumed group finds their registers full (R40), and so is an L2 that holds the request for the text (R272). -/
def State.resumeTo (s : State) (i : Nat) (pc : Word) : State :=
  if !(s.coreOf i).mayResume then s
  else if (s.coreOf i).varOut ≠ 0 || s.textHeld (s.coreOf i) then s.modCore i fun c => { c with resumeAt := some pc }
  else
    (s.modCore i fun c =>
      let c := c.settled s.cycle
      { c with state := .running, wasHalt := false, arch := { c.arch with pc := pc }, issueAt := s.cycle + 1,
               raised := none, taken := none, loopsNext := none, vout := none, resolved := false, accepted := none,
               asking := none, resumeAt := none, wanted := [] }).resumeEngines i |>.resumeHeld i |>.loadText i

/-- A resumption that waited for values goes on once they have arrived. -/
def State.pollResume (s : State) (c : Core) : State :=
  match c.resumeAt with
  | some pc => if c.varOut = 0 && !s.textHeld c then s.resumeTo c.id pc else s
  | none => s

/-- CCTL RESUME (R318): at PC. -/
def execCctlResume (core : Nat) (s : State) : Host.Outcome State Fault Refusal :=
  s.event fun s => s.resumeTo core (s.coreOf core).arch.pc

/-- NPC of the fault record. -/
def Core.npc (c : Core) : Word := BitVec.ofNat 64 (c.frec.toNat / 2 ^ 224 % 2 ^ 32)

/-- CCTL RESUME_NEXT (R318). -/
def execResumeNext (core : Nat) (s : State) : Host.Outcome State Fault Refusal :=
  s.event fun s => s.resumeTo core (s.coreOf core).npc

/-- CCTL RESUME_AT (R318): an RPC with low bits 0b11 names no word, and the core halts again at once. -/
def execResumeAt (core : Nat) (s : State) : Host.Outcome State Fault Refusal :=
  s.event fun s =>
    let c := s.coreOf core
    if c.mayResume ∧ c.rpc.toNat % 4 = 3 then
      s.onFocus core fun s => s.halt ⟨0x01, 0, 0⟩ c.rpc.toNat c.rpc.toNat 0
    else s.resumeTo core c.rpc

/-! ### Rollback (R318, R324, R326) -/

/-- A value on its way that a rolled-back core no longer waits for. -/
def State.dropStale (s : State) (i : Nat) (a : Arch) : State := s.unsched fun e => Instr.staleArrival i a e

/-- The core returns to its last checkpoint: matrix and wavelet commands in flight are discarded, the rows that the core and
those engines wrote since then return, channels, streams, zones, events and pins stay (R324). A request of the word at issue is
dropped, but in a recovery, which comes back to that word. -/
def State.restoreCkpt (s : State) (i : Nat) (again : Bool := false) : State :=
  let s := s.unsched fun e => Instr.engineTimed i e ||
    (match e with | .resolutionComplete k | .syncRequestAccepted k => k = i && !again | _ => false)
  let s := s.dropStale i (s.coreOf i).ckpt
  let waits := (s.agenda.filter fun e => match e.2 with | .valueArrives k _ => k = i | _ => false).length
  s.modCore i fun c =>
    let a := c.ckpt
    { (c.undoRows fun e => e.ofInterval c.interval).putLate c.ckptLate with
      arch := a, pend := [], rowPend := [], pushHeld := [], mwaits := [],
      mcmds := c.ckptTile.toList.map (·.2), mtile := c.ckptTile.map (·.1), wloads := [], wave := c.ckptWave,
      ovf := none, merr := none, taken := none, loopsNext := none, vout := none, ckptDue := false, groups := 0,
      resolved := c.resolved && again, accepted := if again then c.accepted else none,
      asking := if again then c.asking else none, valueLog := if again then c.valueLog else [],
      varOut := waits + (c.lzresOut.filter fun r => !a.fullX r).length + (c.gkickOut.filter fun r => !a.fullX r).length }

/-- ROLLBACK: the last checkpoint, and issue from the group after it. -/
def State.rollbackCore (s : State) (i : Nat) : State :=
  if (s.coreOf i).mayResume then (s.restoreCkpt i).resumeTo i (s.coreOf i).ckpt.pc else s

/-- CCTL ROLLBACK (R318). -/
def execRollback (core : Nat) (s : State) : Host.Outcome State Fault Refusal := s.event fun s => s.rollbackCore core

/-! ### Save and restore (R322, R323) -/

/-- The save area at CTXA: bits [51:46] are ignored, and it is 64 KiB aligned (R317). -/
def Core.saveArea (c : Core) : Nat := c.ctxa.toNat % 2 ^ 46 / 65536 * 65536

/-- Bytes of the image (R322). -/
def Core.imageBytes (c : Core) : Nat :=
  let t := c.tk
  512 * (t.rows + t.carve + c.arch.acc.length + (c.arch.slots.toList.foldl (fun n w => n + w.gran) 0) +
    (c.arch.rq.toList.foldl (fun n q => n + q.length) 0) + (c.arch.hold.toList.filter Option.isSome).length) + 65536 + 131072

/-- A page that Lovage has not placed before, in HBM or in LPDDR-6, as space and offset. DESIGN CHOICE: notes/assumptions/11.md. -/
def State.takePage (s : State) (lpd : Bool) : Nat × State :=
  ((if lpd then 2 ^ 44 + (Config.lovagePage 1 + s.nextPage) % 2 ^ 25 * 65536
    else (Config.lovagePage 0 + s.nextPage) % 2 ^ 24 * 65536), { s with nextPage := s.nextPage + 1 })

/-- A free save area for a core's context (R322), which Lovage chooses before it has the core collected and saved. -/
def State.saveAreaFor (s : State) (i : Nat) : State :=
  let (b, s) := s.takePage false
  let n := ((s.coreOf i).imageBytes + 65535) / 65536
  { s with nextPage := s.nextPage + n }.modCore i fun c => { c with ctxa := BitVec.ofNat 64 b, errand := 1 }

/-- The lines of an image: the first, and how many. -/
def Image.lines (im : Image) (area : Nat) : Nat × Nat := (im.ctx.tk.part * 2 ^ 40 + area / 64, (im.ctx.imageBytes + 63) / 64)

/-- The bytes of an image are written, under the partition's key id (R322, R323). -/
def State.writeImage (s : State) (im : Image) (area : Nat) : State :=
  let (n0, n) := im.lines area
  (List.range n).foldl (fun s i => s.ctxWrite (dieOfCore im.ctx.id) (n0 + i) (Config.imageLine im.num i)) s

/-- Whether an image reads as it was written: its key is the one that it was written under, and no byte of it has changed. -/
def State.imageReads (s : State) (im : Image) (area : Nat) : Bool :=
  let (n0, n) := im.lines area
  s.keyLive im.ctx.tk.part && s.keyTag im.ctx.tk.part == im.tag && !s.refusedAt im.ctx.id ⟨n0 * 64, 0, false⟩ &&
    (List.range n).all fun i => s.peekLine (n0 + i) == Config.imageLine im.num i

/-- A restore reads the image back through the die's L2. -/
def State.readImage (s : State) (im : Image) (area : Nat) : State :=
  let (n0, n) := im.lines area
  (List.range n).foldl (fun s i =>
    (s.haveL2 (dieOfCore im.ctx.id) (n0 + i) 2 false false false (some im.ctx.id)).2) s

/-- The mark under which a save area's pins stand while no core holds the task. DEDUCED: notes/assumptions/22.md. -/
def savedId (area : Nat) : Nat := 1024 + area / 65536

def State.movePins (s : State) (from_ to_ : Nat) : State :=
  { s with pinned := s.pinned.map fun p => if p.1 = from_ then (to_, p.2) else p }

/-- A stopped core's context begins to be saved; Lovage also collects the task of a RETIRED core (R292, R327). -/
def State.saveCore (s : State) (i : Nat) : State :=
  let c := s.coreOf i
  let saving := fun e => match e with | Instr.saveComplete k => k == i | _ => false
  if c.isSys || (c.state ≠ .stopped && c.state ≠ .retired) || c.task.isNone || c.discarding || s.isSched saving then s
  else
    let (d, s) := s.draw .physical
    s.sched (s.cycle + c.imageBytes / 256 + 1 + d % 3400) ptEnd (.saveComplete i)

/-- CCTL SAVE (R318). -/
def execSave (core : Nat) (s : State) : Host.Outcome State Fault Refusal :=
  s.event fun s => if (s.coreOf core).state = .stopped then s.saveCore core else s

/-- SAVE_COMPLETE (R322, R323): the image stands in the save area, and the core holds no task. Inputs that were being
fetched are fetched again after the restore (R320). No pair's generation rises (R247). An L2 that holds new requests holds its last
lines (R272). -/
def execSaveComplete (core : Nat) (s : State) : Host.Outcome State Fault Refusal :=
  s.memoryEvent core (.saveComplete core) fun s =>
    let c := s.coreOf core
    if (c.state ≠ .stopped && c.state ≠ .retired) || c.task.isNone then s
    else
      let ctx := { c with wasHalt := c.wasHalt || c.state == .retired, fetching := false, inputsIn := [], inputErr := none }
      let im : Image := { tag := s.keyTag c.tk.part, num := s.fresh, ctx }
      let s : State := { s with saves := mput s.saves c.saveArea im, fresh := s.fresh + 1 }
      let s := ((s.writeImage im c.saveArea).movePins core (savedId c.saveArea)).modCore core fun d => { d with pins := [] }
      (s.freeCore core .idle).modCore core fun d =>
        { d with state := if c.state = .retired then .retired else .saved, pairs := c.pairs.map fun p => { gen := p.gen } }

/-- RESTORE (R318): into a core that holds no task. -/
def State.restoreCore (s : State) (i : Nat) : State :=
  let c := s.coreOf i
  let loading := fun e => match e with | Instr.restoreComplete k => k == i | _ => false
  if c.isSys || (c.state ≠ .idle && c.state ≠ .saved) || c.task.isSome || s.isSched loading then s
  else
    match mget s.saves c.saveArea with
    | none => s
    | some im =>
      if im.ctx.id ≠ i then s
      else
        let (d, s) := s.draw .physical
        s.sched (s.cycle + im.ctx.imageBytes / 256 + 1 + d % 3400) ptEnd (.restoreComplete i)

/-- CCTL RESTORE (R318). -/
def execRestore (core : Nat) (s : State) : Host.Outcome State Fault Refusal := s.event fun s => s.restoreCore core

/-- A saved task ends unretired (R318): its pins are released, its armed events go, its image is forgotten, and it is
recorded ABANDONED (R293). -/
def State.discardImage (s : State) (area : Nat) : State :=
  match mget s.saves area with
  | none => s
  | some im =>
    let id := savedId area
    let keys := ((s.pinned.filter fun p => p.1 = id).map fun p => p.2.1).eraseDups
    let s := { s with pinned := s.pinned.filter fun p => p.1 ≠ id, saves := mdel s.saves area }
    let t := im.ctx.tk
    let s := (keys.foldl (fun s k => (s.setVpin k).dropVersions k) s).unpinFar t.part im.ctx.id im.ctx.pins
    s.taskEnd t.rid t.replay t.node t.tile true

/-- A context as it stands above an object carve-out of n rows, which may have changed since the save: its window begins there (R115,
R280). -/
def Core.rebased (c : Core) (n : Nat) : Core :=
  let t := c.tk
  let to_ (r : Nat) : Nat := if t.base ≤ r ∧ r < t.base + t.rows then r - t.base + n else r
  let move (l : List (Nat × Row)) : List (Nat × Row) := l.map fun r => (to_ r.1, r.2)
  { c with
    task := some { t with base := n }, objRows := n
    rows := move (c.rows.filter fun r => decide (c.objRows ≤ r.1))
    rowPend := c.rowPend.map fun p => { p with row := to_ p.row }, ckptLate := move c.ckptLate, phaseLate := move c.phaseLate
    rowLog := c.rowLog.map fun e => { e with row := to_ e.row } }

/-- Whether a task's rows find room beside the HOME 11 pages that the core now holds (R280). -/
def State.rowsFit (s : State) (t : Task) (core : Nat) : Bool := decide (t.rows + t.carve + s.objectRows core ≤ 8192)

/-- RESTORE_COMPLETE (R322, R323): an image that no longer reads under its key enters no task state, and its task is
abandoned. DESIGN CHOICE: so is the task of an image whose bytes have been changed, since only the device knows what they mean
(notes/assumptions/22.md). An L2 that holds new requests holds its last lines (R272), and an image whose rows find no room beside the
core's object carve-out waits for Lovage to release pages, as a task does that is to start (R280). A task that was HALTED is so
again, and Lovage, which had not answered its fault, looks at it (R292, R320). -/
def execRestoreComplete (core : Nat) (s : State) : Host.Outcome State Fault Refusal :=
  s.memoryEvent core (.restoreComplete core) fun s =>
    let c := s.coreOf core
    match mget s.saves c.saveArea with
    | none => s
    | some im =>
      if c.task.isSome then s
      else if !s.imageReads im c.saveArea then
        (s.discardImage c.saveArea).modCore core fun c => { c with state := .idle }
      else if !s.rowsFit im.ctx.tk core then s.sched (s.cycle + 1) ptEnd (.restoreComplete core)
      else
        let n := s.objectRows core
        let s : State := { s.readImage im c.saveArea with saves := mdel s.saves c.saveArea }
        let s := (s.movePins (savedId c.saveArea) core).wakeL1 core
        let c := s.coreOf core
        let ctx := im.ctx.rebased n
        let s := s.putCore { ctx with
          state := if ctx.wasHalt then .halted else .stopped, credits := c.credits, aging := c.aging, ltime := c.ltime,
          l1 := c.l1, l1sleep := c.l1sleep, xlate := c.xlate, remap := c.remap, ctxa := c.ctxa, errand := c.errand, rpc := c.rpc,
          padPend := c.padPend, rows := c.rows.filter (fun r => decide (r.1 < ctx.objRows)) ++ ctx.rows }
        if ctx.wasHalt then s.callLovage core else s

/-! ### Discarding (R293, R318) -/

/-- The core's task ends unretired: unstarted commands go without report, started ones run to completion, a paused `mtile` and a
stopped wavelet command among them. -/
def State.discardCore (s : State) (i : Nat) : State :=
  let c := s.coreOf i
  if c.task.isNone || c.discarding then s
  else
    let s := s.unsched fun e => match e with
      | .channelCommandStart k _ _ | .collectorDone k | .saveComplete k | .recoveryComplete k _ | .phaseInputFetch k _
      | .phaseStart k | .resolutionComplete k => k = i
      | _ => false
    let keep (q : Chan) : Chan := { q with queue := q.queue.filter (·.started) }
    (s.modCore i fun c =>
      { c with state := if c.state = .halted then .halted else .stopped, discarding := true, fe := c.fe.map keep, cp := c.cp.map keep,
               waiting := false, ending := false, asking := none, recover := none, resumeAt := none, mwaits := [],
               streams := Vector.replicate 8 {} }).resumeUnits i

/-- Whether every started command of a discarded task has completed. -/
def Core.drained (c : Core) : Bool :=
  (c.fe.toList.all fun q => q.queue.isEmpty) && (c.cp.toList.all fun q => q.queue.isEmpty) &&
  c.matrixIdle && c.wave.isNone

/-- CCTL DISCARD (R318). -/
def State.discardCmd (s : State) (i : Nat) : State :=
  let c := s.coreOf i
  if c.isSys then s
  else if c.state = .halted ∨ c.state = .stopped then s.discardCore i
  else if c.state = .idle ∨ c.state = .saved then
    (s.discardImage c.saveArea).modCore i fun c => { c with state := .idle }
  else s

/-- CCTL DISCARD (R318). -/
def execDiscard (core : Nat) (s : State) : Host.Outcome State Fault Refusal := s.event fun s => s.discardCmd core

/-- DISCARD_COMPLETE (R293, R318): zones closed, pins released, events ABANDONED, rows returned, the task recorded. -/
def execDiscardComplete (core : Nat) (s : State) : Host.Outcome State Fault Refusal :=
  s.event fun s =>
    let c := s.coreOf core
    if !c.discarding then s
    else (s.freeCore core .abandoned).taskEnd c.tk.rid c.tk.replay c.tk.node c.tk.tile true

def State.pollDiscard (s : State) (c : Core) : State :=
  let ends := fun e => match e with | Instr.discardComplete k => k == c.id | _ => false
  let s := s.dropHeld c.id
  let c := s.coreOf c.id
  if c.discarding && c.drained && !s.isSched ends then s.sched s.cycle ptEnd (.discardComplete c.id) else s

/-- A write to XREG i of a core's control block (R318). -/
def State.xregWrite (s : State) (core : Nat) (r : XReg) (w : Word) : State :=
  let c := s.coreOf core
  if c.isSys || (c.state ≠ .halted && c.state ≠ .stopped) then s
  else s.modCore core fun c =>
    { c with arch := (c.arch.setX r w).markX r true, pend := c.pend.filter fun p => !p.hitsX r }

/-- XREG_WRITE (R318). -/
def execXregWrite (core : Nat) (r : XReg) (w : Word) (s : State) : Host.Outcome State Fault Refusal :=
  s.event fun s => s.xregWrite core r w

/-! ### Automatic recovery (R327, R330) -/

/-- The values that are on their way to a core reach its value log, with the delays that they will have had (R326). -/
def State.settleLog (s : State) (i : Nat) : State :=
  let vals := s.agenda.filterMap fun e => match e.2 with
    | .valueArrives k a => if k = i then some (e.1 / 16, a) else none
    | _ => none
  s.modCore i fun c => { c with valueLog := vals.foldl (fun l p => logFill p.2 p.1 l) c.valueLog }

/-- A re-run begins: the checkpoint stands again, and what it holds of an `mtile` or a wavelet command goes on (R61, R327). -/
def State.rerun (s : State) (i : Nat) (f : Recovery → Recovery) : State :=
  (((s.settleLog i).restoreCkpt i true).modCore i fun c =>
    { c with waiting := false, ending := false, issueAt := s.cycle + 1,
             recover := c.recover.map fun r => { f r with since := s.cycle + 1, next := 0, regs := [], rows := [], coming := [] } }).resumeUnits i

/-- The recovery of R327 starts: the core stops issue, every matrix and wavelet command in flight is discarded, and after a free time
the checkpoint is restored. An error that a re-run finds makes the re-runs disagree. DEDUCED: notes/assumptions/24.md. -/
def State.startRecovery (s : State) (i : Nat) (cause : BitVec 8) (info aux : Word) : State :=
  let c := s.coreOf i
  match c.recover with
  | some _ => s.modCore i fun c => { c with recover := c.recover.map fun r => { r with bad := r.bad || r.run ≠ 0 } }
  | none =>
    if c.isSys || c.task.isNone || c.discarding || (c.state ≠ .running && c.state ≠ .stopping && c.state ≠ .halted) then s
    else
      let (d, s) := s.draw .recovery
      (s.unsched (Instr.engineTimed i)).modCore i fun c =>
        { c with
          state := .recovering, mcmds := [], wloads := [], mtile := none, wave := none, pushHeld := [], mwaits := [],
          recover := some { pc := c.arch.pc, back := c.state, cause, info, aux, endAt := c.groups, since := s.cycle + 1 + d } }

/-- A re-run has reached the end point, or failed: the second run follows the first, and after it the two are compared: they agree when
their counts of cycles and all their writes are equal. -/
def State.endRun (s : State) (i : Nat) (r : Recovery) : State :=
  let count := s.cycle - r.since
  if r.bad then s.sched s.cycle ptEnd (.recoveryComplete i false)
  else match r.first with
    | none => s.rerun i fun r => { r with run := 2, first := some (count, r.regs, r.rows) }
    | some w => s.sched s.cycle ptEnd (.recoveryComplete i (w == (count, r.regs, r.rows)))

/-- What a recovering core does at the end of a cycle. -/
def State.pollRecover (s : State) (c : Core) : State :=
  let ends := fun e => match e with | Instr.recoveryComplete k _ => k == c.id | _ => false
  match c.recover with
  | none => s
  | some r =>
    if s.isSched ends then s
    else if r.run = 0 then (if r.since ≤ s.cycle then s.rerun c.id fun r => { r with run := 1 } else s)
    else if r.bad || decide (r.endAt ≤ c.groups) then s.endRun c.id r
    else s

def matrixErrCode : MatrixErr → Word
  | .parity => 1 | .residue => 2 | .accEcc => 3

/-- MATRIX_DATA_ERROR (R327). -/
def execMatrixDataError (core : Nat) (kind : MatrixErr) (addr : Word) (s : State) : Host.Outcome State Fault Refusal :=
  s.event fun s => s.startRecovery core 0x17 addr (matrixErrCode kind)

/-- LOCKSTEP_MISMATCH (R330): only in delayed lockstep. -/
def execLockstepMismatch (core cluster : Nat) (addr : Word) (s : State) : Host.Outcome State Fault Refusal :=
  s.event fun s => if (s.coreOf core).tk.lock then s.startRecovery core 0x16 addr (BitVec.ofNat 64 cluster) else s

/-- RECOVERY_COMPLETE (R327): the state that the second re-run left stands, and issue continues at the end point; or the core halts
RETIRED with its record, every matrix and wavelet command discarded. -/
def execRecoveryComplete (core : Nat) (agree : Bool) (s : State) : Host.Outcome State Fault Refusal :=
  s.event fun s =>
    let c := s.coreOf core
    match c.recover with
    | none => s
    | some r =>
      if agree then
        s.modCore core fun c => { c with recover := none, retries := c.retries + 1, state := r.back }
      else
        let s := (s.unsched (Instr.engineTimed core)).modCore core fun c => { c with arch := { c.arch with pc := r.pc } }
        (s.onFocus core fun s => s.halt ⟨r.cause, r.info, r.aux⟩ r.pc.toNat s.core.nextAddr 0).modCore core fun c =>
          { c with recover := none, state := .retired, mcmds := [], wloads := [], mtile := none, wave := none, raised := none,
                   waiting := false, ending := false }

/-! ### Abandonment and teardown (R292, R293, R311) -/

/-- A core's task is abandoned: its core discards it. -/
def State.abandonCore (s : State) (i : Nat) : State := s.discardCore i

/-- The save areas whose tasks stand in a region's subtree. -/
def State.savedIn (s : State) (rid : Nat) : List Nat :=
  (s.saves.filter fun p => s.isIn p.2.ctx.tk.rid rid).map (·.1)

/-- A replay that holds a task kept under the STOP policy: its entry stays RUNNING (R292). -/
def State.heldReplay (s : State) (r : Replay) : Bool :=
  s.tasks.any fun t => t.rid = r.rid && t.replay = r.replay && t.st == .held

/-- Created tasks of a subtree that have not started, and nodes not yet created, are recorded ABANDONED; unfired replay
events are ABANDONED; replay entries get their state (R311). -/
def State.dropUnstarted (s : State) (rid : Nat) (st : RState) : State :=
  let ts := s.tasks.filter fun t => t.st == .created && s.isIn t.rid rid
  let mark (r : Replay) : Replay :=
    if s.isIn r.rid rid && r.inFlight && !(st == .drained && s.heldReplay r) then
      { r with st := if r.st = .abandoned then r.st else st }
    else r
  let s := { s with replays := s.replays.map mark }
  let s := ts.foldl (fun s t => s.taskEnd t.rid t.replay t.node t.tile true) s
  s.replays.foldl (fun s r =>
    if !s.isIn r.rid rid then s
    else
      let s := (List.range r.nodes.length).foldl (fun s i =>
        if ((s.replay? r.rid r.replay).bind fun r => r.nodes[i]?) = some .waiting then s.nodeEnd r.rid r.replay i true else s) s
      s.modReplay r.rid r.replay fun r =>
        (List.range 256).foldl (fun r e => if 64 ≤ e ∧ r.event e = .idle then r.endEvent e .abandoned else r) r) s

/-- The subtree's regions take a STATE. -/
def State.setRegions (s : State) (rid : Nat) (st : BitVec 2) : State :=
  { s with regions := s.regions.map fun r => if s.isIn r.rid rid && r.st ≠ 3 then { r with st := st } else r }

/-- Whether a task kept under the STOP policy is this one. -/
def State.heldTask (s : State) (rid n node tile : Nat) : Bool :=
  s.tasks.any fun t => t.rid = rid && t.replay = n && t.node = node && t.tile = tile && t.st == .held

/-- The image of a saved task that is not held. -/
def State.resumable (s : State) (area : Nat) : Bool :=
  match mget s.saves area with
  | some im => !s.heldTask im.ctx.tk.rid im.ctx.tk.replay im.ctx.tk.node im.ctx.tk.tile
  | none => false

/-- Lovage restores a saved task on its core, and lets it run once it is there. -/
def State.restoreArea (s : State) (area : Nat) : State :=
  match mget s.saves area with
  | some im => (s.modCore im.ctx.id fun c => { c with ctxa := BitVec.ofNat 64 area, errand := 2 }).restoreCore im.ctx.id
  | none => s

/-- DRAIN of a region's subtree (R311): saved tasks are resumed. -/
def State.drain (s : State) (rid : Nat) : State :=
  if s.regions.all fun r => !s.isIn r.rid rid || r.st ≠ 1 then s
  else
    let s := (s.setRegions rid 2).dropUnstarted rid .drained
    (s.savedIn rid).foldl (fun s a => if s.resumable a then s.restoreArea a else s) s

/-- ABORT of a region's subtree (R311). -/
def State.abort (s : State) (rid : Nat) : State :=
  let mark (r : Replay) : Replay := if s.isIn r.rid rid && r.inFlight && r.st == .drained then { r with st := .abandoned } else r
  let s := { s with replays := s.replays.map mark }
  let s := (s.setRegions rid 2).dropUnstarted rid .abandoned
  let s := (s.savedIn rid).foldl (fun s a => s.discardImage a) s
  (s.cores.filter fun c => c.task.isSome && s.isIn c.tk.rid rid).foldl (fun s c => s.abandonCore c.id) s

/-- Tasks of a subtree that still run: they hold a core, or wait SAVED to be resumed. -/
def State.busyIn (s : State) (rid : Nat) : Bool :=
  (s.cores.any fun c => c.task.isSome && s.isIn c.tk.rid rid &&
    !s.heldTask c.tk.rid c.tk.replay c.tk.node c.tk.tile) || (s.savedIn rid).any s.resumable

/-- What Lovage does next with a core for a host command: it saves a stopped core, resumes a restored one. -/
def State.pollErrand (s : State) (c : Core) : State :=
  let done (s : State) : State := s.modCore c.id fun c => { c with errand := 0 }
  if c.errand = 1 then
    (if c.task.isNone then done s
     else if c.state = .stopped then s.saveCore c.id
     else if c.state = .running || c.state = .halted then s.stopCore c.id else s)
  else if c.errand = 2 then
    (if c.task.isSome && c.state = .stopped then done (s.resumeTo c.id c.arch.pc)
     else if c.task.isSome || (mget s.saves c.saveArea).isNone then done s else s.restoreCore c.id)
  else s

/-- Saved tasks that Lovage has to resume, for a DRAIN (R311) or a RESUME (R355), are restored as their cores come free. -/
def State.pollSaved (s : State) : State :=
  let wanted (rid : Nat) : Bool :=
    ((s.region? rid).any fun r => r.st = 2) ||
    s.windows.any fun w => w.2.st = 1 && w.2.opc = 0x0F && s.isIn rid (vget w.2.args 0 0).toNat
  s.saves.foldl (fun s p =>
    if wanted p.2.ctx.tk.rid && s.resumable p.1 && (s.coreOf p.2.ctx.id).errand = 0 && (s.coreOf p.2.ctx.id).free then
      s.restoreArea p.1
    else s) s

/-- A draining region is stopped once its last task has ended; a held task is then collected and saved (R292). -/
def State.pollDrain (s : State) : State :=
  s.regions.foldl (fun s r =>
    if r.st ≠ 2 || s.busyIn r.rid then s
    else
      let held := s.cores.filter fun c => c.task.isSome && s.isIn c.tk.rid r.rid
      let s := held.foldl (fun s c =>
        if c.state = .halted then (s.saveAreaFor c.id).stopCore c.id
        else if c.state = .stopped then s.saveCore c.id
        else if c.state = .retired then (if s.isSched (fun e => match e with | .saveComplete k => k == c.id | _ => false) then s
          else (s.saveAreaFor c.id).saveCore c.id)
        else s) s
      if held.isEmpty then s.modRegion r.rid fun r => { r with st := 3 } else s) s

/-- The fault policy of a region, for a fault that Lovage does not resolve (R292): it is logged, and the host is notified under STOP. How
the host learns of it is not stated. DESIGN CHOICE: notes/assumptions/11.md. -/
def State.applyPolicy (s : State) (i : Nat) : State :=
  let c := s.coreOf i
  let t := c.tk
  let pol := s.effFpol t.rid
  let cause := c.frec.toNat % 256
  let s : State := if pol = 2 ∧ cause = 0x14 then s else { s with faultLog := (i, c.frec, pol == 0) :: s.faultLog }
  if pol = 2 ∧ cause = 0x14 then s.resumeTo i c.npc
  else if pol = 0 then
    let held (x : TaskRec) : TaskRec :=
      if x.rid = t.rid ∧ x.replay = t.replay ∧ x.node = t.node ∧ x.tile = t.tile then { x with st := .held } else x
    ({ s with tasks := s.tasks.map held }).drain t.rid
  else (s.modCore i fun c => { c with state := .halted }).abandonCore i

/-- A retired core's logical id is carried by the lowest spare that is still unused (R367), and its task goes on at its last
checkpoint (R327); without a spare, the fault policy applies. -/
def State.remapCore (s : State) (i : Nat) : State :=
  let die := dieOfCore i
  let cen := Config.partCen die
  match (List.range 34).find? fun p => !cen.getLsbD p && !(s.die die).spares.contains p with
  | none => s.applyPolicy i
  | some p =>
    ((s.modDie die fun d => { d with spares := p :: d.spares }).modCore i fun c => { c with remap := some p, retries := 0, state := .halted }).rollbackCore i

end Sys2Proof.Machine
end

