-- ==== Sys2Proof/Machine/Lovage.lean ====
section
/-! DEFINITION. Lovage's service of objects and cores: pages on first touch, promotion to HBM, pages for copies on write, a
larger overflow object (R186, R202, R292, R354), and the answer to a core that has stopped (R186, R292, R335). Where pages
lie is Lovage's choice: consecutive pages from a free base. -/

namespace Sys2Proof.Machine

open Sys2Proof

/-! ### Pages -/

/-- The base-die write-same: a page of zeros under a key. Every line counts for an undo log as one that is written (R332). -/
def State.zeroPage (s : State) (key base : Nat) : State :=
  let s := if (s.part? key).any fun p => p.undo.st = .opened then
      (List.range 1024).foldl (fun s i => s.undoLog (key * 2 ^ 40 + base % 2 ^ 46 / 64 + i)) s
    else s
  let a := base % 2 ^ 46
  let n := a / 64
  { s with
    mem := s.mem.filter fun c => c.1 < a || decide (a + 65536 ≤ c.1)
    lineKey := (s.lineKey.filter fun e => decide (e.1 < n)) ++ (List.range 1024).map (fun i => (n + i, s.keyTag key)) ++
      s.lineKey.filter fun e => decide (n + 1024 ≤ e.1) }

/-- Every cached copy of a page goes, dirty lines written back (R187). -/
def State.recallPage (s : State) (pa : Nat) : State :=
  (List.range 24).foldl (fun s d => s.invalidateAt d (pa / 65536 * 1024) 10) s

/-- A page's 1024 lines at a new place under the same key. -/
def State.copyPage (s : State) (key from_ to_ : Nat) : State :=
  (List.range 1024).foldl (fun s i =>
    let (l, s) := s.forwarded ((key * 2 ^ 46 + from_) / 64 + i)
    s.ctlWrite ((key * 2 ^ 46 + to_) / 64 + i) (s.peekLine l))
    (s.recallPage (key * 2 ^ 46 + from_))

/-- An 8-byte entry of a table. -/
def State.putEntry (s : State) (pa w : Nat) : State :=
  s.outerWrite ⟨pa / 64 * 64, 1, false⟩ fun m =>
    BitVec.ofNat 512 (m.toNat - m.toNat / 2 ^ (8 * (pa % 64)) % 2 ^ 64 * 2 ^ (8 * (pa % 64)) + w % 2 ^ 64 * 2 ^ (8 * (pa % 64)))

/-- A zeroed table page. -/
def State.newTable (s : State) (key : Nat) : Nat × State :=
  let (b, s) := s.takePage false
  (b, s.zeroPage key b)

/-- The table that an entry points to, made when there is none. -/
def State.tableAt (s : State) (pa : Nat) : Nat × State :=
  let e := s.peekWord pa
  if entPointer e then (pa / 2 ^ 46 * 2 ^ 46 + entAddr e, s)
  else
    let (b, s) := s.newTable (paKey pa)
    (pa / 2 ^ 46 * 2 ^ 46 + b, s.putEntry pa (b + 1))

/-- A page that is MOVING, or that stands in LPDDR-6, is served from HBM afterwards: the leaf that it then has. -/
def State.settlePage (s : State) (d : Desc) (e off : Nat) : Nat × State :=
  let flags := e % 2 ^ 13
  if paSpace (entAddr e) = 1 && !d.direct then
    let (b, s) := s.takePage false
    (b + flags, s.copyPage (entKey e) (entAddr e + off) b)
  else (entAddr e + off + flags, s)

/-- The page of byte o of an object or shard, by slot, is made resident. -/
def State.providePage (s : State) (slot o : Nat) : State :=
  let d : Desc := (mget s.descs slot).getD 0
  let (ext, s) := if d.ext = 0 then
      let (b, s) := s.newTable 0
      (b, { s with descs := mput s.descs slot (Desc.set d 384 52 b) })
    else (d.ext, s)
  let (t1, s) := s.tableAt (ext + 8 * (o / 2 ^ 30 % 512))
  let a1 := t1 + 8 * (o / 2 ^ 21 % 512)
  let e1 := s.peekWord a1
  if entV e1 && entLeaf e1 then
    let (t, s) := s.newTable (paKey t1)
    let s := (List.range 32).foldl (fun s i =>
      let (e, s) := s.settlePage d e1 (65536 * i)
      s.putEntry (t1 / 2 ^ 46 * 2 ^ 46 + t + 8 * i) e) s
    s.putEntry a1 (t + 1)
  else
    let (t2, s) := s.tableAt a1
    let a2 := t2 + 8 * (o / 2 ^ 16 % 32)
    let e2 := s.peekWord a2
    if entPage e2 then
      let (e, s) := s.settlePage d e2 0
      s.putEntry a2 e
    else
      let (b, s) := s.takePage (s.lpdFirst.contains slot)
      (s.zeroPage d.part b).putEntry a2 (b + d.part * 128 + 7)

/-- A page for the pool of an object's copies (R202). -/
def State.addPool (s : State) (slot : Nat) : State :=
  let (b, s) := s.takePage false
  { s with pool := s.pool ++ [(slot, b)] }

/-- The shard that serves byte o of an object: its entry's place in the shard map, where that stands here, and its slot. -/
def State.shardOf (s : State) (h : Word) (o : Nat) : Option Nat × Nat :=
  let d := s.desc h
  let map_ := BitVec.ofNat 64 d.shmap
  if d.shaxis = 7 then (none, hKey h)
  else
    let sh := (d.coordsAt o).getD d.shaxis 0 / d.shblk
    let at_ := if s.elsewhere map_ then none
      else (s.walk (s.desc map_).ext (8 * sh)).map fun p => entKey p.1 * 2 ^ 46 + entAddr p.1 + p.2
    (at_, shardKey (s.shardEntry d sh))

/-- The page of a kept version that has a page of its own is made resident for it (R186, R202). -/
def State.provideKept (s : State) (d : Desc) (slot page : Nat) (leaf : Word) : State :=
  let (e, s) := s.settlePage d leaf.toNat 0
  { s with kept := s.kept.map fun k =>
      if k.slot = slot && mget k.pages page == some leaf then { k with pages := mput k.pages page (BitVec.ofNat 64 e) } else k }

/-- Lovage makes byte o of an object served: its shard resident here, its page present, a page in the pool for the copy that
a write needs. Of an object homed elsewhere the home serves it; a replica that lacks it is given up. -/
def State.serveByte (s : State) (h : Word) (ver : Option Nat) (write : Bool) (o : Nat) : State :=
  if hHome h ≠ s.pkg then
    match mget s.descs (hKey h) with
    | some d => if s.locate h d ver o == .missing then
        { s with descs := mdel s.descs (hKey h), far := mput s.far (hKey h) d } else s
    | none => s
  else
    let s := if s.locate h (s.desc h) ver o == .missing then
        let (at_, slot) := s.shardOf h o
        let s := match at_ with
          | some pa =>
            let e := s.peekWord pa
            if 2 < e % 8 then s.putEntry pa (e / 8 * 8) else s
          | none => s
        let own := ver.bind fun v => (s.keptVer (hKey h) v).bind fun k => mget k.pages (o / 65536)
        if s.locate h (s.desc h) ver o == .missing && (s.holder h (s.desc h) o).isNone then
          (match own with
           | some leaf => s.provideKept (s.desc h) (hKey h) (o / 65536) leaf
           | none => s.providePage slot o)
        else s
      else s
    if write && (s.poolShort h [o]).isSome then s.addPool (hKey h) else s

/-- Lovage makes the pages of pieces served, with as many pages in the pool as their write copies (R202). -/
def State.servePieces (s : State) (h : Word) (ver : Option Nat) (write : Bool) (ps : List Piece) : State :=
  let pages := (ps.flatMap fun p => [p.1 / 524288, (p.1 + p.2 - 1) / 524288]).eraseDups
  let s := pages.foldl (fun s p => s.serveByte h ver write (65536 * p)) s
  let copies := pages.countP fun p => !(s.sharers (hKey h) p).isEmpty
  if write then (List.range (copies - s.pool.countP fun p => p.1 = hKey h)).foldl (fun s _ => s.addPool (hKey h)) s else s

/-! ### What waits (R168, R202, R245, R308) -/

/-- The pieces of a weight load. -/
def State.loadPieces (s : State) (w : WLoad) : List Piece :=
  let d := s.desc w.hnd
  let depth := ((classB w.mfmt).getD .h16).depth
  if d.rank ≠ 2 ∨ d.layout = 2 then []
  else ((List.range 128).flatMap fun n =>
    (d.column (w.n0 + n) w.k0 depth ++ d.scaleBits (w.n0 + n) w.k0 depth ++ d.superBits (w.n0 + n) w.k0)).filter d.inside

/-- Everything of a core that waits for an object is served, and looked at again. DESIGN CHOICE: notes/assumptions/11.md. -/
def State.serveWaiting (s : State) (i : Nat) : State :=
  let c := s.coreOf i
  let s := (c.wloads.filter (·.stream)).foldl (fun s w =>
    (s.servePieces w.hnd w.ver false (s.loadPieces w)).sched (s.cycle + 1) ptPush (.weightLoadComplete i w.slot)) s
  let s := if c.fetching then (c.tiles.filter fun k => !c.inputsIn.contains k).foldl (fun s k =>
      let q := (s.inputReq c k).2
      (s.servePieces q.h q.ver false q.pieces).sched (s.cycle + 1) ptFill (.phaseInputFetch i (k + 1))) s
    else s
  let s := [false, true].foldl (fun s copy => (List.range 16).foldl (fun s n =>
    let s := (c.chan copy n).queue.foldl (fun s q =>
      let s := (q.reqs s c).foldl (fun s r =>
        s.servePieces r.h (if r.write then none else mget q.pins (hKey r.h)) r.write r.pieces) s
      if !q.started then (if c.collected then s else s.sched (s.cycle + 1) ptPush (.channelCommandStart i copy n))
      else if copy then s
      else ((List.range q.total).filter fun r => !q.runs.contains r && !q.spoiled.contains r).foldl (fun s r =>
        s.sched (s.cycle + 1) ptFill (.fetchRowWritten i n q.seq r)) s) s
    if copy then s.armHead i n else s) s) s
  (List.range 8).foldl (fun s q =>
    let st := vget c.streams q {}
    if st.bound ∧ st.next < st.total ∧ st.buf.length < 4 then
      let h := vget st.stg 0 0
      let d := s.desc h
      (s.servePieces h (mget st.pins (hKey h)) false ((patternAt st.stg 8 (baseOf st.stg d)).pieces d)).sched (s.cycle + 1)
        ptPush (.streamVectorFetched i q)
    else s) s

/-- Whether something that a core has started waits for Lovage: it is under way, and no step of it is to come. -/
def State.unserved (s : State) (c : Core) : Bool :=
  let lost (i : Instr) : Bool := !(s.agenda.any fun e => e.2 == i)
  (c.wloads.any fun w => w.stream && lost (.weightLoadComplete c.id w.slot)) ||
    (c.fetching && c.tiles.any fun k => !c.inputsIn.contains k && lost (.phaseInputFetch c.id (k + 1))) ||
    (List.range 16).any fun n =>
      (match (c.chan true n).queue with
       | q :: _ => q.started && q.kind != .clz && lost (.copyCommandComplete c.id n)
       | [] => false) ||
      (c.chan false n).queue.any fun q => q.started && !q.done && (List.range q.total).any fun r =>
        !q.runs.contains r && !q.spoiled.contains r && lost (.fetchRowWritten c.id n q.seq r)

/-! ### The answer to a core (R186, R292, R335) -/

/-- Registers x1..x7 receive the results of the service that a `sysc` selects. Lovage's catalogue is not in the spec: the
values are free. DESIGN CHOICE: notes/assumptions/11.md. -/
def State.serviceResults (s : State) (i : Nat) : State :=
  (List.range 7).foldl (fun s k =>
    { s.xregWrite i (BitVec.ofNat 6 (k + 1)) (BitVec.ofNat 64 (Config.freeNat s.fresh)) with fresh := s.fresh + 1 }) s

/-- MISSING_OBJECT_RESOLVED: Lovage's answer to a core. A halted core whose fault it resolves goes on at its group: a
missing object, an exhausted pool, an overflow object that it enlarges (R292). A `sysc` is served and goes on at the next group
(R335); a `brk` holds the core; a core that the phase join has halted, and every other fault, meets the fault policy. A
retired core is remapped (R327). What waits on a core is served, whether or not the core runs. DESIGN CHOICE: of the two answers to cause 0x1C that R123
allows, Lovage gives the first: it adds 2 MiB to EXTENT, up to 2^39 bytes, and leaves OVFPTR as it is (notes/assumptions/11.md). -/
def execMissingObjectResolved (core : Nat) (s : State) : Host.Outcome State Fault Refusal :=
  s.event fun s =>
    let c := s.coreOf core
    let cause := c.frec.toNat % 256
    let info : Word := BitVec.ofNat 64 (c.frec.toNat / 2 ^ 384)
    let aux := c.frec.toNat / 2 ^ 448
    if c.isSys then s
    else if c.state = .retired then s.remapCore core
    else if c.state = .halted && !c.discarding then
      let s := if s.unserved c then s.serveWaiting core else s
      if cause = 0x0B then
        ((c.wanted.foldl (fun s w => s.servePieces w.1 w.2.1 w.2.2.1 w.2.2.2) s).serveByte info none true aux).resumeTo core c.arch.pc
      else if cause = 0x1C ∧ c.arch.ovfptr ≠ 0 then
        let key := hKey c.arch.ovfptr
        let d := s.desc c.arch.ovfptr
        let d := d.set 448 48 (min (2 ^ 39) (d.extent + 2 ^ 21))
        (if s.elsewhere c.arch.ovfptr then { s with far := mput s.far key d } else { s with descs := mput s.descs key d }).resumeTo core
          c.arch.pc
      else if cause = 0x13 ∧ info.getLsbD 16 then (s.serviceResults core).resumeTo core c.npc
      else if cause = 0x12 then s
      else s.applyPolicy core
    else s.serveWaiting core

end Sys2Proof.Machine
end

