-- ==== Sys2Proof/Machine/Caches.lean ====
section
/-! DEFINITION. What acts on the caches by itself or through the cache control blocks (R271..R288): ticks and rebases of
logical time, directory requests and merging, page migration, retention sleep, way masks, key destruction. -/

namespace Sys2Proof.Machine

open Sys2Proof

/-! ### Logical time (R271, R272) -/

/-- LTIME_TICK (R271): LTIME of every compute core rises by 1. -/
def State.tick (s : State) : State :=
  { s.allCores (fun c => if c.isSys then c else { c with ltime := c.ltime + 1 }) with
    dies := s.dies.map fun d => { d with idle := d.idle + 1 } }

/-- LTIME_TICK (R271). -/
def execLtimeTick (s : State) : Host.Outcome State Fault Refusal := s.event State.tick

/-- REBASE (R272): timestamps of the die fall by 2^38, L1 copies go (those of a sleeping L1 on waking, R273), and the L2
holds the new requests of the 64 cycles that follow. -/
def State.rebaseDie (s : State) (d : Nat) : State :=
  let down (n : Nat) : Nat := n - 2 ^ 38
  let s := s.allCores fun c =>
    if c.isSys || dieOfCore c.id ≠ d then c
    else { c with ltime := down c.ltime, l1 := if c.l1sleep.isSome then c.l1 else [] }
  s.modDie d fun die => { die with
    l2 := die.l2.map fun l => { l with wts := down l.wts, rts := down l.rts }
    mts := down die.mts, idle := down die.idle, rebase := die.rebase + 1, holdTo := s.cycle + 65 }

/-- REBASE (R272). -/
def execRebase (die : Nat) (s : State) : Host.Outcome State Fault Refusal := s.event fun s => s.rebaseDie die

/-- The dies in which an LTIME has reached 2^39 rebase. -/
def State.rebaseDue (s : State) : State :=
  let late := (s.cores.filter fun c => !c.isSys && decide (2 ^ 39 ≤ c.ltime)).map fun c => dieOfCore c.id
  ((List.range 24).filter fun d => late.contains d || decide (2 ^ 39 ≤ (s.die d).idle)).foldl State.rebaseDie s

/-! ### The directory (R275, R276) -/

/-- DIRECTORY_READ (R275). -/
def execDirectoryRead (die line : Nat) (s : State) : Host.Outcome State Fault Refusal :=
  s.event fun s => s.dirRead die line

/-- DIRECTORY_OWNERSHIP (R275). -/
def execDirectoryOwnership (die line : Nat) (s : State) : Host.Outcome State Fault Refusal :=
  s.event fun s => s.dirOwn die line

/-- INVALIDATION (R275). -/
def execInvalidation (die base k : Nat) (s : State) : Host.Outcome State Fault Refusal :=
  s.event fun s => s.invalidateAt die base k

/-- DIRECTORY_MERGE (R276): two buddies of one state and set that have seen no request for 65,536 cycles. -/
def State.mergeDir (s : State) (home base : Nat) : State :=
  match (s.die home).dir.find? fun e => e.base = base with
  | none => s
  | some e =>
    let buddy := if base / 2 ^ e.k % 2 = 0 then base + 2 ^ e.k else base - 2 ^ e.k
    match (s.die home).dir.find? fun f => f.base = buddy with
    | none => s
    | some f =>
      if e.k < 10 ∧ f.k = e.k ∧ f.st = e.st ∧ f.set = e.set ∧ e.st ≠ .mig ∧ e.used + 65536 ≤ s.cycle ∧
          f.used + 65536 ≤ s.cycle then
        s.modDie home fun d =>
          { d with dir := { e with base := min base buddy, k := e.k + 1, used := max e.used f.used } ::
                     d.dir.filter fun g => g.base ≠ base && g.base ≠ buddy }
      else s

/-- The buddies of every home that may merge do so, the smaller regions first (R276). -/
def State.mergeDue (s : State) : State :=
  (List.range 24).foldl (fun s h =>
    ((s.die h).dir.filter fun e => decide (e.k < 10) && e.base / 2 ^ e.k % 2 == 0 && decide (e.used + 65536 ≤ s.cycle)).foldl
      (fun s e => s.mergeDir h e.base) s) s

/-- DIRECTORY_MERGE (R276). -/
def execDirectoryMerge (home base : Nat) (s : State) : Host.Outcome State Fault Refusal :=
  s.event fun s => s.mergeDir home base

/-! ### Dropping lines -/

/-- L2 lines of a die that `p` selects leave it: dirty ones are written back when `wb`, MTS rises, L1 copies go. -/
def State.dropLines (s : State) (d : Nat) (wb : Bool) (p : L2Line → Bool) : State :=
  let lines := (s.die d).l2.filter p
  let s := if wb then lines.foldl (fun s l => if l.dirty then s.ctlWrite l.line l.data else s) s else s
  let s := s.modDie d fun die => { die.dropL2 p with mts := lines.foldl (fun m l => max m l.rts) die.mts }
  s.dropL1 d fun n => lines.any fun l => l.line = n

/-- MSC lines of a die that `p` selects leave it. -/
def State.dropMsc (s : State) (d : Nat) (wb : Bool) (p : MscLine → Bool) : State :=
  let lines := (s.die d).msc.filter p
  let s := if wb then lines.foldl (fun s l => if l.dirty then s.ctlWrite l.line l.data else s) s else s
  s.modDie d fun die => { die with msc := die.msc.filter fun l => !p l }

/-! ### Page migration (R278) -/

/-- The key id of the object whose page stands in a page of memory. -/
def State.pageKey (s : State) (page : Nat) : Nat :=
  (s.descs.findSome? fun p =>
    let d : Desc := p.2
    if d.ext = 0 then none
    else (List.range ((d.extent + 65535) / 65536)).findSome? fun i =>
      (s.walk d.ext (65536 * i)).bind fun p => if (entAddr p.1 + p.2) / 65536 = page then some (entKey p.1) else none).getD 0

/-- PAGE_MIGRATION (R278): the page's entry becomes MIG, every cached copy is recalled, and copying begins. Pages are
numbered by space and offset over 64 KiB. -/
def State.migrate (s : State) (home page dest : Nat) : State :=
  let mine (n : Nat) : Bool := lineSector n / 1024 == page
  let s := (List.range 24).foldl (fun s d => (s.dropLines d true fun l => mine l.line).dropMsc d true fun l => mine l.line) s
  let s := s.modDie home fun d =>
    { d with migs := { page, dest, next := 0, key := s.pageKey page } :: d.migs.filter (fun m => m.page ≠ page),
             dir := ⟨page * 1024, 10, .mig, 0, s.cycle⟩ :: d.dir.filter fun e => !mine e.base }
  s.sched (s.cycle + 4) ptEnd (.migrationLineCopy home page)

/-- PAGE_MIGRATION (R278). -/
def execPageMigration (home page dest : Nat) (s : State) : Host.Outcome State Fault Refusal :=
  s.event fun s => s.migrate home page dest

/-- Extent entries and kept versions' entries that name an old page name the new one (R187). A page of a 2 MiB leaf gets an entry of its
own: the leaf becomes a table of its 32 pages. -/
def State.rehome (s : State) (page dest : Nat) : State :=
  let moved (w : Word) : Word :=
    if entAddr w.toNat / 65536 = page then BitVec.ofNat 64 (w.toNat - entAddr w.toNat + dest * 65536) else w
  let renamed (k : KeptVer) : KeptVer := { k with pages := k.pages.map fun (p : Nat × Word) => (p.1, moved p.2) }
  let s := { s with kept := s.kept.map renamed }
  s.descs.foldl (fun s p =>
    let d : Desc := p.2
    if d.ext = 0 then s
    else (List.range ((d.extent + 65535) / 65536)).foldl (fun s i =>
      let o := 65536 * i
      match s.walk d.ext o with
      | some (e, off) =>
        if (entAddr e + off) / 65536 = page then
          let key := d.ext / 2 ^ 46 * 2 ^ 46
          let a1 := key + entAddr (s.peekWord (d.ext + 8 * (o / 2 ^ 30 % 512))) + 8 * (o / 2 ^ 21 % 512)
          let e1 := s.peekWord a1
          let new := e - entAddr e + dest * 65536
          if entLeaf e1 then
            let (t, s) := s.newTable (paKey key)
            let s := (List.range 32).foldl (fun s i =>
              s.putEntry (key + t + 8 * i) (if 65536 * i = off then new else e1 + 65536 * i)) s
            s.putEntry a1 (t + 1)
          else s.putEntry (key + entAddr e1 + 8 * (o / 2 ^ 16 % 32)) new
        else s
      | none => s) s) s

/-- MIGRATION_LINE_COPY (R278): the next line, unless a held request has had it copied, and after the last one the extent entry. -/
def execMigrationLineCopy (home page : Nat) (s : State) : Host.Outcome State Fault Refusal :=
  s.event fun s =>
    match (s.die home).migs.find? fun m => m.page = page with
    | none => s
    | some m =>
      let s := if m.held.contains m.next then s else s.moveSector m.key (page * 1024 + m.next) (m.dest * 1024 + m.next)
      if m.next + 1 < 1024 then
        (s.modDie home fun d => { d with migs := d.migs.map fun x => if x.page = page then { x with next := x.next + 1 } else x
          }).sched (s.cycle + 4) ptEnd (.migrationLineCopy home page)
      else
        (s.rehome page m.dest).modDie home fun d =>
          { d with migs := d.migs.filter fun x => x.page ≠ page, dir := d.dir.filter fun e => e.base ≠ page * 1024 }

/-! ### Retention sleep (R273) -/

/-- Whether no way mask of a die names an L2 way. -/
def Die.wayUnused (d : Die) (w : Nat) : Bool := d.l2way.all fun p => !p.2.getLsbD w

/-- CACHE_SLEEP (R273). -/
def State.sleepCache (s : State) : CacheId → State
  | .l1 c =>
    if (s.coreOf c).task.isNone ∧ (s.coreOf c).l1sleep.isNone then
      s.modCore c fun k => { k with l1sleep := some (s.die (dieOfCore c)).rebase.toNat }
    else s
  | .l2 d w =>
    if (s.die d).wayUnused w ∧ (mget (s.die d).l2sleep w).isNone then
      let s := ((s.die d).l2.filter fun l => l.way = w && l.dirty).foldl (fun s l => s.evictL2 d l) s
      s.modDie d fun die => { die with l2sleep := mput die.l2sleep w die.rebase.toNat }
    else s

/-- CACHE_SLEEP (R273). -/
def execCacheSleep (c : CacheId) (s : State) : Host.Outcome State Fault Refusal := s.event fun s => s.sleepCache c

/-- CACHE_WAKE (R273). -/
def State.wakeCache (s : State) : CacheId → State
  | .l1 c => s.wakeL1 c
  | .l2 d w => s.wakeWay d w

/-- CACHE_WAKE (R273). -/
def execCacheWake (c : CacheId) (s : State) : Host.Outcome State Fault Refusal := s.event fun s => s.wakeCache c

/-! ### The controllers (R332) -/

/-- MEMORY_CONTROLLER_WRITE (R332). -/
def execMemoryControllerWrite (line : Nat) (data : Mask) (s : State) : Host.Outcome State Fault Refusal :=
  s.event fun s => s.ctlWrite line data

/-! ### Key destruction (R287) -/

/-- GO in KSCRUB: the die refuses accesses under the key from now on, and its caches drop the key's lines without writing them
back (R287, R288). -/
def State.scrub (s : State) (d : Nat) : State :=
  let die := s.die d
  let k := die.kkey.toNat
  if die.kbusy || k == 0 then s
  else
    let s := (s.dropLines d false fun l => lineKeyId l.line = k).dropMsc d false fun l => lineKeyId l.line = k
    let s := (s.dropL1 d fun n => lineKeyId n = k).modDie d fun die =>
      { die with kbusy := true, refuses := die.refuses ||| BitVec.ofNat 64 (2 ^ k) }
    let (n, s) := s.draw .physical
    s.sched (s.cycle + 1 + n % 199999) ptEnd (.keyScrubComplete d)

/-- KSCRUB_GO (R287). -/
def execKscrubGo (die : Nat) (s : State) : Host.Outcome State Fault Refusal := s.event fun s => s.scrub die

/-- KEY_SCRUB_COMPLETE (R287). -/
def execKeyScrubComplete (die : Nat) (s : State) : Host.Outcome State Fault Refusal :=
  s.event fun s => s.modDie die fun d => { d with kbusy := false }

/-! ### Way masks (R283) and the cache control block (R288) -/

/-- A write of an L2WAY mask: lines of the key id in removed ways are written back and dropped first, and ways that it names
wake (R273). -/
def State.setL2way (s : State) (d k : Nat) (w : BitVec 16) : State :=
  let removed := (s.die d).l2Mask k &&& ~~~w
  ((waysOf w 16).foldl (fun s i => s.wakeCache (.l2 d i))
    (s.dropLines d true fun l => lineKeyId l.line = k && removed.getLsbD l.way)).modDie d fun die =>
    { die with l2way := dput 0 die.l2way k w }

/-- L2WAY_WRITE (R283). -/
def execL2wayWrite (die key : Nat) (w : Word) (s : State) : Host.Outcome State Fault Refusal :=
  s.event fun s => s.setL2way die key (w.truncate 16)

/-- The dies that attach a stack, and so have an MSC (R3, R267). -/
def hasMsc (d : Nat) : Bool := (List.range 16).any fun n => stackDie n = d

/-- A write of an MSCWAY mask: every line of the key id in a way that the mask loses is written back and dropped. -/
def State.setMscway (s : State) (d k c : Nat) (w : BitVec 16) : State :=
  if hasMsc d then
    let before := (s.die d).mscMask k c
    let s1 := s.modDie d fun die => { die with mscway := dput 0 die.mscway (4 * k + c) w }
    let removed := before &&& ~~~(s1.die d).mscMask k c
    s1.dropMsc d true fun l => lineKeyId l.line = k && removed.getLsbD l.way
  else s

/-- MSCWAY_WRITE (R283). -/
def execMscwayWrite (die key cls : Nat) (w : Word) (s : State) : Host.Outcome State Fault Refusal :=
  s.event fun s => s.setMscway die key cls (w.truncate 16)

/-- A read of die d's cache control block. -/
def State.cacheReg (s : State) (d off : Nat) : Word :=
  let die := s.die d
  if off = 0 then
    BitVec.ofNat 64 (place 32 32 die.rebase.toNat + place 16 16 die.dir.length + place 8 4 die.pinways.toNat)
  else if 0x1000 ≤ off ∧ off < 0x1200 then ((mget die.l2way ((off - 0x1000) / 8)).getD 0).zeroExtend 64
  else if 0x2000 ≤ off ∧ off < 0x2800 then
    (if hasMsc d then ((mget die.mscway ((off - 0x2000) / 8)).getD 0).zeroExtend 64 else 0)
  else if off = 0x4000 then (if hasMsc d then die.mscpol.zeroExtend 64 else 0)
  else if off = 0x4008 then BitVec.ofNat 64 ((if die.kbusy then 512 else 0) + die.kkey.toNat)
  else 0

/-- A write of die d's cache control block. -/
def State.setCacheReg (s : State) (d off : Nat) (w : Word) : State :=
  if off = 0 then s.modDie d fun die => { die with pinways := BitVec.ofNat 4 (min 8 (w.toNat / 256 % 16)) }
  else if 0x1000 ≤ off ∧ off < 0x1200 then s.setL2way d ((off - 0x1000) / 8) (w.truncate 16)
  else if 0x2000 ≤ off ∧ off < 0x2800 then
    s.setMscway d ((off - 0x2000) / 32) ((off - 0x2000) / 8 % 4) (w.truncate 16)
  else if off = 0x4000 then (if hasMsc d then s.modDie d fun die => { die with mscpol := w.truncate 24 } else s)
  else if off = 0x4008 then
    if w.getLsbD 8 && (s.die d).kbusy then s
    else
      let s := s.modDie d fun die => { die with kkey := w.truncate 6 }
      if w.getLsbD 8 then s.scrub d else s
  else s

end Sys2Proof.Machine
end

