-- ==== Sys2Proof/Machine/Digest.lean ====
section
/-! DEFINITION. SHA-256, which chains a partition's snapshots (R359), and SHA-384, the digest of measurements (R361). The spec names the
functions; their definition is that of FIPS 180-4 (PRESUMED: notes/assumptions/29.md). The constants are computed as that
standard defines them, from roots of primes. -/

namespace Sys2Proof.Machine

open Sys2Proof

/-- The greatest r below 2^bits above `acc` with r^k ≤ n. -/
def rootBelow (k n : Nat) : Nat → Nat → Nat
  | 0, acc => acc
  | b + 1, acc => if (acc + 2 ^ b) ^ k ≤ n then rootBelow k n b (acc + 2 ^ b) else rootBelow k n b acc

/-- The first 80 primes. -/
def primes : List Nat :=
  (List.range 410).filter fun n => decide (2 ≤ n) && (List.range n).all fun d => decide (d < 2) || n % d != 0

/-- A function of the family: the width of its words, its rounds, the rotations of its two sums, the two rotations and the shift of its
two schedule functions, and its initial hash value. -/
structure Sha where
  bits   : Nat
  rounds : Nat
  sum0   : List Nat
  sum1   : List Nat
  mix0   : List Nat × Nat
  mix1   : List Nat × Nat
  init   : List Nat

/-- A word's fraction bits of the k-th root of a prime. -/
def rootWord (bits k p : Nat) : Nat := rootBelow k (p * 2 ^ (k * bits)) (bits + 5) 0 % 2 ^ bits

def Sha.two56 : Sha where
  bits := 32
  rounds := 64
  sum0 := [2, 13, 22]
  sum1 := [6, 11, 25]
  mix0 := ([7, 18], 3)
  mix1 := ([17, 19], 10)
  init := (primes.take 8).map (rootWord 32 2)

def Sha.three84 : Sha where
  bits := 64
  rounds := 80
  sum0 := [28, 34, 39]
  sum1 := [14, 18, 41]
  mix0 := ([1, 8], 7)
  mix1 := ([19, 61], 6)
  init := ((primes.drop 8).take 8).map (rootWord 64 2)

/-- The rotations of a word to the right, added without carry, to a start. -/
def Sha.turns (f : Sha) (x : Nat) (l : List Nat) (start : Nat) : Nat :=
  l.foldl (fun a n => a ^^^ (x / 2 ^ n + x % 2 ^ n * 2 ^ (f.bits - n))) start

/-- The message words of a block, newest first, extended by n words. -/
def Sha.schedule (f : Sha) : Nat → List Nat → List Nat
  | 0, w => w
  | n + 1, w =>
    let a := w.getD 1 0
    let b := w.getD 14 0
    let s1 := f.turns a f.mix1.1 (a / 2 ^ f.mix1.2)
    let s0 := f.turns b f.mix0.1 (b / 2 ^ f.mix0.2)
    f.schedule n (((s1 + w.getD 6 0 + s0 + w.getD 15 0) % 2 ^ f.bits) :: w)

/-- One round on the working variables a..h, with the sum of a round constant and a message word. -/
def Sha.round (f : Sha) (v : List Nat) (kw : Nat) : List Nat :=
  match v with
  | [a, b, c, d, e, g, h, i] =>
    let t1 := i + f.turns e f.sum1 0 + ((e &&& g) ^^^ ((2 ^ f.bits - 1 - e) &&& h)) + kw
    let t2 := f.turns a f.sum0 0 + ((a &&& b) ^^^ (a &&& c) ^^^ (b &&& c))
    [(t1 + t2) % 2 ^ f.bits, a, b, c, (d + t1) % 2 ^ f.bits, e, g, h]
  | v => v

/-- The big-endian number of bytes. -/
def beNat (l : List Nat) : Nat := l.foldl (fun n b => 256 * n + b) 0

/-- One block of 16 words. -/
def Sha.block (f : Sha) (h : List Nat) (block : List Nat) : List Nat :=
  let size := f.bits / 8
  let w0 := (List.range 16).map fun i => beNat ((block.drop (size * i)).take size)
  let w := (f.schedule (f.rounds - 16) w0.reverse).reverse
  let v := (((primes.take f.rounds).map (rootWord f.bits 3)).zip w).foldl (fun v p => f.round v (p.1 + p.2)) h
  (h.zip v).map fun p => (p.1 + p.2) % 2 ^ f.bits

/-- The final hash words of a message of bytes, padded to whole blocks. -/
def Sha.hash (f : Sha) (m : List Nat) : List Nat :=
  let unit := 2 * f.bits
  let tail := f.bits / 4
  let z := (2 * unit - 1 - tail - m.length % unit) % unit
  let p := m ++ [128] ++ List.replicate z 0 ++ (List.range tail).map fun i => 8 * m.length / 256 ^ (tail - 1 - i) % 256
  let h := (List.range (p.length / unit)).foldl (fun h i => f.block h ((p.drop (unit * i)).take unit)) f.init
  h.flatMap fun w => (List.range (f.bits / 8)).map fun i => w / 256 ^ (f.bits / 8 - 1 - i) % 256

/-- SHA-256 and SHA-384 of bytes. PRESUMED: notes/assumptions/29.md. -/
def sha256 (m : List Nat) : List Nat := Sha.two56.hash m
def sha384 (m : List Nat) : List Nat := (Sha.three84.hash m).take 48

end Sys2Proof.Machine
end

