-- ==== Sys2Proof/Machine/Package.lean ====
section
/-! DEFINITION. The package around the cores (ch. 17): HBM channel PHYs and their pattern tests, fabric ports and packets,
accesses from outside the compute dies, host links, thermal limits and the boot sequence. -/

namespace Sys2Proof.Machine

open Sys2Proof

/-! ### The HBM channel PHY (R369..R373) -/

/-- A channel's block after reset: every delay at the part record's TRIM (R366, R369). DESIGN CHOICE: notes/assumptions/41.md. -/
def phyReset (c : Nat) : Phy :=
  { rdly := Vector.replicate 66 ((Config.partTrim c).extractLsb' 0 7), wdly := Vector.replicate 66 ((Config.partTrim c).extractLsb' 8 7) }
def State.phy (s : State) (c : Nat) : Phy := (mget s.phys c).getD (phyReset c)
def State.modPhy (s : State) (c : Nat) (f : Phy → Phy) : State := { s with phys := mput s.phys c (f (s.phy c)) }

/-- Fields of PATCTL. -/
def Phy.bursts (p : Phy) : Nat := p.patctl.toNat / 2 ^ 48 + 1
def Phy.seed (p : Phy) : Nat := let n := p.patctl.toNat / 2 ^ 8 % 2 ^ 23; if n = 0 then 1 else n
def Phy.patMode (p : Phy) : Nat := p.patctl.toNat / 16 % 4

/-- The lane that pseudo-channel i's spare replaces (R370). -/
def Phy.replaced (p : Phy) (i : Nat) : Option Nat :=
  let s := vget p.spare i 0
  if s.getLsbD 5 then some (32 * i + s.toNat % 32) else none

/-- The state from which lane l's sequence starts: SEED rotated left by l mod 23 within 23 bits (R371). -/
def laneStart (seed l : Nat) : Nat := seed * 2 ^ (l % 23) % 2 ^ 23 + seed / 2 ^ (23 - l % 23)

/-- Bits in error per lane of the test that a channel's settings describe (R371, R372): what a lane answers outside the
model's reach is free. In MODE 0 the write delays take no part (R392). DESIGN CHOICE: notes/assumptions/31.md. -/
def Phy.laneErr (p : Phy) (c l : Nat) : Nat :=
  if p.replaced 0 = some l ∨ p.replaced 1 = some l then 0
  else min (32 * p.bursts)
    (Config.laneErrors c p.patMode (laneStart p.seed l) p.bursts l (vget p.rdly l 0).toNat
      (if p.patMode = 0 then 0 else (vget p.wdly l 0).toNat))

def Phy.errBits (p : Phy) (c : Nat) : BitVec 66 :=
  BitVec.ofNat 66 (packNat 1 ((List.range 66).map fun l => if p.laneErr c l = 0 then 0 else 1))
def Phy.errCount (p : Phy) (c : Nat) : Nat :=
  min (2 ^ 32 - 1) (((List.range 66).map (p.laneErr c)).foldl (· + ·) 0)

/-- Registers whose writes wait while a test runs (R372): delays, SPARE, PATCTL, MRW. -/
def phyHeld (off : Nat) : Bool := decide (off < 0x908) || off == 0xA00

/-- A write of MRW (R373). -/
def Phy.modeWrite (p : Phy) (w : Word) : Phy :=
  let n := w.toNat / 256 % 256
  let put (i : Nat) (p : Phy) : Phy := { p with mode := mput p.mode (256 * i + n) (w.truncate 8) }
  if w.getLsbD 17 then put 1 (put 0 p) else put (if w.getLsbD 16 then 1 else 0) p

/-- A write of PATCTL; GO starts a test unless MODE is reserved or the channel serves traffic (R371). -/
def State.patWrite (s : State) (c : Nat) (w : Word) : State :=
  let s := s.modPhy c fun p => { p with patctl := w &&& 0xFFFF00007FFFFF30#64 }
  let p := s.phy c
  if w.getLsbD 0 && !p.en && decide (p.patMode < 2) then
    (s.modPhy c fun p => { p with busy := true, done := false, err := 0, errcnt := 0 }).sched
      (s.cycle + 40 + 16 * p.bursts) ptEnd (.patternTestEnd c)
  else s

/-- A write of a PHY register that is performed now. -/
def State.phyNow (s : State) (c off : Nat) (w : Word) : State :=
  let tap : BitVec 7 := w.truncate 7
  if off < 0x210 then s.modPhy c fun p => { p with rdly := vset p.rdly (off / 8) tap }
  else if off = 0x300 then s.modPhy c fun p => { p with rdly := Vector.replicate 66 tap }
  else if 0x400 ≤ off ∧ off < 0x610 then s.modPhy c fun p => { p with wdly := vset p.wdly ((off - 0x400) / 8) tap }
  else if off = 0x700 then s.modPhy c fun p => { p with wdly := Vector.replicate 66 tap }
  else if off = 0x800 ∨ off = 0x808 then
    s.modPhy c fun p => if p.en then p else { p with spare := vset p.spare ((off - 0x800) / 8) (w.truncate 6) }
  else if off = 0x900 then s.patWrite c w
  else if off = 0xA00 then s.modPhy c fun p => p.modeWrite w
  else if off = 0xB00 then s.modPhy c fun p => { p with en := w.getLsbD 0 }
  else s

/-- The block of a channel, by physical address (R369). -/
def phyBase (c : Nat) : Nat := 0x300010000000 + c * 0x1000

/-- A write of a PHY register: while a test runs, those of R372 are held. `k` is the core that makes it, 1023 where none does. -/
def State.phyWrite (s : State) (k c off : Nat) (w : Word) : State :=
  if (s.phy c).busy && phyHeld off then s.modPhy c fun p => { p with held := p.held ++ [(k, phyBase c + off, w)] }
  else s.phyNow c off w

/-- The channel at which writes of a core are held. -/
def State.heldBy (s : State) (k : Nat) : Option Nat :=
  (s.phys.find? fun p => p.2.held.any fun h => h.1 = k && h.1 < 784).map (·.1)

/-- A read of a PHY register; a result read while the test runs is partial, and which part is free (R372). -/
def State.phyRead (s : State) (c off : Nat) : Word × State :=
  let p := s.phy c
  let part (n : Nat) : Nat := n &&& Config.freeNat s.fresh
  let next : State := if p.busy then { s with fresh := s.fresh + 1 } else s
  if off < 0x210 then ((vget p.rdly (off / 8) 0).zeroExtend 64, s)
  else if 0x400 ≤ off ∧ off < 0x610 then ((vget p.wdly ((off - 0x400) / 8) 0).zeroExtend 64, s)
  else if off = 0x800 ∨ off = 0x808 then ((vget p.spare ((off - 0x800) / 8) 0).zeroExtend 64, s)
  else if off = 0x900 then (p.patctl, s)
  else if off = 0x908 then
    if p.busy then (BitVec.ofNat 64 (min (p.errCount c) (Config.freeNat s.fresh) * 2 ^ 32 + 1), next)
    else (BitVec.ofNat 64 (p.errcnt.toNat * 2 ^ 32 + (if p.done then 2 else 0)), s)
  else if off = 0x910 ∨ off = 0x918 then
    let v := (if p.busy then part (p.errBits c).toNat else p.err.toNat)
    (BitVec.ofNat 64 (if off = 0x910 then v % 2 ^ 64 else v / 2 ^ 64), next)
  else if off = 0xB00 then (if p.en then 1 else 0, s)
  else (0, s)

/-- PATTERN_TEST_START (R371). -/
def execPatternTestStart (ch : Nat) (w : Word) (s : State) : Host.Outcome State Fault Refusal :=
  s.event fun s => s.phyWrite 1023 ch 0x900 w

/-- RDALL_WRITE (R369). -/
def execRdallWrite (ch : Nat) (w : Word) (s : State) : Host.Outcome State Fault Refusal :=
  s.event fun s => s.phyWrite 1023 ch 0x300 w
/-- WDALL_WRITE (R369). -/
def execWdallWrite (ch : Nat) (w : Word) (s : State) : Host.Outcome State Fault Refusal :=
  s.event fun s => s.phyWrite 1023 ch 0x700 w
/-- MODE_REGISTER_WRITE (R373). -/
def execModeRegisterWrite (ch : Nat) (w : Word) (s : State) : Host.Outcome State Fault Refusal :=
  s.event fun s => s.phyWrite 1023 ch 0xA00 w

/-! ### Fabric ports (R374..R376) -/

def State.port (s : State) (n : Nat) : Port := (mget s.ports n).getD {}
def State.modPort (s : State) (n : Nat) (f : Port → Port) : State := { s with ports := mput s.ports n (f (s.port n)) }

/-- The ports that the part record names (R366). -/
def fitted (n : Nat) : Bool := Config.partPorts.getLsbD n

def portState : PState → Nat
  | .down => 0 | .training => 1 | .up => 2 | .failed => 3

def Port.word (p : Port) : Word :=
  BitVec.ofNat 64 (place 32 32 p.fecerr.toNat + (if p.en then 4096 else 0) + place 3 9 p.peer.toNat + portState p.st)

/-- A port that was UP sends no more: what it had sent goes again on live ports, and so do the flush markers (R209, R375). -/
def State.portStops (s : State) (n : Nat) (st : PState) : State :=
  ((s.modPort n fun p => { p with st }).reroute n).resendMarkers n

/-- The uncorrectable codewords that a port has certainly met in the last 2^20 cycles: those counted over a time that began within
them. -/
def recentErrors (now : Nat) : List (Nat × Nat) → Nat
  | a :: b :: t => if now ≤ b.1 + 2 ^ 20 then a.2 + recentErrors now (b :: t) else 0
  | _ => 0

/-- A read of a port's status. Codewords in error come from outside: a port that is UP, or has failed, may have met any number more since
the last read; more than 16 within 2^20 cycles have made it FAILED (R375). DEDUCED: notes/assumptions/30.md. -/
def State.portRead (s : State) (n : Nat) : Word × State :=
  let p := s.port n
  if p.st ≠ .up ∧ p.st ≠ .failed then (p.word, s)
  else
    let met := Config.freeNat s.fresh
    let s := { s.modPort n fun p => { p with
      fecerr := BitVec.ofNat 32 (min (2 ^ 32 - 1) (p.fecerr.toNat + met))
      fecs := (s.cycle, met) :: p.fecs.filter fun e => decide (s.cycle ≤ e.1 + 2 ^ 20) } with fresh := s.fresh + 1 }
    let s := if p.st = .up ∧ 16 < recentErrors s.cycle (s.port n).fecs then s.portStops n .failed else s
    ((s.port n).word, s)

/-- A write of a port's EN (R374, R375). A port that is not fitted holds EN and stays DOWN. DESIGN CHOICE: notes/assumptions/30.md. -/
def State.setPort (s : State) (n : Nat) (en : Bool) : State :=
  if 72 ≤ n then s
  else if en then s.modPort n fun p => { p with en := true, st := if p.st = .down && fitted n then .training else p.st }
  else
    let was := (s.port n).st
    let s := s.modPort n fun p => { p with en := false, st := .down }
    if was == .up then s.portStops n .down else s

/-- PORT_ENABLE_WRITE (R375). -/
def execPortEnableWrite (port : Nat) (en : Bool) (s : State) : Host.Outcome State Fault Refusal :=
  s.event fun s => s.setPort port en

/-- PORT_TRAINING_COMPLETE (R376): PEER is learned, and the package at the other end is a member of the domain. -/
def execPortTrainingComplete (port : Nat) (ok : Bool) (peer : Nat) (s : State) : Host.Outcome State Fault Refusal :=
  s.event fun s =>
    if (s.port port).st ≠ .training then s
    else if ok then
      let s := (s.modPort port fun p => { p with st := .up, peer := BitVec.ofNat 9 peer, fecs := [(s.cycle, 0)] }).routeWaiting
      if s.members.contains peer then s else { s with members := s.members ++ [peer] }
    else s.modPort port fun p => { p with st := .failed }

/-- PORT_FAILURE (R209, R375). -/
def execPortFailure (port : Nat) (s : State) : Host.Outcome State Fault Refusal :=
  s.event fun s =>
    if (s.port port).st = .up then s.portStops port .failed else s

/-! ### Accesses from outside the compute dies (R184, R189) -/

/-- The bytes of a write placed in a sector. -/
def putBytes (m : Mask) (at_ : Nat) (bs : List (BitVec 8)) : Mask :=
  (bs.zipIdx).foldl (fun m p => setLineByte m (at_ + p.2) p.1) m

/-- A fault that an access from outside meets: a violation is recorded, and nothing else happens (R189, R190). -/
def State.outerFault (s : State) (q : Requester) (h : Word) (cs : List Nat) (f : HFault) (shown : Option Word := none) : State :=
  match f.log with
  | some owner => s.logViolation owner q f.raise.cause h cs shown
  | none => s

/-- The checks of an access to bits of an object that this package serves, for another agent's bytes (R182, R186, R188, R189, R202);
the host may write a replicated object. -/
def State.outerCheck (s : State) (q : Requester) (h : Word) (write : Bool) (bit n : Nat) (ver : Option Nat := none) :
    Except HFault (List Served) :=
  match s.violation q h (some (if write then 2 else 1)) with
  | some (c, owner) => .error { raise := ⟨c, h, 0⟩, log := some owner }
  | none =>
    let d := s.desc h
    if n = 0 ∨ d.extent < (bit + n + 7) / 8 then .error { raise := ⟨0x0A, h, BitVec.ofNat 64 (max (bit / 8) d.extent)⟩ }
    else
      let span := s.span h d ver bit n
      match s.checkSpan h (if q.kind = .host then Desc.set d 57 1 0 else d) write false ver [(bit, n, span)] with
      | some f => .error f
      | none => .ok span

/-- The bits of a span as an agent outside reads them; what stands on a third package is read there (R184). The address of the first
uncorrectable sector, where there is one. -/
def State.outerBits (s : State) (part : Nat) : List Served → Except Nat Nat × State
  | [] => (.ok 0, s)
  | x :: t =>
    let (r, s) : Except Nat Nat × State := match x with
      | .ok x _ => (match s.outerRead x with | (some m, s) => (.ok m.toNat, s) | (none, s) => (.error x.pa, s))
      | .remote _ a _ _ => s.readFar part 1023 a
      | .missing => (.ok 0, s)
    match r with
    | .error pa => (.error pa, s)
    | .ok a => match s.outerBits part t with
      | (.ok b, s) => (.ok (a + 2 ^ 512 * b), s)
      | r => r

/-- The answer to an access: over the fabric a value or a NACK, on PCIe the bytes of a read or a completer abort (R189). -/
def State.outerReply (s : State) (a : OuterAccess) (r : Except (BitVec 8) Nat) : State :=
  match r, a.kind with
  | .error _, .host => { s with replies := .abort :: s.replies }
  | .ok v, .host =>
    if a.write.isSome then s
    else { s with replies := .bytes ((List.range a.len).map fun i => BitVec.ofNat 8 (v / 2 ^ (8 * i))) :: s.replies }
  | .error c, _ => s.send a.pkg 1023 (.refused a.core c)
  | .ok v, _ => s.toPackage a.pkg 1023 (.value a.core a.part (if a.write.isSome then 0 else a.len) v)

/-- An access to bytes of an object of this package by the host or another package: checked, resolved and answered here. One that is
not served, or that R186, R188 or R202 stops, changes nothing. -/
def State.outerAccess (s : State) (a : OuterAccess) : State :=
  let q : Requester := ⟨a.part, a.kind, a.core, a.pkg⟩
  let h := a.handle
  match s.outerCheck q h a.write.isSome (8 * a.offset) (8 * a.len) with
  | .error f => (s.outerFault q h [] f).outerReply a (.error f.raise.cause)
  | .ok span =>
    let d := s.desc h
    match a.write with
    | none =>
      (match (s.askSectors { q with core := 1023 } h d none (farSectors span)).outerBits a.part span with
       | (.ok v, s) => s.outerReply a (.ok (v / 2 ^ (8 * a.offset % 512) % 2 ^ (8 * a.len)))
       | (.error _, s) => s.outerReply a (.error 0x18))
    | some bs =>
      let s := s.watchRecord q h d (8 * a.offset) ((8 * a.len + d.w - 1) / d.w)
      let s := (span.zipIdx).foldl (fun s p =>
        let n := a.offset / 64 + p.2
        let lo := max a.offset (64 * n)
        let part := (bs.drop (lo - a.offset)).take (64 * (n + 1) - lo)
        match p.1 with
        | .ok x _ => (s.cow h d (64 * n)).outerWrite x fun m => putBytes m (lo % 64) part
        | _ => s) s
      (s.forwardBits q h d (farSlices span (8 * a.offset) (8 * a.len) (packNat 8 (bs.map (·.toNat))))).outerReply a (.ok 0)

/-- REMOTE_ACCESS (R184). -/
def execRemoteAccess (a : OuterAccess) (s : State) : Host.Outcome State Fault Refusal := s.event fun s => s.outerAccess a

/-- The handle of the descriptor in a slot, with the fields of another handle, and the state in which a shard that stands here is
an object of its own: its descriptor has its own EXT (R184). -/
def State.atSlot (s : State) (h : Word) (slot : Nat) (k : Word → State → State) : State :=
  if slot = hKey h then k h s
  else
    let g : Word := BitVec.ofNat 64 (slot * 2 ^ 32 + h.toNat % 2 ^ 32)
    match mget s.descs slot with
    | none => k g s
    | some d =>
      let t := k g { s with descs := mput s.descs slot (Desc.set d 51 3 7) }
      { t with descs := mput t.descs slot d }

/-- The atomic of an operation number of a forwarded class-8 word. -/
def elementOp (op : Nat) : Option AtomicOp :=
  ([.add, .max, .min, .maxn, .minn, .and, .or, .xor, .swp, .cas, .fadd, .fmax, .fmin] : List AtomicOp)[op - 5]?

/-- What a forwarded class-8 word asks: 0 a load of a run, 1 its store, 2 and 3 those of an element, from 5 the element atomics, 18 and
19 the atomic runs. -/
def elementAsk (op : Nat) : Op8 :=
  if op = 0 then { need := 1, run := true }
  else if op = 1 then { need := 2, run := true, write := true }
  else if op = 2 then { need := 1 }
  else if op = 3 then { need := 2, write := true }
  else if op = 18 ∨ op = 19 then { need := 4, run := true, write := true, atomic := true, vec := true }
  else { need := 4, write := true, atomic := true, fpOnly := decide (15 ≤ op) }

/-- What a resolved element access does, and the value that it returns; `obj` is the object's handle, `h` that of what stands here.
Uncorrectable data give none. -/
def State.elementDo (s : State) (q : Requester) (obj h : Word) (ver : Option Nat) (t : Target) (op : Nat) (data : Vec) :
    Except Nat Nat × State :=
  let here := { q with core := 1023 }
  if op = 0 ∨ op = 2 then
    match (s.askSectors here h t.d ver (farSectors t.span)).outerBits q.part t.span with
    | (.ok v, s) => (.ok (v / 2 ^ (t.bit % 512) % 2 ^ t.n), s)
    | r => r
  else
    let s := s.watchRecord q obj t.d t.bit (t.n / t.d.w)
    if op = 1 ∨ op = 3 then (.ok 0, s.writeBits here h t.d t.span t.bit t.n (data.toNat % 2 ^ t.n))
    else if op = 18 ∨ op = 19 then (.ok 0, s.runAtomics here h t (runOp t.d.fmt (op == 19)) data)
    else
      let w := t.d.w
      let v := data.toNat % 2 ^ w
      let new := data.toNat / 2 ^ 64 % 2 ^ w
      match elementOp op, t.span with
      | some f, [.ok x _] => (s.cow h t.d (t.bit / 8)).performAtomic 1023 x f w t.d.fmt (t.bit % 512) v new false
      | some f, [.remote _ a _ _] =>
        (s.askFar here h t.d (t.bit / 8) (t.d.coordsOfBit t.bit) op data).atomicFar q.part 1023 a f w t.d.fmt (t.bit % 512) v new
      | _, _ => (.ok 0, s)

/-- A class-8 access of a core of another package to an object, or a shard, that stands here: it is resolved here as the core's own
words are (R184, R194), under the version that its task has pinned (R218), and answered with its value or its cause. 4 reads sectors,
at once, 20 the descriptor. -/
def State.elementAccess (s : State) (src part core : Nat) (h : Word) (slot : Nat) (coords : List Word) (op : Nat) (data : Vec)
    (ver : Option Nat) : State :=
  s.atSlot h slot fun g s =>
    let q : Requester := ⟨part, .fabric, core, src⟩
    let cs := coords.map (·.toNat)
    let refuse (f : HFault) : State := (s.outerFault q g cs f (some h)).send src 1023 (.refused core f.raise.cause)
    let answer (n : Nat) : Except Nat Nat × State → State
      | (.ok v, s) => s.toPackage src 1023 (.value core part n v)
      | (.error _, s) => s.send src 1023 (.refused core 0x18)
    if op = 20 then
      match s.violation q g none with
      | some (c, owner) => refuse { raise := ⟨c, h, 0⟩, log := some owner }
      | none => answer 64 (.ok (s.desc g).toNat, s)
    else if op = 4 then
      match cs.mapM fun o => s.outerCheck q g false (8 * (o / 64 * 64)) 512 ver with
      | .error f => refuse f
      | .ok l => answer (64 * cs.length)
          ((s.askSectors { q with core := 1023 } g (s.desc g) ver (farSectors l.flatten)).outerBits part l.flatten)
    else
      let d := s.desc g
      let o := elementAsk op
      match s.resolveAt q (if o.write then none else ver) 0 g (cs.take d.rank) (cs.length < d.rank) o with
      | .error f => refuse f
      | .ok t => answer (if o.write && !o.atomic then 0 else if o.run then 512 else 8) (s.elementDo q h g ver t op data)

/-- Bits that a core or an engine of another package writes to an object, or a shard, that stands here: pieces of offset, width and
value, all of them or none (R123, R184). The write of an engine waits until Lovage has made room for its copies (R202). -/
def State.bitsAccess (s : State) (src part core : Nat) (kind : ReqKind) (h : Word) (slot : Nat) (cs : List Nat)
    (ps : List (Nat × Nat × Nat)) : State :=
  s.atSlot h slot fun g s =>
    let q : Requester := ⟨part, kind, core, src⟩
    let check (s : State) : Except HFault (List (List Served)) :=
      match ps.mapM fun p => s.outerCheck q g true p.1 p.2.1 with
      | .error f => .error f
      | .ok l => match firstBlocked s g (ps.zip l |>.map fun p => (p.1.1, p.2)) with
        | some o => .error { raise := ⟨0x0B, g, BitVec.ofNat 64 o⟩ }
        | none => .ok l
    let s := match kind, check s with
      | .copy, .error f => if f.raise.cause = 0x0B then s.servePieces g none true (ps.map fun p => (p.1, p.2.1)) else s
      | _, _ => s
    match check s with
    | .error f => (s.outerFault q g cs f (some h)).send src 1023 (.refused core f.raise.cause)
    | .ok l =>
      let d := s.desc g
      (ps.zip l).foldl (fun s p =>
        (s.watchRecord { q with kind := .fabric } h d p.1.1 (p.1.2.1 / d.w)).writeBits { q with core := 1023 } g d p.2 p.1.1
          p.1.2.1 p.1.2.2) s

/-- The adds of another package's task to its feedback record here (R310). -/
def State.feedbackAccess (s : State) (src part core : Nat) (h : Word) (off : Nat) (adds : List Nat) : State :=
  let q : Requester := ⟨part, .fabric, core, src⟩
  match s.outerCheck q h true (8 * off) 512 with
  | .error f => (s.outerFault q h [] f).send src 1023 (.refused core f.raise.cause)
  | .ok span => match span with
    | [.ok x _] => ((s.cow h (s.desc h) off).atomicSector 1023 x false (addWords adds)).2
    | _ => s

/-! ### Releases from other packages (R208, R209, R215) -/

/-- The markers of a release of another package that have been gathered. -/
def State.gathered (s : State) (src rel : Nat) : Nat := s.marks.countP fun m => m.1 = src && m.2.1 = rel

/-- A task of another package as the holder of a pin (R218), by the number that its package gives it. -/
def farId (src holder : Nat) : Nat := 2 ^ 40 + holder * 512 + src

/-- Every task event of the package that waits for a version fires (R205). -/
def State.fireAll (s : State) (key ver die ts rb : Nat) : State :=
  { s with saves := s.saves.map fun (p : Nat × Image) => (p.1, { p.2 with ctx := fireEvents key ver die ts rb p.2.ctx }) }.allCores
    (fireEvents key ver die ts rb)

/-- A publish of another package's core, performed here at the object's home (R215). -/
def State.farPublish (s : State) (src part core : Nat) (h : Word) (chosen : Option Nat) (rel : Nat) : State :=
  match s.violation ⟨part, .fabric, core, src⟩ h (some 8) with
  | some (c, owner) => (s.logViolation owner ⟨part, .fabric, core, src⟩ c h []).send src 1023 (.nacked core rel c)
  | none => match pubVersion (s.desc h).vcur chosen with
    | .error c => s.send src 1023 (.nacked core rel c)
    | .ok none => s.send src 1023 (.done core rel)
    | .ok (some v) => (s.publish src core (hKey h) v).send src 1023 (.done core rel)

/-- A release that waits for `paths` markers is performed once they are here, within 65,536 cycles of its arrival (R209), and once no copy
of this package can return an older value (R208): what it leaves, and whether it is done. An arrival waits for that at its barrier. -/
def State.tryRelease (s : State) (p : Packet) : Bool × State :=
  let ready (rel paths : Nat) : Bool := decide (paths ≤ s.gathered p.src rel)
  let clear (rel : Nat) (s : State) : State := { s with marks := s.marks.filter fun m => ¬ (m.1 = p.src ∧ m.2.1 = rel) }
  let settled (rel : Nat) (k : State → State) : Bool × State :=
    match s.outerWaits p.src rel with
    | (true, s) => (false, s)
    | (false, s) => (true, k (clear rel s))
  match p.body with
  | .arrival core sender pair bgen paths =>
    if ready sender.rel paths then
      (true, (clear sender.rel s).sched (s.cycle + 1) ptArrive (.barrierArrival core p.src { sender with core := p.srcCore } pair bgen))
    else (false, s)
  | .publish part core h ver rel paths =>
    if ready rel paths then settled rel fun s => s.farPublish p.src part core h ver rel else (false, s)
  | .marker core rel _ paths true => if ready rel paths then settled rel fun s => s.send p.src 1023 (.done core rel) else (false, s)
  | _ => (true, s)

/-- The releases held for markers of a package: those that are ready are performed, those whose time is over are dropped. -/
def State.tryHeld (s : State) (src : Nat) : State :=
  s.heldRel.foldl (fun s e =>
    if e.1 + 65536 < s.cycle then { s with heldRel := s.heldRel.erase e }
    else if e.2.src ≠ src then s
    else match s.tryRelease e.2 with
      | (true, t) => { t with heldRel := t.heldRel.erase e }
      | (false, t) => t) s

/-- A release with its markers. -/
def State.holdRelease (s : State) (p : Packet) : State :=
  match s.tryRelease p with
  | (true, t) => t
  | (false, t) => { t with heldRel := t.heldRel ++ [(s.cycle, p)] }

/-- The releases from outside that wait for leases, at the end of a cycle. -/
def State.pollHeld (s : State) : State := ((s.relStale.map (·.1)).eraseDups).foldl State.tryHeld s

/-- A flush marker: of a release that asks nothing here but to be told when it is performed here, or of one that acts here. -/
def State.markerHere (s : State) (p : Packet) (rel path paths : Nat) (alone : Bool) : State :=
  let s : State := if s.marks.contains (p.src, rel, path) then s else { s with marks := (p.src, rel, path) :: s.marks }
  if !alone then s.tryHeld p.src
  else if s.gathered p.src rel < paths then s
  else s.holdRelease p

/-- A registration for an object's versions (R205): the news goes back when it is there. -/
def State.subscribeHere (s : State) (src part core : Nat) (h : Word) (ver : Nat) : State :=
  match s.violation ⟨part, .fabric, core, src⟩ h (some 1) with
  | some (c, owner) => (s.logViolation owner ⟨part, .fabric, core, src⟩ c h []).send src 1023 (.refused core c)
  | none =>
    if ver ≤ (s.desc h).vcur then s.send src 1023 (.published (hKey h) (s.desc h).vcur s.pkg 1023)
    else { s with subs := (src, hKey h, ver) :: s.subs }

/-- A pin of another package's task, or its release (R218, R219). -/
def State.pinHere (s : State) (src part core : Nat) (h : Word) (ver : Option Nat) (holder : Nat) : State :=
  let who := farId src holder
  let key := hKey h
  let drop (s : State) : State :=
    (({ s with pinned := s.pinned.filter fun p => ¬ (p.1 = who ∧ p.2.1 = key) } : State).setVpin key).dropVersions key
  match ver with
  | none => drop s
  | some v =>
    match s.violation ⟨part, .fabric, core, src⟩ h (some 16) with
    | some (c, owner) => (s.logViolation owner ⟨part, .fabric, core, src⟩ c h []).send src 1023 (.refused core c)
    | none =>
      let s := drop s
      if s.mayPin key v then s.addPin who key v else s.send src 1023 (.refused core 0x0E)

/-! ### What is known of other packages' objects (R188, R205) -/

/-- An object homed elsewhere has a new descriptor, or has gone: armed events end with it. A copy of an older version is given up. -/
def State.changedThere (s : State) (key : Nat) (d : Option Desc) : State :=
  if key / 2 ^ 23 = s.pkg then s
  else match d with
    | none =>
      let s := { s with far := mdel s.far key }.allCores fun c => { c with xlate := c.xlate.filter fun k => k ≠ key }
      { s.loseEvents key with descs := mdel s.descs key }
    | some d =>
      match mget s.descs key with
      | none => if (mget s.far key).isSome then { s with far := mput s.far key d } else s
      | some o => if Desc.vcur o = d.vcur then s else { s with descs := mdel s.descs key, far := mput s.far key d }

/-- Lovage brings a copy of a replicated object, or brings it up to date (R188), in pages of this package. Where a task here still
reads an older version under a pin the copy is given up. DESIGN CHOICE: notes/assumptions/50.md. -/
def State.replicaHere (s : State) (key : Nat) (d : Desc) (pages : List (Nat × List Mask)) : State :=
  let h : Word := BitVec.ofNat 64 (key * 2 ^ 32)
  if key / 2 ^ 23 = s.pkg ∨ !d.replicated then s
  else if (s.core :: s.parked).any fun c => c.pins.any fun p => p.home * 2 ^ 23 + p.slot = key then
    { s with descs := mdel s.descs key, far := mput s.far key d }
  else
    let ext := match mget s.descs key with | some o => Desc.ext o | none => 0
    pages.foldl (fun s p =>
      let s := s.providePage key (65536 * p.1)
      p.2.zipIdx.foldl (fun s m => match s.locate h (s.desc h) none (65536 * p.1 + 64 * m.2) with
        | .ok x _ => s.outerWrite x fun _ => m.1
        | _ => s) s) { s with descs := mput s.descs key (Desc.set d 384 52 ext), far := mdel s.far key }

/-! ### Packets (R209, R375) -/

/-- Payload bytes of a packet, and the partition that they are metered to (R356); a value's are metered where it is asked for. DEDUCED:
notes/assumptions/30.md. -/
def State.payload (s : State) : PacketBody → Option (Nat × Nat)
  | .landing core _ => (s.partOf core).map fun k => (k, 512)
  | .value _ _ _ _ => none
  | b => packetLoad b

/-- What a packet that has arrived does. -/
def State.actOn (s : State) (p : Packet) : State :=
  match p.body with
  | .landing core r => s.sched (s.cycle + 1) ptArrive (.landingRowArrival core { r with fromPkg := p.src, fromCore := p.srcCore })
  | .reserve core q => s.sched (s.cycle + 1) ptArrive (.reservationRequest core { q with fromPkg := p.src, fromCore := p.srcCore })
  | .grant core dest w => if (s.coreOf core).lzresOut.contains dest then s.deliverGrant core dest w else s
  | .release core rel => s.sched (s.cycle + 1) ptArrive (.slotReleaseAtTarget core p.src p.srcCore rel)
  | .arrival _ _ _ _ _ | .publish _ _ _ _ _ _ => s.holdRelease p
  | .answer core ch cmd ok => s.clzAnswer core ch cmd ok
  | .marker _ rel path paths alone => s.markerHere p rel path paths alone
  | .subscribe part core h ver => s.subscribeHere p.src part core h ver
  | .pin part core h ver holder => s.pinHere p.src part core h ver holder
  | .done core rel => s.relAnswer p.src core rel none
  | .nacked core rel cause => s.relAnswer p.src core rel (some cause)
  | .published key ver pkg core =>
    let w := if pkg = s.pkg then s.ownPublish key core else (24, 0, 0)
    s.fireAll key ver w.1 w.2.1 w.2.2
  | .access a => s.outerAccess { a with pkg := p.src, kind := .fabric }
  | .element part core h slot cs op data ver => s.elementAccess p.src part core h slot cs op data ver
  | .bits part core kind h slot cs ps => s.bitsAccess p.src part core kind h slot cs ps
  | .feedback part core h off adds => s.feedbackAccess p.src part core h off adds
  | .changed key d => s.changedThere key d
  | .replica key d pages => s.replicaHere key d pages
  | .value _ _ _ _ | .refused _ _ => s

/-- A packet that ends a request of this package. -/
def PacketBody.isAnswer : PacketBody → Bool
  | .grant .. | .answer .. | .done .. | .nacked .. | .value .. | .refused .. => true
  | _ => false

/-- A package that has left the domain answers requests with NACK (R376). -/
def State.nack (s : State) (p : Packet) : State :=
  match p.body with
  | .landing _ r => s.send p.src p.srcCore (.answer p.srcCore r.fromCh r.cmd false)
  | .arrival _ sender _ _ _ => s.send p.src p.srcCore (.nacked p.srcCore sender.rel 0x0F)
  | .release _ _ => s.send p.src p.srcCore (.nacked p.srcCore 0 0x0F)
  | .reserve _ q => s.send p.src p.srcCore (.nacked q.fromCore 0 0x0F)
  | .marker core rel _ _ true => s.send p.src p.srcCore (.nacked core rel 0x0F)
  | .publish _ core _ _ rel _ => s.send p.src p.srcCore (.nacked core rel 0x08)
  | .element _ core .. | .bits _ core .. | .feedback _ core .. | .subscribe _ core .. | .pin _ core .. =>
    s.send p.src p.srcCore (.refused core 0x08)
  | .access a => s.send p.src p.srcCore (.refused a.core 0x08)
  | _ => s

/-- FABRIC_PACKET (R375): a duplicate is dropped by its sequence number. -/
def execFabricPacket (p : Packet) (s : State) : Host.Outcome State Fault Refusal :=
  s.event fun s =>
    if s.seen.contains (p.src, p.seq) then s
    else
      let s := { s with seen := (p.src, p.seq) :: s.seen }
      if !s.members.contains p.src && !PacketBody.isAnswer p.body then s.nack p
      else
        let s := match s.payload p.body with
          | some (k, n) => s.sched s.cycle ptEnd (.meterAdd k 0 10 n)
          | none => s
        s.actOn p

/-! ### Host links and heat (R377, R379) -/

/-- HOST_LINK_DOWN (R377): the other link keeps serving every window. -/
def execHostLinkDown (link : HostLink) (s : State) : Host.Outcome State Fault Refusal :=
  s.event fun s => { s with links := match link with | .iow => (false, s.links.2) | .ioe => (s.links.1, false) }

/-- HOST_LINK_UP (R377). -/
def execHostLinkUp (link : HostLink) (s : State) : Host.Outcome State Fault Refusal :=
  s.event fun s => { s with links := match link with | .iow => (true, s.links.2) | .ioe => (s.links.1, true) }

/-- Gating begins and ends at the boundary of a core cycle, which is the start of an even package cycle: an order that comes at another
time waits for the next (R379). -/
def State.orderGate (s : State) (die : Nat) (on : Bool) : State :=
  s.modDie die fun d => if s.clock % 32 = 0 then { d with gated := on, gateAsk := none } else { d with gateAsk := some on }

/-- THERMAL_GATE (R379). -/
def execThermalGate (die : Nat) (s : State) : Host.Outcome State Fault Refusal :=
  s.event (·.orderGate die true)
/-- THERMAL_UNGATE (R379). -/
def execThermalUngate (die : Nat) (s : State) : Host.Outcome State Fault Refusal :=
  s.event (·.orderGate die false)

/-- Power good comes from outside the package. -/
def Instr.isPowerGood : Instr → Bool
  | .powerGood => true
  | _ => false

/-- THERMAL_SHUTDOWN (R379): power goes without saving state; memory contents are lost. A later power good stays to come. -/
def execThermalShutdown (s : State) : Host.Outcome State Fault Refusal :=
  s.event fun s =>
    { State.reset with power := .off, clock := s.clock, agenda := s.agenda.filter fun e => Instr.isPowerGood e.2 }

/-! ### The boot sequence (R364..R367) -/

/-- The budget of a boot step, in cycles. -/
def bootBudget (b : Nat) : Nat :=
  ([1, 20000000, 100000, 20000000, 200000000, 1600000000, 800000000, 2400000000, 400000000, 10000000] : List Nat).getD b 1

/-- A step begins, and ends within its budget after a free time. DEDUCED: notes/assumptions/32.md. -/
def State.bootStep (s : State) (b : Nat) : State :=
  let (n, s) := s.draw .boot
  { s with bstep := BitVec.ofNat 8 b, bootAt := s.cycle + n % bootBudget b }

/-- POWER_GOOD (R364): the boot begins; after a shutdown, with the package cycle count at zero again. -/
def execPowerGood (s : State) : Host.Outcome State Fault Refusal :=
  s.event fun s =>
    if s.power = .cold then { s with power := .booting }.bootStep 1
    else if s.power = .off then
      { s with power := .booting, clock := 0, agenda := s.agenda.map fun (e : Nat × Instr) => (e.1 - s.clock, e.2) }.bootStep 1
    else s

/-- A boot step fails: the boot stops, and sys0 halts (R364). -/
def State.bootFail (s : State) (detail : BitVec 16) : State :=
  { s with power := .bootFailed, failstep := s.bstep, bdetail := detail }.modCore 768 fun c => { c with state := .halted }

/-- The values of DETAIL that a failed step may leave (R364); the numbers of boundaries and controllers are given for some steps only. -/
def bootDetail (b n : Nat) : Bool :=
  if b = 1 then n == 24 || n == 25
  else if b = 3 then decide (1 ≤ n) && decide (n ≤ 3)
  else if b = 4 then decide (n < 46)
  else if b = 5 then decide (n < 512)
  else if b = 6 ∨ b = 7 then true
  else n == 0

/-- BOOT_STEP_TIMEOUT (R364): step 8 never fails the boot. The event's number is DETAIL where the step's table allows it, else the
step's first value. DEDUCED: notes/assumptions/32.md. -/
def execBootStepTimeout (detail : BitVec 16) (s : State) : Host.Outcome State Fault Refusal :=
  s.event fun s =>
    let b := s.bstep.toNat
    let first : BitVec 16 := if b = 1 then 24 else if b = 3 then 1 else 0
    if s.power = .booting ∧ b ≠ 8 then s.bootFail (if bootDetail b detail.toNat then detail else first) else s

/-- Whether Sorrel accepts the part record's enable masks: each has exactly 32 bits set (R366). -/
def partRecordOk : Bool :=
  (List.range 24).all fun d => ((List.range 34).countP fun i => (Config.partCen d).getLsbD i) == 32

/-- The window of a lane's sweep (R393): the first tap that passes, and the last of the unbroken run that begins there. -/
def sweepWindow (passes : Nat → Bool) : Option (Nat × Nat) :=
  ((List.range 128).find? passes).map fun lo =>
    (lo, (((List.range (128 - lo)).find? fun i => !passes (lo + i)).map fun i => lo + i - 1).getD 127)

/-- The delay that a sweep leaves: the centre of its window, or the last tap tried. -/
def sweepTap : Option (Nat × Nat) → BitVec 7
  | some (lo, hi) => BitVec.ofNat 7 ((lo + hi) / 2)
  | none => 127

/-- Whether lane l of channel c passes the test that p is set to. -/
def Phy.lanePasses (p : Phy) (c l : Nat) : Bool := p.laneErr c l == 0

/-- The windows of the read sweep (R393), lane by lane. -/
def readWindows (c : Nat) : List (Option (Nat × Nat)) :=
  (List.range 66).map fun l => sweepWindow fun t =>
    Phy.lanePasses { phyReset c with patctl := 0x0007000000000100, rdly := Vector.replicate 66 (BitVec.ofNat 7 t) } c l

/-- The channel after the read sweep, set to the write sweep's test. -/
def readTrained (c : Nat) (reads : List (Option (Nat × Nat))) : Phy :=
  { phyReset c with patctl := 0x0007000000000110, rdly := Vector.ofFn fun (i : Fin 66) => sweepTap (reads.getD i.val none) }

/-- The windows of the write sweep; a lane without a read window is not swept. -/
def writeWindows (p : Phy) (c : Nat) (reads : List (Option (Nat × Nat))) : List (Option (Nat × Nat)) :=
  (List.range 66).map fun l =>
    if (reads.getD l none).isNone then none
    else sweepWindow fun t => Phy.lanePasses { p with wdly := Vector.replicate 66 (BitVec.ofNat 7 t) } c l

/-- A lane's write delay after the write sweep. -/
def writeCentre (c : Nat) (reads writes : List (Option (Nat × Nat))) (i : Nat) : BitVec 7 :=
  if (reads.getD i none).isNone then vget (phyReset c).wdly i 0 else sweepTap (writes.getD i none)

/-- The SPARE value that repairs sub-channel i; nothing where it cannot be repaired (R370, R393). -/
def laneRepair (writes : List (Option (Nat × Nat))) (i : Nat) : Option (BitVec 6) :=
  let failed (l : Nat) : Bool := (writes.getD l none).isNone
  match (List.range 32).filter fun l => failed (32 * i + l) with
  | [] => some 0
  | [l] => if failed (64 + i) then none else some (BitVec.ofNat 6 (32 + l))
  | _ => none

/-- A test that has just ended: its results in PATCTL, PATERR and ERRCNT. -/
def Phy.tested (p : Phy) (c : Nat) : Phy :=
  { p with done := true, err := p.errBits c, errcnt := BitVec.ofNat 32 (p.errCount c) }

/-- Training of channel c as Sorrel runs it (R393): what it leaves, and the code that it returns: 0, 1 for a channel that cannot be
repaired, 2 for a confirmation that fails. -/
def trainPhy (c : Nat) : Phy × Nat :=
  let reads := readWindows c
  let p := readTrained c reads
  let writes := writeWindows p c reads
  let p := { p with wdly := Vector.ofFn fun (i : Fin 66) => writeCentre c reads writes i.val }
  match laneRepair writes 0, laneRepair writes 1 with
  | some a, some b =>
    let p := Phy.tested { p with spare := #v[a, b], patctl := 0x00FF000005A5A510 } c
    if (List.range 66).any fun l => (writes.getD l none).isSome && p.err.getLsbD l then (p, 2) else ({ p with en := true }, 0)
  | a, b => (Phy.tested { p with spare := #v[a.getD 0, b.getD 0] } c, 1)

/-- What has been done when a step has succeeded. -/
def State.bootDone (s : State) (b : Nat) : State :=
  if b = 2 then
    (List.range 16).foldl (fun s i => s.modCore (768 + i) fun c => { c with state := .running, wfi := decide (0 < i) }) s
  else if b = 5 then { s with phys := (List.range 512).map fun c => (c, (trainPhy c).1) }
  else if b = 7 then
    (List.range 72).foldl (fun s n => if fitted n then s.setPort n true else s) { s with mem := [], lineKey := [] }
  else if b = 8 then { s with ports := s.ports.map fun p => if p.2.st = .training then (p.1, { p.2 with st := .failed }) else p }
  else if b = 9 then
    { (List.range 15).foldl (fun s i => s.modCore (769 + i) fun c => { c with wfi := false }) s with power := .ready }
  else s

/-- The boot at the end of a cycle. -/
def State.pollBoot (s : State) : State :=
  if s.power = .booting ∧ s.bootAt ≤ s.cycle then
    let b := s.bstep.toNat
    if b = 3 ∧ Config.partSigned = false then s.bootFail 1
    else if b = 3 ∧ partRecordOk = false then s.bootFail 2
    else if b = 3 ∧ Config.romMatch = false then s.bootFail 3
    else match (if b = 5 then (List.range 512).find? fun c => (trainPhy c).2 ≠ 0 else none) with
    | some c => ({ s with phys := (List.range (c + 1)).map fun i => (i, (trainPhy i).1) }).bootFail (BitVec.ofNat 16 c)
    | none =>
    let s := s.bootDone b
    if b < 9 then s.bootStep (b + 1) else { s with bstep := 10 }
  else s

/-- BOOTSTAT (R365). -/
def State.bootstat (s : State) : Word :=
  BitVec.ofNat 64 (place 24 8 s.failstep.toNat + place 16 8 s.bstep.toNat + s.bdetail.toNat)

end Sys2Proof.Machine
end

