-- ==== Sys2Proof/Machine/System.lean ====
section
/-! DEFINITION. Class 14, the system words (R334..R342): traps, the arithmetic fence, checks, identity, system registers and
interrupts, physical access with the registers of control space (R288, R317, R331, R369, R374), translations and watchpoints. -/

namespace Sys2Proof.Machine

open Sys2Proof

/-! ### trap, sysc, brk, tfence, chk, vchk, ident (R335..R338) -/

/-- `trap` (R335). -/
def execTrap (i : BitVec 16) (s : State) : Host.Outcome State Fault Refusal :=
  s.word (.trap i) fun s => s.fault 0x13 (i.zeroExtend 64)
/-- `sysc` (R335). -/
def execSysc (i : BitVec 16) (s : State) : Host.Outcome State Fault Refusal :=
  s.word (.sysc i) fun s => s.fault 0x13 (i.zeroExtend 64 ||| 0x10000)
/-- `brk` (R335). -/
def execBrk (i : BitVec 16) (s : State) : Host.Outcome State Fault Refusal :=
  s.word (.brk i) fun s => s.fault 0x12 (i.zeroExtend 64)

/-- FLAGS AND TE (R336). -/
def Arch.enabledFlags (a : Arch) : BitVec 7 := a.flags &&& a.vfmt.extractLsb' 8 7

/-- `tfence` (R336), once what it waits for has landed. -/
def execTfence (s : State) : Host.Outcome State Fault Refusal :=
  s.word .tfence fun s =>
    if s.core.arch.enabledFlags = 0 then s else s.fault 0x14 (s.core.arch.enabledFlags.zeroExtend 64)

/-- `chk` (R337). -/
def execChk (a b : XReg) (s : State) : Host.Outcome State Fault Refusal :=
  s.word (.chk a b) fun s => if s.getX a = s.getX b then s else s.fault 0x15 (s.getX a) (s.getX b)

/-- The lowest differing byte of two vectors, over n visible bytes. -/
def firstDiff (a b : Vec) (n : Nat) : Option Nat := (List.range n).find? fun i => elem 8 a i != elem 8 b i

/-- `vchk` (R337): under delayed lockstep the visible clusters only. -/
def execVchk (a b : XReg) (s : State) : Host.Outcome State Fault Refusal :=
  s.word (.vchk a b) fun s =>
    match firstDiff (s.getV a).data (s.getV b).data (s.visible 8) with
    | some i => s.fault 0x15 (BitVec.ofNat 64 i)
    | none => if (s.getV a).tag = (s.getV b).tag then s else s.fault 0x15 512

/-- The physical core that carries a core's logical id (R338, R367). -/
def Core.phys (c : Core) : Nat :=
  if c.isSys then c.id - 768
  else c.remap.getD (((List.range 34).filter fun p => (Config.partCen (dieOfCore c.id)).getLsbD p).getD (c.id % 32) 0)

/-- The identity word (R338). -/
def identWord (pkg core phys die : Nat) (sys lock : Bool) : Word :=
  BitVec.ofNat 64 (place 48 16 0xD24A + place 40 8 Config.partRev.toNat + place 31 9 pkg + place 16 10 core +
    place 10 6 phys + place 5 5 die + (if sys then 16 else 0) + (if lock then 8 else 0))

def Core.dieNo (c : Core) : Nat := if c.isSys then (if c.id < 776 then 24 else 25) else dieOfCore c.id

/-- `ident` (R338). -/
def execIdent (d : XReg) (s : State) : Host.Outcome State Fault Refusal :=
  s.word (.ident d) fun s =>
    s.writeX d (identWord s.pkg s.core.id s.core.phys s.core.dieNo s.core.isSys (!s.core.isSys && s.core.tk.lock)) 1

/-! ### System registers and interrupts (R339) -/

/-- `eret` (R339). -/
def execEret (s : State) : Host.Outcome State Fault Refusal := s.systemWord .eret State.returnTrap

/-- Pending and enabled sources. -/
def Core.pending (c : Core) : BitVec 7 := c.sipend &&& c.sien.truncate 7

/-- `wfi` (R339). -/
def execWfi (s : State) : Host.Outcome State Fault Refusal :=
  s.systemWord .wfi fun s => s.onCore fun c => { c with wfi := c.pending == 0 }

/-- A system register as `mfsr` reads it. -/
def State.readSr (s : State) (n : Nat) : Word :=
  let c := s.core
  if n = 0 then c.sstat else if n = 1 then c.sepc else if n = 2 then c.scause else if n = 3 then c.sinfo
  else if n = 4 then c.svec else if n = 5 then c.sipend.zeroExtend 64 else if n = 6 then c.sien
  else if n = 7 then BitVec.ofNat 64 s.cycle
  else if 0x10 ≤ n then vget c.sscr (n - 0x10) 0 else 0

/-- `mfsr` (R339). -/
def execMfsr (d : XReg) (sr : BitVec 12) (s : State) : Host.Outcome State Fault Refusal :=
  s.systemWord (.mfsr d sr) fun s => s.writeX d (s.readSr sr.toNat) 1

/-- A write of a system register; SSTAT keeps its two bits, SIEN one bit per source. -/
def Core.writeSr (c : Core) (n : Nat) (w : Word) : Core :=
  if n = 0 then { c with sstat := w &&& 3 }
  else if n = 1 then { c with sepc := w }
  else if n = 2 then { c with scause := w }
  else if n = 3 then { c with sinfo := w }
  else if n = 4 then { c with svec := w }
  else if n = 6 then { c with sien := w &&& 0x7F }
  else if 0x10 ≤ n then { c with sscr := vset c.sscr (n - 0x10) w } else c

/-- `mtsr` (R339). -/
def execMtsr (d : XReg) (sr : BitVec 12) (s : State) : Host.Outcome State Fault Refusal :=
  s.systemWord (.mtsr d sr) fun s => s.onCore fun c => c.writeSr sr.toNat (s.getX d)

/-- An interrupt is taken at a group boundary of a core: the lowest pending and enabled source. The source's bit clears, but
for source 0, which follows the fault queue; SINFO has no stated value. DEDUCED: notes/assumptions/21.md. -/
def State.takeInterrupt (s : State) (i : Nat) : State :=
  let c := s.coreOf i
  if !c.isSys || !c.sstat.getLsbD 0 || c.pending == 0 || c.state != .running then s
  else
    let src := ((List.range 7).find? fun k => c.pending.getLsbD k).getD 0
    let s := s.modCore i fun c =>
      { c with sepc := c.arch.pc, scause := BitVec.ofNat 64 (0x80 + src), sinfo := BitVec.ofNat 64 (Config.freeNat s.fresh),
               sstat := 2, arch := { c.arch with pc := c.svec }, issueAt := s.cycle + 3, wfi := false,
               sipend := if src = 0 then c.sipend else c.sipend &&& ~~~(BitVec.ofNat 7 (2 ^ src)) }
    { s with fresh := s.fresh + 1 }

/-- INTERRUPT (R339). -/
def execInterrupt (core : Nat) (s : State) : Host.Outcome State Fault Refusal := s.event fun s => s.takeInterrupt core

/-! ### The core control block (R317, R318) -/

def stateCode : CState → Nat
  | .idle => 0 | .running => 1 | .halted => 2 | .stopping => 3 | .stopped => 4 | .saved => 5 | .recovering => 6 | .retired => 7

def State.ccRead (s : State) (i off : Nat) : Word :=
  let c := s.coreOf i
  if off = 0 then BitVec.ofNat 64 (stateCode c.state)
  else if off = 8 then c.rpc
  else if off = 0x10 then c.clack.zeroExtend 64
  else if off = 0x18 then c.ctxa
  else if off = 0x20 then BitVec.ofNat 64 (place 32 16 c.retries.toNat + place 16 16 c.prestart.toNat + c.ckpts % 2 ^ 16)
  else if 0x40 ≤ off ∧ off < 0x80 then BitVec.ofNat 64 (c.frec.toNat / 2 ^ (8 * (off - 0x40)))
  else if 0x200 ≤ off ∧ off < 0x400 then c.arch.getX (BitVec.ofNat 6 ((off - 0x200) / 8))
  else 0

/-- A command written to CCTL; 0 and 9..15 do nothing (R318). -/
def State.ccCommand (s : State) (i n : Nat) : State :=
  let run (o : Host.Outcome State Fault Refusal) : State := match o with | .next t => t | _ => s
  if n = 1 then s.stopCore i
  else if n = 2 then run (execCctlResume i s)
  else if n = 3 then run (execResumeNext i s)
  else if n = 4 then run (execResumeAt i s)
  else if n = 5 then s.rollbackCore i
  else if n = 6 then s.saveCore i
  else if n = 7 then s.restoreCore i
  else if n = 8 then s.discardCmd i
  else s

def State.ccWrite (s : State) (i off : Nat) (w : Word) : State :=
  if off = 0 then s.ccCommand i (w.toNat / 16 % 16)
  else if off = 8 then s.modCore i fun c => { c with rpc := w }
  else if off = 0x18 then s.modCore i fun c => { c with ctxa := w }
  else if 0x200 ≤ off ∧ off < 0x400 then s.xregWrite i (BitVec.ofNat 6 ((off - 0x200) / 8)) w
  else s

/-- A read of the fault queue (R317): the oldest entry leaves. Interrupt source 0 goes with the last one. -/
def State.popFault (s : State) : Word × State :=
  match s.faultQ with
  | [] => (0, s)
  | i :: t =>
    let s := { s with faultQ := t }
    (BitVec.ofNat 64 (2 ^ 63 + i), if t.isEmpty then s.sysCores fun c => { c with sipend := c.sipend &&& ~~~1#7 } else s)

/-! ### Control space (R340) -/

/-- The undo-log control block of a partition (R331). -/
def State.undoRead (s : State) (k off : Nat) : Word :=
  match s.part? k with
  | none => 0
  | some p =>
    let u := p.undo
    let st := match u.st with | .idle => 0 | .opened => 1 | .sealed => 2 | .rolling => 3
    if off = 0 then BitVec.ofNat 64 (place 32 32 u.interval.toNat + (if u.lost then 8 else 0) + st)
    else if off = 8 then BitVec.ofNat 64 u.base
    else if off = 0x10 then BitVec.ofNat 64 u.size
    else if off = 0x18 then BitVec.ofNat 64 u.used else 0

/-- The blocks of control space, by offset in space 11 under key id 0. -/
inductive CtlReg where
  | cache (die off : Nat)
  | core (id off : Nat)
  | queue
  | undo (k off : Nat)
  | phy (ch off : Nat)
  | port (n : Nat)
  | other
  deriving DecidableEq, Repr

def ctlReg (pa : Nat) : CtlReg :=
  let a := paOff pa
  if paKey pa ≠ 0 then .other
  else if 0x400000 ≤ a ∧ a < 0x400000 + 24 * 0x10000 then .cache ((a - 0x400000) / 0x10000) (a % 0x10000)
  else if 0x1000000 ≤ a ∧ a < 0x1000000 + 768 * 0x1000 then .core ((a - 0x1000000) / 0x1000) (a % 0x1000)
  else if a = 0x1400000 then .queue
  else if 0x2000000 ≤ a ∧ a < 0x2000000 + 64 * 0x100 then .undo ((a - 0x2000000) / 0x100) (a % 0x100)
  else if 0x10000000 ≤ a ∧ a < 0x10000000 + 512 * 0x1000 then .phy ((a - 0x10000000) / 0x1000) (a % 0x1000)
  else if 0x20000000 ≤ a ∧ a < 0x20000000 + 72 * 0x100 ∧ a % 0x100 = 0 then .port ((a - 0x20000000) / 0x100)
  else .other

/-- A read in control space; unlisted addresses read 0. -/
def State.ctlLoad (s : State) (pa : Nat) : Word × State :=
  match ctlReg pa with
  | .cache d off => (s.cacheReg d off, s)
  | .core i off => (s.ccRead i off, s)
  | .queue => s.popFault
  | .undo k off => (s.undoRead k off, s)
  | .phy c off => s.phyRead c off
  | .port n => s.portRead n
  | .other => (0, s)

/-- A write in control space by core k (1023: by none); read-only and unlisted registers ignore it. One that follows a held write of its
core is held too: all accesses to space 11 are performed in program order (R340, R372). -/
def State.ctlStore (s : State) (k pa : Nat) (w : Word) : State :=
  match s.heldBy k with
  | some ch => s.modPhy ch fun p => { p with held := p.held ++ [(k, pa, w)] }
  | none =>
    match ctlReg pa with
    | .cache d off => s.setCacheReg d off w
    | .core i off => s.ccWrite i off w
    | .phy c off => s.phyWrite k c off w
    | .port n => s.setPort n (w.getLsbD 12)
    | _ => s

/-- Row 0 of bank 0 of both pseudo-channels of a channel (R371): the sectors at the bottom of the stack whose address selects it. How many
a row has is not stated. DESIGN CHOICE: 1 KiB, four units of 256 bytes, and the bytes that a test leaves there are free
(notes/assumptions/31.md). -/
def State.loseTrainingRow (s : State) (ch : Nat) : State :=
  (List.range 32).foldl (fun s i =>
    let sec := ch / 32 * 2 ^ 30 + i / 8 * 256 + ch % 32 * 8 + i % 8
    { s.putSector sec ((mget s.lineKey sec).getD 0) (BitVec.ofNat 512 (Config.freeNat s.fresh)) with fresh := s.fresh + 1 }) s

/-- PATTERN_TEST_END (R371, R372): the results stand, a test that wrote has lost the training row, and held writes are performed in
order. -/
def execPatternTestEnd (ch : Nat) (s : State) : Host.Outcome State Fault Refusal :=
  s.event fun s =>
    let p := s.phy ch
    if !p.busy then s
    else
      let s := s.modPhy ch fun p =>
        { p with busy := false, done := true, err := p.errBits ch, errcnt := BitVec.ofNat 32 (p.errCount ch), held := [] }
      p.held.foldl (fun s w => s.ctlStore w.1 w.2.1 w.2.2) (if p.patMode = 1 then s.loseTrainingRow ch else s)

/-- REGISTER_WRITE (R340). -/
def execRegisterWrite (addr : Nat) (w : Word) (s : State) : Host.Outcome State Fault Refusal :=
  s.event fun s => s.ctlStore 1023 addr w

/-! ### pld, pst, pord (R340) -/

/-- An address that the words refuse (R178, R340): reserved bits, alignment, a key id in spaces 10 and 11, an offset past the
scratchpads. -/
def badPhys (a : Word) : Bool :=
  let pa := a.toNat
  pa / 2 ^ 52 != 0 || pa % 8 != 0 || (decide (2 ≤ paSpace pa) && paKey pa != 0) || (paSpace pa == 2 && decide (768 ≤ paOff pa / 2 ^ 22))

/-- A value on its way to a register of the core from a physical load. -/
def State.physValue (s : State) (d : XReg) (w : Word) : State :=
  let (n, s) := s.draw .physical
  (s.onCore fun c => { c with physOut := c.physOut ++ [d] }).produceX d w (s.cycle + 1 + n)

/-- FAULT_QUEUE_READ (R317): the oldest entry goes to a register of the core at issue. -/
def execFaultQueueRead (dest : XReg) (s : State) : Host.Outcome State Fault Refusal :=
  s.event fun s => let (w, s) := s.popFault; s.physValue dest w

/-- A physical load: HOME 01 accesses in spaces 00 and 01 (R279), scratchpads in space 10, registers in space 11. -/
def State.physLoad (s : State) (d : XReg) (a : Word) : State :=
  let pa := a.toNat
  if badPhys a then s.fault 0x0A 0 a
  else if paSpace pa = 3 then
    let (w, s) := s.ctlLoad pa
    s.physValue d w
  else
    match s.readSector s.core.id ⟨pa / 64 * 64, 1, false⟩ false 3 with
    | (some m, s) => s.physValue d (BitVec.ofNat 64 (m.toNat / 2 ^ (8 * (pa % 64))))
    | (none, s) => s.fault 0x18 (BitVec.ofNat 64 (pa / 64 * 64))

/-- `pld` (R340). -/
def execPld (d a : XReg) (s : State) : Host.Outcome State Fault Refusal :=
  s.systemWord (.pld d a) fun s => s.physLoad d (s.getX a)

/-- Eight bytes of a sector replaced. -/
def putWord64 (m : Mask) (i : Nat) (w : Word) : Mask := BitVec.ofNat 512 (packNat 64 (((List.range 8).map fun k =>
  if k = i then w.toNat else m.toNat / 2 ^ (64 * k) % 2 ^ 64)))

def State.physStore (s : State) (a w : Word) : State :=
  let pa := a.toNat
  if badPhys a then s.fault 0x0A 0 a
  else if paSpace pa = 3 then s.ctlStore s.core.id pa w
  else s.writeSector s.core.id ⟨pa / 64 * 64, 1, false⟩ 3 fun m => putWord64 m (pa % 64 / 8) w

/-- `pst` (R340). -/
def execPst (a b : XReg) (s : State) : Host.Outcome State Fault Refusal :=
  s.systemWord (.pst a b) fun s => s.physStore (s.getX a) (s.getX b)

/-- `pord` (R340): by its issue every earlier `pld` and `pst` has been performed. -/
def execPord (s : State) : Host.Outcome State Fault Refusal := s.systemWord .pord id

/-! ### hinv, wpset, wpclr (R341, R342) -/

/-- `hinv` (R341): by its issue every die has dropped the entries. -/
def execHinv (a : XReg) (s : State) : Host.Outcome State Fault Refusal :=
  s.systemWord (.hinv a) fun s =>
    let h := s.getX a
    { s with far := if h = 0 then [] else mdel s.far (hKey h) }.allCores fun c =>
      { c with xlate := if h = 0 then [] else c.xlate.filter fun k => k ≠ hKey h }

/-- The checks of a watchpoint word, and its object's partition. DEDUCED: notes/assumptions/20.md. -/
def State.watchTarget (s : State) (x : Word) (k : Nat → State → State) : State :=
  let h := x &&& ~~~15#64
  let s := s.learn h
  let q : Requester := ⟨(s.desc h).part, .core, s.core.id, s.pkg⟩
  match s.violation q h none with
  | some (c, _) => s.fault c h
  | none => k (s.desc h).part s

/-- The object's WATCH bit, which Lovage sets before it issues `wpset` (R342): whether it has done so is a free choice. DESIGN CHOICE:
notes/assumptions/37.md. -/
def State.lovageWatch (s : State) (key : Nat) : State :=
  let (n, s) := s.choose 2
  let set_ (m : List (Nat × Desc)) : List (Nat × Desc) := match mget m key with
    | some d => mput m key (Desc.set d 58 1 1)
    | none => m
  if n = 0 then s else { s with descs := set_ s.descs, far := set_ s.far }

/-- `wpset` (R342). -/
def execWpset (a b : XReg) (s : State) : Host.Outcome State Fault Refusal :=
  s.systemWord (.wpset a b) fun s =>
    let x := s.getX a
    s.watchTarget x fun part s =>
      let n := x.toNat % 16
      let w : Watch := { part, n, slot := hKey x % 2 ^ 23, home := hHome x, lo := (s.getX b).toNat, hi := (s.getX (b + 1)).toNat }
      let s := s.lovageWatch (hKey x)
      { s with watches := w :: s.watches.filter fun w => ¬ (w.part = part ∧ w.n = n) }

/-- `wpclr` (R342). -/
def execWpclr (a : XReg) (s : State) : Host.Outcome State Fault Refusal :=
  s.systemWord (.wpclr a) fun s =>
    let x := s.getX a
    s.watchTarget x fun part s => { s with watches := s.watches.filter fun w => ¬ (w.part = part ∧ w.n = x.toNat % 16) }

end Sys2Proof.Machine
end

