-- ==== Sys2Proof/Machine/Host.lean ====
section
/-! DEFINITION. Partitions, keys, meters, snapshots and the host commands (R343..R363), with the undo log's commands
(R332, R333), the fabric's (R376) and the SPDM responder (R361, R362). A command acts when its doorbell is taken, or, where a
rule makes it wait, at the end of the cycle in which its condition holds. -/

namespace Sys2Proof.Machine

open Sys2Proof

/-! ### Meters and quotas (R356..R358) -/

/-- The 64-bit counters stay at their greatest value (R357). -/
def satAdd (a n : Nat) : Nat := min (2 ^ 64 - 1) (a + n)

/-- Whether a partition's own quota of a meter is met (R358). -/
def Meters.met (m : Meters) (i : Nat) : Bool :=
  vget m.quota i 0 != 0 && decide (vget m.quota i 0 ≤ vget m.count i 0)

/-- Whether a region's effective quota of a meter is met (R358). -/
def State.regionMet (s : State) (r : Region) (i : Nat) : Bool :=
  s.effQuota r.rid i != 0 && decide (s.effQuota r.rid i ≤ vget r.sums i 0)

/-- What follows when a quota is met (R358): the bit, the DRAIN of a region, and both functions' vector 1. DEDUCED: notes/assumptions/28.md. -/
def State.quotaMet (s : State) (k rid i : Nat) : State :=
  let s := s.modPart k fun p =>
    { p with meters := { p.meters with hit := p.meters.hit ||| BitVec.ofNat 14 (2 ^ i) } }
  (({ s with msis := s.msis ++ [Msi.mk k 1, Msi.mk 0 1] }).sysPend 4).drain rid

/-- An addition to meter i of partition k, made by a task of region `rid` (0 for none): the counter, the sums of the regions
whose subtree holds the task, and the quotas that it
meets. One DRAIN starts, of the outermost region concerned. DESIGN CHOICE: notes/assumptions/42.md. -/
def State.meterAdd (s : State) (k rid i n : Nat) : State :=
  match s.part? k with
  | none => s
  | some p =>
    let mine (r : Region) : Bool := r.part = k && s.isIn rid r.rid
    let s1 := s.modPart k fun p =>
      { p with meters := { p.meters with count := vset p.meters.count i (satAdd (vget p.meters.count i 0) n) } }
    let count (r : Region) : Region := if mine r then { r with sums := vset r.sums i (vget r.sums i 0 + n) } else r
    let s1 := { s1 with regions := s1.regions.map count }
    let now := (s1.regions.filter fun r => mine r && s1.regionMet r i && !(s.regions.any fun q => q.rid = r.rid && s.regionMet q i))
    if ((s1.part? k).any fun q => q.meters.met i) && !p.meters.met i then s1.quotaMet k p.root i
    else match now.find? fun r => now.all fun q => s.isIn q.rid r.rid with
      | some r => s1.quotaMet k r.rid i
      | none => s1

/-- METER_ADD (R357). -/
def execMeterAdd (part rid meter n : Nat) (s : State) : Host.Outcome State Fault Refusal :=
  s.event fun s => s.meterAdd part rid meter n

/-! ### Command windows (R347..R351) -/

/-- A result word that a command does not list, and every one where it lists none, is free. -/
def freeWord (n i : Nat) : Word := BitVec.ofNat 64 (Config.freeNat n / 2 ^ (64 * i))

/-- The end of a command (R350): its results, its code, SEQ, and the function's vector 0. -/
def State.finish (s : State) (win : Nat) (code : BitVec 8) (res : List Word := []) (data : List (BitVec 8) := []) : State :=
  let s := s.modWindow win fun w =>
    { w with res := Vector.ofFn fun i => res.getD i.val (freeWord s.fresh i.val), data, code, seq := w.seq + 1, st := 2 }
  { s with fresh := s.fresh + 1, msis := s.msis ++ [Msi.mk win 0] }

/-- An argument word of the window's command. -/
def State.arg (s : State) (win i : Nat) : Word := vget (s.window win).args i 0
def State.argN (s : State) (win i : Nat) : Nat := (s.arg win i).toNat

/-- A doorbell of a command that takes `n` arguments and that the system window (`sys`) or a partition window (`part`) allows
(R347, R350..R352): ignored while BUSY, and in the window of a partition that is not live; while the package is not READY only
IDENT and STATUS are run (R364). DEDUCED: notes/assumptions/26.md. -/
def State.command (s : State) (win op n : Nat) (sys part : Bool) (run : State → State) : State :=
  if 64 ≤ win || (win != 0 && (s.part? win).isNone) || s.power == .cold || s.power == .off then s
  else if (s.window win).st = 1 then s.modWindow win fun w => { w with reject := w.reject + 1 }
  else
    let s := (s.modWindow win fun w =>
      { w with st := 1, opc := BitVec.ofNat 8 op, start := s.cycle, work := 0 }).sysPend 3
    if s.power ≠ .ready ∧ op ≠ 1 ∧ op ≠ 2 then s.finish win 0x05
    else if !(if win = 0 then sys else part) then s.finish win 0x01
    else if ((s.window win).args.toList.drop n).any fun w => w != 0 then s.finish win 0x02
    else run s

/-- The live partition that a system command names. DEDUCED: notes/assumptions/26.md. -/
def State.withPart (s : State) (win : Nat) (run : Part → State) : State :=
  if s.argN win 0 = 0 ∨ 63 < s.argN win 0 then s.finish win 0x02
  else match s.part? (s.argN win 0) with | none => s.finish win 0x05 | some p => run p

/-- The region of the window's partition that a command names (R355). -/
def State.withRegion (s : State) (win i : Nat) (run : Region → State) : State :=
  match s.regions.find? fun r => r.rid = s.argN win i && r.part = win with
  | none => s.finish win 0x02
  | some r => run r

/-! ### IDENT and STATUS -/

/-- IDENT (R352): the identity word, and the part record's version (R366). -/
def State.runIdent (s : State) (win : Nat) : State := s.finish win 0 [identWord s.pkg 0 0 0 true false, 1]

def execIdentCmd (win : Nat) (s : State) : Host.Outcome State Fault Refusal :=
  s.event fun s => s.command win 0x01 0 true true fun s => s.runIdent win

/-- STATUS (R352). -/
def State.runStatus (s : State) (win : Nat) : State :=
  let halted := s.cores.any fun c => c.isSys && c.state == .halted
  let w0 := (if s.power = .ready then 1 else 0) + (if halted then 2 else 0) + place 8 8 s.parts.length
  let w1 :=
    if win = 0 then (s.parts.map fun p => if p.meters.hit = 0 then 0 else 2 ^ (p.k - 1)).foldl (· + ·) 0
    else match s.part? win with | some p => p.meters.hit.toNat | none => 0
  s.finish win 0 [BitVec.ofNat 64 w0, BitVec.ofNat 64 w1]

def execStatus (win : Nat) (s : State) : Host.Outcome State Fault Refusal :=
  s.event fun s => s.command win 0x02 0 true true fun s => s.runStatus win

/-! ### Partitions (R343, R344, R353) -/

/-- Fields of PART_CREATE's arguments. -/
def State.argCores (s : State) (win : Nat) : BitVec 768 :=
  BitVec.ofNat 768 (packNat 64 ((List.range 12).map fun i => s.argN win (1 + i)))
def State.argMsc (s : State) (win : Nat) : Vector (BitVec 16) 3 :=
  Vector.ofFn fun i => BitVec.ofNat 16 (fieldN (s.arg win 14) (16 * i.val) 14)

/-- The way masks of a key id on every die. -/
def State.setMasks (s : State) (k : Nat) (l2 : BitVec 16) (msc : Vector (BitVec 16) 3) : State :=
  (List.range 24).foldl (fun s d =>
    (((s.setL2way d k l2).setMscway d k 0 msc[0]).setMscway d k 1 msc[1]).setMscway d k 3 msc[2]) s

/-- Whether a partition's cores, L2 ways or cache ways overlap (R344). -/
def State.overlaps (s : State) (cores : BitVec 768) (l2 : BitVec 16) (msc : Vector (BitVec 16) 3) : Bool :=
  s.parts.any fun p =>
    (match s.region? p.root with | some r => r.coreset &&& cores != 0 | none => false) ||
    p.l2way &&& l2 != 0 || (List.range 3).any fun i => vget p.mscway i 0 &&& vget msc i 0 != 0

/-- The first id from n on that no region has (R289). -/
def freeRidFrom (used : List Nat) (n : Nat) : Nat → Nat
  | 0 => n
  | k + 1 => if used.contains n then freeRidFrom used (n % 65535 + 1) k else n

/-- The id of the next region that Lovage makes. -/
def State.freeRid (s : State) : Nat := freeRidFrom (s.regions.map (·.rid)) s.nextRid (s.regions.length + 1)

/-- PART_CREATE (R353): the root's control block stands at a page that Lovage takes. -/
def State.runPartCreate (s : State) (win : Nat) : State :=
  let k := s.argN win 0
  let cores := s.argCores win
  let l2 : BitVec 16 := (s.arg win 13).truncate 16
  let a14 := s.argN win 14
  let a15 := s.argN win 15
  if k = 0 ∨ 63 < k then s.finish win 0x02
  else if (s.part? k).isSome then s.finish win 0x05
  else if cores = 0 ∨ 2 ^ 16 ≤ s.argN win 13 ∨ a14 % 2 ^ 16 / 2 ^ 14 ≠ 0 ∨ a14 / 2 ^ 16 % 2 ^ 16 / 2 ^ 14 ≠ 0 ∨ a14 / 2 ^ 46 ≠ 0 ∨
      a15 % 4 ≠ 0 ∨ a15 / 256 ≠ 0 ∨ a15 / 32 % 4 = 3 then s.finish win 0x02
  else if s.overlaps cores l2 (s.argMsc win) then s.finish win 0x03
  else
    let rid := s.freeRid
    let (addr, s) := s.takePage false
    let r : Region :=
      { rid, addr, part := k, parent := none, coreset := cores, lock := a15 / 128 % 2 == 1, fpol := BitVec.ofNat 2 (a15 / 32),
        prio := BitVec.ofNat 3 (a15 / 4) }
    let nonce := Config.drbg s.fresh % 2 ^ 256
    let p : Part := { k, root := rid, meters := { nonce }, l2way := l2, mscway := s.argMsc win }
    let s := { s with
      fresh := s.fresh + 1, nextRid := rid % 65535 + 1, regions := s.regions ++ [r], parts := s.parts ++ [p],
      keys := mdel s.keys k, finals := mdel s.finals k, vlogs := mdel s.vlogs k, windows := mdel s.windows k }
    (s.setMasks k l2 p.mscway).finish win 0 [BitVec.ofNat 64 rid]

def execPartCreate (win : Nat) (s : State) : Host.Outcome State Fault Refusal :=
  s.event fun s => s.command win 0x03 16 true false fun s => s.runPartCreate win

/-! ### Keys (R346, R287) -/

/-- A new key for a key id: data written under an earlier one no longer reads as written, and every die serves the key id again (R287,
R345, R346). -/
def State.installKey (s : State) (k : Nat) : State :=
  { s with
    keys := mput s.keys k .live, keyLoads := mput s.keyLoads k ((mget s.keyLoads k).getD 0 + 1)
    dies := s.dies.map fun d => { d with refuses := d.refuses &&& ~~~BitVec.ofNat 64 (2 ^ k) } }

/-- KEY_LOAD (R353): the bytes staged in the session are installed and erased (R362). The session names one key for k at most. -/
def State.runKeyLoad (s : State) (win : Nat) : State :=
  s.withPart win fun p =>
    if mget s.keys p.k = some .live then s.finish win 0x05
    else if s.sessions.any fun x => x.id = s.argN win 1 && (mget x.staged p.k).isSome then
      let used (x : Session) : Session := if x.id = s.argN win 1 then { x with staged := mdel x.staged p.k } else x
      let staged := s.sessions.findSome? fun x => if x.id = s.argN win 1 then mget x.staged p.k else none
      let s := { s with sessions := s.sessions.map used }.installKey p.k
      { s with keyBytes := mput s.keyBytes (s.keyTag p.k) (staged.getD 0) }.finish win 0
    else s.finish win 0x09

def execKeyLoad (win : Nat) (s : State) : Host.Outcome State Fault Refusal :=
  s.event fun s => s.command win 0x06 2 true false fun s => s.runKeyLoad win

/-- KEY_GEN (R346). -/
def State.runKeyGen (s : State) (win : Nat) : State :=
  s.withPart win fun p => if mget s.keys p.k = some .live then s.finish win 0x05 else (s.installKey p.k).finish win 0

def execKeyGen (win : Nat) (s : State) : Host.Outcome State Fault Refusal :=
  s.event fun s => s.command win 0x07 1 true false fun s => s.runKeyGen win

/-- The destruction of a key id on every die begins (R287), once no die scrubs another key: the key is DEAD, and accesses under it are
refused everywhere (R346). -/
def State.scrubAll (s : State) (k : Nat) : State :=
  (List.range 24).foldl (fun s d => (s.modDie d fun x => { x with kkey := BitVec.ofNat 6 k }).scrub d)
    { s with keys := mput s.keys k .dead }

def State.scrubbing (s : State) : Bool := s.dies.toList.any (·.kbusy)

/-- KEY_KILL (R346, R287): it completes once every die has finished. -/
def State.runKeyKill (s : State) (win : Nat) : State :=
  s.withPart win fun p => if mget s.keys p.k = some .live then s else s.finish win 0x05

def execKeyKill (win : Nat) (s : State) : Host.Outcome State Fault Refusal :=
  s.event fun s => s.command win 0x08 1 true false fun s => s.runKeyKill win

/-! ### Quotas -/

/-- PART_QUOTA (R352, R358). DEDUCED: notes/assumptions/28.md. -/
def State.runPartQuota (s : State) (win : Nat) : State :=
  s.withPart win fun p =>
    let i := s.argN win 1
    if 13 < i then s.finish win 0x02
    else
      let old := vget p.meters.quota i 0
      let s := s.modPart p.k fun p => { p with meters := { p.meters with quota := vset p.meters.quota i (s.argN win 2) } }
      let met := (s.part? p.k).any fun p => p.meters.met i
      let held := s.regions.any fun r => r.part = p.k && s.regionMet r i
      let s :=
        if met then (if p.meters.met i then s else s.quotaMet p.k p.root i)
        else if held then s
        else s.modPart p.k fun p =>
          { p with meters := { p.meters with hit := p.meters.hit &&& ~~~BitVec.ofNat 14 (2 ^ i) } }
      s.finish win 0 [BitVec.ofNat 64 old]

def execPartQuota (win : Nat) (s : State) : Host.Outcome State Fault Refusal :=
  s.event fun s => s.command win 0x05 3 true false fun s => s.runPartQuota win

/-! ### Objects (R179, R354) -/

/-- The descriptor that OBJ_CREATE's arguments ask for, without STATE, PART, GEN and EXT. -/
def State.argDesc (s : State) (win : Nat) : Desc :=
  BitVec.ofNat 512 (s.argN win 0 + s.argN win 1 * 2 ^ 64 + s.argN win 2 * 2 ^ 128 + s.argN win 3 * 2 ^ 192 +
    s.argN win 5 % 2 ^ 32 * 2 ^ 288 + s.argN win 6 * 2 ^ 320 + s.argN win 4 % 2 ^ 48 * 2 ^ 448)

/-- Reserved bits, and fields whose value their table excludes (R176). DEDUCED: notes/assumptions/27.md. -/
def State.argsBad (s : State) (win : Nat) : Bool :=
  let d := s.argDesc win
  d.f 0 28 != 0 || d.f 58 6 != 0 || d.shaxis == 6 || decide (2 ^ 32 ≤ s.argN win 5) || decide (2 ≤ s.argN win 7) ||
  s.argN win 4 % 65536 != 0 || decide (2 ^ 39 < s.argN win 4) ||
  (if d.layout = 2 then d.wlev == 0 else d.wlev != 0 || d.waxis != 0) ||
  (if d.shaxis = 7 then d.shmap != 0 else d.shblk == 0)

/-- The shard that serves a byte of a sharded object. -/
def Desc.shardAt (d : Desc) (o : Nat) : Nat := (d.coordsAt o).getD d.shaxis 0 / d.shblk

/-- The shards that a byte of an object holds bits of, those of all elements of its tile where it stands in the slot of a coefficient
tile; none for a byte past the last element or scale (R181, R184). -/
def Desc.shardsOf (d : Desc) (o : Nat) : List Nat :=
  let n := prodL d.dims
  if d.dataEnd ≤ o then
    if d.fmt = 12 ∧ o < d.superAt ∧ n ≤ (o - d.dataEnd) * 64 then [] else [d.shardAt o]
  else if d.layout = 1 then [d.shardAt o]
  else if d.layout = 2 then
    let c := (d.coordsAt o).getD d.shaxis 0
    let n := if d.shaxis = d.waxis then d.npos else if d.shaxis + 1 = d.rank then d.e else 1
    [c / d.shblk, (c + n - 1) / d.shblk]
  else
    ((List.range (8 / min 8 d.w)).filter fun i => decide ((8 * o + i * d.w) / d.w < n)).map fun i =>
      (coordsOf d.dims ((8 * o + i * d.w) / d.w)).getD d.shaxis 0 / d.shblk

/-- Whether each 64 KiB page of a sharded object holds bytes of one shard only (R179). -/
def Desc.pagesWhole (d : Desc) : Bool :=
  (List.range ((d.regionsEnd + 65535) / 65536)).all fun p =>
    let l := (List.range (min 65536 (d.regionsEnd - 65536 * p))).flatMap fun i => d.shardsOf (65536 * p + i)
    l.all fun k => k == l.headD 0

/-- The conditions of R179. -/
def Desc.wellMade (d : Desc) : Bool :=
  let last := d.dims.getD (d.rank - 1) 0
  decide (1 ≤ d.rank) && decide (d.rank ≤ 6) && decide (d.layout ≤ 2) && decide (d.fmt ≤ 13) &&
  d.dims.all (fun n => n != 0) && ((List.range 6).all fun i => decide (i < d.rank) || d.f (64 + 32 * i) 32 == 0) &&
  (if d.fmt = 11 then last % 32 == 0 else if d.fmt = 12 then last % 64 == 0 else true) &&
  (if d.layout = 1 then
     decide (2 ≤ d.rank) && last * d.w % 4096 == 0 && d.dims.getD (d.rank - 2) 0 % 128 == 0
   else if d.layout = 2 then
     (d.fmt == 0 || d.fmt == 1 || d.fmt == 2) && decide (2 ≤ d.rank) && decide (d.waxis < d.rank - 1) &&
     last * d.w % 4096 == 0 && d.npos % 2 ^ d.wlev == 0 && d.dims.getD d.waxis 0 % d.npos == 0
   else true) &&
  decide (d.regionsEnd ≤ d.extent) &&
  (d.shaxis == 7 || (!d.replicated && decide (d.shaxis < d.rank) && d.pagesWhole))

/-- The lowest free slot of the object table. -/
def State.freeSlot (s : State) : Option Nat :=
  (List.range (min (2 ^ 23) (s.descs.length + 1))).find? fun i =>
    let d : Desc := (mget s.descs (s.pkg * 2 ^ 23 + i)).getD 0
    d.state = 0

/-- A handle of an object with rights (R174). -/
def handleOf (key gen rights : Nat) : Word := BitVec.ofNat 64 (key * 2 ^ 32 + place 12 20 gen + place 4 8 rights)

/-- Pages for the pool of an object's copies, as many as Lovage chooses (R202). DEDUCED: notes/assumptions/27.md. -/
def State.fillPool (s : State) (key : Nat) : State :=
  let (n, s) := s.choose 8
  (List.range n).foldl (fun s _ => s.addPool key) s

/-- OBJ_CREATE (R354): no page is installed; version 0 is kept (R201). -/
def State.runObjCreate (s : State) (win : Nat) : State :=
  let d := s.argDesc win
  if s.argsBad win then s.finish win 0x02
  else if !d.wellMade then s.finish win 0x07
  else if mget s.keys win ≠ some .live then s.finish win 0x09
  else match s.freeSlot with
  | none => s.finish win 0x04
  | some slot =>
    let key := s.pkg * 2 ^ 23 + slot
    let gen := Desc.gen ((mget s.descs key).getD 0)
    let (ext, s) := s.newTable 0
    let d := (((d.set 0 2 1).set 2 6 win).set 8 20 gen).set 384 52 ext
    let s := { s with
      descs := mput s.descs key d, kept := ⟨key, 0, []⟩ :: s.kept,
      lpdFirst := if s.argN win 7 = 1 then key :: s.lpdFirst else s.lpdFirst }
    (s.fillPool key).finish win 0 [handleOf key gen d.rights]

def execObjCreate (win : Nat) (s : State) : Host.Outcome State Fault Refusal :=
  s.event fun s => s.command win 0x09 8 false true fun s => s.runObjCreate win

/-- The steps of OBJ_DESTROY (R354): GEN rises, or the slot retires; armed events end; pages and grants go. -/
def State.destroyObject (s : State) (key : Nat) : State :=
  let d : Desc := (mget s.descs key).getD 0
  let g := d.gen + 1
  let d := ((d.set 0 2 (if 2 ^ 20 - 1 ≤ g then 3 else 0)).set 8 20 g).set 436 2 0
  (({ s with
      descs := mput s.descs key d
      kept := s.kept.filter fun k => k.slot ≠ key
      pool := s.pool.filter fun p => p.1 ≠ key
      pubs := s.pubs.filter fun p => p.slot ≠ key
      pinned := s.pinned.filter fun p => p.2.1 ≠ key
      grants := s.grants.filter fun g => g.slot ≠ key
      watches := s.watches.filter fun w => w.home * 2 ^ 23 + w.slot ≠ key
      subs := s.subs.filter fun r => r.2.1 ≠ key
      lpdFirst := s.lpdFirst.filter fun k => k ≠ key }).loseEvents key).tellChange key none

/-- The host's check of a handle of this package's objects (R189): a violation is logged, and the command returns 0x06. -/
def State.withHandle (s : State) (win : Nat) (h : Word) (need : Nat) (run : State → State) : State :=
  match s.violation ⟨win, .host, 1023, s.pkg⟩ h (some need) with
  | some (c, owner) => (s.logViolation owner ⟨win, .host, 1023, s.pkg⟩ c h []).finish win 0x06
  | none => if hHome h = s.pkg then run s else s.finish win 0x06

/-- Whether accesses to an object that have been resolved are still to complete (R187). -/
def State.objectBusy (s : State) (key : Nat) : Bool := s.cores.any fun c => s.usesObject c (some key)

/-- OBJ_DESTROY (R354): it first lets the accesses that have been resolved complete. -/
def State.runObjDestroy (s : State) (win : Nat) : State :=
  let h := s.arg win 0
  s.withHandle win h 0 fun s =>
    let d := s.desc h
    if d.part ≠ win ∨ hRights h ≠ d.rights then s.finish win 0x06
    else if d.f 436 2 ≠ 0 then s.finish win 0x05
    else if s.objectBusy (hKey h) then s
    else (s.destroyObject (hKey h)).finish win 0

def execObjDestroy (win : Nat) (s : State) : Host.Outcome State Fault Refusal :=
  s.event fun s => s.command win 0x0A 1 false true fun s => s.runObjDestroy win

/-- OBJ_SHARE (R354). -/
def State.runObjShare (s : State) (win : Nat) : State :=
  let h := s.arg win 0
  let t := s.argN win 1
  let r := s.argN win 2
  if t = 0 ∨ 63 < t ∨ t = win ∨ 255 < r ∨ lacks r (hRights h) ∨ r / 32 % 2 = 1 then s.finish win 0x02
  else if (s.part? t).isNone then s.finish win 0x05
  else s.withHandle win h 32 fun s =>
    let key := hKey h
    let others := s.grants.filter fun g => ¬ (g.slot = key ∧ g.target = t)
    if r = 0 then { s with grants := others }.finish win 0 [handleOf key (hGen h) 0]
    else if 8 ≤ (others.filter fun g => g.slot = key).length then s.finish win 0x04
    else { s with grants := ⟨key, t, BitVec.ofNat 8 r⟩ :: others }.finish win 0 [handleOf key (hGen h) r]

def execObjShare (win : Nat) (s : State) : Host.Outcome State Fault Refusal :=
  s.event fun s => s.command win 0x0B 3 false true fun s => s.runObjShare win

/-! ### Graph images (R294..R299, R355) -/

/-- Whether fields (place, width) of the record at a byte are all 0. -/
def zeroFields (img : List (BitVec 8)) (at_ : Nat) (l : List (Nat × Nat)) : Bool :=
  l.all fun p => imgField img at_ p.1 p.2 == 0

/-- The byte at which a node's input record begins, and that of a dependence. -/
def inputAt (img : List (BitVec 8)) (i n : Nat) : Nat := (nodeInBase img i + n) * 128
def depAt (img : List (BitVec 8)) (i n : Nat) : Nat := (nodeDepBase img i + n) * 16

/-- Reserved bits of an input record (R296). -/
def recordReserved : List (Nat × Nat) :=
  [(23, 10), (56, 8), (832, 192)] ++ (List.range 6).map fun i => (448 + 64 * i + 48, 16)

/-- An input record of phase p of a node (R296, R299). `npos` gives the rows of a coefficient tile of a default parameter. DEDUCED: notes/assumptions/33.md. -/
def recordOk (img : List (BitVec 8)) (npos : Word → Nat) (i p k : Nat) : Bool :=
  let r := nodeInput img i p k
  let row := recRow r
  zeroFields img (inputAt img i (8 * p + k)) recordReserved &&
  (if recKind r = 1 then
     let n := if recCoef r then npos (vget (imgDefaults img) (recSlot r) 0) + 1 else recRows r
     decide (row + n ≤ nodeRows img i)
   else if recKind r = 2 then p != 0 && decide (row < nodeZ img i)
   else if recKind r = 3 then
     decide (row ≤ 255) && (if recForeign r || p == 0 then decide (64 ≤ row) else true)
   else true)

/-- A dependence record (R298). -/
def depOk (img : List (BitVec 8)) (i k : Nat) : Bool :=
  let at_ := depAt img i k
  let v := imgField img at_ 64 64
  imgField img at_ 8 56 == 0 &&
  (match imgField img at_ 0 2 with
   | 0 => decide (v < imgNodes img)
   | 1 => true
   | 2 => decide (64 ≤ v) && decide (v ≤ 255)
   | _ => false)

/-- A node record with its inputs and dependences (R295, R299). -/
def nodeOk (img : List (BitVec 8)) (npos : Word → Nat) (i : Nat) : Bool :=
  zeroFields img (imgField img 0 32 32 * 128 + 128 * i)
    [(96, 32), (255, 1), (269, 3), (285, 35), (352, 32), (432, 592)] &&
  decide (nodeRows img i + nodeCarve img i ≤ 8192) && decide (nodeTiles img i ≤ 2 ^ 32) && decide (nodeZ img i ≤ 16) &&
  (nodeDoneEv img i == 0 || decide (64 ≤ nodeDoneEv img i)) &&
  ((List.range (nodePhases img i)).all fun p => (List.range 8).all fun k => recordOk img npos i p k) &&
  (List.range (nodeNdep img i)).all fun k => depOk img i k

/-- The nodes that a node waits for (KIND 0). -/
def nodeWaits (img : List (BitVec 8)) (i : Nat) : List Nat :=
  (List.range (nodeNdep img i)).filterMap fun k =>
    let (kind, _, v) := nodeDep img i k
    if kind = 0 then some v else none

/-- Nodes that remain after taking away, round by round, those that wait for none that remains. -/
def cyclic (waits : List (Nat × List Nat)) : Nat → List (Nat × List Nat)
  | 0 => waits
  | n + 1 => cyclic (waits.filter fun p => p.2.any fun j => waits.any fun q => q.1 = j) n

/-- The conditions of R299. -/
def imageOk (img : List (BitVec 8)) (npos : Word → Nat) : Bool :=
  let n := imgNodes img
  let nodes := List.range n
  let evs := (nodes.map (nodeDoneEv img)).filter fun e => e != 0
  zeroFields img 0 [(16, 16), (160, 352)] && decide (1 ≤ n) && decide (n ≤ 4096) && nodes.all (nodeOk img npos) &&
  evs.eraseDups.length == evs.length && (cyclic (nodes.map fun i => (i, nodeWaits img i)) n).isEmpty

/-- Bytes of an image that its header, and then its nodes, reach. -/
def headReach (img : List (BitVec 8)) : Nat :=
  max (imgField img 0 128 32 * 64 + 512) (imgField img 0 32 32 * 128 + 128 * imgNodes img)
def nodesReach (img : List (BitVec 8)) : Nat :=
  (List.range (imgNodes img)).foldl (fun m i =>
    max m (max (inputAt img i (8 * nodePhases img i)) (depAt img i (nodeNdep img i)))) (headReach img)

/-- The first bytes of an image, as Lovage reads them: pages that no access has touched are given first (R186). -/
def State.readGraph (s : State) (h : Word) (len : Nat) : Option (List (BitVec 8)) × State :=
  if (s.desc h).extent < len then (none, s)
  else
    let s := (List.range ((len + 65535) / 65536)).foldl (fun s p => s.serveByte h none false (65536 * p)) s
    let (l, s) := s.readObject h 0 len
    (l.map fun l => l.map fun b => BitVec.ofNat 8 b, s)

/-- An image read as far as it reaches. -/
def State.wholeImage (s : State) (h : Word) : Option (List (BitVec 8)) × State :=
  match s.readGraph h 64 with
  | (none, s) => (none, s)
  | (some hd, s) =>
    if imgNodes hd = 0 ∨ 4096 < imgNodes hd then (none, s)
    else match s.readGraph h (headReach hd) with
      | (none, s) => (none, s)
      | (some img, s) => s.readGraph h (nodesReach img)

/-- NPOS of the coefficient object that a handle names; 0 for another. -/
def State.nposOf (s : State) (h : Word) : Nat :=
  let d := s.desc h
  if d.state = 1 ∧ d.layout = 2 then d.npos else 0

/-- GRAPH_LOAD (R355). DEDUCED: notes/assumptions/33.md. -/
def State.runGraphLoad (s : State) (win : Nat) : State :=
  let h := s.arg win 0
  s.withRegion win 1 fun r =>
    s.withHandle win h 128 fun s =>
      let same (g : Graph) : Bool := g.part = win && hKey g.handle = hKey h
      if s.graphs.any fun g => same g && hGen g.handle = hGen h then s.finish win 0x05
      else
        let s := { s with graphs := s.graphs.filter fun g => !same g }
        if 256 ≤ (s.graphs.filter fun g => g.part = win).length then s.finish win 0x04
        else match s.wholeImage h with
          | (none, s) => s.finish win 0x08
          | (some img, s) =>
            if !imageOk img s.nposOf then s.finish win 0x08
            else
              let codes := ((List.range (imgNodes img)).map (nodeCode img)).eraseDups
              match codes.find? fun c => (s.violation ⟨win, .host, 1023, s.pkg⟩ c (some 128)).isSome with
              | some c => s.withHandle win c 128 fun s => s.finish win 0x06
              | none => { s with graphs := s.graphs ++ [{ handle := h, rid := r.rid, part := win, image := img : Graph }] }.finish win 0

def execGraphLoad (win : Nat) (s : State) : Host.Outcome State Fault Refusal :=
  s.event fun s => s.command win 0x0C 2 false true fun s => s.runGraphLoad win

/-! ### Regions (R311, R355) -/

/-- The subtree's regions run. -/
def State.reopen (s : State) (rid : Nat) : State :=
  let run (r : Region) : Region := if s.isIn r.rid rid then { r with st := 1 } else r
  { s with regions := s.regions.map run }

/-- REGION_STOP begins; what a stopped region still holds runs to its end or is discarded under DRAIN (R311). -/
def State.stopRegion (s : State) (rid : Nat) (abort : Bool) : State :=
  if abort then s.abort rid
  else
    let again := (s.region? rid).any fun r =>
      r.st = 3 && ((s.savedIn rid).any s.resumable || s.tasks.any fun t => t.st == .created && s.isIn t.rid rid)
    let s := if again then s.reopen rid else s
    s.drain rid

/-- REGION_STOP (R355): it completes when the region is stopped, or at its time limit. -/
def State.runRegionStop (s : State) (win : Nat) : State :=
  s.withRegion win 0 fun r =>
    if 1 < s.argN win 1 then s.finish win 0x02
    else
      let s := s.stopRegion r.rid (s.argN win 1 = 1)
      if s.argN win 2 = 0 then s else s.sched (s.cycle + s.argN win 2) ptEnd (.regionStopTimeLimit win)

def execRegionStop (win : Nat) (s : State) : Host.Outcome State Fault Refusal :=
  s.event fun s => s.command win 0x0D 3 false true fun s => s.runRegionStop win

/-- STATE of the region that the window's command names. -/
def State.regionState (s : State) (rid : Nat) : Word := match s.region? rid with | some r => r.st.zeroExtend 64 | none => 0

/-- REGION_STOP_TIME_LIMIT (R355): code 0x0A while the stop goes on. -/
def execRegionStopTimeLimit (win : Nat) (s : State) : Host.Outcome State Fault Refusal :=
  s.event fun s =>
    if (s.window win).st = 1 ∧ (s.window win).opc = 0x0D then s.finish win 0x0A [s.regionState (s.argN win 0)] else s

/-- PREEMPT (R355): every running task of the region is stopped and saved. DEDUCED: notes/assumptions/34.md. -/
def State.runPreempt (s : State) (win : Nat) : State :=
  s.withRegion win 0 fun r =>
    let before := (s.savedIn r.rid).length
    let s := (s.setRegions r.rid 3).modWindow win fun w => { w with work := before }
    (s.cores.filter fun c => c.task.isSome && s.isIn c.tk.rid r.rid &&
        !s.heldTask c.tk.rid c.tk.replay c.tk.node c.tk.tile).foldl
      (fun s c => (s.saveAreaFor c.id).stopCore c.id) s

def execPreempt (win : Nat) (s : State) : Host.Outcome State Fault Refusal :=
  s.event fun s => s.command win 0x0E 1 false true fun s => s.runPreempt win

/-- Whether a quota is met whose DRAIN covers a region (R355, R358). -/
def State.quotaHolds (s : State) (k rid : Nat) : Bool :=
  ((s.part? k).any fun p => (List.range 14).any p.meters.met) ||
  s.regions.any fun r => r.part = k && s.isIn rid r.rid && (List.range 14).any fun i => s.regionMet r i

/-- RESUME (R355). -/
def State.runResume (s : State) (win : Nat) : State :=
  s.withRegion win 0 fun r =>
    if s.quotaHolds win r.rid ∨ s.tasks.any (fun t => t.st == .held && s.isIn t.rid r.rid) then s.finish win 0x05
    else
      let areas := s.savedIn r.rid
      let s := s.reopen r.rid
      let s := s.modWindow win fun w => { w with work := areas.length }
      areas.foldl State.restoreArea s

def execResume (win : Nat) (s : State) : Host.Outcome State Fault Refusal :=
  s.event fun s => s.command win 0x0F 1 false true fun s => s.runResume win

/-! ### The undo log (R332, R333, R355) -/

/-- Every dirty line of a key id is written back, and stays. -/
def State.cleanKey (s : State) (k : Nat) : State :=
  (List.range 24).foldl (fun s d =>
    let l2 := (s.die d).l2.filter fun l => l.dirty && lineKeyId l.line = k
    let msc := (s.die d).msc.filter fun l => l.dirty && lineKeyId l.line = k
    let s := l2.foldl (fun s l => s.ctlWrite l.line l.data) s
    let s := msc.foldl (fun s l => s.ctlWrite l.line l.data) s
    s.modDie d fun x =>
      { x with l2 := x.l2.map (fun l => if lineKeyId l.line = k then { l with dirty := false } else l),
               msc := x.msc.map fun l => if lineKeyId l.line = k then { l with dirty := false } else l }) s

/-- CKPT_BEGIN (R332). -/
def State.runCkptBegin (s : State) (win : Nat) : State :=
  let n := s.argN win 0
  if n = 0 ∨ n % 65536 ≠ 0 then s.finish win 0x02
  else match s.part? win with
  | none => s.finish win 0x05
  | some p =>
    if p.undo.st = .rolling then s.finish win 0x05
    else if 2 ^ 24 < s.nextPage + n / 65536 then s.finish win 0x04
    else
      let (b, s) := s.takePage false
      let s := { s with nextPage := s.nextPage + n / 65536 }.cleanKey win
      let i := p.undo.interval + 1
      let s := s.modPart win fun p =>
        { p with undo := { st := .opened, lost := false, interval := i, base := b, size := n, used := 0, log := [] } }
      s.finish win 0 [i.zeroExtend 64]

def execCkptBegin (win : Nat) (s : State) : Host.Outcome State Fault Refusal :=
  s.event fun s => s.command win 0x10 1 false true fun s => s.runCkptBegin win

/-- Every line of a key id leaves every cache, dirty ones written back. -/
def State.flushKey (s : State) (k : Nat) : State :=
  (List.range 24).foldl (fun s d =>
    (s.dropLines d true fun l => lineKeyId l.line = k).dropMsc d true fun l => lineKeyId l.line = k) s

/-- The undo log of a partition. -/
def State.undoOf (s : State) (k : Nat) : Undo := match s.part? k with | some p => p.undo | none => {}

/-- An update of a partition's undo log. -/
def State.modUndo (s : State) (k : Nat) (f : Undo → Undo) : State := s.modPart k fun p => { p with undo := f p.undo }

/-- Entry i of the log region, as it stands in memory, returns to its line (R332, R333). What is stored there is the old contents that
the log has of that line, as long as nothing has changed the entry. DEDUCED: notes/assumptions/23.md. -/
def State.restoreEntry (s : State) (u : Undo) (i : Nat) : State :=
  let at_ := (u.base + 128 * i) / 64
  let line := (s.plainSector at_).toNat % 2 ^ 64 / 64
  let body := s.plainSector (at_ + 1)
  let s := s.meterLine line true
  match u.log.find? fun e => e.1 = line && s.storedAs e.1 e.2.1 e.2.2 == body with
  | some e => s.putSector (lineSector line) e.2.1 e.2.2
  | none => s.putSector (lineSector line) rawTag body

/-- Whether a task of a partition runs, or is SAVED. -/
def State.partBusy (s : State) (k : Nat) : Bool :=
  (s.cores.any fun c => c.task.isSome && c.tk.part = k) || s.saves.any fun e => e.2.ctx.tk.part = k

/-- CKPT_ROLLBACK (R333): the caches are flushed in ROLLING, and the log's entries return from the last to the first. Where the flush
itself seals the log, the command is refused. DEDUCED: notes/assumptions/23.md. -/
def State.runCkptRollback (s : State) (win : Nat) : State :=
  if s.partBusy win || (s.undoOf win).st ≠ .opened then s.finish win 0x05
  else
    let s := (s.modUndo win fun u => { u with st := .rolling }).flushKey win
    let u := s.undoOf win
    if u.st = .sealed then s.finish win 0x05
    else
      let s := (List.range (u.used / 128)).reverse.foldl (fun s i => s.restoreEntry u i) s
      (s.modUndo win fun u => { u with st := .idle, log := [] }).finish win 0 [BitVec.ofNat 64 (u.used / 128)]

def execCkptRollback (win : Nat) (s : State) : Host.Outcome State Fault Refusal :=
  s.event fun s => s.command win 0x11 0 false true fun s => s.runCkptRollback win

/-! ### Snapshots (R359, R360) -/

/-- n as bytes, the lowest first. -/
def leBytes (n len : Nat) : List (BitVec 8) := (List.range len).map fun i => BitVec.ofNat 8 (n / 256 ^ i)

/-- The 272 bytes of a snapshot of a partition at a cycle: the signature is the device's, a free value. -/
def snapshot (p : Part) (kind cyc draw : Nat) : List (BitVec 8) :=
  let m := p.meters
  let prev := if m.seq = 0 then leBytes m.nonce 32 else m.last
  let head := leBytes (p.k + 256 * kind) 8 ++ leBytes (m.seq + 1) 8 ++ leBytes cyc 8 ++
    (m.count.toList.flatMap fun c => leBytes c 8) ++
    (sha256 (prev.map (·.toNat))).map (fun b => BitVec.ofNat 8 b) ++ leBytes m.hit.toNat 8
  head ++ leBytes (Config.attestSign (packNat 8 (head.map (·.toNat)) + 2 ^ 1408 * draw)) 96

/-- A snapshot is taken: it becomes the one that the next chains to. -/
def State.takeSnapshot (s : State) (k kind : Nat) : List (BitVec 8) × State :=
  match s.part? k with
  | none => ([], s)
  | some p =>
    let b := snapshot p kind s.cycle s.fresh
    (b, { s with fresh := s.fresh + 1 }.modPart k fun p => { p with meters := { p.meters with seq := p.meters.seq + 1, last := b } })

/-- METER_SNAP (R352, R360). -/
def State.runMeterSnap (s : State) (win : Nat) : State :=
  let k := if win = 0 then s.argN win 0 else win
  if k = 0 ∨ 63 < k then s.finish win 0x02
  else if (s.part? k).isSome then
    let (b, s) := s.takeSnapshot k 1
    s.finish win 0 [] b
  else match mget s.finals k with
    | some b => s.finish win 0 [] b
    | none => s.finish win 0x05

def execMeterSnap (win : Nat) (s : State) : Host.Outcome State Fault Refusal :=
  s.event fun s => s.command win 0x12 (if win = 0 then 1 else 0) true true fun s => s.runMeterSnap win

/-- VLOG_READ (R363). -/
def State.runVlogRead (s : State) (win : Nat) : State :=
  let n := s.argN win 1
  if n = 0 ∨ 60 < n then s.finish win 0x02
  else
    let l := (mget s.vlogs win).getD {}
    let es := (l.entries.drop (s.argN win 0)).take n
    s.finish win 0 [BitVec.ofNat 64 l.lost, BitVec.ofNat 64 es.length] (es.flatMap fun e => leBytes e.toNat 64)

def execVlogRead (win : Nat) (s : State) : Host.Outcome State Fault Refusal :=
  s.event fun s => s.command win 0x13 2 false true fun s => s.runVlogRead win

/-! ### The fabric (R376) -/

/-- The ports of a mask that were fitted. -/
def State.argPorts (s : State) (win : Nat) : List Nat :=
  (List.range 72).filter fun n => fitted n && (s.argN win 1 + s.argN win 2 * 2 ^ 64).testBit n

/-- The package's objects under a new package id (R5): the slots are the package's own. -/
def State.rename (s : State) (id : Nat) : State :=
  let k (n : Nat) : Nat := if n / 2 ^ 23 = s.pkg then id * 2 ^ 23 + n % 2 ^ 23 else n
  { s with
    pkg := id, members := id :: s.members.filter fun m => m ≠ s.pkg,
    descs := s.descs.map fun (p : Nat × BitVec 512) => (k p.1, p.2)
    kept := s.kept.map fun v => { v with slot := k v.slot }
    pubs := s.pubs.map fun v => { v with slot := k v.slot }
    pool := s.pool.map fun (p : Nat × Nat) => (k p.1, p.2)
    pinned := s.pinned.map fun (p : Nat × Nat × Nat) => (p.1, k p.2.1, p.2.2)
    grants := s.grants.map fun g => { g with slot := k g.slot }
    watches := s.watches.map fun w => if w.home = s.pkg then { w with home := id } else w
    lpdFirst := s.lpdFirst.map k
    subs := s.subs.map fun (p : Nat × Nat × Nat) => (p.1, k p.2.1, p.2.2) }

/-- FABRIC_JOIN (R352, R376). -/
def State.runFabricJoin (s : State) (win : Nat) : State :=
  let id := s.argN win 0
  if 511 < id ∨ 255 < s.argN win 2 then s.finish win 0x02
  else if id ≠ s.pkg ∧ s.members.contains id then s.finish win 0x0B
  else
    (s.argPorts win).foldl (fun s n => s.modPort n fun p =>
      { p with en := true, st := if p.st = .up then .up else .training }) (if id = s.pkg then s else s.rename id)

def execFabricJoin (win : Nat) (s : State) : Host.Outcome State Fault Refusal :=
  s.event fun s => s.command win 0x14 3 true false fun s => s.runFabricJoin win

/-- FABRIC_LEAVE (R376): no new remote request leaves. -/
def execFabricLeave (win : Nat) (s : State) : Host.Outcome State Fault Refusal :=
  s.event fun s => s.command win 0x15 0 true false fun s =>
    { s with members := [s.pkg], leaving := s.members.filter (· ≠ s.pkg) }

/-- Whether accesses to an object go to another package, or may (R184). -/
def State.goesFar (s : State) (h : Word) : Bool := hHome h ≠ s.pkg || (s.desc h).shaxis ≠ 7

/-- Requests to other packages that have no answer yet: reservations, releases, landing rows, started commands, stream fetches and weight
loads on objects that others serve, and loads. DEDUCED: notes/assumptions/30.md. -/
def State.awaitsFabric (s : State) : Bool :=
  let command (q : ChanCmd) : Bool := q.started && (q.kind == .clz || s.goesFar (vget q.stg 0 0) || (q.kind == .cmov && s.goesFar (vget q.stg 7 0)))
  decide (s.cycle < s.farDue) || s.cores.any (fun c =>
    !c.lzresOut.isEmpty || !c.relOut.isEmpty || (c.fe.toList ++ c.cp.toList).any (fun q => q.queue.any command) ||
      c.wloads.any fun w => w.stream && s.goesFar w.hnd) ||
  s.agenda.any fun e => match e.2 with
    | .streamVectorFetched k q => s.goesFar (vget (vget (s.coreOf k).streams q {}).stg 0 0)
    | _ => false

/-! ### PART_DESTROY (R353), and commands that wait -/

/-- A command in flight in the window of a partition that goes. -/
def State.cutWindow (s : State) (k : Nat) : State := if (s.window k).st = 1 then s.finish k 0x0C else s

/-- PART_DESTROY begins: the root region is aborted. -/
def State.runPartDestroy (s : State) (win : Nat) : State := s.withPart win fun p => s.abort p.root

def execPartDestroy (win : Nat) (s : State) : Host.Outcome State Fault Refusal :=
  s.event fun s => s.command win 0x04 1 true false fun s => s.runPartDestroy win

/-- Steps 3 and 4, once the region is stopped: objects are freed, and a LIVE key is destroyed. -/
def State.freePart (s : State) (k : Nat) : State :=
  let keys := (s.descs.filter fun p => Desc.part p.2 = k && (Desc.state p.2 == 1 || Desc.state p.2 == 2)).map (·.1)
  let s := keys.foldl State.destroyObject s
  if mget s.keys k = some .live then s.scrubAll k else s

/-- Steps 5 and 6: the final record is written, and k is free. -/
def State.endPart (s : State) (win k : Nat) : State :=
  let (b, s) := (s.cutWindow k).takeSnapshot k 2
  let rids := (s.regions.filter fun r => r.part = k).map (·.rid)
  let s := s.setMasks k 0 (Vector.replicate 3 0)
  { s with
    finals := mput s.finals k b, parts := s.parts.filter fun p => p.k ≠ k, keys := mdel s.keys k
    regions := s.regions.filter fun r => r.part ≠ k, graphs := s.graphs.filter fun g => g.part ≠ k
    replays := s.replays.filter fun r => r.part ≠ k, tasks := s.tasks.filter fun t => !rids.contains t.rid
    grants := s.grants.filter fun g => g.target ≠ k, watches := s.watches.filter fun w => w.part ≠ k
    vlogs := mdel s.vlogs k, windows := mdel s.windows k }.finish win 0 [] b

/-- A stage of a command that waits for the caches. -/
def State.setWork (s : State) (win n : Nat) : State := s.modWindow win fun w => { w with work := n }

/-- Reports of a partition's events that are still to be added. -/
def State.reportsOf (s : State) (k : Nat) : Bool :=
  s.agenda.any fun e => match e.2 with | .meterAdd p _ _ _ => p = k | _ => false

/-- Whether a task of a partition is still to end, or an access to one of its objects to complete (R187, R293, R353). -/
def State.partRuns (s : State) (k : Nat) : Bool :=
  (s.cores.any fun c => c.task.isSome && c.tk.part = k) || s.descs.any fun p => Desc.part p.2 = k && s.objectBusy p.1

/-- What a command that waits does at the end of a cycle. -/
def State.pollWindow (s : State) (win : Nat) : State :=
  let w := s.window win
  let k := s.argN win 0
  if w.st ≠ 1 then s
  else if w.opc = 0x04 then
    (if w.work = 0 then
       (match (s.part? k).bind fun p => s.region? p.root with
        | some r => if (s.regions.any fun q => q.part = k && q.st ≠ 3) || s.scrubbing || r.st ≠ 3 || s.partRuns k then s
                    else (s.freePart k).setWork win 1
        | none => s.setWork win 1)
     else if s.scrubbing || s.reportsOf k then s else s.endPart win k)
  else if w.opc = 0x08 then
    (if w.work = 0 then (if s.scrubbing then s else (s.scrubAll k).setWork win 1)
     else if s.scrubbing then s else s.finish win 0)
  else if w.opc = 0x0A then s.runObjDestroy win
  else if w.opc = 0x0D then
    (if s.regions.all fun r => !s.isIn r.rid k || r.st = 3 then
       (s.unsched fun e => match e with | .regionStopTimeLimit n => n = win | _ => false).finish win 0 [3]
     else s)
  else if w.opc = 0x0E then
    (if s.cores.any fun c => c.errand = 1 && s.isIn c.tk.rid k then s
     else s.finish win 0 [BitVec.ofNat 64 ((s.savedIn k).length - w.work)])
  else if w.opc = 0x0F then
    (if s.cores.any (fun c => c.errand = 2 && s.isIn c.tk.rid k) || !(s.savedIn k).isEmpty then s
     else s.finish win 0 [BitVec.ofNat 64 w.work])
  else if w.opc = 0x14 then
    (let ports := s.argPorts win
     if (ports.any fun n => (s.port n).st == .training) && decide (s.cycle < w.start + 400000000) then s
     else s.finish win 0 [BitVec.ofNat 64 (ports.filter fun n => (s.port n).st == .up).length])
  else if w.opc = 0x15 then
    (if s.awaitsFabric then s
     else { s with leaving := [], ports := s.ports.map fun (p : Nat × Port) => (p.1, { p.2 with en := false, st := .down }) }.finish win 0)
  else s

/-- Every window, the system's first. -/
def State.pollWindows (s : State) : State := (s.windows.map (·.1)).foldl State.pollWindow s

/-! ### Doorbells (R350, R352) -/

/-- DOORBELL (R350, R352): an opcode that names no command completes with code 0x01; another runs its command. -/
def State.doorbell (s : State) (win : Nat) (op : BitVec 8) : State :=
  let out : Host.Outcome State Fault Refusal → State := fun o => match o with | .next t => t | _ => s
  match op.toNat with
  | 0x01 => out (execIdentCmd win s)
  | 0x02 => out (execStatus win s)
  | 0x03 => out (execPartCreate win s)
  | 0x04 => out (execPartDestroy win s)
  | 0x05 => out (execPartQuota win s)
  | 0x06 => out (execKeyLoad win s)
  | 0x07 => out (execKeyGen win s)
  | 0x08 => out (execKeyKill win s)
  | 0x09 => out (execObjCreate win s)
  | 0x0A => out (execObjDestroy win s)
  | 0x0B => out (execObjShare win s)
  | 0x0C => out (execGraphLoad win s)
  | 0x0D => out (execRegionStop win s)
  | 0x0E => out (execPreempt win s)
  | 0x0F => out (execResume win s)
  | 0x10 => out (execCkptBegin win s)
  | 0x11 => out (execCkptRollback win s)
  | 0x12 => out (execMeterSnap win s)
  | 0x13 => out (execVlogRead win s)
  | 0x14 => out (execFabricJoin win s)
  | 0x15 => out (execFabricLeave win s)
  | n => s.command win n 16 true true fun s => s.finish win 0x01

/-- Whether a host link is up (R377). -/
def State.linkUp (s : State) : HostLink → Bool
  | .iow => s.links.1
  | .ioe => s.links.2

def execDoorbell (link : HostLink) (win : Nat) (op : BitVec 8) (s : State) : Host.Outcome State Fault Refusal :=
  s.event fun s => if s.linkUp link then s.doorbell win op else s

/-- The word of bytes, the lowest first (R7). -/
def wordOf (l : List (BitVec 8)) : Word := BitVec.ofNat 64 (packNat 8 (l.map (·.toNat)))

/-- The kick packet that a write into bytes 0..127 of a kick page makes: none of the right size unless it is one aligned write of all
of them, which R302 answers with code 7 (R300). -/
def pagePacket (offset : Nat) (bytes : List (BitVec 8)) : List Word :=
  if offset = 0x1000 ∧ bytes.length = 128 then (List.range 16).map fun i => wordOf ((bytes.drop (8 * i)).take 8) else []

/-- A host's write into BAR0 of a function (R347): a kick (R300), a doorbell, or an argument register while the window is not BUSY
(R350). Other registers are read-only, a command window drops what is no aligned write of 8 bytes (R348), and the window of a
partition that is not live ignores everything. -/
def State.windowWrite (s : State) (link : HostLink) (win offset : Nat) (bytes : List (BitVec 8)) : State :=
  if 64 ≤ win || (win != 0 && (s.part? win).isNone) || s.power == .cold || s.power == .off || !s.linkUp link then s
  else if win ≠ 0 ∧ offset < 0x1080 ∧ 0x1000 < offset + bytes.length then
    s.sched (s.cycle + 1) ptPush (.kick win (match link with | .iow => .iow | .ioe => .ioe) (pagePacket offset bytes))
  else if bytes.length ≠ 8 ∨ offset % 8 ≠ 0 then s
  else if offset = 8 then s.doorbell win ((wordOf bytes).truncate 8)
  else if 0x40 ≤ offset ∧ offset < 0xC0 ∧ (s.window win).st ≠ 1 then
    s.modWindow win fun w => { w with args := vset w.args ((offset - 0x40) / 8) (wordOf bytes) }
  else s

/-- HOST_WRITE (R189, R347): a host's access to object memory, or to its windows. -/
def execHostWrite (r : HostRequest) (s : State) : Host.Outcome State Fault Refusal :=
  s.event fun s => match r with
    | .object link a => if s.linkUp link then s.outerAccess { a with kind := .host, core := 1023, pkg := s.pkg } else s
    | .window link win offset bytes => s.windowWrite link win offset bytes

/-! ### SPDM (R361, R362) -/

/-- Whether a way to the responder is open: a host link while it is up, the SMBus port always (R377). -/
def State.pathUp (s : State) : MgmtPath → Bool
  | .pcie link => s.linkUp link
  | .smbus => true

/-- An answer of the responder, over a way that is open. -/
def State.answer (s : State) (path : MgmtPath) (a : State → SpdmAnswer × State) : State :=
  if !s.pathUp path || s.power == .cold || s.power == .off then s
  else let (x, s) := a s; { s with spdm := x :: s.spdm }

/-- GET_CERTIFICATE (R361). -/
def execGetCertificate (path : MgmtPath) (s : State) : Host.Outcome State Fault Refusal :=
  s.event fun s => s.answer path fun s => (.certificate Config.certificate, s)

/-- CHALLENGE (R361). -/
def execChallenge (path : MgmtPath) (nonce : Nat) (s : State) : Host.Outcome State Fault Refusal :=
  s.event fun s => s.answer path fun s =>
    (.challenge nonce (Config.attestSign (2 * nonce + 2 ^ 2048 * s.fresh)), { s with fresh := s.fresh + 1 })

/-- Bytes 0..3999 of the part record (R366); its signature is not given. DESIGN CHOICE: notes/assumptions/41.md. -/
def partRecord : List (BitVec 8) :=
  leBytes 1 4 ++ [Config.partRev] ++ leBytes 0 3 ++ leBytes Config.partSerial.toNat 16 ++
  ((List.range 24).flatMap fun d => leBytes (Config.partCen d).toNat 8) ++ leBytes Config.partPorts.toNat 8 ++
  ((List.range 512).flatMap fun c => leBytes (Config.partTrim c).toNat 2) ++ leBytes (Config.partPorts.toNat / 2 ^ 64) 8 ++
  leBytes 0 2744 ++ leBytes (Config.freeNat (2 ^ 33)) 96

/-- A partition's configuration: CORESET, masks, key state and quotas, in that order. DESIGN CHOICE: notes/assumptions/29.md. -/
def State.configOf (s : State) (p : Part) : List (BitVec 8) :=
  let cores := match s.region? p.root with | some r => r.coreset.toNat | none => 0
  let key := match mget s.keys p.k with | some .live => 1 | some .dead => 2 | _ => 0
  leBytes cores 96 ++ leBytes p.l2way.toNat 2 ++ (p.mscway.toList.flatMap fun w => leBytes w.toNat 2) ++ leBytes key 2 ++
  p.meters.quota.toList.flatMap fun q => leBytes q 8

/-- The handles of a partition's MEASURED objects, ascending, each with its tree's root, as bytes (R361). -/
def State.measuredRoots (s : State) (k : Nat) : List Nat :=
  let live := s.descs.filter fun p =>
    p.1 / 2 ^ 23 = s.pkg && (Desc.state p.2 == 1 || Desc.state p.2 == 2) && Desc.part p.2 = k && Desc.measured p.2
  ((live.map fun p => (handleOf p.1 (Desc.gen p.2) (Desc.rights p.2)).toNat).mergeSort).flatMap fun h =>
    bytesOf 8 h ++ bytesOf 32 (Config.treeRoot h).toNat

/-- The value of a measurement (R361); an empty block where the index's partition is not live. DESIGN CHOICE: notes/assumptions/29.md. -/
def State.measure (s : State) (i : Nat) : List (BitVec 8) × State :=
  if i = 1 then (leBytes Config.romDigest 48, s)
  else if i = 2 then (partRecord, s)
  else if 0x10 < i ∧ i < 0x50 then
    (match s.part? (i - 0x10) with | some p => (s.configOf p, s) | none => ([], s))
  else if 0x50 < i ∧ i < 0x90 then
    (if (s.part? (i - 0x50)).isSome then s.takeSnapshot (i - 0x50) 1 else ((mget s.finals (i - 0x50)).getD [], s))
  else if 0x90 < i ∧ i < 0xD0 then
    (if (s.part? (i - 0x90)).isSome then ((sha384 (s.measuredRoots (i - 0x90))).map (BitVec.ofNat 8), s) else ([], s))
  else ([], s)

/-- GET_MEASUREMENTS (R361). -/
def execGetMeasurements (path : MgmtPath) (index : Nat) (s : State) : Host.Outcome State Fault Refusal :=
  s.event fun s => s.answer path fun s =>
    let (v, s) := s.measure index
    (.measurement index v (Config.attestSign (2 * packNat 8 (v.map (·.toNat)) + 1 + 2 ^ 40000 * s.fresh)),
      { s with fresh := s.fresh + 1 })

/-- KEY_EXCHANGE (R361): a session begins. -/
def execKeyExchange (path : MgmtPath) (s : State) : Host.Outcome State Fault Refusal :=
  s.event fun s => s.answer path fun s =>
    (.session s.nextSess, { s with sessions := s.sessions ++ [{ id := s.nextSess }], nextSess := s.nextSess + 1 })

/-- KEY_DELIVERY (R362): the bytes are staged in a secured session, in place of earlier ones for the key id. -/
def execKeyDelivery (session key : Nat) (bytes : Mask) (s : State) : Host.Outcome State Fault Refusal :=
  s.event fun s =>
    if s.sessions.any (fun x => x.id = session) && decide (1 ≤ key) && decide (key ≤ 63) then
      { s with spdm := .ok :: s.spdm, sessions := s.sessions.map fun x =>
        if x.id = session then { x with staged := mput x.staged key bytes } else x }
    else { s with spdm := .error :: s.spdm }

/-- SESSION_END (R362): staged bytes are erased. -/
def execSessionEnd (session : Nat) (s : State) : Host.Outcome State Fault Refusal :=
  s.event fun s => { s with sessions := s.sessions.filter fun x => x.id ≠ session }

/-! ### What the host reads -/

/-- WSTAT (R349). -/
def Window.wstat (w : Window) : Word :=
  BitVec.ofNat 64 (place 32 32 w.seq.toNat + place 24 8 w.opc.toNat + place 16 8 w.code.toNat + w.st.toNat)

/-- RSTATE of a replay entry (R303). -/
def rstateCode : RState → Nat
  | .idle => 0 | .running => 1 | .done => 2 | .abandoned => 3 | .drained => 4

/-- Replay entry i of a partition's kick page (R300, R303); 0 where none has been placed. -/
def State.replayEntry (s : State) (k i : Nat) : Word :=
  match s.replays.find? fun r => r.part = k && r.place = i with
  | some r => BitVec.ofNat 64 (place 48 16 r.rid + place 32 16 r.replay + place 16 3 (rstateCode r.st) + place 8 8 r.infl)
  | none => 0

/-- What an aligned read of 8 bytes of BAR0 gives (R300, R347..R349, R365): a read has no effect, and one of a partition that is not live
gives 0. -/
def State.windowRead (s : State) (win offset : Nat) : Word :=
  let w := s.window win
  if 64 ≤ win || (win != 0 && (s.part? win).isNone) || offset % 8 ≠ 0 then 0
  else if offset = 0 then w.wstat
  else if offset = 0x10 then w.reject
  else if offset = 0x18 then (if win = 0 then s.bootstat else 0)
  else if 0x40 ≤ offset ∧ offset < 0xC0 then vget w.args ((offset - 0x40) / 8) 0
  else if 0xC0 ≤ offset ∧ offset < 0x100 then vget w.res ((offset - 0xC0) / 8) 0
  else if 0x100 ≤ offset ∧ offset < 0x1000 then wordOf ((w.data.drop (offset - 0x100)).take 8)
  else if win = 0 then 0
  else if offset = 0x1080 then w.kick
  else if 0x1088 ≤ offset ∧ offset < 0x10A8 then s.replayEntry win ((offset - 0x1088) / 8)
  else 0

end Sys2Proof.Machine
end

