-- ==== Sys2Proof/Machine/Sfu.lean ====
section
/-! DEFINITION. Class 6, the special-function slot (R114), with the functions of R85..R87. The base functions are computed
to 320 fractional bits and rounded once; reciprocals and roots are exact floors with a sticky bit. -/

namespace Sys2Proof.Machine

open Sys2Proof

namespace Sfu

/-- Fractional bits of the working precision. -/
def bits : Nat := 320

/-- ln 2 and π, truncated to the working precision. -/
def ln2 : Nat := 0xB17217F7D1CF79ABC9E3B39803F2F6AF40F343267298B62D8A0D175B8BAAFA2BE7B876206DEBAC98
def pi : Nat := 0x3243F6A8885A308D313198A2E03707344A4093822299F31D0082EFA98EC4E6C89452821E638D01377

/-- Product and quotient at the working precision, truncated. -/
def mulF (a b : Nat) : Nat := a * b / 2 ^ bits
def divF (a b : Nat) : Nat := a * 2 ^ bits / b

/-- e^t as its series: `n` terms from term index k, the current term `t`. -/
def expSeries (x : Nat) : Nat → Nat → Nat → Nat
  | 0, _, _ => 0
  | n + 1, k, t => t + expSeries x n (k + 1) (mulF t x / (k + 1))

/-- Alternating series Σ (−1)^i t_i with t_(i+1) = t_i · z / ((k+1)(k+2)), as an integer: sine from k = 1, cosine from
k = 0, with z the square of the angle. -/
def trigSeries (z : Nat) : Nat → Nat → Nat → Int
  | 0, _, _ => 0
  | n + 1, k, t => (t : Int) - trigSeries z n (k + 2) (mulF t z / ((k + 1) * (k + 2)))

/-- atanh z = Σ z^(2i+1) / (2i+1). -/
def atanhSeries (z2 : Nat) : Nat → Nat → Nat → Nat
  | 0, _, _ => 0
  | n + 1, k, t => t / k + atanhSeries z2 n (k + 2) (mulF t z2)

/-- The integer square root, one bit a step from bit `n − 1` down. -/
def isqrt (a : Nat) : Nat → Nat → Nat
  | 0, r => r
  | n + 1, r => isqrt a n (if (r + 2 ^ n) * (r + 2 ^ n) ≤ a then r + 2 ^ n else r)

/-- A value at the working precision, known to be irrational, rounded to FP32: the last 40 bits guard the truncation. UNVERIFIED: notes/assumptions/38.md. -/
def roundF (r : RMode) (s : Bool) (v : Nat) (e : Int) : Nat × FlagSet :=
  FF.f32.round r s (v / 2 ^ 40) (e + 40 - (bits : Int)) true

/-- 2^x for x = ±(m · 2^e), nonzero (R85). -/
def exp2Fin (r : RMode) (s : Bool) (m : Nat) (e : Int) : Nat × FlagSet :=
  if !magLt m e 256 0 then
    (if s then FF.f32.round r false 1 (-400) true else FF.f32.round r false 1 400 false)
  else
    let x : Int := (if s then -1 else 1) * ((m * 2 ^ (e + (bits : Int)).toNat : Nat) : Int)
    let n := x / (2 ^ bits : Nat)
    let f := (x % (2 ^ bits : Nat)).toNat
    if f = 0 then FF.f32.round r false 1 n false
    else roundF r false (expSeries (mulF f ln2) 90 0 (2 ^ bits)) n

/-- log2 x for x = m · 2^e, m nonzero (R85). -/
def log2Fin (r : RMode) (m : Nat) (e : Int) : Nat × FlagSet :=
  let l := Nat.log2 m
  let k : Int := e + l
  if m = 2 ^ l then FF.f32.roundV r (FV.ofInt k)
  else
    let y := m * 2 ^ bits / 2 ^ l
    let z := divF (y - 2 ^ bits) (y + 2 ^ bits)
    let v := divF (2 * atanhSeries (mulF z z) 110 1 z) ln2
    let t : Int := k * (2 ^ bits : Nat) + v
    roundF r (decide (t < 0)) t.natAbs 0

/-- 1 / (m · 2^e). -/
def rcpFin (r : RMode) (s : Bool) (m : Nat) (e : Int) : Nat × FlagSet :=
  FF.f32.round r s (2 ^ 128 / m) (-128 - e) (decide (2 ^ 128 % m ≠ 0))

/-- √(m · 2^e). -/
def sqrtFin (r : RMode) (m : Nat) (e : Int) : Nat × FlagSet :=
  let odd := e % 2 = 1
  let m' := (if odd then 2 * m else m) * 2 ^ 128
  let e' := if odd then e - 1 else e
  let q := isqrt m' 80 0
  FF.f32.round r false q (e' / 2 - 64) (decide (q * q ≠ m'))

/-- 1 / √(m · 2^e). -/
def rsqrtFin (r : RMode) (m : Nat) (e : Int) : Nat × FlagSet :=
  let odd := e % 2 = 1
  let m' := if odd then 2 * m else m
  let e' := if odd then e - 1 else e
  let q := isqrt (2 ^ 256 / m') 129 0
  FF.f32.round r false q (-128 - e' / 2) (decide (q * q * m' ≠ 2 ^ 256))

/-- Quarter turn q and the rest t of an angle of |x| turns, t in units of 2^-bits of a quarter turn. -/
def turns (m : Nat) (e : Int) : Nat × Nat :=
  let u := (if 0 ≤ e then 0 else m * 2 ^ (e + (bits : Int)).toNat) % 2 ^ bits
  (4 * u / 2 ^ bits, 4 * u % 2 ^ bits)

/-- sin and cos of t quarter turns, 0 < t < 1. -/
def sinQ (t : Nat) : Nat :=
  let z := mulF t (pi / 2)
  (trigSeries (mulF z z) 50 1 z).toNat
def cosQ (t : Nat) : Nat :=
  let z := mulF t (pi / 2)
  (trigSeries (mulF z z) 50 0 (2 ^ bits)).toNat

/-- sin (`c` false) or cos (`c` true) of ±(m · 2^e) turns, nonzero (R85): zeros are +0. -/
def trigFin (r : RMode) (c s : Bool) (m : Nat) (e : Int) : Nat × FlagSet :=
  let (q, t) := turns m e
  let q' := if c then (q + 1) % 4 else q
  let neg := decide (2 ≤ q') != (!c && s)
  if t = 0 then (if q' % 2 = 0 then (0, 0) else FF.f32.round r neg 1 0 false)
  else roundF r neg (if q' % 2 = 0 then sinQ t else cosQ t) 0

/-- The base functions (R85, R86) on FP32 patterns. -/
inductive Fn where
  | exp2 | log2 | rcp | rsqrt | sqrt | sin | cos
  deriving DecidableEq, Repr

def infP : Nat := 0x7F800000
def infN : Nat := 0xFF800000
def nanP : Nat := 0x7FC00000
def oneP : Nat := 0x3F800000
def twoP : Nat := 0x40000000
def halfP : Nat := 0x3F000000

/-- A base function (R85, R86). -/
def base (f : Fn) (r : RMode) (w : Nat) : Nat × FlagSet :=
  match FF.f32.read r.ftz w with
  | .nan => (nanP, 0)
  | .inf neg =>
    match f with
    | .exp2 => (if neg then 0 else infP, 0)
    | .log2 | .sqrt => if neg then (nanP, flagIV) else (infP, 0)
    | .rcp => (FF.f32.signBit neg, 0)
    | .rsqrt => if neg then (nanP, flagIV) else (0, 0)
    | .sin | .cos => (nanP, flagIV)
  | .fin neg m e =>
    if m = 0 then
      match f with
      | .exp2 | .cos => (oneP, 0)
      | .log2 => (infN, flagDZ)
      | .rcp | .rsqrt => (if neg then infN else infP, flagDZ)
      | .sqrt | .sin => (FF.f32.signBit neg, 0)
    else
      match f with
      | .exp2 => exp2Fin r neg m e
      | .log2 => if neg then (nanP, flagIV) else log2Fin r m e
      | .rcp => rcpFin r neg m e
      | .rsqrt => if neg then (nanP, flagIV) else rsqrtFin r m e
      | .sqrt => if neg then (nanP, flagIV) else sqrtFin r m e
      | .sin => trigFin r false neg m e
      | .cos => trigFin r true neg m e

/-- The constants of R87: log2 e, 0.044715 and √(2/π). -/
def cL : Nat := 0x3FB8AA3B
def cG : Nat := 0x3D372713
def cP : Nat := 0x3F4C422A

/-- Sums and products of FP32 patterns that carry the flags of the steps before (R87). -/
def addP (r : RMode) (a b : Nat × FlagSet) : Nat × FlagSet :=
  let (w, f) := FF.f32.add r a.1 b.1
  (w, a.2 ||| b.2 ||| f)
def mulP (r : RMode) (a b : Nat × FlagSet) : Nat × FlagSet :=
  let (w, f) := FF.f32.mul r a.1 b.1
  (w, a.2 ||| b.2 ||| f)
def baseP (f : Fn) (r : RMode) (a : Nat × FlagSet) : Nat × FlagSet :=
  let (w, g) := base f r a.1
  (w, a.2 ||| g)
def negP (a : Nat × FlagSet) : Nat × FlagSet := (a.1 ^^^ 2 ^ 31, a.2)

/-- fsigm (R87). -/
def sigm (r : RMode) (x : Nat) : Nat × FlagSet :=
  let u := mulP r (negP (x, 0)) (cL, 0)
  let d := addP r (oneP, 0) (baseP .exp2 r u)
  baseP .rcp r d

/-- ftanh (R87): a magnitude below 2^-12 returns x; a NaN is canonical; the sign is x's. -/
def tanh (r : RMode) (x0 : Nat) : Nat × FlagSet :=
  let x := FF.f32.readPat r.ftz x0
  if FF.f32.isNan x then (nanP, 0)
  else if FF.f32.key (x % 2 ^ 31) < 0x39800000 then (x, 0)
  else
    let u := mulP r (mulP r (twoP, 0) (x % 2 ^ 31, 0)) (cL, 0)
    let d := addP r (baseP .exp2 r u) (oneP, 0)
    let q := mulP r (twoP, 0) (baseP .rcp r d)
    let t := addP r (oneP, 0) (negP q)
    (t.1 % 2 ^ 31 + x / 2 ^ 31 * 2 ^ 31, t.2)

/-- fsilu (R87). -/
def silu (r : RMode) (x : Nat) : Nat × FlagSet := mulP r (x, 0) (sigm r x)

/-- fgelu (R87). -/
def gelu (r : RMode) (x : Nat) : Nat × FlagSet :=
  let u := mulP r (cG, 0) (mulP r (mulP r (x, 0) (x, 0)) (x, 0))
  let u := mulP r (cP, 0) (addP r (x, 0) u)
  let t := tanh r u.1
  let h := addP r (oneP, 0) (t.1, u.2 ||| t.2)
  mulP r (halfP, 0) (mulP r (x, 0) h)

/-- fdiv (R87). -/
def fdiv (r : RMode) (a b : Nat) : Nat × FlagSet := mulP r (a, 0) (base .rcp r b)

/-- A pattern of an accepted element format widened to FP32, exactly (R85). -/
def widen (f : FF) (ftz : Bool) (w : Nat) : Nat := (FF.f32.roundV {} (f.read ftz w)).1

/-- The final narrowing (R85). -/
def narrow (f : FF) (r : RMode) (p : Nat × FlagSet) : Nat × FlagSet :=
  if f = .f32 then p
  else
    let (w, g) := f.roundV r (FF.f32.decode p.1)
    (w, p.2 ||| g)

end Sfu

/-- The formats that class 6 accepts (R114). -/
def sfuFmt : EFmt → Option FF
  | .fp .f32 => some .f32
  | .fp .f16 => some .f16
  | .fp .bf16 => some .bf16
  | _ => none

/-- A special-function result: latency, FLAGS and SFU_OPS (R114, R356). -/
def State.sfuResult (s : State) (d : VCode) (w : Nat) (r : List (Nat × FlagSet)) (tag : Tag) (lat : Nat) : State :=
  let vis := s.visible w
  ((s.writeV d (ofElems w (r.map (·.1))) tag lat).raiseFlags (orFlags (BitVec.allOnes 512) vis r) lat).meter 4 vis

/-- A class-6 word of one operand (R114). -/
def State.sfuWord (s : State) (fn : RMode → Nat → Nat × FlagSet) (d a : VCode) : State :=
  match sfuFmt s.ef with
  | none => s.illegal
  | some f =>
    let (va, s1) := s.readSrc a
    match unaryTag .nonlinear va.tag with
    | none => s.domain [(a.toNat, va.tag)]
    | some t =>
      match va.err with
      | some f => s.takeFault f
      | none =>
        let r := (elems f.width va.data).map fun p => Sfu.narrow f s.rmode (fn s.rmode (Sfu.widen f s.rmode.ftz p))
        (s1.raiseFlags va.flags 0).sfuResult d f.width r t 8

/-- `fdiv` (R87, R114). -/
def State.sfuDiv (s : State) (d a b : VCode) : State :=
  match sfuFmt s.ef with
  | none => s.illegal
  | some f =>
    let o := s.read3 a b true
    match combine .nonlinear o.a.tag o.b.tag with
    | none => s.domain [(a.toNat, o.a.tag), (b.toNat, o.b.tag)]
    | some t =>
      match VIn.firstErr [o.a, o.b] with
      | some f => s.takeFault f
      | none =>
        let r := ((elems f.width o.a.data).zip (elems f.width o.b.data)).map fun p =>
          Sfu.narrow f s.rmode (Sfu.fdiv s.rmode (Sfu.widen f s.rmode.ftz p.1) (Sfu.widen f s.rmode.ftz p.2))
        (o.s.raiseFlags (o.a.flags ||| o.b.flags) 0).sfuResult d f.width r t 12

/-- `fexp2` (R85, R86). -/
def execFexp2 (d a : XReg) (s : State) : Host.Outcome State Fault Refusal :=
  s.computeWord (.fexp2 d a) fun s => s.sfuWord (Sfu.base .exp2) d a

/-- `flog2` (R85, R86). -/
def execFlog2 (d a : XReg) (s : State) : Host.Outcome State Fault Refusal :=
  s.computeWord (.flog2 d a) fun s => s.sfuWord (Sfu.base .log2) d a

/-- `frcp` (R85, R86). -/
def execFrcp (d a : XReg) (s : State) : Host.Outcome State Fault Refusal :=
  s.computeWord (.frcp d a) fun s => s.sfuWord (Sfu.base .rcp) d a

/-- `frsqrt` (R85, R86). -/
def execFrsqrt (d a : XReg) (s : State) : Host.Outcome State Fault Refusal :=
  s.computeWord (.frsqrt d a) fun s => s.sfuWord (Sfu.base .rsqrt) d a

/-- `fsqrt` (R85, R86). -/
def execFsqrt (d a : XReg) (s : State) : Host.Outcome State Fault Refusal :=
  s.computeWord (.fsqrt d a) fun s => s.sfuWord (Sfu.base .sqrt) d a

/-- `fsin` (R85, R86). -/
def execFsin (d a : XReg) (s : State) : Host.Outcome State Fault Refusal :=
  s.computeWord (.fsin d a) fun s => s.sfuWord (Sfu.base .sin) d a

/-- `fcos` (R85, R86). -/
def execFcos (d a : XReg) (s : State) : Host.Outcome State Fault Refusal :=
  s.computeWord (.fcos d a) fun s => s.sfuWord (Sfu.base .cos) d a

/-- `ftanh` (R87). -/
def execFtanh (d a : XReg) (s : State) : Host.Outcome State Fault Refusal :=
  s.computeWord (.ftanh d a) fun s => s.sfuWord (Sfu.tanh) d a

/-- `fsigm` (R87). -/
def execFsigm (d a : XReg) (s : State) : Host.Outcome State Fault Refusal :=
  s.computeWord (.fsigm d a) fun s => s.sfuWord (Sfu.sigm) d a

/-- `fgelu` (R87). -/
def execFgelu (d a : XReg) (s : State) : Host.Outcome State Fault Refusal :=
  s.computeWord (.fgelu d a) fun s => s.sfuWord (Sfu.gelu) d a

/-- `fsilu` (R87). -/
def execFsilu (d a : XReg) (s : State) : Host.Outcome State Fault Refusal :=
  s.computeWord (.fsilu d a) fun s => s.sfuWord (Sfu.silu) d a

/-- `fdiv` (R87). -/
def execFdiv (d a b : XReg) (s : State) : Host.Outcome State Fault Refusal :=
  s.computeWord (.fdiv d a b) fun s => s.sfuDiv d a b

end Sys2Proof.Machine
end

