-- ==== Sys2Proof/Machine/Dispatch.lean ====
section
/-! DEFINITION. The meaning of every instruction: one arm per constructor, each one direct call. -/

namespace Sys2Proof.Machine

open Sys2Proof

def exec (i : Instr) (s : State) : Host.Outcome State Fault Refusal :=
  match i with
  | .add d a b e f => Sys2Proof.Machine.execAdd d a b e f s
  | .sub d a b e f => Sys2Proof.Machine.execSub d a b e f s
  | .and d a b e f => Sys2Proof.Machine.execAnd d a b e f s
  | .or d a b e f => Sys2Proof.Machine.execOr d a b e f s
  | .xor d a b e f => Sys2Proof.Machine.execXor d a b e f s
  | .andn d a b e f => Sys2Proof.Machine.execAndn d a b e f s
  | .shl d a b e f => Sys2Proof.Machine.execShl d a b e f s
  | .shr d a b e f => Sys2Proof.Machine.execShr d a b e f s
  | .sra d a b e f => Sys2Proof.Machine.execSra d a b e f s
  | .rol d a b e f => Sys2Proof.Machine.execRol d a b e f s
  | .mul d a b e f => Sys2Proof.Machine.execMul d a b e f s
  | .mulh d a b e f => Sys2Proof.Machine.execMulh d a b e f s
  | .mulhn d a b e f => Sys2Proof.Machine.execMulhn d a b e f s
  | .div d a b e f => Sys2Proof.Machine.execDiv d a b e f s
  | .divn d a b e f => Sys2Proof.Machine.execDivn d a b e f s
  | .rem d a b e f => Sys2Proof.Machine.execRem d a b e f s
  | .remn d a b e f => Sys2Proof.Machine.execRemn d a b e f s
  | .min d a b e f => Sys2Proof.Machine.execMin d a b e f s
  | .max d a b e f => Sys2Proof.Machine.execMax d a b e f s
  | .minn d a b e f => Sys2Proof.Machine.execMinn d a b e f s
  | .maxn d a b e f => Sys2Proof.Machine.execMaxn d a b e f s
  | .slt d a b e f => Sys2Proof.Machine.execSlt d a b e f s
  | .sltn d a b e f => Sys2Proof.Machine.execSltn d a b e f s
  | .seq d a b e f => Sys2Proof.Machine.execSeq d a b e f s
  | .clz d a e => Sys2Proof.Machine.execClz d a e s
  | .ctz d a e => Sys2Proof.Machine.execCtz d a e s
  | .popc d a e => Sys2Proof.Machine.execPopc d a e s
  | .sext d a b e f => Sys2Proof.Machine.execSext d a b e f s
  | .bext d a b e f => Sys2Proof.Machine.execBext d a b e f s
  | .bins d a b e f => Sys2Proof.Machine.execBins d a b e f s
  | .fset d a e => Sys2Proof.Machine.execFset d a e s
  | .fclr d a e => Sys2Proof.Machine.execFclr d a e s
  | .fadd d a b e f => Sys2Proof.Machine.execFadd d a b e f s
  | .fsub d a b e f => Sys2Proof.Machine.execFsub d a b e f s
  | .fmul d a b e f => Sys2Proof.Machine.execFmul d a b e f s
  | .fmin d a b e f => Sys2Proof.Machine.execFmin d a b e f s
  | .fmax d a b e f => Sys2Proof.Machine.execFmax d a b e f s
  | .fcvti d a e => Sys2Proof.Machine.execFcvti d a e s
  | .icvtf d a e => Sys2Proof.Machine.execIcvtf d a e s
  | .addi d a im => Sys2Proof.Machine.execAddi d a im s
  | .andi d a im => Sys2Proof.Machine.execAndi d a im s
  | .ori d a im => Sys2Proof.Machine.execOri d a im s
  | .xori d a im => Sys2Proof.Machine.execXori d a im s
  | .shli d a x => Sys2Proof.Machine.execShli d a x s
  | .shri d a x => Sys2Proof.Machine.execShri d a x s
  | .srai d a x => Sys2Proof.Machine.execSrai d a x s
  | .slti d a im => Sys2Proof.Machine.execSlti d a im s
  | .sltni d a im => Sys2Proof.Machine.execSltni d a im s
  | .lis d im => Sys2Proof.Machine.execLis d im s
  | .lih d im => Sys2Proof.Machine.execLih d im s
  | .mfcr d n => Sys2Proof.Machine.execMfcr d n s
  | .mtcr a n => Sys2Proof.Machine.execMtcr a n s
  | .stg a e x => Sys2Proof.Machine.execStg a e x s
  | .ldg d e x => Sys2Proof.Machine.execLdg d e x s
  | .setfmt a im => Sys2Proof.Machine.execSetfmt a im s
  | .setmfmt a im => Sys2Proof.Machine.execSetmfmt a im s
  | .setthr n a => Sys2Proof.Machine.execSetthr n a s
  | .br o => Sys2Proof.Machine.execBr o s
  | .call o => Sys2Proof.Machine.execCall o s
  | .beq a b o => Sys2Proof.Machine.execBeq a b o s
  | .bne a b o => Sys2Proof.Machine.execBne a b o s
  | .blt a b o => Sys2Proof.Machine.execBlt a b o s
  | .bge a b o => Sys2Proof.Machine.execBge a b o s
  | .bltn a b o => Sys2Proof.Machine.execBltn a b o s
  | .bgen a b o => Sys2Proof.Machine.execBgen a b o s
  | .bz a o => Sys2Proof.Machine.execBz a o s
  | .bnz a o => Sys2Proof.Machine.execBnz a o s
  | .jr a => Sys2Proof.Machine.execJr a s
  | .loop a o => Sys2Proof.Machine.execLoop a o s
  | .vadd d a b m => Sys2Proof.Machine.execVadd d a b m s
  | .vsub d a b m => Sys2Proof.Machine.execVsub d a b m s
  | .vmul d a b m => Sys2Proof.Machine.execVmul d a b m s
  | .vfma d a b m => Sys2Proof.Machine.execVfma d a b m s
  | .vfms d a b m => Sys2Proof.Machine.execVfms d a b m s
  | .vmin d a b m => Sys2Proof.Machine.execVmin d a b m s
  | .vmax d a b m => Sys2Proof.Machine.execVmax d a b m s
  | .vabs d a m => Sys2Proof.Machine.execVabs d a m s
  | .vneg d a m => Sys2Proof.Machine.execVneg d a m s
  | .vand d a b m => Sys2Proof.Machine.execVand d a b m s
  | .vor d a b m => Sys2Proof.Machine.execVor d a b m s
  | .vxor d a b m => Sys2Proof.Machine.execVxor d a b m s
  | .vshl d a b m => Sys2Proof.Machine.execVshl d a b m s
  | .vshr d a b m => Sys2Proof.Machine.execVshr d a b m s
  | .vsra d a b m => Sys2Proof.Machine.execVsra d a b m s
  | .vadds d a b m => Sys2Proof.Machine.execVadds d a b m s
  | .vsubs d a b m => Sys2Proof.Machine.execVsubs d a b m s
  | .vmulh d a b m => Sys2Proof.Machine.execVmulh d a b m s
  | .vdot4 d a b m => Sys2Proof.Machine.execVdot4 d a b m s
  | .vcmpeq d a b m => Sys2Proof.Machine.execVcmpeq d a b m s
  | .vcmplt d a b m => Sys2Proof.Machine.execVcmplt d a b m s
  | .vcmple d a b m => Sys2Proof.Machine.execVcmple d a b m s
  | .vsel d a b m => Sys2Proof.Machine.execVsel d a b m s
  | .vmov d a m => Sys2Proof.Machine.execVmov d a m s
  | .vcvt d a b m => Sys2Proof.Machine.execVcvt d a b m s
  | .vabsd d a b m => Sys2Proof.Machine.execVabsd d a b m s
  | .vclamp d a b m => Sys2Proof.Machine.execVclamp d a b m s
  | .cascadeExtension p q x t u v => Sys2Proof.Machine.execCascadeExtension p q x t u v s
  | .vbcast d b => Sys2Proof.Machine.execVbcast d b s
  | .vaddx d a b => Sys2Proof.Machine.execVaddx d a b s
  | .vmulx d a b => Sys2Proof.Machine.execVmulx d a b s
  | .vfmax d a b => Sys2Proof.Machine.execVfmax d a b s
  | .vimm d im => Sys2Proof.Machine.execVimm d im s
  | .vidx d b => Sys2Proof.Machine.execVidx d b s
  | .vperm d a b => Sys2Proof.Machine.execVperm d a b s
  | .vrot d a b => Sys2Proof.Machine.execVrot d a b s
  | .xcl d a b => Sys2Proof.Machine.execXcl d a b s
  | .xred d a b => Sys2Proof.Machine.execXred d a b s
  | .vred d a => Sys2Proof.Machine.execVred d a s
  | .vredmax d a => Sys2Proof.Machine.execVredmax d a s
  | .vext d a b => Sys2Proof.Machine.execVext d a b s
  | .vins d a b => Sys2Proof.Machine.execVins d a b s
  | .mand d a b => Sys2Proof.Machine.execMand d a b s
  | .mor d a b => Sys2Proof.Machine.execMor d a b s
  | .mnot d a => Sys2Proof.Machine.execMnot d a s
  | .mpop d a => Sys2Proof.Machine.execMpop d a s
  | .vtag d a t => Sys2Proof.Machine.execVtag d a t s
  | .vtagx d a => Sys2Proof.Machine.execVtagx d a s
  | .vpop d a => Sys2Proof.Machine.execVpop d a s
  | .fexp2 d a => Sys2Proof.Machine.execFexp2 d a s
  | .flog2 d a => Sys2Proof.Machine.execFlog2 d a s
  | .frcp d a => Sys2Proof.Machine.execFrcp d a s
  | .frsqrt d a => Sys2Proof.Machine.execFrsqrt d a s
  | .fsqrt d a => Sys2Proof.Machine.execFsqrt d a s
  | .fsin d a => Sys2Proof.Machine.execFsin d a s
  | .fcos d a => Sys2Proof.Machine.execFcos d a s
  | .ftanh d a => Sys2Proof.Machine.execFtanh d a s
  | .fsigm d a => Sys2Proof.Machine.execFsigm d a s
  | .fgelu d a => Sys2Proof.Machine.execFgelu d a s
  | .fsilu d a => Sys2Proof.Machine.execFsilu d a s
  | .fdiv d a b => Sys2Proof.Machine.execFdiv d a b s
  | .vld d a o => Sys2Proof.Machine.execVld d a o s
  | .vst d a o => Sys2Proof.Machine.execVst d a o s
  | .rmg d a o => Sys2Proof.Machine.execRmg d a o s
  | .sld d o => Sys2Proof.Machine.execSld d o s
  | .sst d o => Sys2Proof.Machine.execSst d o s
  | .vsld d o => Sys2Proof.Machine.execVsld d o s
  | .vsst d o => Sys2Proof.Machine.execVsst d o s
  | .vfill d a n => Sys2Proof.Machine.execVfill d a n s
  | .rtagw d a o => Sys2Proof.Machine.execRtagw d a o s
  | .rtagr d a o => Sys2Proof.Machine.execRtagr d a o s
  | .qst q a o => Sys2Proof.Machine.execQst q a o s
  | .hld d h im e => Sys2Proof.Machine.execHld d h im e s
  | .hst d h im e => Sys2Proof.Machine.execHst d h im e s
  | .hlds d h im e => Sys2Proof.Machine.execHlds d h im e s
  | .hsts d h im e => Sys2Proof.Machine.execHsts d h im e s
  | .hpf h im e => Sys2Proof.Machine.execHpf h im e s
  | .haadd d h im r e => Sys2Proof.Machine.execHaadd d h im r e s
  | .hamax d h im r e => Sys2Proof.Machine.execHamax d h im r e s
  | .hamin d h im r e => Sys2Proof.Machine.execHamin d h im r e s
  | .hamaxn d h im r e => Sys2Proof.Machine.execHamaxn d h im r e s
  | .haminn d h im r e => Sys2Proof.Machine.execHaminn d h im r e s
  | .haand d h im r e => Sys2Proof.Machine.execHaand d h im r e s
  | .haor d h im r e => Sys2Proof.Machine.execHaor d h im r e s
  | .haxor d h im r e => Sys2Proof.Machine.execHaxor d h im r e s
  | .haswp d h im r e => Sys2Proof.Machine.execHaswp d h im r e s
  | .hacas d h im r e => Sys2Proof.Machine.execHacas d h im r e s
  | .hfadd d h im r e => Sys2Proof.Machine.execHfadd d h im r e s
  | .hfamax d h im r e => Sys2Proof.Machine.execHfamax d h im r e s
  | .hfamin d h im r e => Sys2Proof.Machine.execHfamin d h im r e s
  | .hvadd d h im e => Sys2Proof.Machine.execHvadd d h im e s
  | .hvmax d h im e => Sys2Proof.Machine.execHvmax d h im e s
  | .hinfo d h x e => Sys2Proof.Machine.execHinfo d h x e s
  | .mmul b q c p z x => Sys2Proof.Machine.execMmul b q c p z x s
  | .mzero b => Sys2Proof.Machine.execMzero b s
  | .mdrain b q => Sys2Proof.Machine.execMdrain b q s
  | .mwld x => Sys2Proof.Machine.execMwld x s
  | .mwstr x => Sys2Proof.Machine.execMwstr x s
  | .mtile b q c p z x => Sys2Proof.Machine.execMtile b q c p z x s
  | .mstat w d x => Sys2Proof.Machine.execMstat w d x s
  | .fget n c => Sys2Proof.Machine.execFget n c s
  | .fpref n => Sys2Proof.Machine.execFpref n s
  | .fcancel n => Sys2Proof.Machine.execFcancel n s
  | .sbind n => Sys2Proof.Machine.execSbind n s
  | .sfree n => Sys2Proof.Machine.execSfree n s
  | .cput n c => Sys2Proof.Machine.execCput n c s
  | .cmov n => Sys2Proof.Machine.execCmov n s
  | .clzCopy n => Sys2Proof.Machine.execClzCopy n s
  | .cdrain n t f d => Sys2Proof.Machine.execCdrain n t f d s
  | .cstat n f d => Sys2Proof.Machine.execCstat n f d s
  | .wfwd L => Sys2Proof.Machine.execWfwd L s
  | .wst L => Sys2Proof.Machine.execWst L s
  | .wcnt a d => Sys2Proof.Machine.execWcnt a d s
  | .osub e => Sys2Proof.Machine.execOsub e s
  | .evsig e => Sys2Proof.Machine.execEvsig e s
  | .evsigB n => Sys2Proof.Machine.execEvsigB n s
  | .gkick d => Sys2Proof.Machine.execGkick d s
  | .lzopen n => Sys2Proof.Machine.execLzopen n s
  | .lzclose n => Sys2Proof.Machine.execLzclose n s
  | .lzres d => Sys2Proof.Machine.execLzres d s
  | .lzclr n => Sys2Proof.Machine.execLzclr n s
  | .lzstat n d x => Sys2Proof.Machine.execLzstat n d x s
  | .barinit n => Sys2Proof.Machine.execBarinit n s
  | .barstat n d => Sys2Proof.Machine.execBarstat n d s
  | .trap im => Sys2Proof.Machine.execTrap im s
  | .chk a b => Sys2Proof.Machine.execChk a b s
  | .vchk a b => Sys2Proof.Machine.execVchk a b s
  | .sysc im => Sys2Proof.Machine.execSysc im s
  | .mfsr d x => Sys2Proof.Machine.execMfsr d x s
  | .mtsr d x => Sys2Proof.Machine.execMtsr d x s
  | .pld d a => Sys2Proof.Machine.execPld d a s
  | .pst a b => Sys2Proof.Machine.execPst a b s
  | .hinv a => Sys2Proof.Machine.execHinv a s
  | .ident d => Sys2Proof.Machine.execIdent d s
  | .brk im => Sys2Proof.Machine.execBrk im s
  | .wpset a b => Sys2Proof.Machine.execWpset a b s
  | .wpclr a => Sys2Proof.Machine.execWpclr a s
  | .valueArrives core a => Sys2Proof.Machine.execValueArrives core a s
  | .resolutionComplete core => Sys2Proof.Machine.execResolutionComplete core s
  | .syncRequestAccepted core => Sys2Proof.Machine.execSyncRequestAccepted core s
  | .resultRowPush core seq k => Sys2Proof.Machine.execResultRowPush core seq k s
  | .heldRowEntersQueue core q => Sys2Proof.Machine.execHeldRowEntersQueue core q s
  | .weightLoadComplete core slot => Sys2Proof.Machine.execWeightLoadComplete core slot s
  | .mtilePassStart core => Sys2Proof.Machine.execMtilePassStart core s
  | .waveletCommandWrite core => Sys2Proof.Machine.execWaveletCommandWrite core s
  | .channelCommandStart core copy ch => Sys2Proof.Machine.execChannelCommandStart core copy ch s
  | .fetchRowWritten core ch seq run => Sys2Proof.Machine.execFetchRowWritten core ch seq run s
  | .fetchCommandComplete core ch => Sys2Proof.Machine.execFetchCommandComplete core ch s
  | .copyCommandComplete core ch => Sys2Proof.Machine.execCopyCommandComplete core ch s
  | .clzComplete core ch => Sys2Proof.Machine.execClzComplete core ch s
  | .streamVectorFetched core q => Sys2Proof.Machine.execStreamVectorFetched core q s
  | .reservationRequest core q => Sys2Proof.Machine.execReservationRequest core q s
  | .lzresTimeout core dest zone target => Sys2Proof.Machine.execLzresTimeout core dest zone target s
  | .slotReleaseAtTarget core fromPkg fromCore rel => Sys2Proof.Machine.execSlotReleaseAtTarget core fromPkg fromCore rel s
  | .landingRowArrival core r => Sys2Proof.Machine.execLandingRowArrival core r s
  | .barrierArrival core fromPkg sender pair bgen => Sys2Proof.Machine.execBarrierArrival core fromPkg sender pair bgen s
  | .barrierDeadline core pair => Sys2Proof.Machine.execBarrierDeadline core pair s
  | .rowUndelivered core ch => Sys2Proof.Machine.execRowUndelivered core ch s
  | .kick part src pkt => Sys2Proof.Machine.execKick part src pkt s
  | .nodeCreate rid replay node => Sys2Proof.Machine.execNodeCreate rid replay node s
  | .taskTake core => Sys2Proof.Machine.execTaskTake core s
  | .priorityAging core rid => Sys2Proof.Machine.execPriorityAging core rid s
  | .phaseInputFetch core input => Sys2Proof.Machine.execPhaseInputFetch core input s
  | .phaseStart core => Sys2Proof.Machine.execPhaseStart core s
  | .migrationLineCopy home page => Sys2Proof.Machine.execMigrationLineCopy home page s
  | .keyScrubComplete die => Sys2Proof.Machine.execKeyScrubComplete die s
  | .collectorDone core => Sys2Proof.Machine.execCollectorDone core s
  | .saveComplete core => Sys2Proof.Machine.execSaveComplete core s
  | .restoreComplete core => Sys2Proof.Machine.execRestoreComplete core s
  | .discardComplete core => Sys2Proof.Machine.execDiscardComplete core s
  | .recoveryComplete core agree => Sys2Proof.Machine.execRecoveryComplete core agree s
  | .meterAdd part rid meter n => Sys2Proof.Machine.execMeterAdd part rid meter n s
  | .missingObjectResolved core => Sys2Proof.Machine.execMissingObjectResolved core s
  | .regionStopTimeLimit win => Sys2Proof.Machine.execRegionStopTimeLimit win s
  | .patternTestEnd ch => Sys2Proof.Machine.execPatternTestEnd ch s
  | .ret => Sys2Proof.Machine.execRet s
  | .phase => Sys2Proof.Machine.execPhase s
  | .tend => Sys2Proof.Machine.execTend s
  | .ckpt => Sys2Proof.Machine.execCkpt s
  | .winv => Sys2Proof.Machine.execWinv s
  | .wstC => Sys2Proof.Machine.execWstC s
  | .wexp => Sys2Proof.Machine.execWexp s
  | .wbias => Sys2Proof.Machine.execWbias s
  | .opub => Sys2Proof.Machine.execOpub s
  | .opin => Sys2Proof.Machine.execOpin s
  | .ounpin => Sys2Proof.Machine.execOunpin s
  | .over => Sys2Proof.Machine.execOver s
  | .lzrel => Sys2Proof.Machine.execLzrel s
  | .tfence => Sys2Proof.Machine.execTfence s
  | .eret => Sys2Proof.Machine.execEret s
  | .wfi => Sys2Proof.Machine.execWfi s
  | .pord => Sys2Proof.Machine.execPord s
  | .atomicPerformed q => Sys2Proof.Machine.execAtomicPerformed q s
  | .markerTimeout core => Sys2Proof.Machine.execMarkerTimeout core s
  | .lzrelTimeout core => Sys2Proof.Machine.execLzrelTimeout core s
  | .ltimeTick => Sys2Proof.Machine.execLtimeTick s
  | .rebase die => Sys2Proof.Machine.execRebase die s
  | .directoryRead die line => Sys2Proof.Machine.execDirectoryRead die line s
  | .directoryOwnership die line => Sys2Proof.Machine.execDirectoryOwnership die line s
  | .invalidation die base k => Sys2Proof.Machine.execInvalidation die base k s
  | .directoryMerge home base => Sys2Proof.Machine.execDirectoryMerge home base s
  | .pageMigration home page dest => Sys2Proof.Machine.execPageMigration home page dest s
  | .cacheSleep c => Sys2Proof.Machine.execCacheSleep c s
  | .cacheWake c => Sys2Proof.Machine.execCacheWake c s
  | .memoryControllerWrite line data => Sys2Proof.Machine.execMemoryControllerWrite line data s
  | .kscrubGo die => Sys2Proof.Machine.execKscrubGo die s
  | .l2wayWrite die key w => Sys2Proof.Machine.execL2wayWrite die key w s
  | .mscwayWrite die key cls w => Sys2Proof.Machine.execMscwayWrite die key cls w s
  | .registerWrite addr w => Sys2Proof.Machine.execRegisterWrite addr w s
  | .faultQueueRead dest => Sys2Proof.Machine.execFaultQueueRead dest s
  | .xregWrite core r w => Sys2Proof.Machine.execXregWrite core r w s
  | .stop core => Sys2Proof.Machine.execStop core s
  | .cctlResume core => Sys2Proof.Machine.execCctlResume core s
  | .resumeNext core => Sys2Proof.Machine.execResumeNext core s
  | .resumeAt core => Sys2Proof.Machine.execResumeAt core s
  | .rollback core => Sys2Proof.Machine.execRollback core s
  | .save core => Sys2Proof.Machine.execSave core s
  | .restore core => Sys2Proof.Machine.execRestore core s
  | .discard core => Sys2Proof.Machine.execDiscard core s
  | .matrixDataError core kind addr => Sys2Proof.Machine.execMatrixDataError core kind addr s
  | .lockstepMismatch core cluster addr => Sys2Proof.Machine.execLockstepMismatch core cluster addr s
  | .interrupt core => Sys2Proof.Machine.execInterrupt core s
  | .identCmd win => Sys2Proof.Machine.execIdentCmd win s
  | .status win => Sys2Proof.Machine.execStatus win s
  | .partCreate win => Sys2Proof.Machine.execPartCreate win s
  | .partDestroy win => Sys2Proof.Machine.execPartDestroy win s
  | .partQuota win => Sys2Proof.Machine.execPartQuota win s
  | .keyLoad win => Sys2Proof.Machine.execKeyLoad win s
  | .keyGen win => Sys2Proof.Machine.execKeyGen win s
  | .keyKill win => Sys2Proof.Machine.execKeyKill win s
  | .objCreate win => Sys2Proof.Machine.execObjCreate win s
  | .objDestroy win => Sys2Proof.Machine.execObjDestroy win s
  | .objShare win => Sys2Proof.Machine.execObjShare win s
  | .graphLoad win => Sys2Proof.Machine.execGraphLoad win s
  | .regionStop win => Sys2Proof.Machine.execRegionStop win s
  | .preempt win => Sys2Proof.Machine.execPreempt win s
  | .resume win => Sys2Proof.Machine.execResume win s
  | .ckptBegin win => Sys2Proof.Machine.execCkptBegin win s
  | .ckptRollback win => Sys2Proof.Machine.execCkptRollback win s
  | .meterSnap win => Sys2Proof.Machine.execMeterSnap win s
  | .vlogRead win => Sys2Proof.Machine.execVlogRead win s
  | .fabricJoin win => Sys2Proof.Machine.execFabricJoin win s
  | .fabricLeave win => Sys2Proof.Machine.execFabricLeave win s
  | .getCertificate path => Sys2Proof.Machine.execGetCertificate path s
  | .challenge path nonce => Sys2Proof.Machine.execChallenge path nonce s
  | .getMeasurements path index => Sys2Proof.Machine.execGetMeasurements path index s
  | .keyExchange path => Sys2Proof.Machine.execKeyExchange path s
  | .keyDelivery session key bytes => Sys2Proof.Machine.execKeyDelivery session key bytes s
  | .sessionEnd session => Sys2Proof.Machine.execSessionEnd session s
  | .powerGood => Sys2Proof.Machine.execPowerGood s
  | .bootStepTimeout detail => Sys2Proof.Machine.execBootStepTimeout detail s
  | .patternTestStart ch w => Sys2Proof.Machine.execPatternTestStart ch w s
  | .rdallWrite ch w => Sys2Proof.Machine.execRdallWrite ch w s
  | .wdallWrite ch w => Sys2Proof.Machine.execWdallWrite ch w s
  | .modeRegisterWrite ch w => Sys2Proof.Machine.execModeRegisterWrite ch w s
  | .portEnableWrite port en => Sys2Proof.Machine.execPortEnableWrite port en s
  | .portTrainingComplete port ok peer => Sys2Proof.Machine.execPortTrainingComplete port ok peer s
  | .portFailure port => Sys2Proof.Machine.execPortFailure port s
  | .fabricPacket p => Sys2Proof.Machine.execFabricPacket p s
  | .remoteAccess a => Sys2Proof.Machine.execRemoteAccess a s
  | .hostLinkDown link => Sys2Proof.Machine.execHostLinkDown link s
  | .thermalGate die => Sys2Proof.Machine.execThermalGate die s
  | .thermalUngate die => Sys2Proof.Machine.execThermalUngate die s
  | .thermalShutdown => Sys2Proof.Machine.execThermalShutdown s
  | .hostWrite r => Sys2Proof.Machine.execHostWrite r s
  | .doorbell link win op => Sys2Proof.Machine.execDoorbell link win op s
  | .hostLinkUp link => Sys2Proof.Machine.execHostLinkUp link s

end Sys2Proof.Machine
end

