-- ==== Sys2Proof/Machine/Regions.lean ====
section
/-! DEFINITION. Region control blocks in memory (R289..R291): the 256-byte blocks in key-id-0 memory, linked by SIB, CHILD and
PARENT, that Lovage writes. What Lovage's programs write there with `pst` is taken over where R291 allows it, and what the package changes
is written back. DEDUCED: notes/assumptions/51.md. -/

namespace Sys2Proof.Machine

open Sys2Proof

/-! ### The block (R289, R290) -/

/-- The control word (R290). -/
def Region.ctl (r : Region) : Nat :=
  place 16 6 r.part + place 8 7 r.inh.toNat + (if r.lock then 128 else 0) + place 5 2 r.fpol.toNat + place 2 3 r.prio.toNat + r.st.toNat

/-- Children of a region, in the order of their links. -/
def State.childrenOf (s : State) (rid : Nat) : List Region := s.regions.filter fun r => r.parent = some rid

def addrOfRegion (r : Option Region) : Nat := match r with | some r => r.addr | none => 0

/-- The next sibling of a region. -/
def State.nextSib (s : State) (r : Region) : Option Region :=
  match r.parent with
  | none => none
  | some p => ((s.childrenOf p).dropWhile fun q => q.rid ≠ r.rid)[1]?

/-- A region's block as Lovage keeps it (R289). -/
def State.blockOf (s : State) (r : Region) : BitVec 2048 :=
  BitVec.ofNat 2048 <|
    place 1984 16 r.rid + place 1965 5 r.lzcap + place 1936 14 r.rowcap + packNat 64 r.quota.toList * 2 ^ 1024 +
    place 960 64 (addrOfRegion (s.nextSib r)) + place 896 64 (addrOfRegion (s.childrenOf r.rid).head?) +
    place 832 64 (addrOfRegion (r.parent.bind s.region?)) + place 768 64 r.ctl + r.coreset.toNat

/-- The block that stands at an address. -/
def State.blockAt (s : State) (a : Nat) : BitVec 2048 :=
  BitVec.ofNat 2048 (packNat 512 ((List.range 4).map fun i => (s.peekLine (a / 64 + i)).toNat))

/-- A block is written at an address. -/
def State.writeBlock (s : State) (a : Nat) (b : BitVec 2048) : State :=
  (List.range 4).foldl (fun s i => s.outerWrite ⟨(a / 64 + i) * 64, 1, false⟩ fun _ => b.extractLsb' (512 * i) 512) s

/-! ### Reading a block -/

def blockField (b : BitVec 2048) (lo n : Nat) : Nat := b.toNat / 2 ^ lo % 2 ^ n

/-- Reserved fields are 0. -/
def blockClean (b : BitVec 2048) : Bool :=
  ([(2000, 48), (1970, 14), (1950, 15), (1920, 16), (768 + 22, 42), (768 + 15, 1)] : List (Nat × Nat)).all fun p =>
    blockField b p.1 p.2 == 0

/-- A region with the fields of a block; its id, its place and its parent are not taken from there. -/
def Region.fromBlock (r : Region) (b : BitVec 2048) : Region :=
  let ctl := blockField b 768 64
  { r with
    lzcap := blockField b 1965 5, rowcap := blockField b 1936 14, quota := Vector.ofFn fun i => blockField b (1024 + 64 * i.val) 64
    inh := BitVec.ofNat 7 (ctl / 256), lock := ctl / 128 % 2 == 1, fpol := BitVec.ofNat 2 (ctl / 32), prio := BitVec.ofNat 3 (ctl / 4),
    st := BitVec.ofNat 2 ctl, coreset := BitVec.ofNat 768 b.toNat, block := b }

/-! ### What Lovage refuses (R289, R291) -/

/-- The conditions of R291 over all regions, with the ranges of R289. -/
def State.regionsOk (s : State) : Bool :=
  let eff (r : Region) : BitVec 768 := s.eff 0 (·.coreset) 0 r.rid
  s.regions.all fun r =>
    decide (1 ≤ r.rowcap) && decide (r.rowcap ≤ 8192) && decide (r.lzcap ≤ 16) && r.fpol != 3 &&
    (match r.parent with
     | some p => eff r &&& ~~~(s.eff 0 (·.coreset) 0 p) == 0
     | none => s.regions.all fun q => q.parent.isSome || q.part == r.part || r.coreset &&& q.coreset == 0)

/-- A change of the regions is allowed: R291 stands after it, and no region with a replay in flight has its effective CORESET changed. -/
def State.mayChange (s t : State) : Bool :=
  t.regionsOk && s.regions.all fun r =>
    !(s.replays.any fun x => x.rid = r.rid && x.inFlight) || s.eff 0 (·.coreset) 0 r.rid == t.eff 0 (·.coreset) 0 r.rid

/-- A region is free (STATE 00) once nothing is left in it: no task, no replay in flight, no child. The root stays. -/
def State.mayFree (s : State) (r : Region) : Bool :=
  r.parent.isSome && (s.childrenOf r.rid).isEmpty && !(s.replays.any fun x => x.rid = r.rid && x.inFlight) &&
  !(s.cores.any fun c => c.task.isSome && c.tk.rid = r.rid) && !(s.saves.any fun p => p.2.ctx.tk.rid = r.rid) &&
  !(s.tasks.any fun t => t.rid = r.rid)

/-! ### Changes -/

/-- A region whose block has been written: the change stands where it may; a region that becomes free leaves. Another STATE that a
program writes is taken as it is. -/
def State.adoptBlock (s : State) (r : Region) (b : BitVec 2048) : State :=
  let n := r.fromBlock b
  let seen : State := s.modRegion r.rid fun r => { r with block := b }
  if !blockClean b || blockField b 1984 16 ≠ r.rid || blockField b (768 + 16) 6 ≠ r.part then seen
  else if n.st = 0 then (if s.mayFree r then { s with regions := s.regions.filter fun q => q.rid ≠ r.rid } else seen)
  else
    let t := s.modRegion r.rid fun _ => n
    if s.mayChange t then t else seen

/-- A block that a link of a region's block names and that no region has: a new region of the same partition. -/
def State.newRegion (s : State) (a part parent : Nat) : Option Region :=
  let b := s.blockAt a
  let r : Region := Region.fromBlock { rid := blockField b 1984 16, addr := a, part, parent := some parent } b
  if a % 64 ≠ 0 || a = 0 || paKey a ≠ 0 || 2 ^ 46 ≤ a || (s.regions.any fun q => q.addr = a || q.rid = r.rid) || r.rid = 0 || r.st = 0 ||
      !blockClean b || blockField b (768 + 16) 6 ≠ part || blockField b 832 64 ≠ addrOfRegion (s.region? parent) then none
  else some r

/-- Regions with a new one placed before the first that `p` names, or at the end. -/
def placeRegion (p : Region → Bool) (n : Region) (l : List Region) : List Region :=
  l.takeWhile (fun r => !p r) ++ n :: l.dropWhile fun r => !p r

/-- A child that a region's CHILD names, as its first, or the sibling that its SIB names, as the next after it. -/
def State.linkNew (s : State) (r : Region) (b : BitVec 2048) : State :=
  let try_ (s : State) (n : Option Region) (p : Region → Bool) : State :=
    match n with
    | some n =>
      let t : State := { s with regions := placeRegion p n s.regions }
      if s.mayChange t then t else s
    | none => s
  let s := try_ s (s.newRegion (blockField b 896 64) r.part r.rid) fun q => q.parent = some r.rid
  match r.parent with
  | some p => try_ s (s.newRegion (blockField b 960 64) r.part p) fun q => ((s.nextSib r).any fun x => x.rid = q.rid)
  | none => s

/-- Region quotas that a written block has lowered to the sum or below are met at once (R358): one DRAIN for each outermost region. -/
def State.quotasLowered (s t : State) : State :=
  (List.range 14).foldl (fun t i =>
    let now := t.regions.filter fun r => t.regionMet r i && !(s.regions.any fun q => q.rid = r.rid && s.regionMet q i)
    (now.filter fun r => now.all fun q => q.rid = r.rid || !t.isIn r.rid q.rid).foldl (fun t r => t.quotaMet r.part r.rid i) t) t

/-- The blocks at the end of a cycle: those that programs have written are taken over, and those that the package has changed are
written. -/
def State.pollRegions (s : State) : State :=
  let s := s.regions.foldl (fun s r =>
    if r.addr = 0 then s
    else
      let b := s.blockAt r.addr
      if b = r.block then s else s.quotasLowered ((s.linkNew r b).adoptBlock r b)) s
  s.regions.foldl (fun s r =>
    if r.addr = 0 then s
    else
      let b := s.blockOf r
      if b = r.block then s else (s.writeBlock r.addr b).modRegion r.rid fun r => { r with block := b }) s

end Sys2Proof.Machine
end

