-- ==== Sys2Proof/Machine/Uses.lean ====
section
/-! DEFINITION. What a group needs before it issues: slots and the placing of class 4 (R18..R20), the registers that a word
reads and writes (R23..R27, R35), and the conditions under which it stalls (R34 and the rules that it names). -/

namespace Sys2Proof.Machine

open Sys2Proof

/-! ### Groups (R18..R20) -/

/-- Class of a word (R15). -/
def wordClass (w : IWord) : Nat := w.toNat / 2 ^ 27 % 16

/-- How many words of a group stand in the listed classes. -/
def countClass (cs : List Nat) (l : List Nat) : Nat := (l.filter fun c => cs.contains c).length

/-- Whether every class-4 word stands right after a class-3 or class-5 word (R20). -/
def extensionsPlaced : Nat → List Nat → Bool
  | _, [] => true
  | p, c :: t => (c != 4 || p == 3 || p == 5) && extensionsPlaced c t

/-- The limits of a group, by the classes of its words (R19, R20). -/
def groupOk (cs : List Nat) : Bool :=
  decide (countClass [0, 1, 2] cs ≤ 2) && decide (countClass [2] cs ≤ 1) && decide (countClass [3, 5] cs ≤ 3) &&
  decide (countClass [6] cs ≤ 1) && decide (countClass [7, 8] cs ≤ 2) &&
  ([9, 10, 11, 12, 13].all fun c => decide (countClass [c] cs ≤ 1)) &&
  (!cs.contains 14 || cs.length == 1) && extensionsPlaced 0 cs

/-! ### Registers that a word names -/

/-- Scalar and vector sources with their e bits, and destinations. -/
structure Uses where
  x  : List (XReg × Bool) := []
  v  : List (VCode × Bool) := []
  dx : List XReg := []
  dv : List VCode := []
  deriving DecidableEq, Repr

/-- Registers of an index tuple (R13): as many as the object has dimensions, up to x63. -/
def State.tupleRegs (s : State) (h i : XReg) (e : Bool) : List (XReg × Bool) :=
  (List.range (min (s.desc (s.getX h)).rank (64 - i.toNat))).map fun k => (i + BitVec.ofNat 6 k, e)

/-- The handle register and the first tuple register of a class-8 word that may fault (R192, R196). -/
def Instr.tupleOf : Instr → Option (XReg × XReg)
  | .hld _ h i _ | .hst _ h i _ | .hlds _ h i _ | .hsts _ h i _ | .hvadd _ h i _ | .hvmax _ h i _
  | .haadd _ h i _ _ | .hamax _ h i _ _ | .hamin _ h i _ _ | .hamaxn _ h i _ _ | .haminn _ h i _ _ | .haand _ h i _ _
  | .haor _ h i _ _ | .haxor _ h i _ _ | .haswp _ h i _ _ | .hacas _ h i _ _ | .hfadd _ h i _ _ | .hfamax _ h i _ _
  | .hfamin _ h i _ _ => some (h, i)
  | _ => none

/-- A word whose tuple would run past x63 is an illegal instruction, once its handle can be read (R13). -/
def State.tupleIllegal (s : State) (i : Instr) : Bool :=
  (Instr.tupleOf i).any fun t => s.core.arch.fullX t.1 && s.tupleOver (s.getX t.1) t.2

/-- A class-8 word with a scalar data register. -/
def State.uses8 (s : State) (d h i : XReg) (e src dst : Bool) : Uses :=
  { x := (h, e) :: s.tupleRegs h i e ++ (if src then [(d, e)] else []), dx := if dst then [d] else [] }

/-- The registers that a word reads and writes. -/
def State.uses (s : State) : Instr → Uses
  | .add d a b e f | .sub d a b e f | .and d a b e f | .or d a b e f | .xor d a b e f | .andn d a b e f | .shl d a b e f
  | .shr d a b e f | .sra d a b e f | .rol d a b e f | .mul d a b e f | .mulh d a b e f | .mulhn d a b e f
  | .div d a b e f | .divn d a b e f | .rem d a b e f | .remn d a b e f | .min d a b e f | .max d a b e f
  | .minn d a b e f | .maxn d a b e f | .slt d a b e f | .sltn d a b e f | .seq d a b e f | .sext d a b e f
  | .bext d a b e f | .fadd d a b e f | .fsub d a b e f | .fmul d a b e f | .fmin d a b e f | .fmax d a b e f =>
    { x := [(a, e), (b, f)], dx := [d] }
  | .bins d a b e f => { x := [(a, e), (b, f), (d, false)], dx := [d] }
  | .clz d a e | .ctz d a e | .popc d a e | .fset d a e | .fclr d a e | .fcvti d a e | .icvtf d a e =>
    { x := [(a, e)], dx := [d] }
  | .addi d a _ | .andi d a _ | .ori d a _ | .xori d a _ | .slti d a _ | .sltni d a _ => { x := [(a, false)], dx := [d] }
  | .shli d a _ | .shri d a _ | .srai d a _ => { x := [(a, false)], dx := [d] }
  | .lis d _ => { dx := [d] }
  | .lih d _ => { x := [(d, false)], dx := [d] }
  | .mfcr d _ | .ldg d _ _ => { dx := [d] }
  | .mtcr a _ | .stg a _ _ | .setfmt a _ | .setmfmt a _ | .setthr _ a => { x := [(a, false)] }
  | .call _ => { dx := [63] }
  | .beq a b _ | .bne a b _ | .blt a b _ | .bge a b _ | .bltn a b _ | .bgen a b _ => { x := [(a, false), (b, false)] }
  | .bz a _ | .bnz a _ | .loop a _ | .jr a => { x := [(a, false)] }
  | .ret => { x := [(63, false)] }
  | .vadd d a b _ | .vsub d a b _ | .vmul d a b _ | .vfma d a b _ | .vfms d a b _ | .vmin d a b _ | .vmax d a b _
  | .vand d a b _ | .vor d a b _ | .vxor d a b _ | .vshl d a b _ | .vshr d a b _ | .vsra d a b _ | .vadds d a b _
  | .vsubs d a b _ | .vmulh d a b _ | .vdot4 d a b _ | .vsel d a b _ | .vabsd d a b _ | .vclamp d a b _ =>
    { v := [(a, false), (b, false)], dv := [d] }
  | .vcmpeq _ a b _ | .vcmplt _ a b _ | .vcmple _ a b _ => { v := [(a, false), (b, false)] }
  | .vabs d a _ | .vneg d a _ | .vmov d a _ | .vcvt d a _ _ => { v := [(a, false)], dv := [d] }
  | .cascadeExtension p q b c u v =>
    let two (o : BitVec 5) : Bool := !(o.toNat == 0 || o.toNat == 11 || o.toNat == 12)
    { x := (if two p && u then [(b, false)] else []) ++ (if two q && v then [(c, false)] else []),
      v := (if two p && !u then [(b, false)] else []) ++ (if two q && !v then [(c, false)] else []) }
  | .vbcast d b | .vidx d b => { x := [(b, false)], dv := [d] }
  | .vaddx d a b | .vmulx d a b | .vfmax d a b | .vrot d a b | .xcl d a b => { x := [(b, false)], v := [(a, false)], dv := [d] }
  | .vimm d _ => { dv := [d] }
  | .vperm d a b => { v := [(a, false), (b, false)], dv := [d] }
  | .xred d a _ | .vred d a | .vredmax d a | .vtag d a _ => { v := [(a, false)], dv := [d] }
  | .vext d a b => { x := [(b, false)], v := [(a, false)], dx := [d] }
  | .vins d a b => { x := [(a, false), (b, false)], dv := [d] }
  | .mpop d _ => { dx := [d] }
  | .vtagx d a => { v := [(a, false)], dx := [d] }
  | .vpop d _ => { dv := [d] }
  | .fexp2 d a | .flog2 d a | .frcp d a | .frsqrt d a | .fsqrt d a | .fsin d a | .fcos d a | .ftanh d a | .fsigm d a
  | .fgelu d a | .fsilu d a => { v := [(a, false)], dv := [d] }
  | .fdiv d a b => { v := [(a, false), (b, false)], dv := [d] }
  | .vld d a _ | .rmg d a _ => { x := [(a, false)], dv := [d] }
  | .vst d a _ | .vfill d a _ => { x := [(a, false)], v := [(d, false)] }
  | .sld d _ => { dx := [d] }
  | .sst d _ => { x := [(d, false)] }
  | .vsld d _ => { dv := [d] }
  | .vsst d _ => { v := [(d, false)] }
  | .rtagw d a _ => { x := [(a, false), (d, false)] }
  | .rtagr d a _ => { x := [(a, false)], dx := [d] }
  | .qst _ a _ => { x := [(a, false)] }
  | .hld d h i e => { x := (h, e) :: s.tupleRegs h i e, dv := [d] }
  | .hst d h i e | .hvadd d h i e | .hvmax d h i e => { x := (h, e) :: s.tupleRegs h i e, v := [(d, e)] }
  | .hlds d h i e => s.uses8 d h i e false true
  | .hsts d h i e => s.uses8 d h i e true false
  | .hpf h i e => { x := (h, e) :: s.tupleRegs h i e }
  | .haadd d h i r e | .hamax d h i r e | .hamin d h i r e | .hamaxn d h i r e | .haminn d h i r e | .haand d h i r e
  | .haor d h i r e | .haxor d h i r e | .haswp d h i r e | .hfadd d h i r e | .hfamax d h i r e | .hfamin d h i r e =>
    s.uses8 d h i e true (!r)
  | .hacas d h i r e => { s.uses8 d h i e true (!r) with x := (h, e) :: s.tupleRegs h i e ++ [(d, e), (d + 1, e)] }
  | .hinfo d h i e => { x := [(h, e), (i, e)], dx := [d] }
  | .mstat _ d _ | .cdrain _ _ _ d | .cstat _ _ d | .gkick d | .lzres d | .barstat _ d => { dx := [d] }
  | .wcnt a d => { x := [(a, false)], dx := [d] }
  | .lzstat _ d i => { x := [(i, false)], dx := [d] }
  | .chk a b => { x := [(a, false), (b, false)] }
  | .vchk a b => { v := [(a, false), (b, false)] }
  | .mfsr d _ | .ident d => { dx := [d] }
  | .mtsr d _ | .hinv d | .wpclr d => { x := [(d, false)] }
  | .pld d a => { x := [(a, false)], dx := [d] }
  | .pst a b => { x := [(a, false), (b, false)] }
  | .wpset a b => { x := [(a, false), (b, false), (b + 1, false)] }
  | _ => {}

/-- The first empty source whose e bit is 1 (R35): the register as INFO of cause 0x04 names it. -/
def State.emptySource (s : State) (u : Uses) : Option Word :=
  let a := s.core.arch
  match u.x.find? fun p => p.2 && !a.fullX p.1 with
  | some p => some (p.1.zeroExtend 64)
  | none => (u.v.find? fun p => p.2 && !a.fullV p.1).map fun p => p.1.zeroExtend 64 + 64

/-- A source whose e bit is 0, or a destination, of a word is empty (R34); an empty source whose e bit is 1 stalls nothing (R35). -/
def State.registersWait (s : State) (u : Uses) : Bool :=
  let a := s.core.arch
  (u.x.any fun p => !p.2 && !a.fullX p.1) || (u.v.any fun p => !p.2 && !a.fullV p.1) || (u.dx.any fun r => !a.fullX r) ||
  u.dv.any fun r => !a.fullV r

/-- A stream holds fewer vectors than its group pops, and more are to come (R34, R92, R243). -/
def State.streamsWait (s : State) (us : List Uses) : Bool :=
  let pops := us.flatMap fun u => u.v.map (·.1)
  (List.range 8).any fun n =>
    let k := (pops.filter fun r => r.toNat = 56 + n).length
    let st := vget s.core.streams n {}
    decide (st.buf.length < k) && st.bound && st.err.isNone && decide (st.popped + st.buf.length < st.total)

/-! ### Engines (R34) -/

/-- A word whose effect reaches outside the core (R325). -/
def State.outward (s : State) : Instr → Bool
  | .hst _ _ _ _ | .hsts _ _ _ _ | .hvadd _ _ _ _ | .hvmax _ _ _ _ => true
  | .haadd _ _ _ _ _ | .hamax _ _ _ _ _ | .hamin _ _ _ _ _ | .hamaxn _ _ _ _ _ | .haminn _ _ _ _ _ | .haand _ _ _ _ _
  | .haor _ _ _ _ _ | .haxor _ _ _ _ _ | .haswp _ _ _ _ _ | .hacas _ _ _ _ _ | .hfadd _ _ _ _ _ | .hfamax _ _ _ _ _
  | .hfamin _ _ _ _ _ => true
  | .sst _ o => (match spillTierX s.core.tk.carve o.toNat with | .overflow _ => true | _ => false)
  | .vsst _ o => (match spillTierV s.core.tk.carve o.toNat with | .overflow _ => true | _ => false)
  | .fget _ _ | .fpref _ | .fcancel _ | .sbind _ | .sfree _ | .cput _ _ | .cmov _ | .clzCopy _ => true
  | .mwstr _ | .mtile _ _ _ _ _ _ => true
  | .opub | .osub _ | .opin | .ounpin | .over | .evsig _ | .evsigB _ | .gkick _ | .lzopen _ | .lzclose _ | .lzres _
  | .lzrel | .lzclr _ | .barinit _ => true
  | _ => false

/-- Every result of an earlier scalar FP, vector, cascade or special-function word has landed (R336). -/
def Core.resultsLanded (c : Core) (cyc : Nat) : Bool := decide (c.fpDue ≤ cyc)

/-- Earlier matrix and wavelet commands are complete (R61). -/
def Core.enginesIdle (c : Core) : Bool := c.matrixIdle && c.wave.isNone

/-- All eight entries of a channel's queue are held (R222). -/
def Core.queueFull (c : Core) (copy : Bool) (n : Nat) : Bool := decide (8 ≤ (c.chan copy n).queue.length)

/-- A word that finds its engine's queue full, or counts as one that does (R34). -/
def State.engineWaits (s : State) (i : Instr) : Bool :=
  let c := s.core
  let t := s.cycle
  match i with
  | .mmul _ _ _ _ _ x =>
    !c.mayMul t || !c.slotsSettled x.toNat (mxNpass (c.arch.getStg 2 1) + 1)
  | .mtile _ _ _ _ _ _ => !c.mayMul t
  | .mzero _ | .mdrain _ _ => !c.mayZero
  | .mwld x => !c.mayLoad x.toNat t
  | .mwstr x => !c.mayStream x.toNat t
  | .fget n _ | .fpref n => c.queueFull false n.toNat
  | .cput n _ | .cmov n | .clzCopy n => c.queueFull true n.toNat
  | .cdrain n _ f _ => !(c.chan (!f) n.toNat).queue.isEmpty
  | .wfwd _ | .winv | .wst _ | .wstC | .wexp | .wbias | .wcnt _ _ => c.wave.isSome
  | .gkick _ => decide (2 ≤ c.gkickOut.length)
  | .lzres _ => decide (4 ≤ c.lzresOut.length)
  | .tfence => !(c.resultsLanded t && c.enginesIdle)
  | .ckpt => !c.enginesIdle
  | .pord => !c.physOut.isEmpty || (s.heldBy c.id).isSome
  | .pld _ a => paSpace (c.arch.getX a).toNat == 3 && (s.heldBy c.id).isSome
  | _ => false

/-- A class-7, 8, 10 or 11 word that is not yet resolved (R123, R193, R223). -/
def State.unresolved (s : State) (i : Instr) : Bool := (s.resolves i).any fun h => !s.core.xlate.contains (hKey h)

/-- A class-8 word other than the prefetch (R193), or a spill word that reaches the overflow object, while its die's L2 holds requests
(R272). -/
def State.memoryHeld (s : State) (i : Instr) (w : IWord) : Bool :=
  s.core.recover.isNone && (wordClass w == 7 || wordClass w == 8) && !(s.resolves i).isEmpty && s.l2Holds s.core.id

/-- A group that holds an outward word waits for earlier matrix commands, and two cycles under delayed lockstep (R325). -/
def State.outwardWaits (s : State) (is : List Instr) : Bool :=
  is.any s.outward && (!s.core.matrixIdle || (s.lock && decide (s.cycle < s.core.issueAt + 2)))

/-- The words of system cores that wait for every die or home handle unit (R341, R342). -/
def Instr.waitsForAll : Instr → Bool
  | .hinv _ | .wpset _ _ | .wpclr _ => true
  | _ => false

end Sys2Proof.Machine
end

