-- ==== Sys2Proof/Machine/Issue.lean ====
section
/-! DEFINITION. How time goes on (R6, R120, R271, R357), and how the group at issue is checked, stalls, runs and ends
(R17..R22, R29..R36, R55..R59, R159, R214, R314, R325, R339). The step itself (Machine/Step.lean) only calls these. -/

namespace Sys2Proof.Machine

open Sys2Proof

/-- The state of a next outcome handed on; a stop stays a stop. -/
def andThen (o : Host.Outcome State Fault Refusal) (k : State → Host.Outcome State Fault Refusal) :
    Host.Outcome State Fault Refusal :=
  match o with
  | .next s => k s
  | .fault f => .fault f
  | .refused r => .refused r

/-! ### The words of the group at issue -/

/-- Whether a class-3 or class-5 word's operation accepts an extension (R20). -/
def acceptsExtension (w : IWord) : Bool :=
  let op := w.toNat / 2 ^ 20 % 128
  if wordClass w = 3 then !([18, 19, 20, 21, 24].contains op) else wordClass w == 5 && decide (op < 8)

/-- Words that system cores lack: classes 3..13, words of classes 1, 2 and 13 for tasks and engines, and `mfcr` and `mtcr` of control
registers that they lack (R29, R417). -/
def systemLacks (w : IWord) (i : Instr) : Bool :=
  (decide (3 ≤ wordClass w) && decide (wordClass w ≤ 13)) ||
  match i with
  | .stg _ _ _ | .ldg _ _ _ | .setmfmt _ _ | .setthr _ _ | .phase | .tend | .ckpt => true
  | .mfcr _ n => !sysCr n.toNat
  | .mtcr _ n => n.toNat != 0x10
  | _ => false

/-- Words that only system cores run (R29). -/
def Instr.privileged : Instr → Bool
  | .eret | .wfi | .mfsr _ _ | .mtsr _ _ | .pld _ _ | .pst _ _ | .pord | .hinv _ | .wpset _ _ | .wpclr _ => true
  | _ => false

/-- A word of the group: its bits, its instruction and registers, and the cause that it shows by itself. -/
structure Look where
  word  : IWord
  instr : Option Instr := none
  uses  : Uses := {}
  cause : Option Raise := none
  deriving DecidableEq, Repr

/-- What a word shows by itself, in the order of R30: illegal, privileged, an empty register (R35). `prev` is the word before
it in the group. -/
def State.look (s : State) (prev : Option IWord) (w : IWord) : Look :=
  let bad (c : BitVec 8) : Option Raise := some ⟨c, w.zeroExtend 64, 0⟩
  match decodeWord w with
  | .error _ => { word := w, cause := bad 0x01 }
  | .ok (_, i) =>
    let u := s.uses i
    { word := w, instr := some i, uses := u,
      cause :=
        if !i.wf || (s.core.isSys && systemLacks w i) || (wordClass w == 4 && !prev.any acceptsExtension) ||
            (!s.core.isSys && s.tupleIllegal i) then bad 0x01
        else if !s.core.isSys && Instr.privileged i then bad 0x03
        else (s.emptySource u).map fun r => ⟨0x04, r, 0⟩ }

/-- The words of the group in order. -/
def State.looks (s : State) : Option IWord → List IWord → List Look
  | _, [] => []
  | p, w :: t => s.look p w :: s.looks (some w) t

/-- The instructions of the group. -/
def instrsOf (l : List Look) : List Instr := l.filterMap (·.instr)

/-- The first word that shows a cause, with its position. -/
def firstCause : Nat → List Look → Option (Nat × Raise)
  | _, [] => none
  | k, a :: t => match a.cause with | some f => some (k, f) | none => firstCause (k + 1) t

/-! ### Stalls (R34) -/

/-- An empty register or stream holds the group. -/
def State.operandsWait (s : State) (l : List Look) : Bool :=
  (l.any fun a => s.registersWait a.uses) || s.streamsWait (l.map (·.uses))

/-- A full queue, or what counts as one, holds the group. -/
def State.queuesWait (s : State) (l : List Look) : Bool :=
  (l.any fun a => a.instr.any fun i => s.engineWaits i || s.memoryHeld i a.word) || s.outwardWaits (instrsOf l)

/-- The word of the group whose resolution is still to be asked for or awaited (R193, R223). -/
def State.toResolve (s : State) (l : List Look) : Option Look := l.find? fun a => a.instr.any s.unresolved

/-- The word of the group whose request is still to be accepted (R214, R341, R342). -/
def State.toAccept (s : State) (l : List Look) : Option Look :=
  if s.core.accepted.isSome then none else l.find? fun a => a.instr.any fun i => Instr.syncWord i || Instr.waitsForAll i

/-- A cycle at issue in which the group stalls, counted for the feedback record (R310). -/
def State.stalled (s : State) (fe eng : Bool) : State :=
  s.onCore fun c =>
    { c with fbFe := c.fbFe + (if fe then 1 else 0), fbEng := c.fbEng + (if eng then 1 else 0) }

/-! ### A fault of the group (R22, R314) -/

/-- A fault at an address that names no group: the record names the address (R17). -/
def State.faultAt (s : State) (f : Raise) (pc : Nat) : State :=
  if s.core.isSys then s.trap f.cause f.info pc else s.halt f pc pc 0

/-- A core whose collector runs stops with the fault in its record (R319). -/
def stillStopping (pre : Core) (s : State) : State :=
  if pre.state = .stopping ∧ s.core.state = .halted then s.onCore fun c => { c with state := .stopping, wasHalt := true } else s

/-- A fault at word k of the group, which has no effect. -/
def State.faultWord (s : State) (k : Nat) (f : Raise) : State :=
  (stillStopping s.core ((s.onCore fun c => { c with wpos := k }).takeFault f)).onCore fun c => { c with raised := none }

/-- A channel with the report of another taken over. -/
def Chan.reportOf (q r : Chan) : Chan := { q with err := r.err, cause := r.cause, nerr := r.nerr, bad := r.bad, werr := r.werr }

/-- A fault that a word raised while the group ran: the group's effects are dropped, but for what the fault itself leaves
(the violation log, free values drawn, and an engine's or a channel's error that it has reported). -/
def State.refault (pre post : State) (f : Raise) : State :=
  let told (copy : Bool) (n : Nat) (q : Chan) : Chan := if f.cause = 0x1B then q.reportOf (post.core.chan copy n) else q
  let s : State := { pre with
    fresh := post.fresh
    vlogs := post.vlogs
    core := { pre.core with
      wpos := post.core.wpos, merr := post.core.merr, accepted := none, asking := none, resolved := false,
      fe := pre.core.fe.mapFinIdx fun n q _ => told false n q
      cp := pre.core.cp.mapFinIdx fun n q _ => told true n q } }
  let s :=
    if s.core.isSys || post.core.state ≠ .halted then s.takeFault f
    else s.halt f (addrOf s.core.gstart) (addrOf s.core.gend) s.core.wpos
  (stillStopping pre.core s).onCore fun c => { c with raised := none }

/-! ### Running the group (R18, R21, R30, R31) -/

/-- A word whose results `tfence` waits for (R336). -/
def countsForFence (w : IWord) : Bool :=
  (decide (3 ≤ wordClass w) && decide (wordClass w ≤ 6)) || (wordClass w == 0 && decide (32 ≤ w.toNat / 2 ^ 20 % 128))

/-- The landing of what a word has put on its way: `n` results were on their way before it. -/
def Core.noteResults (c : Core) (n : Nat) : Core :=
  { c with fpDue := (c.pend.drop n).foldl (fun m p => max m p.due) c.fpDue }

/-- The variable-latency producers of R33. -/
def Instr.produces : Instr → Bool
  | .div _ _ _ _ _ | .divn _ _ _ _ _ | .rem _ _ _ _ _ | .remn _ _ _ _ _ | .hld _ _ _ _ | .hlds _ _ _ _ | .hinfo _ _ _ _
  | .lzres _ | .mstat _ _ _ | .cstat _ _ _ | .wcnt _ _ | .lzstat _ _ _ | .barstat _ _ | .gkick _ | .pld _ _ => true
  | .haadd _ _ _ r _ | .hamax _ _ _ r _ | .hamin _ _ _ r _ | .hamaxn _ _ _ r _ | .haminn _ _ _ r _ | .haand _ _ _ r _
  | .haor _ _ _ r _ | .haxor _ _ _ r _ | .haswp _ _ _ r _ | .hacas _ _ _ r _ | .hfadd _ _ _ r _ | .hfamax _ _ _ r _
  | .hfamin _ _ _ r _ => !r
  | _ => false

/-- The variable-latency producers, spill loads that reach the overflow object among them (R33, R124). -/
def State.producesLate (s : State) (i : Instr) : Bool :=
  Instr.produces i || match i with
    | .sld _ o => (match spillTierX s.core.tk.carve o.toNat with | .overflow _ => true | _ => false)
    | .vsld _ o => (match spillTierV s.core.tk.carve o.toNat with | .overflow _ => true | _ => false)
    | _ => false

/-- Producers earlier in the group of a register that a word is about to produce are superseded (R36). -/
def State.supersede (s : State) (i : Instr) : State :=
  if s.producesLate i then
    let u := s.uses i
    u.dv.foldl State.supersedeV (u.dx.foldl State.supersedeX s)
  else s

/-! ### A re-run (R327) -/

/-- A core in a re-run, which issues the groups from its checkpoint to the end point. -/
def Core.reruns (c : Core) : Bool := c.recover.any fun r => r.run ≠ 0 && !r.bad

/-- A variable-latency producer in a re-run: its register empties, and the logged value comes after the logged delay. A value that had
not been delivered when the error was found still comes by itself. -/
def Core.replayValue (c : Core) (cyc : Nat) (u : Uses) : Core :=
  match c.recover with
  | none => c
  | some r =>
    let e := c.valueLog[r.next]?
    let c : Core := { c with recover := some { r with next := r.next + 1 } }
    if e.all fun e => e.reg = noReg then c
    else
      let a := u.dv.foldl (fun a d => a.markV d false) (u.dx.foldl (fun a d => a.markX d (d = 0)) c.arch)
      let come : List (Nat × Arrival) := match e.bind (·.value) with
        | none => []
        | some (v, t, n) => (u.dx.take 1).map (fun d => (cyc + n, .x d (v.truncate 64))) ++ (u.dv.take 1).map fun d => (cyc + n, .v d v t)
      { c with
        arch := a, varOut := c.varOut + 1,
        pend := c.pend.filter fun p => !(u.dx.any fun d => p.hitsX d) && !(u.dv.any fun d => p.hitsV d)
        recover := c.recover.map fun r => { r with coming := r.coming ++ come } }

/-- What a word does in a re-run in place of its own effect: producers, and `mfcr` of LTIME and TCYC, receive what the log holds, and no
effect outside the core is made again (R325, R327). -/
def State.rerunWord (s : State) (i : Instr) : Option State :=
  if !s.core.reruns then none
  else if s.producesLate i then some (s.onCore fun c => c.replayValue s.cycle (s.uses i))
  else match i with
    | .mfcr d n =>
      if n.toNat = 0x22 ∨ n.toNat = 0x23 then
        (s.core.recover.bind fun r => s.core.valueLog[r.next]?).bind fun e => e.value.map fun v =>
          (s.writeX d (v.1.truncate 64) 1).onCore fun c => { c with recover := c.recover.map fun r => { r with next := r.next + 1 } }
      else none
    | .mwstr _ | .mtile _ _ _ _ _ _ => none
    | _ => if s.outward i then some s else none

/-- The signature of a re-run takes in every register write (R327). -/
def Core.noteRun (c : Core) (l : List Dest) : Core :=
  { c with recover := c.recover.map fun r => { r with regs := r.regs ++ l } }

/-- Logged values that are due reach their registers. -/
def Core.replayArrive (c : Core) (cyc : Nat) : Core :=
  match c.recover with
  | none => c
  | some r =>
    (r.coming.filter fun p => p.1 ≤ cyc).foldl (fun c p =>
      ({ c with arch := c.arch.arrive p.2, varOut := c.varOut - 1 }).noteRun [match p.2 with | .x d w => .x d w | .v d v t => .v d v t])
      { c with recover := some { r with coming := r.coming.filter fun p => ¬ p.1 ≤ cyc } }

/-- A fault, or uncorrectable data, that a re-run meets makes the re-runs disagree: nothing of its group takes effect. -/
def State.afterTurn (s t : State) : State :=
  if s.core.reruns && (t.core.state ≠ .recovering || t.core.prestart ≠ s.core.prestart) then
    s.onCore fun c => { c with tried := s.cycle + 1, recover := c.recover.map fun r => { r with bad := true } }
  else t

/-- The words of the group in order, until one raises a fault. `n` is the number of results on their way before the last
word that was no extension. -/
def runWords : List Look → Nat → Nat → State → Host.Outcome State Fault Refusal
  | [], _, _, s => .next s
  | a :: t, k, n, s =>
    let ext := wordClass a.word == 4
    let n := if ext then n else s.core.pend.length
    let s := s.onCore fun c => { c with wpos := k, vout := if ext then c.vout else none }
    match a.cause, a.instr with
    | some f, _ => .next (s.takeFault f)
    | none, none => .next s.illegal
    | none, some i =>
      let s := s.supersede i
      andThen (match s.rerunWord i with | some u => .next u | none => exec i s) fun s =>
        if s.core.raised.isSome then .next s
        else runWords t (k + 1) n (if countsForFence a.word then s.onCore fun c => c.noteResults n else s)

/-- A checkpoint that is due is taken once the engines have completed (R61, R325). DEDUCED: notes/assumptions/19.md. -/
def State.dueCheckpoint (s : State) (i : Nat) : State :=
  let c := s.coreOf i
  if c.ckptDue && c.task.isSome && c.enginesIdle && c.recover.isNone then
    (s.takeCkpt i c.arch.pc).modCore i fun c => { c with ckptDue := false }
  else s

/-- The end of a group that has taken effect (R18, R37, R55..R58, R325): what issues next, and when. DESIGN CHOICE: the check of R57
looks at the loop stack that the group leaves, so that a group that pushes an entry and whose last word is also exit − 1 of the
older top entry is checked against the new top only (notes/assumptions/47.md). -/
def State.endGroup (s : State) (is : List Instr) : State :=
  let c := s.core
  let loops := c.loopsNext.getD c.arch.loops
  let (pc, loops, wait) : Word × List LoopEntry × Nat := match c.taken with
    | some t => (t, loops, 3)
    | none =>
      let (back, l) := closeLoops c.gend loops
      (BitVec.ofNat 64 (addrOf (back.getD c.gend)), l, 1)
  let due := c.ckptDue || is.any s.outward || c.valuesFull || c.logFull
  let again := c.recover.isSome
  let s := s.onCore fun c => { c with
    arch := { c.arch with pc := pc, loops := loops }, chView := none, issueAt := s.cycle + wait, fbBusy := c.fbBusy + 1, taken := none,
    loopsNext := none, vout := none, raised := none, ckptDue := due, groups := c.groups + 1, resolved := again && c.resolved,
    accepted := if again then c.accepted else none, asking := if again then c.asking else none }
  s.dueCheckpoint s.core.id

/-- The group issues: it takes effect and ends, or faults. -/
def State.runGroup (s : State) (l : List Look) : Host.Outcome State Fault Refusal :=
  andThen (runWords l 0 0 (s.onCore fun c => { c with chView := some (c.chbusy s.cycle, c.cherr) })) fun t =>
    .next (match t.core.raised with
      | some f => s.refault t f
      | none => t.endGroup (instrsOf l))

/-! ### Asking first (R193, R214, R223, R341, R342) -/

/-- The word at issue asks its handle unit for a resolution, once. -/
def State.askResolution (s : State) (w : IWord) : State :=
  if s.core.asking.isSome then s
  else (s.onCore fun c => { c with asking := some w }).schedFree .resolve 1 ptPush (.resolutionComplete s.core.id)

/-- The request of a word leaves, once what it waits for is done. DEDUCED: notes/assumptions/20.md. -/
def State.askAcceptance (s : State) (w : IWord) (i : Instr) : State :=
  if s.core.asking.isSome || s.syncHeld i then s
  else if Instr.waitsForAll i then
    let (d, s) := s.draw .hinv
    (s.onCore fun c => { c with asking := some w, askDue := some (s.cycle + 9999) }).sched (s.cycle + d % 10000) ptEnd (.syncRequestAccepted s.core.id)
  else s.sendSync w i

/-- The words before a position hold the word that asks. -/
def askedBefore (l : List Look) (k : Nat) : Bool :=
  (l.take k).any fun a => a.instr.any fun i => Instr.syncWord i || Instr.waitsForAll i

/-- A word asks for acceptance only if its group would then take effect: a fault that the group has anyway stands first, and
no request leaves. A fault of a word after the asking one yields to a fault that the request would find (R30), once what the request
joins is done (R215), and then what the refused request leaves stands. DEDUCED: notes/assumptions/7.md. The request is performed before
its group issues (R214), so a write that stands earlier in word order in the group of an `opub` comes after the publish, although R210's
program order puts it before: the version lacks it (DESIGN CHOICE: notes/assumptions/7.md). -/
def State.tryAcceptance (s : State) (l : List Look) (w : IWord) (i : Instr) : Host.Outcome State Fault Refusal :=
  if s.core.asking.isSome then .next (s.stalled false true)
  else
    let trial := s.onCore fun c => { c with accepted := some .ok }
    andThen (runWords l 0 0 trial) fun t =>
      match t.core.raised with
      | none => .next ((s.askAcceptance w i).stalled false true)
      | some f =>
        if !askedBefore l t.core.wpos then .next (s.refault t f)
        else if s.syncHeld i then .next (s.stalled false true)
        else
          match s.syncPerform i with
          | (.fault c info aux, u) => (u.onCore fun k => { k with accepted := some (.fault c info aux) }).runGroup l
          | (.ok, _) => .next (s.refault t f)

/-! ### The group at issue -/

/-- A legal group at issue: it stalls, asks, or runs (R30, R34, R35). DEDUCED: notes/assumptions/7.md. -/
def State.issueGroup (s : State) (ws : List IWord) : Host.Outcome State Fault Refusal :=
  let l := s.looks none ws
  let fe := s.operandsWait l
  let eng := s.queuesWait l
  let again := s.core.recover.isSome
  let res := if again then none else s.toResolve l
  if fe || eng || res.isSome then
    match firstCause 0 l, res with
    | some (k, f), _ => .next (s.faultWord k f)
    | none, some a => .next ((if fe || eng then s else s.askResolution a.word).stalled fe (eng || res.isSome))
    | none, none => .next (s.stalled fe eng)
  else
    match if again then none else s.toAccept l with
    | some a => match a.instr with
      | some i => s.tryAcceptance l a.word i
      | none => s.runGroup l
    | none => s.runGroup l

/-- The fault that the phase's start has left for its first group halts the core: nothing is cancelled again (R328). Text that
is itself uncorrectable is consumed here. -/
def State.startFault (s : State) (f : Raise) : State :=
  let g := (indexOf s.core.arch.pc.toNat).getD 0
  let e := g + (groupLen (s.core.text.drop g)).getD (s.core.text.length - g)
  let s := s.onCore fun c => { c with gstart := g, gend := e, wpos := 0 }
  (if f.cause = 0x18 ∧ s.core.text.isEmpty then s.consumeBad f.info
   else (s.halt f s.core.arch.pc.toNat (addrOf e) 0).onCore fun c => { c with startErr := none }).onCore fun c =>
    { c with raised := none }

/-- A row that found its queue full faults the first group after the cycle of its push (R159). -/
def State.overflowFault (s : State) (q : BitVec 2) : State :=
  (s.onCore fun c => { c with ovf := none }).faultWord 0 ⟨0x06, q.zeroExtend 64, 0⟩

/-- The focus core looks at the group at its program counter: the fault of its text or of its phase's start (R308, R328), the
address (R17), the group check (R18..R22), a pending overflow (R159), and then its words. DEDUCED: notes/assumptions/6.md. -/
def State.attempt (s : State) : Host.Outcome State Fault Refusal :=
  let s := s.onCore fun c => { c with tried := s.cycle + 1 }
  let c := s.core
  match c.startErr, indexOf c.arch.pc.toNat with
  | some f, _ => .next (s.startFault f)
  | none, none => .next ((s.faultAt ⟨0x01, 0, 0⟩ c.arch.pc.toNat).onCore fun c => { c with raised := none })
  | none, some g =>
    if c.text.length ≤ g then
      .next ((s.faultAt ⟨0x0A, 0, c.arch.pc⟩ c.arch.pc.toNat).onCore fun c => { c with raised := none })
    else
      let n := groupLen (c.text.drop g)
      let ws := (c.text.drop g).take (n.getD (c.text.length - g))
      let s := s.onCore fun c => { c with gstart := g, gend := g + ws.length, wpos := 0 }
      if n.isNone || !groupOk (ws.map wordClass) then .next (s.faultWord 0 ⟨0x02, BitVec.ofNat 64 ws.length, 0⟩)
      else
        match (if c.heldAt < s.cycle then c.ovf else none) with
        | some q => .next (s.overflowFault q)
        | none => s.issueGroup ws

/-! ### Which core issues -/

/-- Whether a core has a group to look at in this cycle (R34, R59, R314, R319, R339). DESIGN CHOICE: notes/assumptions/10.md. -/
def Core.ready (c : Core) (cyc : Nat) : Bool :=
  let sync := match c.asking.map decodeWord with | some (.ok (_, i)) => Instr.syncWord i | _ => false
  decide (c.issueAt ≤ cyc) && decide (c.tried ≤ cyc) && !c.waiting && !c.ending &&
  (match c.recover with | none => true | some r => c.reruns && decide (c.groups < r.endAt)) &&
  (c.state == .running || (c.state == .recovering && c.reruns) || (c.state == .stopping && (sync || c.accepted.isSome))) &&
  (!c.isSys || (!c.text.isEmpty && (!c.wfi || c.pending != 0)))

/-- Whether a core's clock runs in this cycle: on a gated die every second package cycle is no core cycle (R379). -/
def State.clocked (s : State) (c : Core) : Bool :=
  c.isSys || !(s.cycle % 2 == 1 && (s.die (dieOfCore c.id)).gated)

/-- The cores that have a group to look at, by id. -/
def State.readyCores (s : State) : List Nat := (s.cores.filter fun c => c.ready s.cycle && s.clocked c).map (·.id)

/-- The core that goes next: cores issue side by side, and nothing orders what they do in one cycle, so the choice is free. DESIGN CHOICE: notes/assumptions/4.md. -/
def State.pickCore (s : State) : Option State :=
  match s.readyCores with
  | [] => none
  | [i] => some (s.focus i)
  | l =>
    let (n, s) := s.choose l.length
    some (s.focus (l.getD n 0))

/-- The focus core's turn in this cycle: an interrupt at its group boundary (R339), or its group. -/
def State.turn (s : State) : Host.Outcome State Fault Refusal :=
  let c := s.core
  if c.isSys && c.sstat.getLsbD 0 && c.pending != 0 then
    .next ((s.takeInterrupt c.id).onCore fun c => { c with tried := s.cycle + 1 })
  else
    andThen ((if c.wfi then s.onCore fun c => { c with wfi := false } else s)).attempt fun t => .next (s.afterTurn t)

/-! ### The agenda -/

/-- The place of a step among those of its point in time: landing rows by zone, slot, offset and sender (R251), then barrier
arrivals (R254), then requests (R250); kicks by host link and then by core (R302); fetch fills by command (R222). Other steps
go first, in the order in which they were scheduled. -/
def Instr.rank : Instr → List Nat
  | .landingRowArrival _ r => [1, r.zone, r.slot, r.off, r.fromPkg, r.fromCore, r.fromCh]
  | .barrierArrival _ fromPkg sender _ _ => [2, fromPkg, sender.core]
  | .reservationRequest _ q => [3, q.fromPkg, q.fromCore]
  | .kick _ src _ => (match src with | .iow => [4, 0] | .ioe => [4, 1] | .core i _ _ => [4, 2, i])
  | .fetchRowWritten _ _ seq _ => [5, seq]
  | _ => [0]

def lexLt : List Nat → List Nat → Bool
  | _, [] => false
  | [], _ :: _ => true
  | a :: s, b :: t => decide (a < b) || (a == b && lexLt s t)

/-- The first entry of least rank among those of one key at the head of the agenda. -/
def leastAt (key : Nat) : Nat × Instr → List (Nat × Instr) → Nat × Instr
  | e, [] => e
  | e, f :: t => if f.1 = key then leastAt key (if lexLt (Instr.rank f.2) (Instr.rank e.2) then f else e) t else e

/-- The step that is due, and the agenda without it. -/
def agendaNext (clock : Nat) : List (Nat × Instr) → Option (Instr × List (Nat × Instr))
  | [] => none
  | e :: t =>
    if e.1 ≤ clock then
      let m := leastAt e.1 e t
      some (m.2, (e :: t).erase m)
    else none

/-! ### Time goes on -/

/-- TCYC counts while the task is on the core and not pre-empted: pre-emption begins at STOP (R42, R318). In a recovery it counts the
cycles of the re-runs (R327). -/
def Core.timed (c : Core) : Bool := c.state == .running || c.state == .halted || (c.state == .recovering && c.reruns)

/-- The start of a cycle (R31, R46, R262, R357, R379): gated cores lose every second cycle, results and zone words land, and
the time on the core counts. -/
def State.newCycle (s : State) : State :=
  let odd := s.cycle % 2 == 1
  let s := if odd then
      (List.range 24).foldl (fun s d => if (s.die d).gated then s.gateCycle d else s) s
    else { s with dies := s.dies.map fun d => match d.gateAsk with | some on => { d with gated := on, gateAsk := none } | none => d }
  let s := s.allCores fun c =>
    let late := s.arriving c.id
    let after (d : Dest) : Bool := late.any fun a => Dest.forReg a d
    let c := if c.recover.isNone then c else
      (c.replayArrive s.cycle).noteRun ((c.pend.filter fun p => p.due ≤ s.cycle && !after p.dest).map (·.dest))
    let c := (if c.pend.isEmpty then c else c.landDue s.cycle after).waveFlags s.cycle
    let c := if c.pairPend.isEmpty then c else c.landPairs s.cycle
    { c with
      fills := []
      fbIn := c.fbIn + (if c.waiting && s.clocked c then 1 else 0)
      arch := { c.arch with tcyc := c.arch.tcyc + (if c.task.isSome && c.timed && s.clocked c then 1 else 0) } }
  (s.cores.filter fun c => c.task.isSome).foldl (fun s c => s.meterAdd c.tk.part c.tk.rid 12 1) s

/-- A core whose engines move: those of a core that has stopped for a recovery stand still until a re-run (R327). -/
def Core.moves (c : Core) : Bool := c.recover.isNone || c.reruns

/-- The engine read point (R120): engines whose clock is gated in this cycle stand still. -/
def State.readPoint (s : State) : State :=
  (s.cores.filter fun c => !c.isSys && c.moves && s.clocked c).foldl (fun s c => s.engineReads c.id) s

/-- The point of issue comes: waiting status words get their values first (R170). -/
def State.issuePoint (s : State) : State :=
  (s.cores.filter fun c =>
    c.mwaits.any (fun w => w.2.2 == 0) && c.moves && s.clocked c).foldl
    (fun s c => s.matrixValues c.id) s

/-- The end of a cycle: what Lovage, the collectors, the launch unit, the dispatchers and Sorrel look at, and every 256 cycles
the ticks of R271 and the row residency of R356. -/
def State.endCycle (s : State) : State :=
  let s := s.cores.foldl (fun s c => s.pollStop c) s
  let s := s.cores.foldl (fun s c => s.pollDiscard c) s
  let s := s.cores.foldl (fun s c => s.pollResume c) s
  let s := s.pollPrefetch
  let s := s.cores.foldl (fun s c => s.pollErrand c) s
  let s := s.cores.foldl (fun s c => s.pollAsk c) s
  let s := s.cores.foldl (fun s c => s.pollRecover c) s
  let s := s.cores.foldl (fun s c => s.dueCheckpoint c.id) s
  let s := s.pollSaved.poll.pollDrain.pollWindows.pollBoot.pollVersions.pollRegions.pollHeld
  if s.cycle % 256 = 255 then
    let s := (s.cores.filter fun c => c.task.isSome).foldl
      (fun s c => s.meterAdd c.tk.part c.tk.rid 13 (c.tk.rows + c.tk.carve)) s
    s.mergeDue.tick.rebaseDue
  else s.mergeDue.rebaseDue

/-- The next point at which something is looked at after point p: rows, reads, the end, the next cycle's start and issue. DEDUCED: notes/assumptions/3.md. -/
def nextPoint (p : Nat) : Nat := if p < 4 then 4 else if p < 9 then 9 else if p < 10 then 10 else if p < 12 then 12 else 16

/-- Time goes on to the next point, or to the next scheduled step if that is earlier. -/
def State.advance (s : State) : State :=
  let base := s.clock / 16 * 16
  let to_ := base + nextPoint (s.clock % 16)
  let to_ := match s.agenda with | [] => to_ | e :: _ => if e.1 < to_ then e.1 else to_
  let s := { s with clock := to_ }
  let p := to_ % 16
  if p = 0 then s.newCycle
  else if p = ptIssue then s.issuePoint
  else if p = 9 then s.allCores fun c =>
    let c := if c.padPend.isEmpty then c else c.applyPads
    if c.rowPend.isEmpty then c else c.applyRows s.cycle
  else if p = 10 then s.readPoint
  else if p = 12 then s.endCycle
  else s

/-- One step of the package: a step that is due, else a core's turn at the issue point, else time goes on. Without power only a power
good happens (R379). DEDUCED: notes/assumptions/25.md. -/
def State.next (s : State) : Host.Outcome State Fault Refusal :=
  if s.power = .off then
    match s.agenda with
    | (k, i) :: rest => exec i { s with clock := max s.clock k, agenda := rest }
    | [] => .fault .poweredOff
  else
    match agendaNext s.clock s.agenda with
    | some (i, rest) => exec i { s with agenda := rest }
    | none =>
      if s.clock % 16 = ptIssue then
        match s.pickCore with
        | some s => s.turn
        | none => .next s.advance
      else .next s.advance

/-! ### Placing one word -/

/-- The state in which the next step issues a word: a core (a system core where the word is privileged) runs a text of that
one word at the point of issue, its handles resolved and its request answered as R193 and R214 give before issue. DEDUCED: notes/assumptions/9.md. -/
def State.placeWord (s : State) (w : IWord) : State :=
  let i? : Option Instr := match decodeWord w with | .ok (_, i) => some i | .error _ => none
  let sys := i?.any Instr.privileged
  let clock := s.clock / 16 * 16 + ptIssue
  let s : State := { s with clock := clock, agenda := s.agenda.filter fun e => decide (clock < e.1), parked := s.parked.map fun c =>
    { c with tried := clock / 16 + 1 } }
  let s := if sys then s.focus 768 else if s.core.isSys then s.focus 0 else s
  let s := s.onCore fun c => { c with
    state := .running, task := if sys then c.task else some c.tk, text := [w], arch := { c.arch with pc := 0 }, issueAt := 0,
    tried := 0, waiting := false, ending := false, recover := none, wfi := false, asking := none, accepted := none, ovf := none,
    startErr := none, raised := none, sipend := if sys then 0 else c.sipend }
  match i? with
  | none => s
  | some i =>
    let s := s.onCore fun c => { c with xlate := (c.xlate ++ (s.resolves i).map hKey).eraseDups }
    if Instr.syncWord i || Instr.waitsForAll i then
      let (r, s) := s.syncPerform i
      s.onCore fun c => { c with accepted := some r }
    else s

end Sys2Proof.Machine
end

