-- ==== Sys2Proof/Machine/Step.lean ====
section
/-! DEFINITION. One step of the package, and the placing of an instruction where the next step issues it. -/

namespace Sys2Proof.Machine

open Sys2Proof

/-- One step: a scheduled step that is due, a core's turn at issue, or the passing of time. -/
def step (s : State) : Host.Outcome State Fault Refusal := s.next

/-- The state with an instruction stored where the next step issues it. The host's view of a task start: a core holds a task
whose code text is the one word, at the point of issue (DEDUCED: notes/assumptions/9.md). -/
def State.withFetchWord (s : State) (nbits w : Nat) : State := s.placeWord (BitVec.ofNat 32 (w % 2 ^ nbits))

end Sys2Proof.Machine
end

