-- ==== Sys2Proof/Safety.lean ====
section
/-! DEFINITION. What counts as a safe run (one that never stops: every fault of the spec is a next state), and the terms in which
claims say what an instruction does: the registers as they stand once results have landed, and what is unchanged. -/

namespace Sys2Proof

open Sys2Proof.Machine

/-- A step that answers a next state. -/
def goesOn (s : State) : Prop := ∃ t, step s = .next t

/-- A run of k steps that never stops. -/
def runsFor (k : Nat) (s : State) : Prop := ∃ t, core.run k s = .next t

end Sys2Proof

namespace Sys2Proof.Machine

/-- An instruction answers a next state, and P holds of it. -/
def Completes (i : Instr) (s : State) (P : State → Prop) : Prop := ∃ t, exec i s = .next t ∧ P t

/-- The registers of the focus core once every result due by a cycle has landed (R31): what a group that issues in that cycle
reads. -/
def State.landed (s : State) (n : Nat) : Arch := (s.core.landDue n).arch

/-- Nothing but the results on their way differs: every register as it stands, memory, every other core and unit are as
before. -/
def OnlyResults (s t : State) : Prop := t = { s with core := { s.core with pend := t.core.pend } }

/-- A scalar result (R31): v is read in d from `lat` cycles on, and nothing before; x0 stays zero (R11). Flags f rise with it
(R46); every other register and every other part of the machine is unchanged. -/
structure ScalarResult (s t : State) (d : XReg) (v : Word) (lat : Nat) (f : FlagSet := 0) : Prop where
  frame  : OnlyResults s t
  value  : (t.landed (s.cycle + lat)).getX d = if d = 0 then 0 else v
  flags  : (t.landed (s.cycle + lat)).flags = (s.landed (s.cycle + lat)).flags ||| f
  others : ∀ r, r ≠ d → (t.landed (s.cycle + lat)).getX r = (s.landed (s.cycle + lat)).getX r
  rest   : { t.landed (s.cycle + lat) with x := (s.landed (s.cycle + lat)).x, flags := (s.landed (s.cycle + lat)).flags } =
    s.landed (s.cycle + lat)
  early  : ∀ n, n < s.cycle + lat → t.landed n = s.landed n

/-- The instruction completes with a scalar result. -/
def GivesX (i : Instr) (s : State) (d : XReg) (v : Word) (lat : Nat) (f : FlagSet := 0) : Prop :=
  Completes i s fun t => ScalarResult s t d v lat f

/-- A vector result (R32): data v with tag g is read in v-register d from `lat` cycles on, and the flags f with it (R46). The
streams that the word pops advance, its work is metered, and a class-4 word may follow it; nothing else changes. -/
structure VectorResult (s t : State) (d : VCode) (v : Vec) (g : Tag) (lat : Nat) (f : FlagSet) : Prop where
  frame  : t = { s with
    core := { s.core with pend := t.core.pend, vout := t.core.vout, streams := t.core.streams }
    agenda := t.agenda, fresh := t.fresh }
  value  : d.toNat < 56 → (t.landed (s.cycle + lat)).getV d =
    { data := v, tag := g, full := ((s.landed (s.cycle + lat)).getV d).full }
  flags  : (t.landed (s.cycle + lat)).flags = (s.landed (s.cycle + lat)).flags ||| f
  others : ∀ r, r ≠ d → (t.landed (s.cycle + lat)).getV r = (s.landed (s.cycle + lat)).getV r
  rest   : { t.landed (s.cycle + lat) with v := (s.landed (s.cycle + lat)).v, flags := (s.landed (s.cycle + lat)).flags } =
    s.landed (s.cycle + lat)

/-- The flags that positions 0..n−1 raise together (R46, R91). -/
def raisedBy (n : Nat) (f : Nat → FlagSet) : FlagSet := (List.range n).foldl (fun acc k => acc ||| f k) 0

/-- The instruction completes with a vector result: position k of width w receives `f k`, for every position. -/
def GivesV (i : Instr) (s : State) (d : VCode) (w : Nat) (f : Nat → Nat) (g : Tag) (lat : Nat) (fl : FlagSet) : Prop :=
  Completes i s fun t => ∃ v, VectorResult s t d v g lat fl ∧ ∀ k, k < 4096 / w → elem w v k = f k % 2 ^ w

/-- The result that a vector word leaves open to a class-4 word after it (R101, R103), in the format in force: where it goes, its
unmerged positions with their tag, the mask and the old destination of its merge, its latency and the flags so far. -/
structure OpenResult where
  d     : VCode
  w     : Nat
  t     : Nat → Nat
  tag   : Tag
  lat   : Nat
  flags : FlagSet
  mask  : Mask := BitVec.allOnes 512
  old   : Option VReg := none

/-- The word has left r open; withdrawn, it leaves nothing but the flags of its pops. -/
def Opens (s t : State) (r : OpenResult) (pops : FlagSet) : Prop :=
  ∃ o, t.core.vout = some o ∧ o.d = r.d ∧ o.tag = r.tag ∧ o.lat = r.lat ∧ o.flags = r.flags ∧ o.mask = r.mask ∧
    o.merge = r.old.isSome ∧ (∀ v, r.old = some v → o.old = v) ∧ (∀ k, k < 4096 / r.w → elem r.w o.t k = r.t k % 2 ^ r.w) ∧
    ∀ n, s.cycle ≤ n → (t.onCore fun k => { k with pend := k.pend.take (k.pend.length - o.ops) }).landed n =
      { s.landed n with flags := (s.landed n).flags ||| pops }

/-- The word completes with the result r, merged under its mask, after r's latency, and leaves it open (R91, R103). -/
def GivesOpen (i : Instr) (s : State) (r : OpenResult) (pops : FlagSet) : Prop :=
  Completes i s fun t => Opens s t r pops ∧ ∃ v,
    VectorResult s t r.d v (match r.old with | some o => plainTag r.tag o.tag | none => r.tag) r.lat (pops ||| r.flags) ∧
    ∀ k, k < 4096 / r.w → elem r.w v k = match r.old with
      | some o => if r.mask.getLsbD k = true then r.t k % 2 ^ r.w else elem r.w o.data k
      | none => r.t k % 2 ^ r.w

/-- A scalar result of a word that may pop a stream (R92): v is read in d from `lat` cycles on; x0 stays zero. The flags of the pop
rise at once; every other register is as before, and nothing else changes but the streams popped. -/
structure ReadResult (s t : State) (d : XReg) (v : Word) (lat : Nat) (f : FlagSet) : Prop where
  frame  : t = { s with
    core := { s.core with pend := t.core.pend, streams := t.core.streams }
    agenda := t.agenda, fresh := t.fresh }
  value  : (t.landed (s.cycle + lat)).getX d = if d = 0 then 0 else v
  flags  : (t.landed (s.cycle + lat)).flags = (s.landed (s.cycle + lat)).flags ||| f
  others : ∀ r, r ≠ d → (t.landed (s.cycle + lat)).getX r = (s.landed (s.cycle + lat)).getX r
  rest   : { t.landed (s.cycle + lat) with x := (s.landed (s.cycle + lat)).x, flags := (s.landed (s.cycle + lat)).flags } =
    s.landed (s.cycle + lat)

/-- A mask result (R91): the bits f are read in mask register d after `lat` cycles; m0 stays all ones. Compares and mask operations raise
no flag of their own (R99, R111): fl are those of the streams popped. -/
structure MaskResult (s t : State) (d : BitVec 3) (f : Nat → Bool) (lat : Nat) (fl : FlagSet) : Prop where
  frame  : t = { s with
    core := { s.core with pend := t.core.pend, streams := t.core.streams }
    agenda := t.agenda, fresh := t.fresh }
  value  : d ≠ 0 → ∀ k, k < 512 → ((t.landed (s.cycle + lat)).getM d).getLsbD k = f k
  others : ∀ r, r ≠ d → (t.landed (s.cycle + lat)).getM r = (s.landed (s.cycle + lat)).getM r
  rest   : { t.landed (s.cycle + lat) with m := (s.landed (s.cycle + lat)).m } =
    { s.landed (s.cycle + lat) with flags := (s.landed (s.cycle + lat)).flags ||| fl }

/-- What accesses below the handle unit may change of a core: its L1 and lease clock, rows that are an object's memory, and a pending
interrupt of a system core. Every register, every result on its way and every unit of the core stands as before. -/
def CoreMoves (c d : Core) : Prop :=
  d = { c with l1 := d.l1, ltime := d.ltime, rows := d.rows, padPend := d.padPend, sipend := d.sipend } ∧ (c.isSys = false → d.sipend = c.sipend)

/-- Only what stands below the handle unit differs (R178..R288): memory, the caches, their directories and leases, pages kept for
versions, the undo log, the meters' reports, the free values drawn, and of every core what CoreMoves names. -/
def MemoryMoves (s t : State) : Prop :=
  t = { s with
    core := t.core, parked := t.parked, agenda := t.agenda, fresh := t.fresh, dies := t.dies, mem := t.mem
    lineKey := t.lineKey, kept := t.kept, pool := t.pool, parts := t.parts } ∧
  CoreMoves s.core t.core ∧ (∀ i, CoreMoves (s.coreOf i) (t.coreOf i)) ∧ ∀ e ∈ s.agenda, e ∈ t.agenda

/-- MemoryMoves, requests that leave for other packages over a port each, and what is known of the sectors that they serve. -/
def ObjectMoves (s t : State) : Prop :=
  ∃ m, MemoryMoves s m ∧
    t = { m with outbox := t.outbox, sent := t.sent, via := t.via, farMem := t.farMem, farDue := t.farDue }

/-- The sectors of a span are served from stored bytes that no cache holds: HOME 01 (R279), not compressed, the channel on and
the key LIVE and not destroyed at the core's die, the page not on its way to another. -/
def Uncached (s : State) (l : List Served) : Prop :=
  ∀ y ∈ l, ∃ x we, y = .ok x we ∧ s.sectorOk x = true ∧ s.refusedAt s.core.id x = false ∧ paSpace x.pa ≠ 2 ∧ x.comp = false ∧
    x.home = 1 ∧ s.migrated x.line = (x.line, false)

/-- The sectors of a span, the first lowest, as their stored bytes read. -/
def storedSpan (s : State) (l : List Served) : Nat :=
  packNat 512 (l.map fun y => match y with | .ok x _ => (s.plainSector x.line).toNat | _ => 0)

/-- The sectors of a span that the core's L1 holds live (R269), with their data. -/
def InL1 (s : State) (l : List (Sector × Bool × Mask)) : Prop :=
  ∀ y ∈ l, s.sectorOk y.1 = true ∧ s.refusedAt s.core.id y.1 = false ∧ paSpace y.1.pa ≠ 2 ∧ y.1.home ≠ 1 ∧ s.migrated y.1.line = (y.1.line, false) ∧
    s.l1Hit s.core.id y.1.line = some y.2.2

/-- What is stored differs in the sectors of a span alone: bit j of its i-th sector becomes `f i j old`; every other byte of memory,
and everything but the meters' reports, is as before. -/
def StoredAs (s t : State) (l : List Served) (f : Nat → Nat → Bool → Bool) : Prop :=
  (∀ i x we, l[i]? = some (.ok x we) → ∀ j, j < 512 →
    (t.plainSector x.line).getLsbD j = f i j ((s.plainSector x.line).getLsbD j)) ∧
  (∀ a, (∀ x we, Served.ok x we ∈ l → a / 64 ≠ lineSector x.line) → memGet t.mem a = memGet s.mem a) ∧
  (∀ e ∈ s.agenda, e ∈ t.agenda) ∧
  t = { s with mem := t.mem, lineKey := t.lineKey, agenda := t.agenda }

/-- No version shares the pages of a span (R202), no undo log is open for its key ids (R332), and its sectors are different. -/
def WritesAlone (s : State) (h : Word) (bit : Nat) (l : List Served) : Prop :=
  (∀ i, i < l.length → s.sharers (hKey h) ((bit / 512 + i) * 64 / 65536) = []) ∧
  (∀ x we, Served.ok x we ∈ l → ∀ p, s.part? (paKey x.pa) = some p → p.undo.st ≠ .opened ∧ p.undo.st ≠ .rolling) ∧
  (l.map fun y => match y with | .ok x _ => lineSector x.line | _ => 0).Nodup

end Sys2Proof.Machine
end

