-- ==== Sys2Proof/Certificates/Slice0/Obligations.lean ====
section
/-! DEFINITION. The statements. Words of one shape are stated together; each says that the word completes, what it writes and
when, and what it leaves unchanged. -/

open Sys2Proof Sys2Proof.Machine

/-! ### Words and their meaning -/

/-- Words written out from the encoding tables and examples of the spec decode to the instructions they stand for. -/
def Obligations.DecodesWordsOfTheSpec : Prop :=
  decodeWord 0x02504100 = .ok (false, .fcvti 1 1 false) ∧
  decodeWord 0x8A413FC0 = .ok (true, .lis 1 0x3FC0) ∧
  decodeWord 0x00A10514 = .ok (false, .mul 4 5 5 false false) ∧
  decodeWord 0x7FFFFFFF = .error .reservedClass

/-! ### Class 0: integers (R50, R51) -/

/-- A write to x0 has no effect, and x0 reads zero in every cycle (R11): `add x0, x0, x0` fills a slot and changes no visible state. -/
def Obligations.ZeroRegister : Prop :=
  (∀ (a : Arch) (w : Word), a.setX 0 w = a ∧ a.getX 0 = 0) ∧
  ∀ (s : State) (e f : Bool), Completes (.add 0 0 0 e f) s fun t => OnlyResults s t ∧ ∀ n r,
    (t.landed n).getX r = (s.landed n).getX r ∧ (t.landed n).flags = (s.landed n).flags

/-- Integer operations (R50): every result modulo 2^64, no flag, the latency of R37, nothing else changed; x0 as destination discards the
result (R11). Bit counts and bit fields are given bit by bit. -/
def Obligations.IntegerWords : Prop :=
  (∀ (s : State) (d a b : XReg) (e f : Bool),
     let x := s.getX a
     let y := s.getX b
     let sh := y.toNat % 64
     GivesX (.add d a b e f) s d (BitVec.ofNat 64 (x.toNat + y.toNat)) 1 ∧
     GivesX (.sub d a b e f) s d (BitVec.ofInt 64 (x.toInt - y.toInt)) 1 ∧
     GivesX (.and d a b e f) s d (x &&& y) 1 ∧
     GivesX (.or d a b e f) s d (x ||| y) 1 ∧
     GivesX (.xor d a b e f) s d (x ^^^ y) 1 ∧
     GivesX (.andn d a b e f) s d (x &&& ~~~y) 1 ∧
     GivesX (.shl d a b e f) s d (BitVec.ofNat 64 (x.toNat * 2 ^ sh)) 1 ∧
     GivesX (.shr d a b e f) s d (BitVec.ofNat 64 (x.toNat / 2 ^ sh)) 1 ∧
     GivesX (.sra d a b e f) s d (BitVec.ofInt 64 (x.toInt / 2 ^ sh)) 1 ∧
     GivesX (.rol d a b e f) s d (x <<< sh ||| x >>> (64 - sh)) 1 ∧
     GivesX (.mul d a b e f) s d (BitVec.ofNat 64 (x.toNat * y.toNat)) 3 ∧
     GivesX (.mulh d a b e f) s d (BitVec.ofInt 64 (x.toInt * y.toInt / 2 ^ 64)) 3 ∧
     GivesX (.mulhn d a b e f) s d (BitVec.ofNat 64 (x.toNat * y.toNat / 2 ^ 64)) 3 ∧
     GivesX (.min d a b e f) s d (if x.toInt ≤ y.toInt then x else y) 1 ∧
     GivesX (.max d a b e f) s d (if x.toInt ≤ y.toInt then y else x) 1 ∧
     GivesX (.minn d a b e f) s d (if x.toNat ≤ y.toNat then x else y) 1 ∧
     GivesX (.maxn d a b e f) s d (if x.toNat ≤ y.toNat then y else x) 1 ∧
     GivesX (.slt d a b e f) s d (if x.toInt < y.toInt then 1 else 0) 1 ∧
     GivesX (.sltn d a b e f) s d (if x.toNat < y.toNat then 1 else 0) 1 ∧
     GivesX (.seq d a b e f) s d (if x = y then 1 else 0) 1) ∧
  (∀ (s : State) (d a b : XReg) (e f : Bool),
     let x := s.getX a
     let y := s.getX b
     let lo := y.toNat % 64
     let w := y.toNat / 256 % 64 + 1
     (∃ n : Nat, n ≤ 64 ∧ (∀ i, 64 ≤ i + n → i < 64 → x.getLsbD i = false) ∧ (n < 64 → x.getLsbD (63 - n) = true) ∧
       GivesX (.clz d a e) s d (BitVec.ofNat 64 n) 1) ∧
     (∃ n : Nat, n ≤ 64 ∧ (∀ i, i < n → x.getLsbD i = false) ∧ (n < 64 → x.getLsbD n = true) ∧
       GivesX (.ctz d a e) s d (BitVec.ofNat 64 n) 1) ∧
     GivesX (.popc d a e) s d (BitVec.ofNat 64 ((List.range 64).map fun i => (x.getLsbD i).toNat).sum) 1 ∧
     (∃ v : Word, (∀ i, i < 64 → v.getLsbD i = x.getLsbD (min i lo)) ∧ GivesX (.sext d a b e f) s d v 1) ∧
     (∃ v : Word, (∀ i, i < 64 → v.getLsbD i = (decide (i < w) && x.getLsbD (lo + i))) ∧
       GivesX (.bext d a b e f) s d v 1) ∧
     (∃ v : Word,
       (∀ i, i < 64 → v.getLsbD i = if lo ≤ i ∧ i < lo + w then x.getLsbD (i - lo) else (s.getX d).getLsbD i) ∧
       GivesX (.bins d a b e f) s d v 1))

/-- A division's effect (R33, R36, R51): the destination empties and earlier results for it are dropped; the value arrives, and DZ with it
for a zero divisor, after `lat` cycles; the value log expects it (R326), and nothing else changes. -/
def DivResult (s t : State) (d : XReg) (dz : Bool) (v : Word) (lat : Nat) : Prop :=
  t = { s with
    core := { s.core with
      arch := s.core.arch.markX d (d = 0), varOut := s.core.varOut + 1
      pend := (s.core.pend ++ if dz then [(⟨s.cycle + lat, .flagsRaise flagDZ⟩ : Pend)] else []).filter
        fun p => !p.hitsX d
      valueLog := (s.core.logIssue d.toNat s.cycle).valueLog }
    agenda := agendaPut s.agenda ((s.cycle + lat) * 16 + ptLand) (.valueArrives s.core.id (.x d v)) }

/-- The divide family (R50, R51): quotients truncated toward zero, remainders of the dividend's sign, the values for a zero divisor, and
the latency 12 + 4 × (k − 1) from the quotient's significant bits. -/
def Obligations.DivideWords : Prop :=
  ∀ (s : State) (d a b : XReg) (e f : Bool),
    let x := s.getX a
    let y := s.getX b
    (y = 0 →
      Completes (.div d a b e f) s (DivResult s · d true (BitVec.allOnes 64) 12) ∧
      Completes (.divn d a b e f) s (DivResult s · d true (BitVec.allOnes 64) 12) ∧
      Completes (.rem d a b e f) s (DivResult s · d true x 12) ∧
      Completes (.remn d a b e f) s (DivResult s · d true x 12)) ∧
    (y ≠ 0 → ∀ (q : Int) (bits : Nat), q = x.toInt.tdiv y.toInt → (q.natAbs < 2 ^ bits ∧ ∀ j, j < bits → 2 ^ j ≤ q.natAbs) →
      let lat := 12 + 4 * (max 1 ((bits + 7) / 8) - 1)
      Completes (.div d a b e f) s (DivResult s · d false (BitVec.ofInt 64 q) lat) ∧
      Completes (.rem d a b e f) s (DivResult s · d false (BitVec.ofInt 64 (x.toInt - y.toInt * q)) lat)) ∧
    (y ≠ 0 → ∀ (bits : Nat), (x.toNat / y.toNat < 2 ^ bits ∧ ∀ j, j < bits → 2 ^ j ≤ x.toNat / y.toNat) →
      let lat := 12 + 4 * (max 1 ((bits + 7) / 8) - 1)
      Completes (.divn d a b e f) s (DivResult s · d false (BitVec.ofNat 64 (x.toNat / y.toNat)) lat) ∧
      Completes (.remn d a b e f) s (DivResult s · d false (BitVec.ofNat 64 (x.toNat % y.toNat)) lat))

/-- Scalar FP32 (R52): the low halves are FP32 operands, the result is rounded once to nearest even under VFMT.FTZ and zero-extended after
3 cycles, its flags rise with it. A conversion to INT64 truncates, saturates with IS and gives 0 with CN for a NaN. -/
def Obligations.ScalarFloatWords : Prop :=
  ∀ (s : State) (d a b : XReg) (e f : Bool),
    let r : RMode := { ftz := s.core.arch.vfmt.getLsbD 4 }
    let x := (s.getX a).toNat % 2 ^ 32
    let y := (s.getX b).toNat % 2 ^ 32
    let gives (i : Instr) (v : Nat × FlagSet) : Prop := GivesX i s d (BitVec.ofNat 64 v.1) 3 v.2
    gives (.fadd d a b e f) (FF.f32.add r x y) ∧ gives (.fsub d a b e f) (FF.f32.sub r x y) ∧
    gives (.fmul d a b e f) (FF.f32.mul r x y) ∧ gives (.fmin d a b e f) (FF.f32.minmax r.ftz false x y, 0) ∧
    gives (.fmax d a b e f) (FF.f32.minmax r.ftz true x y, 0) ∧
    gives (.icvtf d a e) (FF.f32.roundV r (FV.ofInt (s.getX a).toInt)) ∧
    (FF.f32.read r.ftz x = .nan → GivesX (.fcvti d a e) s d 0 3 flagCN) ∧
    (∀ neg, FF.f32.read r.ftz x = .inf neg →
      GivesX (.fcvti d a e) s d (if neg then BitVec.ofInt 64 (-2 ^ 63) else BitVec.ofInt 64 (2 ^ 63 - 1)) 3 flagIS) ∧
    (∀ (neg : Bool) (m : Nat) (x2 : Int), FF.f32.read r.ftz x = .fin neg m x2 →
      let n := if 0 ≤ x2 then m * 2 ^ x2.toNat else m / 2 ^ (-x2).toNat
      let exact := decide (0 ≤ x2) || decide (m % 2 ^ (-x2).toNat = 0)
      (n < 2 ^ 63 → GivesX (.fcvti d a e) s d (BitVec.ofInt 64 (if neg then -(n : Int) else n)) 3 (if exact then 0 else flagNX)) ∧
      (2 ^ 63 ≤ n →
        GivesX (.fcvti d a e) s d (if neg then BitVec.ofInt 64 (-2 ^ 63) else BitVec.ofInt 64 (2 ^ 63 - 1)) 3 flagIS))

/-! ### Class 1: immediates, control registers, staging and set instructions (R42..R48, R53, R54) -/

/-- Immediates (R53): addi and slti sign-extend imm10, the others zero-extend it; shifts use imm10[5:0]; lis and lih take 16 bits. -/
def Obligations.ImmediateWords : Prop :=
  ∀ (s : State) (d a n : XReg) (i : BitVec 10) (j : BitVec 16),
    let x := s.getX a
    GivesX (.addi d a i) s d (BitVec.ofInt 64 (x.toInt + i.toInt)) 1 ∧
    GivesX (.andi d a i) s d (x &&& BitVec.ofNat 64 i.toNat) 1 ∧
    GivesX (.ori d a i) s d (x ||| BitVec.ofNat 64 i.toNat) 1 ∧
    GivesX (.xori d a i) s d (x ^^^ BitVec.ofNat 64 i.toNat) 1 ∧
    GivesX (.shli d a n) s d (BitVec.ofNat 64 (x.toNat * 2 ^ n.toNat)) 1 ∧
    GivesX (.shri d a n) s d (BitVec.ofNat 64 (x.toNat / 2 ^ n.toNat)) 1 ∧
    GivesX (.srai d a n) s d (BitVec.ofInt 64 (x.toInt / 2 ^ n.toNat)) 1 ∧
    GivesX (.slti d a i) s d (if x.toInt < i.toInt then 1 else 0) 1 ∧
    GivesX (.sltni d a i) s d (if x.toNat < i.toNat then 1 else 0) 1 ∧
    GivesX (.lis d j) s d (BitVec.ofInt 64 j.toInt) 1 ∧
    GivesX (.lih d j) s d (BitVec.ofNat 64 ((s.getX d).toNat * 2 ^ 16 + j.toNat)) 1

/-- A write that governs from `lat` cycles on and no earlier (R31, R38): then the registers are as f gives, and nothing else has changed.
-/
def ControlResult (s t : State) (lat : Nat) (f : Arch → Arch) : Prop :=
  OnlyResults s t ∧ (∀ n, n < s.cycle + lat → t.landed n = s.landed n) ∧
  ((∀ p ∈ s.core.pend, p.dest.isRaise = true → s.cycle + lat < p.due) →
    t.landed (s.cycle + lat) = f (s.landed (s.cycle + lat)))

/-- fset, fclr and mtcr on FLAGS and OVFPTR (R42, R43, R46, R50): the destination receives FLAGS as it stands at issue, and the register
changes from the next cycle, with no flag rising in that cycle. mfcr on every control register of a compute core (R42, R43, R47): CHBUSY
and CHERR as they stood when the group began; the two clocks are logged as well, outside a re-run (R327); and the registers that a system
core has (R417). -/
def Obligations.ControlRegisterWords : Prop :=
  (∀ (s : State) (d a : XReg) (e : Bool),
     GivesX (.fset d a e) s d (s.core.arch.flags.zeroExtend 64) 1 ((s.getX a).truncate 7) ∧
     Completes (.fclr d a e) s (fun t => ControlResult s t 1 fun r =>
       { r.setX d (s.core.arch.flags.zeroExtend 64) with flags := r.flags &&& ~~~((s.getX a).truncate 7) }) ∧
     Completes (.mtcr a 0x10) s (fun t => ControlResult s t 1 fun r => { r with flags := (s.getX a).truncate 7 }) ∧
     (s.core.isSys = false →
       Completes (.mtcr a 0x24) s (fun t => ControlResult s t 1 fun r => { r with ovfptr := s.getX a }))) ∧
  (∀ (s : State) (d : XReg),
     let c := s.core
     (c.isSys = false →
       GivesX (.mfcr d 0) s d c.arch.vfmt 1 ∧
       GivesX (.mfcr d 1) s d c.arch.mfmt 1 ∧
       (∀ k : Fin 8, GivesX (.mfcr d (BitVec.ofNat 10 (8 + k))) s d (c.arch.wth[k].zeroExtend 64) 1) ∧
       GivesX (.mfcr d 0x10) s d (c.arch.flags.zeroExtend 64) 1 ∧
       (∀ k : Fin 3, GivesX (.mfcr d (BitVec.ofNat 10 (0x18 + k))) s d (BitVec.ofNat 64 c.tk.tc[k]) 1) ∧
       GivesX (.mfcr d 0x1C) s d (BitVec.ofNat 64 c.phase) 1 ∧
       GivesX (.mfcr d 0x1D) s d (BitVec.ofNat 64 c.tk.pgen) 1 ∧
       GivesX (.mfcr d 0x20) s d (if c.tk.lock then 64 else 128) 1 ∧
       GivesX (.mfcr d 0x21) s d (BitVec.ofNat 64 c.id) 1 ∧
       GivesX (.mfcr d 0x24) s d c.arch.ovfptr 1 ∧
       (∀ busy err, c.chView = some (busy, err) → GivesX (.mfcr d 0x28) s d busy 1 ∧ GivesX (.mfcr d 0x29) s d err 1) ∧
       (c.chView = none → GivesX (.mfcr d 0x28) s d (c.chbusy s.cycle) 1 ∧ GivesX (.mfcr d 0x29) s d c.cherr 1) ∧
       GivesX (.mfcr d 0x2A) s d (BitVec.ofNat 64 c.arch.loops.length) 1 ∧
       GivesX (.mfcr d 0x2B) s d (BitVec.ofNat 64 (c.arch.loops.head?.elim 0 (·.count))) 1 ∧
       (∀ k : Fin 64, GivesX (.mfcr d (BitVec.ofNat 10 (0x40 + k))) s d c.tk.params[k] 1) ∧
       (c.recover = none → ∀ n ∈ [(0x22, c.ltime % 2 ^ 40), (0x23, c.arch.tcyc)],
         Completes (.mfcr d (BitVec.ofNat 10 n.1)) s fun t =>
           let entry : LogVal := { reg := 0, issue := s.cycle, value := some ((BitVec.ofNat 64 n.2).zeroExtend 4096, 0, 1) }
           t = { s with core := { c with
             pend := c.pend ++ [⟨s.cycle + 1, .x d (BitVec.ofNat 64 n.2)⟩], valueLog := c.valueLog ++ [entry] } })) ∧
     (c.isSys = true →
       GivesX (.mfcr d 0) s d c.arch.vfmt 1 ∧ GivesX (.mfcr d 0x10) s d (c.arch.flags.zeroExtend 64) 1 ∧
       GivesX (.mfcr d 0x21) s d (BitVec.ofNat 64 c.id) 1))

/-- Staging registers and set instructions (R38, R44, R45, R48, R54): stg is in force from the next cycle, ldg reads what is in force; a
format or threshold governs from 4 cycles later; setthr ignores bits 63:32. -/
def Obligations.StagingAndSetWords : Prop :=
  ∀ (s : State) (d a : XReg) (e : BitVec 3) (x : BitVec 4) (i : BitVec 10) (n : BitVec 3),
    let v := s.getX a ||| BitVec.ofNat 64 i.toNat
    (vfmtOk v = true → Completes (.setfmt a i) s fun t => ControlResult s t 4 fun r => { r with vfmt := v }) ∧
    (s.core.isSys = false →
      (mfmtOk v = true → Completes (.setmfmt a i) s fun t => ControlResult s t 4 fun r => { r with mfmt := v }) ∧
      Completes (.setthr (n.zeroExtend 6) a) s (fun t => ControlResult s t 4 fun r =>
        { r with wth := r.wth.set n.toNat ((s.getX a).truncate 32) }) ∧
      (e.toNat < 5 →
        Completes (.stg a e x) s (fun t => ControlResult s t 1 fun r =>
          { r with stg := r.stg.setIfInBounds (e.toNat * 16 + x.toNat) (s.getX a) }) ∧
        GivesX (.ldg d e x) s d (s.core.arch.stg.toList.getD (e.toNat * 16 + x.toNat) 0) 1))

/-! ### Class 2: transfers of control (R17, R55..R58) -/

/-- A taken transfer to the word with index n (R17): its address is (n div 3) × 4 + (n mod 3). -/
def GoesTo (t : State) (n : Int) : Prop :=
  ∀ q p : Nat, n = 3 * q + p → p < 3 → t.core.taken = some (BitVec.ofNat 64 (4 * q + p))

/-- A taken branch (R55, R58): where it goes, and the loop entries that do not hold its target are popped; nothing else changes. -/
def BranchTaken (s t : State) (n : Int) : Prop :=
  t = { s with core := { s.core with taken := t.core.taken, loopsNext := t.core.loopsNext } } ∧ GoesTo t n ∧
  (0 ≤ n → n < 2 ^ 32 → ∃ gone kept, s.core.arch.loops = gone ++ kept ∧ t.core.loopsNext = some kept ∧
    (∀ e ∈ gone, ¬ ((e.start : Int) ≤ n ∧ n < e.exit)) ∧ (∀ e, kept.head? = some e → (e.start : Int) ≤ n ∧ n < e.exit))

/-- Transfers of control (R17, R55..R58). Branches: taken to the word `offset` words on when the condition holds, and without any effect
otherwise. call writes the address after its group into x63 and pops no loop entry; jr and ret go to the address in their register, where
low bits 0b11 are an illegal instruction. loop pushes an entry, or skips its body for a count of 0, or faults when the stack is full. That
bz and bnz pop loop entries as the other branches do, and that the skip of a loop of count 0 pops none, is the model's choice
(notes/assumptions/18.md). -/
def Obligations.ControlTransfers : Prop :=
  (∀ (s : State) (a b : XReg) (o : BitVec 11) (z : BitVec 17) (l : BitVec 23),
     let x := s.getX a
     let y := s.getX b
     let here : Int := s.core.gstart + s.core.wpos
     let branches (i : Instr) (c : Prop) (off : Int) : Prop :=
       (c → Completes i s fun t => BranchTaken s t (here + off)) ∧ (¬ c → exec i s = .next s)
     branches (.br l) True l.toInt ∧
     branches (.beq a b o) (x = y) o.toInt ∧ branches (.bne a b o) (x ≠ y) o.toInt ∧
     branches (.blt a b o) (x.toInt < y.toInt) o.toInt ∧ branches (.bge a b o) (y.toInt ≤ x.toInt) o.toInt ∧
     branches (.bltn a b o) (x.toNat < y.toNat) o.toInt ∧ branches (.bgen a b o) (y.toNat ≤ x.toNat) o.toInt ∧
     branches (.bz a z) (x = 0) z.toInt ∧ branches (.bnz a z) (x ≠ 0) z.toInt) ∧
  (∀ (s : State) (a : XReg) (l : BitVec 23),
     (Completes (.call l) s fun t => GoesTo t (s.core.gstart + s.core.wpos + l.toInt) ∧
       t = { s with core := { s.core with
         taken := t.core.taken
         pend := s.core.pend ++ [⟨s.cycle + 1, .x 63 (BitVec.ofNat 64 (s.core.gend / 3 * 4 + s.core.gend % 3))⟩] } }) ∧
     (∀ p ∈ [(Instr.jr a, s.getX a), (Instr.ret, s.getX 63)],
       (p.2.toNat % 4 ≠ 3 → Completes p.1 s fun t => BranchTaken s t (p.2.toNat / 4 * 3 + p.2.toNat % 4) ∧ t.core.taken = some p.2) ∧
       (p.2.toNat % 4 = 3 → Completes p.1 s fun t => t = s.fault 0x01 s.wordInfo))) ∧
  (∀ (s : State) (a : XReg) (o : BitVec 17),
     let exit : Int := s.core.gstart + s.core.wpos + o.toInt
     (exit ≤ s.core.gend → exec (.loop a o) s = .next (s.fault 0x01 s.wordInfo)) ∧
     ((s.core.gend : Int) < exit →
       (s.getX a = 0 → Completes (.loop a o) s fun t => GoesTo t exit ∧
         t = { s with core := { s.core with taken := t.core.taken } }) ∧
       (s.getX a ≠ 0 → s.core.arch.loops.length < 4 → Completes (.loop a o) s fun t =>
         t = { s with core := { s.core with
           loopsNext := some (⟨s.core.gend, exit.toNat, (s.getX a).toNat⟩ :: s.core.arch.loops) } }) ∧
       (s.getX a ≠ 0 → 4 ≤ s.core.arch.loops.length → exec (.loop a o) s = .next (s.fault 0x01 s.wordInfo))))

/-! ### Class 3: lane operations, dot products, compares, selection, conversion (R91, R94..R100) -/

/-- The lane words with their operations; a word with one source reads no second operand. -/
def laneWords (d a b : XReg) (m : BitVec 2) : List (Instr × LaneOp × VCode) :=
  [(.vadd d a b m, .add, b), (.vsub d a b m, .sub, b), (.vmul d a b m, .mul, b), (.vfma d a b m, .fma, b),
   (.vfms d a b m, .fms, b), (.vmin d a b m, .min, b), (.vmax d a b m, .max, b), (.vabs d a m, .abs, 0),
   (.vneg d a m, .neg, 0), (.vand d a b m, .and, b), (.vor d a b m, .or, b), (.vxor d a b m, .xor, b),
   (.vshl d a b m, .shl, b), (.vshr d a b m, .shr, b), (.vsra d a b m, .sra, b), (.vadds d a b m, .adds, b),
   (.vsubs d a b m, .subs, b), (.vmulh d a b m, .mulh, b), (.vmov d a m, .mov, 0), (.vabsd d a b m, .absd, b),
   (.vclamp d a b m, .clamp, b)]

/-- The lane words (R91, R94, R97): on a compute core, in a format that has the operation, with operands whose domains combine and streams
that hold a vector, every position receives the operation where its mask bit is 1 and keeps its old value where it is 0. The tag is R94's
(with the old destination's under a mask), the flags those of the visible positions written and of the pops. A class-4 word may take the
unmerged result further (R103). Latency 2 of vabs and vneg under floating-point formats, and the merged tag of a masked vmov of a source
tagged X, are the model's choice (notes/assumptions/48.md). -/
def Obligations.LaneWordResults : Prop :=
  ∀ (s : State) (d a b : XReg) (m : BitVec 2), ∀ p ∈ laneWords d a b m, ∀ (tag : Tag),
    let (i, op, b') := p
    let e := s.ef
    let o := s.read3 a b' op.two
    let old := s.getV d
    let mask := s.maskOf3 m
    let at_ (k : Nat) : Nat × FlagSet := lane e s.rmode op (elem e.width o.a.data k) (elem e.width o.b.data k) (elem e.width old.data k)
    s.core.isSys = false → i.wf = true → laneOk e op = true → laneTag op o.a.tag o.b.tag old.tag = some tag →
    domainBad e (m != 0) (opList a b' d o op.two op.readsD old) old.tag = false → o.a.err = none → o.b.err = none →
    GivesOpen i s
      { d, w := e.width, t := fun k => (at_ k).1, tag, mask, old := if m = 0 then none else some old
        lat := if e.isFp && (op == .add || op == .sub || op == .mul || op == .fma || op == .fms || op == .absd) then 3 else 2
        flags := raisedBy (s.visible e.width) fun k => if mask.getLsbD k then (at_ k).2 else 0 }
      (o.a.flags ||| o.b.flags)

/-- vdot4, vsel and vcvt (R78, R98..R100), and the compares (R99): visible positions under the mask receive the comparison, the others
keep their bit, and positions past the visible vector become 0. -/
def Obligations.MoreLaneResults : Prop :=
  (∀ (s : State) (d a b : XReg) (m : BitVec 2) (tag : Tag),
     let e := s.ef
     let o := s.read3 a b true
     let old := s.getV d
     let mask := s.maskOf3 m
     let quad (v : Vec) (l : Nat) : List Nat := (List.range 4).map fun j => elem 8 v (4 * l + j)
     let dot (l : Nat) : Nat × FlagSet := dotLane e s.rmode (quad o.a.data l) (quad o.b.data l) (elem 32 old.data l)
     s.core.isSys = false → o.a.err = none → o.b.err = none →
     ((Instr.vdot4 d a b m).wf = true → e.width = 8 → laneTag .fma o.a.tag o.b.tag old.tag = some tag →
       domainBad e (m != 0) (opList a b d o true true old) old.tag = false →
       GivesV (.vdot4 d a b m) s d 32 (fun l => if mask.getLsbD (4 * l) then (dot l).1 else elem 32 old.data l)
         (if m = 0 then tag else plainTag tag old.tag) 3
         (o.a.flags ||| o.b.flags ||| raisedBy (s.visible 32) fun l => if mask.getLsbD (4 * l) then (dot l).2 else 0)) ∧
     ((Instr.vsel d a b m).wf = true → combine .nonlinear o.a.tag o.b.tag = some tag →
       GivesOpen (.vsel d a b m) s
         { d, w := e.width, t := fun k => if mask.getLsbD k then elem e.width o.a.data k else elem e.width o.b.data k, tag, lat := 2, flags := 0 }
         (o.a.flags ||| o.b.flags)) ∧
     (∀ g va s', efOf (b.toNat % 16) = some g → s.readSrc a = (va, s') → va.err = none → (Instr.vcvt d a b m).wf = true →
       unaryTag .nonlinear va.tag = some tag → domainBad e (m != 0) [(a.toNat, va.tag)] old.tag = false →
       let w := max e.width g.width
       let mode : RMode := { ftz := s.rmode.ftz, rz := b.getLsbD 4, sat := b.getLsbD 5 }
       let at_ (k : Nat) : Nat × FlagSet := convert e g mode (elem e.width va.data (k * (w / e.width)))
       let on (k : Nat) : Bool := mask.getLsbD (k * (w / e.width))
       GivesV (.vcvt d a b m) s d w (fun k => if on k then (at_ k).1 else elem w old.data k)
         (if m = 0 then tag else plainTag tag old.tag) 3
         (va.flags ||| raisedBy (s.visible w) fun k => if on k then (at_ k).2 else 0))) ∧
  (∀ (s : State) (d a b : XReg) (m : BitVec 2) (tag : Tag),
     let e := s.ef
     let o := s.read3 a b true
     let at_ (f : EFmt → Bool → Nat → Nat → Bool) (k : Nat) : Bool :=
       decide (k < s.visible e.width) &&
         if (s.maskOf3 m).getLsbD k then f e s.rmode.ftz (elem e.width o.a.data k) (elem e.width o.b.data k)
         else (s.getM (d.truncate 3)).getLsbD k
     s.core.isSys = false → o.a.err = none → o.b.err = none → combine .nonlinear o.a.tag o.b.tag = some tag →
     ∀ p ∈ [(Instr.vcmpeq d a b m, eqE), (Instr.vcmplt d a b m, ltE), (Instr.vcmple d a b m, leE)], p.1.wf = true →
       Completes p.1 s fun t => MaskResult s t (d.truncate 3) (at_ p.2) 2 (o.a.flags ||| o.b.flags))

/-! ### Classes 4 and 5: the cascade, scalar operands, movement, reductions, elements, masks, tags, pops (R101..R113) -/

/-- Scalar operands (R105, R106): every position of the vector, tag C for vbcast and vimm, S for vidx, and the source's combined with C
for vaddx, vmulx and vfmax. -/
def Obligations.ScalarOperandWords : Prop :=
  ∀ (s : State) (d a b : XReg) (i : BitVec 12), s.core.isSys = false →
    let e := s.ef
    let w := e.width
    let x := (s.getX b).toNat % 2 ^ w
    let flags (f : Nat → Nat × FlagSet) : FlagSet := raisedBy (s.visible w) fun k => (f k).2
    let gives (i : Instr) (t : Nat → Nat) (tag : Tag) (lat : Nat) (fl pops : FlagSet) : Prop := GivesOpen i s { d, w, t, tag, lat, flags := fl } pops
    ((Instr.vbcast d b).wf = true → gives (.vbcast d b) (fun _ => x) tagC 3 0 0) ∧
    ((Instr.vimm d i).wf = true →
      gives (.vimm d i) (fun _ => (ofIntE e i.toInt).1) tagC 1 (flags fun _ => ofIntE e i.toInt) 0) ∧
    ((Instr.vidx d b).wf = true →
      let at_ (k : Nat) : Nat × FlagSet := ofIntE e (s.getX b + BitVec.ofNat 64 k).toInt
      gives (.vidx d b) (fun k => (at_ k).1) tagS 1 (flags at_) 0) ∧
    (∀ va s' tag, s.readSrc a = (va, s') → va.err = none → hFormatBad e va.tag = false →
      (∀ p ∈ [(Instr.vaddx d a b, LaneOp.add), (Instr.vmulx d a b, LaneOp.mul)], p.1.wf = true →
        combine (laneKind p.2) va.tag tagC = some tag →
        let at_ (k : Nat) : Nat × FlagSet := lane e s.rmode p.2 (elem w va.data k) x x
        gives p.1 (fun k => (at_ k).1) tag 3 (flags at_) va.flags) ∧
      ((Instr.vfmax d a b).wf = true → laneTag .fma va.tag tagC (s.getV d).tag = some tag →
        hFormatBad e (s.getV d).tag = false →
        let at_ (k : Nat) : Nat × FlagSet := lane e s.rmode .fma (elem w va.data k) x (elem w (s.getV d).data k)
        gives (.vfmax d a b) (fun k => (at_ k).1) tag 3 (flags at_) va.flags))

/-- Movement (R107, R108): vperm and vrot within each 512-bit cluster, xcl of whole clusters; elements move unchanged with their tag. -/
def Obligations.MovementWords : Prop :=
  ∀ (s : State) (d a b : XReg) (va : VIn) (s' : State),
    let w := s.ef.width
    let n := 512 / w
    let x := s.getX b
    s.core.isSys = false → s.readSrc a = (va, s') → va.err = none → hFormatBad s.ef va.tag = false →
    (∀ vb s'', (Instr.vperm d a b).wf = true → s'.readSrc b = (vb, s'') → vb.err = none → Tag.isH vb.tag = false →
      GivesOpen (.vperm d a b) s
        { d, w, t := fun k => elem w va.data (k / n * n + elem w vb.data k % n), tag := va.tag, lat := 2, flags := 0 } (va.flags ||| vb.flags)) ∧
    ((Instr.vrot d a b).wf = true →
      GivesOpen (.vrot d a b) s
        { d, w, t := fun k => elem w va.data (k / n * n + (k % n + n - x.toNat % n) % n), tag := va.tag, lat := 2, flags := 0 } va.flags) ∧
    ((Instr.xcl d a b).wf = true →
      let from_ (c : Nat) : Nat :=
        if s.core.tk.lock then c / 4 * 4 + (if x.getLsbD 3 then (c ^^^ (x.toNat % 8)) % 4 else (c + x.toNat % 8) % 4)
        else if x.getLsbD 3 then (c ^^^ (x.toNat % 8)) % 8 else (c + x.toNat % 8) % 8
      GivesV (.xcl d a b) s d 512 (fun c => elem 512 va.data (from_ c)) va.tag 4 va.flags)

/-- Reductions (R109): the pairwise tree of each cluster leaves its result in the cluster's first position and zero in the others; xred
combines the visible clusters position by position and gives every cluster the result. -/
def Obligations.ReductionWords : Prop :=
  ∀ (s : State) (d a b : XReg) (va : VIn) (s' : State),
    let e := s.ef
    let w := e.width
    let n := 512 / w
    let visC := if s.core.tk.lock then 4 else 8
    let tree (op : LaneOp) (l : List Nat) : Nat × FlagSet := pairTree (fun x y => lane e s.rmode op x y 0) (Nat.log2 l.length) l
    let cluster (c : Nat) : List Nat := (List.range n).map fun j => elem w va.data (c * n + j)
    let across (j : Nat) : List Nat := (List.range visC).map fun c => elem w va.data (c * n + j)
    let allowed (op : LaneOp) : Prop :=
      Tag.isX va.tag = false ∧ (op ≠ .add → Tag.isH va.tag = false) ∧ hFormatBad e va.tag = false
    s.core.isSys = false → s.readSrc a = (va, s') → va.err = none →
    (∀ p ∈ [(Instr.vred d a, LaneOp.add), (Instr.vredmax d a, LaneOp.max)], p.1.wf = true → allowed p.2 →
      GivesV p.1 s d w (fun k => if k % n = 0 then (tree p.2 (cluster (k / n))).1 else 0) va.tag 5
        (va.flags ||| raisedBy visC fun c => (tree p.2 (cluster c)).2)) ∧
    (∀ p ∈ [((0 : Nat), LaneOp.add), (1, LaneOp.max), (2, LaneOp.min)], b.toNat = p.1 → (Instr.xred d a b).wf = true → allowed p.2 →
      GivesV (.xred d a b) s d w (fun k => (tree p.2 (across (k % n))).1) va.tag 8
        (va.flags ||| raisedBy n fun j => (tree p.2 (across j)).2))

/-- Single elements, tags and masks (R90, R95, R110..R112). vext reads one element of any tag, zero-extended, or sign-extended from an INT
format; vins writes one element of a vector without H or X tag and tags S; vtag copies every bit under its own tag, and vtagx reads the
tag of an operand that the format allows. The mask operations act on all 512 bits, under delayed lockstep on the visible ones alone, the
others being 0; mpop counts the visible positions. -/
def Obligations.ElementTagMaskWords : Prop :=
  ∀ (s : State) (d a b : XReg) (g : BitVec 4), s.core.isSys = false →
    let w := s.ef.width
    let vis := s.visible w
    let seen (k : Nat) : Bool := !s.core.tk.lock || decide (k < vis)
    (∀ va s', s.readSrc a = (va, s') → va.err = none →
      ((Instr.vext d a b).wf = true →
        let p := elem w va.data ((s.getX b).toNat % vis)
        let v : Int := if s.ef = .int w true then (if 2 * p < 2 ^ w then (p : Int) else p - 2 ^ w) else p
        Completes (.vext d a b) s fun t => ReadResult s t d (BitVec.ofInt 64 v) 2 va.flags) ∧
      ((Instr.vtagx d a).wf = true → hFormatBad s.ef va.tag = false →
        Completes (.vtagx d a) s fun t => ReadResult s t d (BitVec.ofNat 64 va.tag.toNat) 1 va.flags) ∧
      ((Instr.vtag d a g).wf = true → GivesV (.vtag d a g) s d w (elem w va.data) g 1 va.flags)) ∧
    ((Instr.vins d a b).wf = true → Tag.isH (s.getV d).tag = false → Tag.isX (s.getV d).tag = false →
      GivesV (.vins d a b) s d w
        (fun k => if k = (s.getX b).toNat % vis then (s.getX a).toNat else elem w (s.getV d).data k) tagS 2 0) ∧
    (let ma := s.getM (a.truncate 3)
     let mb := s.getM (b.truncate 3)
     ((Instr.mand d a b).wf = true →
       Completes (.mand d a b) s fun t => MaskResult s t (d.truncate 3) (fun k => seen k && (ma.getLsbD k && mb.getLsbD k)) 1 0) ∧
     ((Instr.mor d a b).wf = true →
       Completes (.mor d a b) s fun t => MaskResult s t (d.truncate 3) (fun k => seen k && (ma.getLsbD k || mb.getLsbD k)) 1 0) ∧
     ((Instr.mnot d a).wf = true →
       Completes (.mnot d a) s fun t => MaskResult s t (d.truncate 3) (fun k => seen k && !ma.getLsbD k) 1 0) ∧
     ((Instr.mpop d a).wf = true →
       GivesX (.mpop d a) s d (BitVec.ofNat 64 ((List.range vis).map fun k => (ma.getLsbD k).toNat).sum) 2))

/-- A stage of a cascade (R101..R103): a code that passes leaves the open result as it is; any other takes every position of it through
its operation with the stage's operand, a vector source or a scalar of tag C, with the tag of R94, 2 more cycles and the flags of the
visible positions under the mask. -/
def StageGives (s : State) (v v' : VecOut) (code : BitVec 5) (src : XReg) (scalar : Bool) : Prop :=
  let e := s.ef
  let o := (s.stageSrc e.width src scalar).1
  (stageOp code = none → v' = v) ∧
  (scalar = true → o.tag = tagC ∧ o.flags = 0 ∧ ∀ k, k < 4096 / e.width → elem e.width o.data k = (s.getX src).toNat % 2 ^ e.width) ∧
  ∀ op, stageOp code = some op →
    let at_ (k : Nat) : Nat × FlagSet :=
      lane e s.rmode op (elem e.width v.t k) (if op.two then elem e.width o.data k else 0) (elem e.width v.t k)
    (∀ k, k < 4096 / e.width → elem e.width v'.t k = (at_ k).1 % 2 ^ e.width) ∧
    (if op.two then combine (laneKind op) v.tag o.tag else unaryTag (laneKind op) v.tag) = some v'.tag ∧
    v' = { v with
      t := v'.t, tag := v'.tag, lat := v.lat + 2
      flags := v.flags ||| raisedBy (s.visible e.width) fun k => if v.mask.getLsbD k then (at_ k).2 else 0 }

/-- The flags of the vector that a stage pops. -/
def stagePops (s : State) (code : BitVec 5) (src : XReg) (scalar : Bool) : FlagSet :=
  match stageOp code with
  | some op => if op.two then (s.stageSrc s.ef.width src scalar).1.flags else 0
  | none => 0

/-- The stage operations of R102, by code. -/
def stageOps : List (Nat × LaneOp) :=
  [(1, .add), (2, .sub), (3, .mul), (4, .min), (5, .max), (6, .and), (7, .or), (8, .xor), (9, .shl), (10, .shr), (11, .abs), (12, .neg)]

/-- vpop (R113): the oldest row of the result queue leaves it and is the vector result with its tag; a held row whose overflow has been
raised enters the queue in the next cycle (R159); an empty queue is cause 0x07. A class-4 word (R101..R103): the vector word before it
gives up its result, stage B acts on every position of the unmerged result and stage C on what stage B leaves, and the mask merges once,
at the end; without an open result the group is illegal. -/
def Obligations.PopsAndCascades : Prop :=
  (∀ (s : State) (d a : XReg), s.core.isSys = false → (Instr.vpop d a).wf = true →
     let n := a.toNat % 4
     (∀ (r : Row) (rest : List Row), s.core.arch.rq.toList.getD n [] = r :: rest →
       Completes (.vpop d a) s fun t => ∃ u, VectorResult u t d r.data r.tag 1 0 ∧
         u = { s with
           core := { s.core with arch := { s.core.arch with rq := s.core.arch.rq.setIfInBounds n rest } }
           agenda := if (s.core.arch.hold.toList.getD n none).isSome ∧ s.core.ovf = none then
             agendaPut s.agenda ((s.cycle + 1) * 16 + ptPush) (.heldRowEntersQueue s.core.id (BitVec.ofNat 2 n)) else s.agenda }) ∧
     (s.core.arch.rq.toList.getD n [] = [] → exec (.vpop d a) s = .next (s.fault 0x07 (BitVec.ofNat 64 n)))) ∧
  (∀ (s : State) (p q : BitVec 5) (b c : XReg) (bs cs : Bool),
     s.core.isSys = false → (Instr.cascadeExtension p q b c bs cs).wf = true →
     (s.core.vout = none →
       exec (.cascadeExtension p q b c bs cs) s = .next (s.fault 0x02 (BitVec.ofNat 64 (s.core.gend - s.core.gstart)))) ∧
     (∀ v v1 v2 s1 s2, s.core.vout = some v →
       let s0 := s.onCore fun k => { k with pend := k.pend.take (k.pend.length - v.ops), vout := none }
       s0.stage v p b bs = .ok (v1, s1) → s1.stage v1 q c cs = .ok (v2, s2) →
       StageGives s0 v v1 p b bs ∧ StageGives s1 v1 v2 q c cs ∧ (stageOp p = none → s1 = s0) ∧
       (∀ op, stageOp p = some op ↔ (p.toNat, op) ∈ stageOps) ∧
       Completes (.cascadeExtension p q b c bs cs) s fun t => t.core.vout = none ∧ ∃ x,
         VectorResult s0 t v.d x (if v.merge then plainTag v2.tag v.old.tag else v2.tag) v2.lat
           (v2.flags ||| (stagePops s0 p b bs ||| stagePops s1 q c cs)) ∧
         ∀ k, k < 4096 / s.ef.width → elem s.ef.width x k =
           if v.merge && !v.mask.getLsbD k then elem s.ef.width v.old.data k else elem s.ef.width v2.t k))

/-! ### Class 6: special functions (R85..R87, R114) -/

/-- The special functions: in FP32, FP16 or BF16 every position is widened to FP32, receives the function and is narrowed once; 8 cycles,
12 for fdiv; H and X operands are not accepted. -/
def Obligations.SpecialFunctionResults : Prop :=
  ∀ (s : State) (d a b : XReg) (f : FF), s.core.isSys = false → sfuFmt s.ef = some f →
    let r := s.rmode
    let on (g : Nat → Nat × FlagSet) (v : Vec) (k : Nat) : Nat × FlagSet :=
      Sfu.narrow f r (g (Sfu.widen f r.ftz (elem f.width v k)))
    (∀ va s', s.readSrc a = (va, s') → va.err = none → Tag.isX va.tag = false → Tag.isH va.tag = false →
      ∀ p ∈ [(Instr.fexp2 d a, Sfu.base .exp2), (.flog2 d a, Sfu.base .log2), (.frcp d a, Sfu.base .rcp),
             (.frsqrt d a, Sfu.base .rsqrt), (.fsqrt d a, Sfu.base .sqrt), (.fsin d a, Sfu.base .sin),
             (.fcos d a, Sfu.base .cos), (.ftanh d a, Sfu.tanh), (.fsigm d a, Sfu.sigm), (.fgelu d a, Sfu.gelu),
             (.fsilu d a, Sfu.silu)], p.1.wf = true →
        GivesV p.1 s d f.width (fun k => (on (p.2 r) va.data k).1) va.tag 8
          (va.flags ||| raisedBy (s.visible f.width) fun k => (on (p.2 r) va.data k).2)) ∧
    (∀ tag, let o := s.read3 a b true
      o.a.err = none → o.b.err = none → combine .nonlinear o.a.tag o.b.tag = some tag → (Instr.fdiv d a b).wf = true →
      let at_ (k : Nat) : Nat × FlagSet := Sfu.narrow f r
        (Sfu.fdiv r (Sfu.widen f r.ftz (elem f.width o.a.data k)) (Sfu.widen f r.ftz (elem f.width o.b.data k)))
      GivesV (.fdiv d a b) s d f.width (fun k => (at_ k).1) tag 12
        (o.a.flags ||| o.b.flags ||| raisedBy (s.visible f.width) fun k => (at_ k).2))

/-! ### Class 7: rows and spills (R116..R131) -/

/-- A row of the task's window (R115). -/
def windowRow (s : State) (n : Nat) : Row := s.core.physRow (s.core.tk.base + n)

/-- A row write of the core (R119, R120): at the write point of the cycle the row holds data and tag; every other row is as it would be
without the word, and nothing but the writes on their way has changed. -/
def RowResult (s t : State) (n : Nat) (r : Row) (delay : Nat) : Prop :=
  t = { s with core := { s.core with rowPend := t.core.rowPend } } ∧
  ∀ p, (t.core.applyRows (s.cycle + delay)).physRow p =
    if p = s.core.tk.base + n then r else (s.core.applyRows (s.cycle + delay)).physRow p

/-- A carve-out row once a store has landed, 4 cycles after issue (R122, R124): P holds of what it was and what it is; every other row,
and every register, is as without the store. -/
def CarveLands (s t : State) (i : Nat) (P : Row → Row → Prop) : Prop :=
  let a := s.core.landDue (s.cycle + 4)
  let b := t.core.landDue (s.cycle + 4)
  let p := 8192 - s.core.tk.carve + i
  P (a.physRow p) (b.physRow p) ∧ (∀ q, q ≠ p → b.physRow q = a.physRow q) ∧ b.arch = a.arch

/-- Where a spill access to the overflow object stops (R123, R125): a handle that does not allow it, then bytes past the object's extent.
-/
def OverflowStops (s : State) (i : Instr) (need info : Nat) (l : List (Nat × Nat)) : Prop :=
  let h := s.core.arch.ovfptr
  let q := s.core.requester s.pkg .spill
  let stops (s : State) (r : Raise) : State := (s.takeFault r).onCore fun c => { c with wanted := [] }
  (∀ cause owner, s.violation q h (some need) = some (cause, owner) →
    exec i s = .next (stops (s.logViolation owner q cause h []) ⟨cause, h, 0⟩)) ∧
  (s.violation q h (some need) = none → (∃ p ∈ l, 8 * (s.desc h).extent < p.1 + p.2) →
    exec i s = .next (stops s ⟨0x1C, BitVec.ofNat 64 info, h⟩))

/-- A load's value is on its way (R33, R195): the register empties and is written in a later cycle; only what stands below the handle unit
may differ besides, requests to other packages and the value log, which expects it (R326). -/
def LoadOnItsWay (s t : State) (d : Arrival) (due : Nat) : Prop :=
  s.cycle < due ∧ (due * 16 + ptLand, Instr.valueArrives s.core.id d) ∈ t.agenda ∧ ∃ m, ObjectMoves s m ∧
    t = { m with
      core := { m.core with
        arch := (match d with | .x r _ => s.core.arch.markX r (r = 0) | .v r _ _ => s.core.arch.markV r false)
        pend := s.core.pend.filter (fun p => match d with | .x r _ => !p.hitsX r | .v r _ _ => !p.hitsV r)
        varOut := s.core.varOut + 1
        valueLog := (s.core.logIssue (Arrival.reg d) s.cycle).valueLog }
      agenda := t.agenda }

/-- Row reads and writes (R116, R120, R126..R131): the address is xa + off10 × 512, the row its quotient by 512; rmg joins the two rows
that an address between rows spans, with tag X where theirs differ; vst, rtagw (the tag alone) and qst (a queue's oldest row) write at the
write point of the next cycle; vfill writes one row a cycle, and nothing when any row is outside the window. Spills (R122..R124, R128):
scalar offsets below 4096 and vector slots below 64 are spill memory with 1 cycle, the next ones the task's carve-out with 4; past both,
the bytes of the overflow object at OVFPTR, its slots' tags and data apart, and cause 0x1C while OVFPTR is 0 or a byte lies past its
extent. AUX of vfill's bounds fault as the first row outside is the model's choice (notes/assumptions/48.md), and so is that an overflow
slot is read and written in the step of the word (notes/assumptions/5.md). -/
def Obligations.RowAndSpillWords : Prop :=
  ((∀ (s : State) (d a : XReg) (o : BitVec 10), s.core.isSys = false →
      let adr := BitVec.ofInt 64 ((s.getX a).toInt + o.toInt * 512)
      let n := adr.toNat / 512
      let k := adr.toNat % 512
      (n < s.core.tk.rows →
        ((Instr.vld d a o).wf = true →
          Completes (.vld d a o) s fun t => VectorResult s t d (windowRow s n).data (windowRow s n).tag 3 0) ∧
        GivesX (.rtagr d a o) s d (BitVec.ofNat 64 (windowRow s n).tag.toNat) 3 ∧
        ((Instr.rmg d a o).wf = true → k = 0 →
          Completes (.rmg d a o) s fun t => VectorResult s t d (windowRow s n).data (windowRow s n).tag 2 0) ∧
        ((Instr.rmg d a o).wf = true → k ≠ 0 → n + 1 < s.core.tk.rows →
          GivesV (.rmg d a o) s d 8
            (fun j => if j + k < 512 then elem 8 (windowRow s n).data (j + k) else elem 8 (windowRow s (n + 1)).data (j + k - 512))
            (if (windowRow s n).tag = (windowRow s (n + 1)).tag then (windowRow s n).tag else tagX) 2 0) ∧
        ((Instr.rmg d a o).wf = true → k ≠ 0 → s.core.tk.rows ≤ n + 1 →
          exec (.rmg d a o) s = .next (s.fault 0x0A 0 (BitVec.ofNat 64 (n + 1))))) ∧
      (s.core.tk.rows ≤ n → ∀ i ∈ [Instr.vld d a o, .rtagr d a o, .rmg d a o], i.wf = true →
        exec i s = .next (s.fault 0x0A 0 (BitVec.ofNat 64 n)))) ∧
   (∀ (s : State) (d a : XReg) (o : BitVec 10), s.core.isSys = false →
      let adr := BitVec.ofInt 64 ((s.getX a).toInt + o.toInt * 512)
      let n := adr.toNat / 512
      let v := s.getV d
      (n < s.core.tk.rows →
        ((Instr.vst d a o).wf = true → Completes (.vst d a o) s fun t => RowResult s t n ⟨v.data, v.tag⟩ 1) ∧
        ((Instr.rtagw d a o).wf = true → Completes (.rtagw d a o) s fun t =>
          RowResult s t n ⟨((s.core.applyRows (s.cycle + 1)).physRow (s.core.tk.base + n)).data, (s.getX d).truncate 4⟩ 1) ∧
        (∀ r u, (Instr.qst d a o).wf = true → s.popQueue (d.toNat % 4) = some (r, u) →
          Completes (.qst d a o) s fun t => RowResult u t n r 1)) ∧
      (let first := (s.getX a).toNat / 512
       first + o.toNat < s.core.tk.rows → (Instr.vfill d a o).wf = true →
         let writes : List RowWrite := (List.range (o.toNat + 1)).map fun k =>
           ⟨s.cycle + 1 + k, s.core.tk.base + (first + k), some v.data, v.tag⟩
         Completes (.vfill d a o) s fun t => t = { s with core := { s.core with rowPend := s.core.rowPend ++ writes } }) ∧
      (s.core.tk.rows ≤ n → ∀ i ∈ [Instr.vst d a o, .rtagw d a o, .qst d a o], i.wf = true →
        exec i s = .next (s.fault 0x0A 0 (BitVec.ofNat 64 n))) ∧
      (s.core.tk.rows ≤ (s.getX a).toNat / 512 + o.toNat → (Instr.vfill d a o).wf = true →
        exec (.vfill d a o) s = .next (s.fault 0x0A 0 (BitVec.ofNat 64 (max ((s.getX a).toNat / 512) s.core.tk.rows)))))) ∧
  (∀ (s : State) (d : XReg) (o : BitVec 16), s.core.isSys = false →
     let n := o.toNat
     let c := s.core
     let v := s.getV d
     let carveX (i : Nat) : Word := BitVec.ofNat 64 (elem 64 (c.physRow (8192 - c.tk.carve + i / 64)).data (i % 64))
     let carveV (i : Nat) : Row := c.physRow (8192 - c.tk.carve + i)
     (n < 4096 →
       GivesX (.sld d o) s d ((mget c.arch.spillX n).getD 0) 1 ∧
       Completes (.sst d o) s fun t => ControlResult s t 1 fun r => { r with spillX := dput 0 r.spillX n (s.getX d) }) ∧
     (4096 ≤ n → n < 4096 + 64 * c.tk.carve →
       GivesX (.sld d o) s d (carveX (n - 4096)) 4 ∧
       Completes (.sst d o) s fun t => t = s.pushResult 4 (.carveX (n - 4096) (s.getX d)) ∧
         CarveLands s t ((n - 4096) / 64) fun old r => r.tag = old.tag ∧ ∀ j, j < 64 →
           elem 64 r.data j = if j = (n - 4096) % 64 then (s.getX d).toNat else elem 64 old.data j) ∧
     ((Instr.vsld d o).wf = true → n < 64 →
       Completes (.vsld d o) s fun t =>
         VectorResult s t d ((mget c.arch.spillV n).getD {}).data ((mget c.arch.spillV n).getD {}).tag 1 0) ∧
     ((Instr.vsst d o).wf = true → n < 64 →
       Completes (.vsst d o) s fun t => ControlResult s t 1 fun r => { r with spillV := dput {} r.spillV n ⟨v.data, v.tag⟩ }) ∧
     ((Instr.vsld d o).wf = true → 64 ≤ n → n < 64 + c.tk.carve →
       Completes (.vsld d o) s fun t =>
         VectorResult s t d (carveV (c.tk.carve - 1 - (n - 64))).data (carveV (c.tk.carve - 1 - (n - 64))).tag 4 0) ∧
     ((Instr.vsst d o).wf = true → 64 ≤ n → n < 64 + c.tk.carve →
       Completes (.vsst d o) s fun t => t = s.pushResult 4 (.carveV (c.tk.carve - 1 - (n - 64)) ⟨v.data, v.tag⟩) ∧
         CarveLands s t (c.tk.carve - 1 - (n - 64)) fun _ r => r = ⟨v.data, v.tag⟩) ∧
     (c.arch.ovfptr = 0 →
       (4096 + 64 * c.tk.carve ≤ n → ∀ i ∈ [Instr.sld d o, .sst d o], exec i s = .next (s.fault 0x1C (BitVec.ofNat 64 n) 0)) ∧
       (64 + c.tk.carve ≤ n → ∀ i ∈ [Instr.vsld d o, .vsst d o], i.wf = true →
         exec i s = .next (s.fault 0x1C (BitVec.ofNat 64 (0x10000 + n)) 0)))) ∧
  (∀ (s : State) (d : XReg) (o : BitVec 16), s.core.isSys = false →
     let n := o.toNat
     let c := s.core
     let h := c.arch.ovfptr
     let D := s.desc h
     let tag := 8 * (0x80000 + n)
     let data := 8 * (0x90000 + 512 * n)
     let bits (b len : Nat) (l : List Served) : Nat := storedSpan s l / 2 ^ (b % 512) % 2 ^ len
     let put (b len v k j : Nat) (old : Bool) : Bool :=
       let at_ := 512 * (b / 512 + k) + j
       if b ≤ at_ ∧ at_ < b + len then v.testBit (at_ - b) else old
     let pieces (ver : Option Nat) (l : List (Nat × Nat)) : List (Nat × Nat × List Served) :=
       l.map fun p => (p.1, p.2, s.span h D ver p.1 p.2)
     let load (i : Instr) (info : Nat) (l : List (Nat × Nat)) (v : List (List Served) → Arrival) : Prop := i.wf = true →
       let ps := pieces (c.pinOf h) l
       OverflowStops s i 1 info l ∧
       (s.resolveOvf h false info l = .ok ps → (∀ p ∈ ps, Uncached s p.2.2) → Completes i s fun u => ∃ due,
         LoadOnItsWay s u (v (ps.map (·.2.2))) due ∧ u = { s with core := u.core, agenda := u.agenda, fresh := u.fresh })
     let store (i : Instr) (info : Nat) (l : List (Nat × Nat)) (f : Nat → Nat → Bool → Bool) : Prop := i.wf = true →
       let ps := pieces none l
       let all := ps.flatMap (·.2.2)
       OverflowStops s i 2 info l ∧
       (s.resolveOvf h true info l = .ok ps → (∀ p ∈ ps, Uncached s p.2.2 ∧ WritesAlone s h p.1 p.2.2) →
         (all.map fun y => match y with | .ok x _ => lineSector x.line | _ => 0).Nodup → Completes i s (StoredAs s · all f))
     h ≠ 0 → hHome h = s.pkg →
     (4096 + 64 * c.tk.carve ≤ n →
       load (.sld d o) n [(64 * n, 64)] (fun l => .x d (BitVec.ofNat 64 (bits (64 * n) 64 (l.getD 0 [])))) ∧
       store (.sst d o) n [(64 * n, 64)] (put (64 * n) 64 (s.getX d).toNat)) ∧
     (64 + c.tk.carve ≤ n →
       load (.vsld d o) (0x10000 + n) [(tag, 8), (data, 4096)] (fun l =>
         .v d (BitVec.ofNat 4096 (bits data 4096 (l.getD 1 []))) (BitVec.ofNat 4 (bits tag 8 (l.getD 0 [])))) ∧
       store (.vsst d o) (0x10000 + n) [(tag, 8), (data, 4096)] fun k j old =>
         if k = 0 then put tag 8 (s.getV d).tag.toNat 0 j old else put data 4096 (s.getV d).data.toNat (k - 1) j old))

/-! ### The wavelet engine (R133, R140, R141, R144..R151) -/

/-- A wavelet command starts (R141): it holds the engine with its sizes and the formats and thresholds in force, its rows are written at
cycle T, and nothing else changes. -/
def WaveStarts (s t : State) (kind : WKind) (src dst n L k : Nat) (pres : BitVec 128) (bias : Row) (T : Nat) : Prop :=
  t = { s with
    core := { s.core with wave := some { kind, s := s.cycle, T := s.cycle + T, src, dst, n, L, k, pres, vfmt := s.core.arch.vfmt, wth := s.core.arch.wth, bias } }
    agenda := agendaPut s.agenda ((s.cycle + T) * 16 + ptWave) (.waveletCommandWrite s.core.id) }

/-- wfwd and wst (R144, R146, R147) on n rows inside the window, with room for the n + 1 rows of the tile; winv, wexp, wst.c and wbias
(R144, R147..R150) on a valid tile inside the window, with the sizes of its header. The times are those of R141. -/
def Obligations.WaveletStarts : Prop :=
  (∀ (s : State) (L : BitVec 8), s.core.isSys = false →
     let n := (s.core.arch.stg.toList.getD 50 0).toNat
     let src := (s.core.arch.stg.toList.getD 48 0).toNat / 512
     let dst := (s.core.arch.stg.toList.getD 49 0).toNat / 512
     let sum := ((List.range L.toNat).map fun l => n / 2 ^ (l + 1)).sum
     (Instr.wfwd L).wf = true → (Instr.wst L).wf = true → 1 ≤ L.toNat → L.toNat ≤ 7 → tileOk n L.toNat = true →
     s.ef.isFp = true → 16 ≤ s.ef.width → src + n ≤ s.core.tk.rows → dst + (n + 1) ≤ s.core.tk.rows →
     Completes (.wfwd L) s (WaveStarts s · .wfwd src dst n L.toNat n 0 {} (6 + sum)) ∧
     Completes (.wst L) s (WaveStarts s · .wst src dst n L.toNat n 0 {} (8 + sum))) ∧
  (∀ (s : State), s.core.isSys = false →
     let src := (s.core.arch.stg.toList.getD 48 0).toNat / 512
     let dst := (s.core.arch.stg.toList.getD 49 0).toNat / 512
     let rows := s.core.tk.rows
     let tile (row : Nat) : Prop := row < rows ∧ hdrValid (windowRow s row) = true
     s.ef.isFp = true → 16 ≤ s.ef.width →
     (tile src →
       let h := (windowRow s src).data
       let n := hdrNpos h
       let k := hdrCnt h
       let L := hdrLev h
       let sum := ((List.range L).map fun l => n / 2 ^ (l + 1)).sum
       src + 1 + k ≤ rows →
       (dst + n ≤ rows → Completes .winv s (WaveStarts s · .winv src dst n L k (hdrPres h) {} (6 + sum))) ∧
       (dst + (n + 1) ≤ rows → Completes .wexp s (WaveStarts s · .wexp src dst n L k (hdrPres h) {} (6 + n / 2))) ∧
       (dst + (k + 1) ≤ rows → Completes .wstC s (WaveStarts s · .wstc src dst n L k (hdrPres h) {} (8 + (k + 1) / 2)))) ∧
     (tile dst → src < rows → (windowRow s src).tag = tagC →
       let h := (windowRow s dst).data
       let a := hdrNpos h / 2 ^ hdrLev h
       dst + 1 + a ≤ rows →
       Completes .wbias s (WaveStarts s · .wbias src dst (hdrNpos h) (hdrLev h) (hdrCnt h) (hdrPres h) (windowRow s src) (4 + a))))

/-- A variable-latency scalar (R33, R36): the register empties, earlier results for it are dropped, and its value arrives in the given
cycle; nothing else changes. -/
def ArrivesX (s t : State) (d : XReg) (v : Word) (due : Nat) : Prop :=
  t = { s with
    core := { s.core with
      arch := s.core.arch.markX d (d = 0), pend := s.core.pend.filter fun p => !p.hitsX d, varOut := s.core.varOut + 1
      valueLog := (s.core.logIssue d.toNat s.cycle).valueLog }
    agenda := agendaPut s.agenda (due * 16 + ptLand) (.valueArrives s.core.id (.x d v)) }

/-- The half-sum and half-difference of two elements, exact values rounded once each (R132). -/
def halfSum (w : WCmd) (x y : Nat) : Nat × FlagSet :=
  let v := (w.ff.read w.rm.ftz x).add (w.ff.read w.rm.ftz y)
  w.ff.finish w.rm (v.1.half, v.2)
def halfDiff (w : WCmd) (x y : Nat) : Nat × FlagSet :=
  let v := (w.ff.read w.rm.ftz x).add (w.ff.read w.rm.ftz y).neg
  w.ff.finish w.rm (v.1.half, v.2)

/-- The forward transform of R132 on rows x, element by element: coefficient row j is `c j`, and fl is the OR over its roundings. -/
def Forward (w : WCmd) (x c : Nat → Nat → Nat) (fl : FlagSet) : Prop :=
  let m (l : Nat) : Nat := w.n / 2 ^ l
  let E := 4096 / w.ff.width
  ∃ cur : Nat → Nat → Nat → Nat,
    (∀ i e, i < w.n → e < E → cur 0 i e = x i e) ∧
    (∀ l i e, l < w.L → i < m (l + 1) → e < E →
      cur (l + 1) i e = (halfSum w (cur l (2 * i) e) (cur l (2 * i + 1) e)).1 ∧
      c (m (l + 1) + i) e = (halfDiff w (cur l (2 * i) e) (cur l (2 * i + 1) e)).1) ∧
    (∀ i e, i < m w.L → e < E → c i e = cur w.L i e) ∧
    ∀ b, b < 7 → (fl.getLsbD b = true ↔ ∃ l i e, l < w.L ∧ i < m (l + 1) ∧ e < E ∧
      ((halfSum w (cur l (2 * i) e) (cur l (2 * i + 1) e)).2 ||| (halfDiff w (cur l (2 * i) e) (cur l (2 * i + 1) e)).2).getLsbD b = true)

/-- The inverse transform of R132: `out` from coefficients c, an absent detail being +0. -/
def Inverse (w : WCmd) (c : Nat → Nat → Nat) (present : Nat → Bool) (out : Nat → Nat → Nat) (fl : FlagSet) : Prop :=
  let m (l : Nat) : Nat := w.n / 2 ^ l
  let E := 4096 / w.ff.width
  ∃ cur : Nat → Nat → Nat → Nat,
    let sum (l i e : Nat) : Nat × FlagSet := w.ff.add w.rm (cur (l + 1) i e) (if present (m (l + 1) + i) then c (m (l + 1) + i) e else 0)
    let diff (l i e : Nat) : Nat × FlagSet := w.ff.sub w.rm (cur (l + 1) i e) (if present (m (l + 1) + i) then c (m (l + 1) + i) e else 0)
    (∀ i e, i < m w.L → e < E → cur w.L i e = c i e) ∧
    (∀ l i e, l < w.L → i < m (l + 1) → e < E → cur l (2 * i) e = (sum l i e).1 ∧ cur l (2 * i + 1) e = (diff l i e).1) ∧
    (∀ i e, i < w.n → e < E → out i e = cur 0 i e) ∧
    ∀ b, b < 7 → (fl.getLsbD b = true ↔ ∃ l i e, l < w.L ∧ i < m (l + 1) ∧ e < E ∧ ((sum l i e).2 ||| (diff l i e).2).getLsbD b = true)

/-- A detail row is dropped when every element's magnitude is below the threshold, as real numbers (R136): no NaN and no infinity is. -/
def Drops (w : WCmd) (thr : Nat) (row : Nat → Nat) : Prop :=
  ∀ e, e < 4096 / w.ff.width → ∃ s m x, w.ff.decode (row e) = .fin s m x ∧
    (FF.f32.decode thr = .inf false ∨
      ∃ n y, FF.f32.decode thr = .fin false n y ∧ m * 2 ^ (x - min x y).toNat < n * 2 ^ (y - min x y).toNat)

/-- Which coefficient rows R136 keeps: approximations always, a detail of level l unless WTHl drops it (R134, R136). -/
def Keeps (w : WCmd) (c : Nat → Nat → Nat) (keep : Nat → Bool) : Prop :=
  (∀ j, j < w.n / 2 ^ w.L → keep j = true) ∧
  ∀ l j, 1 ≤ l → l ≤ w.L → w.n / 2 ^ l ≤ j → j < w.n / 2 ^ (l - 1) → (keep j = false ↔ Drops w (vget w.wth l 0).toNat (c j))

/-- How many of the first i rows are kept. -/
def rank (keep : Nat → Bool) (i : Nat) : Nat := ((List.range i).filter keep).length

/-- A tile as it stands stored (R137, R145): the header row with its fields, then the kept rows in order of their index; nothing else. -/
def StoresTile (w : WCmd) (c : Nat → Nat → Nat) (keep : Nat → Bool) (good : Bool) : Prop :=
  let rows := w.result.1
  rows.length = rank keep w.n + 1 ∧
  (∃ h : Row, (w.dst, h) ∈ rows ∧ h.tag = tagX ∧ hdrTag h.data = (if good then 1 + w.L else 15) ∧ hdrLev h.data = w.L ∧
    hdrCnt h.data = rank keep w.n ∧ hdrNpos h.data = w.n ∧ (∀ j, j < 128 → (hdrPres h.data).getLsbD j = (decide (j < w.n) && keep j)) ∧
    ∀ j, j < 4096 → (32 ≤ j ∧ j < 128) ∨ 256 ≤ j → h.data.getLsbD j = false) ∧
  ∀ i, i < w.n → keep i = true → ∃ r : Row, (w.dst + 1 + rank keep i, r) ∈ rows ∧
    r.tag = (if good then BitVec.ofNat 4 (1 + w.L) else tagX) ∧
    ∀ e, e < 4096 / w.ff.width → elem w.ff.width r.data e = c i e % 2 ^ w.ff.width

/-- wcnt (R151), and the row writes of a command at T (R133, R141): its rows are in the window as the command computes them, every other
row is as before and the engine is free; its flags stand in FLAGS from the start of cycle T. What it computes from the rows it has read:
the forward transform of wfwd and wst (R146, R147), the rows that wst.c keeps (R147), the reconstruction of winv (R148), the expansion of
wexp (R149), and the sums of wbias (R150); source rows of a wrong tag spoil the tile (R145). That winv leaves -0 in an odd row of an
approximation -0 with an absent detail is the model's choice (notes/assumptions/52.md). -/
def Obligations.WaveletResults : Prop :=
  (∀ (s : State) (a d : XReg), s.core.isSys = false → (Instr.wcnt a d).wf = true →
    let n := (s.getX a).toNat / 512
    (n < s.core.tk.rows → Completes (.wcnt a d) s fun t =>
      ArrivesX s t d (BitVec.ofNat 64 ((windowRow s n).data.toNat % 2 ^ 32)) (s.cycle + 3)) ∧
    (s.core.tk.rows ≤ n → exec (.wcnt a d) s = .next (s.fault 0x0A 0 (BitVec.ofNat 64 n)))) ∧
  (∀ (s : State) (k : Nat) (w : WCmd), (s.coreOf k).wave = some w → (s.coreOf k).id = k →
    ((w.result.1.map (·.1)).Nodup) →
    Completes (.waveletCommandWrite k) s fun t =>
      t = s.putCore (t.coreOf k) ∧
      (t.coreOf k).wave = none ∧ (t.coreOf k).arch = (s.coreOf k).arch ∧
      (∀ r ∈ w.result.1, (t.coreOf k).physRow ((s.coreOf k).tk.base + r.1) = r.2) ∧
      (∀ p, (∀ r ∈ w.result.1, p ≠ (s.coreOf k).tk.base + r.1) → (t.coreOf k).physRow p = (s.coreOf k).physRow p)) ∧
  (∀ (c : Core) (w : WCmd) (n : Nat), c.wave = some w → w.stop = none →
    c.waveFlags n = if w.T = n then { c with arch := { c.arch with flags := c.arch.flags ||| w.result.2 } } else c) ∧
  (∀ (w : WCmd), tileOk w.n w.L = true →
    let at_ (j e : Nat) : Nat := elem w.ff.width (w.row j).data e
    let hl : Tag := BitVec.ofNat 4 (1 + w.L)
    let spatial : Bool := decide (∀ j, j < w.n → (w.row j).tag = tagS ∨ (w.row j).tag = tagC)
    let stored : Bool := decide (∀ j, j < w.k → (w.row j).tag = hl)
    let pres (j : Nat) : Bool := w.pres.getLsbD j
    let coef (i e : Nat) : Nat := if pres i then at_ (rank pres i) e else 0
    (w.kind = .wfwd → ∃ c, Forward w at_ c w.result.2 ∧ StoresTile w c (fun _ => true) spatial) ∧
    (w.kind = .wst → ∃ c keep, Forward w at_ c w.result.2 ∧ Keeps w c keep ∧ StoresTile w c keep spatial) ∧
    (w.k = rank pres w.n →
      (w.kind = .wstc → ∃ keep, Keeps w coef keep ∧ StoresTile w coef (fun j => keep j && pres j) stored ∧ w.result.2 = 0) ∧
      (w.kind = .wexp → StoresTile w coef (fun _ => true) stored ∧ w.result.2 = 0) ∧
      (w.kind = .winv → ∃ out, Inverse w coef pres out w.result.2 ∧ w.result.1.length = w.n ∧ ∀ i, i < w.n → ∃ r : Row,
        (w.dst + i, r) ∈ w.result.1 ∧ r.tag = (if stored then tagS else tagX) ∧
        ∀ e, e < 4096 / w.ff.width → elem w.ff.width r.data e = out i e % 2 ^ w.ff.width)) ∧
    (w.kind = .wbias → w.result.1.length = w.n / 2 ^ w.L ∧
      (∀ b, b < 7 → (w.result.2.getLsbD b = true ↔ ∃ j e, j < w.n / 2 ^ w.L ∧ e < 4096 / w.ff.width ∧
        (w.ff.add w.rm (at_ j e) (elem w.ff.width w.bias.data e)).2.getLsbD b = true)) ∧
      ∀ j, j < w.n / 2 ^ w.L → ∃ r : Row, (w.dst + 1 + j, r) ∈ w.result.1 ∧
        r.tag = (if (w.row j).tag = hl then hl else tagX) ∧
        ∀ e, e < 4096 / w.ff.width → elem w.ff.width r.data e =
          (w.ff.add w.rm (at_ j e) (elem w.ff.width w.bias.data e)).1 % 2 ^ w.ff.width))

/-! ### The matrix engine (R154..R170) -/

/-- A matrix command joins those in flight (R162) and its final rows are due one a cycle from `first`; nothing else changes. -/
def CommandJoins (s t : State) (m : MCmd) (first rows : Nat) : Prop :=
  t = { s with core := { s.core with mcmds := s.core.mcmds ++ [m], seq := s.core.seq + 1 }, agenda := t.agenda } ∧
  (∀ e, e ∈ t.agenda ↔ e ∈ s.agenda ∨ ∃ k, k < rows ∧ e = ((first + k) * 16 + ptPush, .resultRowPush s.core.id m.seq k))

/-- A weight load starts (R156, R157, R167, R168): its slot is LOADING with the format and granules that it needs, and the load completes
in the given cycle, that of a load it replaces no more; nothing else changes but free values drawn, and what is learnt of an object homed
elsewhere. -/
def LoadStarts (s t : State) (w : WLoad) (done : Nat) : Prop :=
  t = { s with
    core := { s.core with
      arch := { s.core.arch with slots := t.core.arch.slots }
      wloads := s.core.wloads.filter (fun o => o.slot ≠ w.slot) ++ [w], seq := s.core.seq + 1 }
    agenda := agendaPut (s.agenda.filter fun e => e.2 ≠ .weightLoadComplete s.core.id w.slot) (done * 16 + ptPush)
      (.weightLoadComplete s.core.id w.slot)
    fresh := t.fresh, far := t.far } ∧
  (t.core.slot w.slot).state = .loading ∧ (t.core.slot w.slot).bfmt.toNat = mfBf w.mfmt ∧ (t.core.slot w.slot).gran = w.rows ∧
  ∀ j, j < 64 → j ≠ w.slot → t.core.slot j = s.core.slot j

/-- mzero and mdrain (R161, R166) on the span that mx.7 names, inside the bank: mzero clears it, mdrain pushes row k at issue + 3 + k.
mwld and mwstr (R157, R167, R168): with granules enough, an image of 64 or 68 rows is read from the window one row a cycle, or from the
object that mx.2 to mx.4 name after a time that is free. -/
def Obligations.MatrixCommands : Prop :=
  (∀ (s : State) (b q : BitVec 2), s.core.isSys = false → s.core.merr = none →
     let x := (s.core.arch.stg.toList.getD 39 0).toNat
     let row := x % 256
     let n := x / 256 % 128 + 1
     x < 2 ^ 15 → row + n ≤ 256 →
     Completes (.mzero b) s (CommandJoins s ·
       { seq := s.core.seq, kind := .zero, start := s.cycle, mrows := n, bank := b.toNat, accRow := row, push := none, sigma := 0,
         left := 1 } 0 0) ∧
     Completes (.mdrain b q) s (CommandJoins s ·
       { seq := s.core.seq, kind := .drain, start := s.cycle, mrows := n, bank := b.toNat, accRow := row, push := some q, sigma := 0,
         left := n } (s.cycle + 3) n)) ∧
  (∀ (s : State) (sl : XReg), s.core.isSys = false → s.core.merr = none →
     let mf := s.core.arch.mfmt
     let rows := if mfBf mf = 4 ∨ mfBf mf = 5 then 68 else 64
     let src := (s.core.arch.stg.toList.getD 38 0).toNat / 512
     let h := s.core.arch.stg.toList.getD 34 0
     mfBf mf ≤ 6 → rows ≤ s.core.granFree + (s.core.slot sl.toNat).gran →
     ((Instr.mwld sl).wf = true → src + rows ≤ s.core.tk.rows → Completes (.mwld sl) s (LoadStarts s ·
       { seq := s.core.seq, slot := sl.toNat, issue := s.cycle, stream := false, src, rows, mfmt := mf } (s.cycle + 4 + rows))) ∧
     ((Instr.mwstr sl).wf = true → Completes (.mwstr sl) s fun t => ∃ done, s.cycle < done ∧ LoadStarts s t
       { seq := s.core.seq, slot := sl.toNat, issue := s.cycle, stream := true, rows, hnd := h,
         n0 := (s.core.arch.stg.toList.getD 35 0).toNat, k0 := (s.core.arch.stg.toList.getD 36 0).toNat, mfmt := mf,
         ver := s.core.pinOf h } done))

/-- The exact sum of 32 products, rounded once to FP32 (R82, R83): NaN where a product is NaN or infinities of both signs meet, an
infinity of one sign, else the sum at any exponent E that no product's exceeds, a zero being -0 where every product is. -/
def GroupSum (p : Nat → FV) (w : Nat) : Prop :=
  let has (v : FV) : Prop := ∃ k, k < 32 ∧ p k = v
  (has .nan ∨ (has (.inf true) ∧ has (.inf false)) → w = FF.f32.canon) ∧
  (∀ s, has (.inf s) → ¬ has .nan → ¬ has (.inf (!s)) → w = FF.f32.signBit s + FF.f32.inf) ∧
  ∀ (s : Nat → Bool) (m : Nat → Nat) (e : Nat → Int) (E : Int), (∀ k, k < 32 → p k = .fin (s k) (m k) (e k) ∧ E ≤ e k) →
    let S : Int := ((List.range 32).map fun k => (if s k then -1 else 1) * (m k * 2 ^ (e k - E).toNat : Int)).sum
    (S ≠ 0 → w = (FF.f32.round {} (decide (S < 0)) S.natAbs E false).1) ∧
    (S = 0 → w = FF.f32.signBit ((List.range 32).all fun k => s k && decide (m k = 0)))

/-- What a pass leaves in one element of an accumulator row (R82, R84): with an FP32 accumulator the rounded sums of its groups of 32
products are added one by one in increasing K, each addition rounded to nearest even; with an INT32 one the exact sum modulo 2^32. -/
def Accumulates (m : Word) (cls : WClass) (slot : WSlot) (row : Vec) (n old new : Nat) : Prop :=
  (cls.isInt = true → (new : Int) =
    ((old : Int) + ((List.range cls.depth).map fun k => (aInts m cls row).getD k 0 * bInt m cls slot k n).sum) % 2 ^ 32) ∧
  (cls.isInt = false → ∃ acc sum : Nat → Nat, acc 0 = old ∧ new = acc (cls.depth / 32) ∧ ∀ g, g < cls.depth / 32 →
    GroupSum (fun k => (((aValues m cls row).getD (32 * g + k) .nan).mul (bValue m cls slot (32 * g + k) n)).1) (sum g) ∧
    acc (g + 1) = (FF.f32.add {} (acc g) (sum g)).1)

/-- mmul (R161, R163, R164): with a legal format pair, every named slot loading or ready in MFMT's B format, the accumulator span and
every A row inside, and under .c a valid tile header that gives M and the tag: the command multiplies the passes' rows from its issue on,
and row k is final at issue + 20 + 128 × (P − 1) + k. mtile (R169): the multiplication joins the commands in flight with its passes, its
sequencer stands at pass 0 two cycles later, and the first weight tile is asked for. Row k of pass p enters the array in its cycle (R163,
R165, R169): its accumulator row takes the sums of the row with the pass's weight slot and the tag of R155, from zero at the first pass
under z, and is the command's result after the last pass; no other accumulator row changes. -/
def Obligations.MatrixMultiply : Prop :=
  (∀ (s : State) (b q : BitVec 2) (c p z : Bool) (sl : XReg),
     let mf := s.core.arch.mfmt
     let x := (s.core.arch.stg.toList.getD 33 0)
     let base := (s.core.arch.stg.toList.getD 32 0).toNat / 512
     let passes := x.toNat / 2 ^ 8 % 16 + 1
     let stride := x.toNat / 2 ^ 16 % 2 ^ 16
     let acc := x.toNat / 2 ^ 40 % 256
     let m := if c then hdrCnt (windowRow s base).data else x.toNat % 128 + 1
     let a := if c then base + 1 else base
     s.core.isSys = false → (Instr.mmul b q c p z sl).wf = true → s.core.merr = none → mxReserved x = false →
     (pairOf mf).isSome = true → (c = true → mfAf mf ≤ 1) →
     (∀ j, j < passes → let w := s.core.slot (sl.toNat + j)
       w.state = .loading ∨ (w.state = .ready ∧ w.bfmt.toNat = mfBf mf)) →
     (c = true → base < s.core.tk.rows ∧ hdrValid (windowRow s base) = true) → acc + m ≤ 256 →
     (∀ j, j < passes → a + j * stride + m ≤ s.core.tk.rows) →
     Completes (.mmul b q c p z sl) s fun t => CommandJoins s t
       { seq := s.core.seq, kind := .mul, start := s.cycle, abase := base, stride, mrows := m, passes, bank := b.toNat, accRow := acc,
         slot := sl.toNat, z, push := if p then some q else none, coef := c,
         htag := if c then BitVec.ofNat 4 (hdrTag (windowRow s base).data) else 0, mfmt := mf,
         addr := BitVec.ofNat 64 (addrOf (s.core.gstart + s.core.wpos)), sigma := 0, left := m }
       (s.cycle + 20 + 128 * (passes - 1)) m) ∧
  (∀ (s : State) (b q : BitVec 2) (c p z : Bool) (sl : XReg),
     let mf := s.core.arch.mfmt
     let x := (s.core.arch.stg.toList.getD 33 0)
     let x5 := (s.core.arch.stg.toList.getD 37 0).toNat
     let base := (s.core.arch.stg.toList.getD 32 0).toNat / 512
     let stride := x.toNat / 2 ^ 16 % 2 ^ 16
     let acc := x.toNat / 2 ^ 40 % 256
     let m := if c then hdrCnt (windowRow s base).data else x.toNat % 128 + 1
     let a := if c then base + 1 else base
     s.core.isSys = false → (Instr.mtile b q c p z sl).wf = true → s.core.merr = none → mxReserved x = false →
     x.toNat / 2 ^ 8 % 16 = 0 → x5 < 2 ^ 16 → (pairOf mf).isSome = true → (c = true → mfAf mf ≤ 1) →
     (c = true → base < s.core.tk.rows ∧ hdrValid (windowRow s base) = true) → acc + m ≤ 256 →
     (∀ j, j ≤ x5 → a + j * stride + m ≤ s.core.tk.rows) →
     imageRows (mfBf mf) ≤ s.core.granFree + (s.core.slot sl.toNat).gran →
     Completes (.mtile b q c p z sl) s fun t =>
       (∃ cmd, t.core.mcmds = s.core.mcmds ++ [cmd] ∧ cmd.kind = .mul ∧ cmd.tile = true ∧ cmd.start = s.cycle ∧ cmd.abase = base ∧
         cmd.stride = stride ∧ cmd.mrows = m ∧ cmd.passes = x5 + 1 ∧ cmd.bank = b.toNat ∧ cmd.accRow = acc ∧ cmd.slot = sl.toNat ∧
         cmd.z = z ∧ cmd.push = (if p then some q else none) ∧ cmd.coef = c ∧ cmd.left = m) ∧
       (∃ q', t.core.mtile = some q' ∧ q'.next = 0 ∧ q'.total = x5 + 1 ∧ q'.sigma = s.cycle + 2) ∧
       (t.core.slot sl.toNat).state = .loading ∧
       (∃ done, s.cycle < done ∧
         t.agenda = agendaPut (s.agenda.filter fun e => e.2 ≠ .weightLoadComplete s.core.id sl.toNat) (done * 16 + ptPush)
           (.weightLoadComplete s.core.id sl.toNat)) ∧
       t = { s with
         core := { s.core with
           arch := { s.core.arch with slots := t.core.arch.slots }, mcmds := t.core.mcmds, mtile := t.core.mtile,
           wloads := t.core.wloads, seq := t.core.seq }
         agenda := t.agenda, fresh := t.fresh, far := t.far }) ∧
  (∀ (c : Core) (m : MCmd) (cls : WClass) (cyc p k : Nat), c.mcmds = [m] → m.kind = .mul → m.left ≠ 0 → pairOf m.mfmt = some cls →
     p < m.passes → k < m.mrows → m.mrows ≤ 128 →
     (m.tile = false → cyc = m.start + 2 + 128 * p + k) → (m.tile = true → 0 < m.sigma ∧ m.pass = p ∧ cyc = m.sigma + k) →
     let key := m.bank * 256 + (m.accRow + k)
     let a := c.row (m.abase + (if m.coef then 1 else 0) + p * m.stride + k)
     let slot := c.slot (m.slot + if m.tile then p % 2 else p)
     let old := if p = 0 ∧ m.z = true then none else mget c.arch.acc key
     let d := c.matrixTick cyc
     (∀ j, j ≠ key → mget d.arch.acc j = mget c.arch.acc j) ∧ d.rows = c.rows ∧ { d.arch with acc := c.arch.acc } = c.arch ∧
     ∃ r, mget d.arch.acc key = some r ∧
       (∀ n, n < 128 → Accumulates m.mfmt cls slot a.data n (old.elim 0 fun o => elem 32 o.data n) (elem 32 r.data n)) ∧
       (let bad : Prop := Tag.isX a.tag = true ∨ (Tag.isH a.tag = true ∧ ¬ (m.coef = true ∧ a.tag = m.htag))
        (bad → r.tag = tagX) ∧ (¬ bad → (old = none → r.tag = a.tag) ∧ ∀ o, old = some o → r.tag = if o.tag = a.tag then a.tag else tagX)) ∧
       ∃ m', d.mcmds = [m'] ∧ m' = { m with flags := m'.flags, outs := m'.outs } ∧
         m'.outs = (if p + 1 = m.passes then m.outs ++ [(k, r)] else m.outs))

/-- mstat, which answers at issue + 2 or once the commands before it have completed (R170), and the matrix engine's own steps: rows pushed
to a queue or held before it (R158, R159), the rows that mzero clears and mdrain pushes (R166), held rows that enter, weight loads that
complete (R156, R168), and the passes of mtile, each of which asks for the next one's weights (R169). That a final row without a push
waits while another is held is the model's choice (notes/assumptions/52.md). -/
def Obligations.MatrixStatusAndEvents : Prop :=
  (∀ (s : State) (d : XReg) (sel : BitVec 8) (v : Word), s.core.isSys = false → s.core.merr = none →
     s.core.mstatValue sel.toNat = some v →
     ((Instr.mstat false d sel).wf = true → Completes (.mstat false d sel) s fun t => ArrivesX s t d v (s.cycle + 2)) ∧
     ((Instr.mstat true d sel).wf = true → Completes (.mstat true d sel) s fun t => t = { s with core := { s.core with
       arch := s.core.arch.markX d (d = 0), pend := s.core.pend.filter (fun p => !p.hitsX d), varOut := s.core.varOut + 1
       valueLog := (s.core.logIssue d.toNat s.cycle).valueLog
       mwaits := s.core.mwaits ++ [(d, sel.toNat, s.core.seq)] } })) ∧
  (∀ (s : State) (k seq j : Nat) (q : BitVec 2), (s.coreOf k).id = k →
     let c := s.coreOf k
     (∀ m, c.mcmds.find? (fun m => m.seq = seq) = some m → m.kind = .mul → m.push = some q → c.held = false →
       (c.arch.rq.toList.getD q.toNat []).length < 64 →
       Completes (.resultRowPush k seq j) s fun t => t = s.putCore { c with
         arch := { c.arch with
           flags := c.arch.flags ||| (mget m.flags j).getD 0
           rq := c.arch.rq.setIfInBounds q.toNat (c.arch.rq.toList.getD q.toNat [] ++ [(mget m.outs j).getD {}]) }
         mcmds := c.mcmds.map fun n => if n.seq = m.seq then { n with left := n.left - 1 } else n }) ∧
     (∀ m, c.mcmds.find? (fun m => m.seq = seq) = some m → m.kind = .drain → m.push = some q → m.flags = [] → c.held = false →
       (c.arch.rq.toList.getD q.toNat []).length < 64 →
       Completes (.resultRowPush k seq j) s fun t => t = s.putCore { c with
         arch := { c.arch with
           rq := c.arch.rq.setIfInBounds q.toNat
             (c.arch.rq.toList.getD q.toNat [] ++ [(mget c.arch.acc (m.bank * 256 + (m.accRow + j))).getD ⟨0, tagC⟩]) }
         mcmds := c.mcmds.map fun n => if n.seq = m.seq then { n with left := n.left - 1 } else n }) ∧
     (∀ m cyc, c.mcmds = [m] → m.kind = .zero → m.start + 1 ≤ cyc → (c.matrixTick cyc).mcmds = [] ∧ ∀ e,
       mget (c.matrixTick cyc).arch.acc e =
         if m.bank * 256 + m.accRow ≤ e ∧ e < m.bank * 256 + m.accRow + m.mrows then none else mget c.arch.acc e) ∧
     (∀ r, c.arch.hold.toList.getD q.toNat none = some r → (c.arch.rq.toList.getD q.toNat []).length < 64 →
       c.ovf = none → c.state ≠ .halted → Completes (.heldRowEntersQueue k q) s fun t =>
         (t.coreOf k).arch.rq = c.arch.rq.setIfInBounds q.toNat (c.arch.rq.toList.getD q.toNat [] ++ [r]) ∧
         (t.coreOf k).arch.hold = c.arch.hold.setIfInBounds q.toNat none ∧ (t.coreOf k).pushHeld = [] ∧
         t = { s.putCore (t.coreOf k) with agenda := t.agenda }) ∧
     (∀ w, c.wloads.find? (fun w => w.slot = j) = some w → w.stream = false → c.mtile = none → j < 64 →
       Completes (.weightLoadComplete k j) s fun t =>
         (t.coreOf k).wloads = c.wloads.filter (fun o => o.slot ≠ j) ∧ ((t.coreOf k).slot j).state = .ready ∧
         ((t.coreOf k).slot j).image = w.got.filter (fun r => r.2 ≠ 0) ∧
         ((t.coreOf k).slot j).gran = (w.got.filter fun r => r.2 ≠ 0).length ∧ t = s.putCore (t.coreOf k)) ∧
     (∀ x, c.mtile = some x → x.sigma ≤ s.cycle → c.state = .running → (c.slot (x.slot + x.next % 2)).state = .ready →
       x.next + 1 = x.total →
       Completes (.mtilePassStart k) s fun t => (t.coreOf k).mtile = none ∧
         (t.coreOf k).mcmds = c.mcmds.map (fun m => if m.seq = x.seq then { m with pass := x.next, sigma := s.cycle } else m) ∧
         ∀ m, c.mcmds.find? (fun m => m.seq = x.seq) = some m → ∀ i, i < m.mrows →
           ((s.cycle + 18 + i) * 16 + ptPush, Instr.resultRowPush k x.seq i) ∈ t.agenda) ∧
     (∀ x cls, c.mtile = some x → x.sigma ≤ s.cycle → c.state = .running → (c.slot (x.slot + x.next % 2)).state = .ready →
       x.next + 1 < x.total → classB x.mfmt = some cls → c.granShort ((x.slot + (x.next + 1) % 2) % 64) (imageRows (mfBf x.mfmt)) = false →
       let n := (x.slot + (x.next + 1) % 2) % 64
       Completes (.mtilePassStart k) s fun t =>
         (t.coreOf k).mtile = some { x with next := x.next + 1, sigma := s.cycle + 128 } ∧
         (t.coreOf k).mcmds = c.mcmds.map (fun m => if m.seq = x.seq then { m with pass := x.next, sigma := s.cycle } else m) ∧
         ((t.coreOf k).slot n).state = .loading ∧
         (∃ w ∈ (t.coreOf k).wloads, w.slot = n ∧ w.stream = true ∧ w.hnd = x.hnd ∧ w.n0 = x.n0 ∧
           w.k0 = x.k0 + (x.next + 1) * (2048 / cls.w) ∧ w.mfmt = x.mfmt ∧ w.rows = imageRows (mfBf x.mfmt)) ∧
         ((s.cycle + 128) * 16 + ptPush, Instr.mtilePassStart k) ∈ t.agenda ∧
         (∃ due, s.cycle < due ∧ (due * 16 + ptPush, Instr.weightLoadComplete k n) ∈ t.agenda) ∧
         (t.coreOf k).rows = c.rows ∧ t.mem = s.mem) ∧
     (∀ x, c.mtile = some x → x.sigma ≤ s.cycle → c.state ≠ .stopping → (c.slot (x.slot + x.next % 2)).state = .failed →
       Completes (.mtilePassStart k) s fun t => let w := c.slot (x.slot + x.next % 2)
         t = s.putCore { c with mtile := none, mcmds := c.mcmds.filter (fun m => m.seq ≠ x.seq), merr := some ⟨w.cause, w.hnd, w.aux⟩ }))

/-! ### Handle memory (R192..R200) -/

/-- hld and hlds (R195) on an object of this package whose access resolves: the value read is on its way. From the L1 it comes 9 cycles
after issue and nothing else changes; from stored bytes that no cache holds, nothing but the meters' reports and the time drawn. That the
value is the one memory holds in the step of the word is the model's choice (notes/assumptions/5.md). -/
def Obligations.HandleLoads : Prop :=
  ∀ (s : State) (h i : XReg) (e : Bool) (t : Target), s.core.isSys = false → hHome (s.getX h) = s.pkg →
    let bits (n : Nat) : Nat := n / 2 ^ (t.bit % 512) % 2 ^ t.n
    (∀ d : VCode, (Instr.hld d h i e).wf = true → s.resolve8 (s.getX h) i { need := 1, run := true } = .ok t →
      (∀ v m, ((s.askLoad s.asker (s.getX h) (s.tuple i t.d.rank) 0 (s.core.pinOf (s.getX h)) t).loadDue t.span).2.readBits s.core.id true t.span t.bit t.n = (.ok v, m) →
        Completes (.hld d h i e) s fun u => ∃ due, LoadOnItsWay s u (.v d (BitVec.ofNat 4096 v) tagS) due) ∧
      (∀ l : List (Sector × Bool × Mask), t.span = l.map (fun y => .ok y.1 y.2.1) → InL1 s l →
        Completes (.hld d h i e) s fun u => u = { s with
          core := { s.core with
            arch := s.core.arch.markV d false, pend := s.core.pend.filter (fun p => !p.hitsV d), varOut := s.core.varOut + 1
            valueLog := (s.core.logIssue (64 + d.toNat) s.cycle).valueLog }
          agenda := agendaPut s.agenda ((s.cycle + 9) * 16 + ptLand)
            (.valueArrives s.core.id (.v d (BitVec.ofNat 4096 (bits (packNat 512 (l.map fun y => y.2.2.toNat)))) tagS)) }) ∧
      (Uncached s t.span → Completes (.hld d h i e) s fun u => ∃ due,
        LoadOnItsWay s u (.v d (BitVec.ofNat 4096 (bits (storedSpan s t.span))) tagS) due ∧
        u = { s with core := u.core, agenda := u.agenda, fresh := u.fresh } ∧ u.core.rows = s.core.rows)) ∧
    (∀ d : XReg, (Instr.hlds d h i e).wf = true → s.resolve8 (s.getX h) i { need := 1 } = .ok t →
      (∀ v m, ((s.askLoad s.asker (s.getX h) (s.tuple i t.d.rank) 2 (s.core.pinOf (s.getX h)) t).loadDue t.span).2.readBits s.core.id true t.span t.bit t.n = (.ok v, m) →
        Completes (.hlds d h i e) s fun u => ∃ due, LoadOnItsWay s u (.x d (elemWord t.d.fmt t.d.w v)) due) ∧
      (∀ l : List (Sector × Bool × Mask), t.span = l.map (fun y => .ok y.1 y.2.1) → InL1 s l →
        Completes (.hlds d h i e) s fun u =>
          ArrivesX s u d (elemWord t.d.fmt t.d.w (bits (packNat 512 (l.map fun y => y.2.2.toNat)))) (s.cycle + 9)) ∧
      (Uncached s t.span → Completes (.hlds d h i e) s fun u => ∃ due,
        LoadOnItsWay s u (.x d (elemWord t.d.fmt t.d.w (bits (storedSpan s t.span)))) due ∧
        u = { s with core := u.core, agenda := u.agenda, fresh := u.fresh } ∧ u.core.rows = s.core.rows))

/-- hst and hsts (R195): the run of a vector that carries no H or X tag, or the low w bits of a scalar, are stored at the element's place
in the object. Onto stored bytes that no cache holds, every other bit of memory and every other part of the machine is unchanged. That
memory holds the store in the step of the word is the model's choice (notes/assumptions/5.md). -/
def Obligations.HandleStores : Prop :=
  ∀ (s : State) (h i : XReg) (e : Bool) (t : Target), s.core.isSys = false → hHome (s.getX h) = s.pkg →
    let put (v : Nat) (k j : Nat) (old : Bool) : Bool :=
      let at_ := 512 * (t.bit / 512 + k) + j
      if t.bit ≤ at_ ∧ at_ < t.bit + t.n then v.testBit (at_ - t.bit) else old
    (∀ d : VCode, (Instr.hst d h i e).wf = true → Tag.isH (s.getV d).tag = false → Tag.isX (s.getV d).tag = false →
      s.resolve8 (s.getX h) i { need := 2, run := true, write := true } = .ok t →
      ((∀ x ∈ t.span, ∃ y we, x = .ok y we) → Completes (.hst d h i e) s (MemoryMoves s)) ∧
      (Uncached s t.span → WritesAlone s (s.getX h) t.bit t.span →
        Completes (.hst d h i e) s (StoredAs s · t.span (put (s.getV d).data.toNat)))) ∧
    (∀ d : XReg, (Instr.hsts d h i e).wf = true →
      s.resolve8 (s.getX h) i { need := 2, write := true } = .ok t →
      ((∀ x ∈ t.span, ∃ y we, x = .ok y we) → Completes (.hsts d h i e) s (MemoryMoves s)) ∧
      (Uncached s t.span → WritesAlone s (s.getX h) t.bit t.span →
        Completes (.hsts d h i e) s (StoredAs s · t.span (put (s.getX d).toNat)))) ∧
    (∀ d : VCode, (Instr.hst d h i e).wf = true → (Tag.isH (s.getV d).tag || Tag.isX (s.getV d).tag) = true →
      i.toNat + (s.desc (s.getX h)).rank ≤ 64 →
      exec (.hst d h i e) s = .next (s.fault 0x05 (domainInfo (d.toNat, (s.getV d).tag))))

/-- The element atomics of R197 with what each leaves in an element of a width and format, from the old value, v and the new value of a
compare and swap. -/
def atomicWords : List ((XReg → XReg → XReg → Bool → Bool → Instr) × Bool × (Nat → Nat → Nat → Nat → Nat → Nat)) :=
  let sg (w v : Nat) : Int := (BitVec.ofNat w v).toInt
  let ff (fmt : Nat) : FF := if fmt = 0 then .f32 else if fmt = 1 then .f16 else .bf16
  [ (.haadd, false, fun w _ old v _ => (old + v) % 2 ^ w),
    (.hamax, false, fun w _ old v _ => if sg w old < sg w v then v else old),
    (.hamin, false, fun w _ old v _ => if sg w v < sg w old then v else old),
    (.hamaxn, false, fun _ _ old v _ => if old < v then v else old),
    (.haminn, false, fun _ _ old v _ => if v < old then v else old),
    (.haand, false, fun _ _ old v _ => old &&& v),
    (.haor, false, fun _ _ old v _ => old ||| v),
    (.haxor, false, fun _ _ old v _ => old ^^^ v),
    (.haswp, false, fun _ _ _ v _ => v),
    (.hfadd, true, fun _ fmt old v _ => ((ff fmt).add {} old v).1),
    (.hfamax, true, fun _ fmt old v _ => (ff fmt).minmax false true old v),
    (.hfamin, true, fun _ fmt old v _ => (ff fmt).minmax false false old v) ]

/-- Atomics (R197, R198): onto stored bytes that no cache holds, an element takes its new value, no other bit of memory changes, the
core's L1 copy goes (R268), and the old value is on its way unless .nr is set; a run applies its operation to every element. Elsewhere the
same happens at the place that R285 names, and only what stands below the handle unit may differ besides. That an atomic is performed in
the step of the word is the model's choice (notes/assumptions/5.md). -/
def Obligations.HandleAtomics : Prop :=
  ((∀ (s : State) (d h i : XReg) (nr e : Bool) (t : Target) (x : Sector) (we : Bool), s.core.isSys = false →
     hHome (s.getX h) = s.pkg → t.span = [.ok x we] →
     let lo := t.bit % 512
     let old := (s.plainSector x.line).toNat / 2 ^ lo % 2 ^ t.n
     let v := (s.getX d).toNat % 2 ^ t.n
     let new := (s.getX (d + 1)).toNat % 2 ^ t.n
     let does (w : Instr) (z : Nat) : Prop := w.wf = true →
       (s.sectorOk x = true → s.refusedAt s.core.id x = false → s.migrated x.line = (x.line, false) → Completes w s fun u =>
         (nr = true → MemoryMoves s u) ∧ (nr = false → ∃ was due, LoadOnItsWay s u (.x d was) due)) ∧
       (Uncached s t.span → WritesAlone s (s.getX h) t.bit t.span → Completes w s fun u => ∃ m,
         StoredAs (s.onCore fun c => { c with l1 := c.l1.filter fun l => l.line ≠ x.line }) m t.span (fun _ j b =>
           if lo ≤ j ∧ j < lo + t.n then z.testBit (j - lo) else b) ∧
         (nr = true → u = m) ∧
         (nr = false → ∃ due, s.cycle < due ∧ u = { m with
           core := { m.core with
             arch := m.core.arch.markX d (d = 0), pend := m.core.pend.filter (fun p => !p.hitsX d), varOut := m.core.varOut + 1
             valueLog := (m.core.logIssue d.toNat s.cycle).valueLog }
           agenda := agendaPut m.agenda (due * 16 + ptLand) (.valueArrives s.core.id (.x d (elemWord t.d.fmt t.n old)))
           fresh := s.fresh + 1 }))
     (∀ p ∈ atomicWords,
       s.resolve8 (s.getX h) i { need := 4, write := true, atomic := true, fpOnly := p.2.1 } = .ok t →
       does (p.1 d h i nr e) (p.2.2 t.n t.d.fmt old v 0)) ∧
     (s.resolve8 (s.getX h) i { need := 4, write := true, atomic := true } = .ok t →
       does (.hacas d h i nr e) (if old = v then new else old)))) ∧
  (∀ (s : State) (d : VCode) (h i : XReg) (e : Bool) (t : Target), s.core.isSys = false → hHome (s.getX h) = s.pkg →
     Tag.isH (s.getV d).tag = false → Tag.isX (s.getV d).tag = false →
     s.resolve8 (s.getX h) i { need := 4, run := true, write := true, atomic := true, vec := true } = .ok t →
     let w := t.d.w
     let ff : FF := if t.d.fmt = 0 then .f32 else if t.d.fmt = 1 then .f16 else .bf16
     let sg (v : Nat) : Int := (BitVec.ofNat w v).toInt
     let add (a b : Nat) : Nat := if t.d.fmt < 5 then (ff.add {} a b).1 else (a + b) % 2 ^ w
     let mx (a b : Nat) : Nat := if t.d.fmt < 5 then ff.minmax false true a b
       else if fmtSigned t.d.fmt then (if sg a < sg b then b else a) else max a b
     let put (f : Nat → Nat → Nat) (k j : Nat) (old : Bool) : Bool :=
       let at_ := 512 * (t.bit / 512 + k) + j
       let was := match t.span.getD k .missing with | .ok x _ => (s.plainSector x.line).toNat / 2 ^ (j / w * w) % 2 ^ w | _ => 0
       if t.bit ≤ at_ ∧ at_ < t.bit + 4096 then (f was (elem w (s.getV d).data ((at_ - t.bit) / w))).testBit (j % w) else old
     let does (x : Instr) (f : Nat → Nat → Nat) : Prop := x.wf = true →
       ((∀ x ∈ t.span, ∃ y we, x = .ok y we) → Completes x s (MemoryMoves s)) ∧
       (Uncached s t.span → WritesAlone s (s.getX h) t.bit t.span → Completes x s fun u => ∃ l,
         StoredAs (s.onCore fun c => { c with l1 := l }) u t.span (put f))
     does (.hvadd d h i e) add ∧ does (.hvmax d h i e) mx)

/-- The class-8 words on one object, each with what it asks of it (R194). -/
def handleWords (d : XReg) (v : VCode) (h i : XReg) (nr e : Bool) : List (Instr × Op8) :=
  [ (.hld v h i e, { need := 1, run := true }), (.hlds d h i e, { need := 1 }),
    (.hst v h i e, { need := 2, run := true, write := true }), (.hsts d h i e, { need := 2, write := true }),
    (.hacas d h i nr e, { need := 4, write := true, atomic := true }),
    (.hvadd v h i e, { need := 4, run := true, write := true, atomic := true, vec := true }),
    (.hvmax v h i e, { need := 4, run := true, write := true, atomic := true, vec := true }) ] ++
  atomicWords.map fun p => (p.1 d h i nr e, { need := 4, write := true, atomic := true, fpOnly := p.2.1 })

/-- Accesses that a handle does not allow, after a tuple past x63 (R13, R30), in the order of R189, and where they stop (R186,
R190..R202). hinfo (R200) needs a handle that names a live object on which the partition holds a grant; hpf (R196) never faults, and waits
while the die's L2 takes no requests (R272); an atomic that arrives from elsewhere (R285) is performed at its place. INFO 0 with the
handle in AUX for the domain fault of a coefficient object is the model's choice (notes/assumptions/35.md). -/
def Obligations.HandleFaultsAndQueries : Prop :=
  (∀ (s : State) (d : XReg) (v : VCode) (h i : XReg) (nr e : Bool), s.core.isSys = false →
     let H := s.getX h
     let D := s.desc H
     let cs := s.tuple i D.rank
     hHome H = s.pkg → Tag.isH (s.getV v).tag = false → Tag.isX (s.getV v).tag = false →
     (∀ p ∈ handleWords d v h i nr e, p.1.wf = true → ∀ f, s.resolve8 H i p.2 = .error f →
       exec p.1 s = .next ((match f.log with
         | some owner => s.logViolation owner (s.core.requester s.pkg .core) f.raise.cause H cs
         | none => s).takeFault f.raise |>.onCore fun c => { c with wanted := f.want })) ∧
     (∀ o : Op8,
       let stops (c : BitVec 8) (info aux : Word) (log : Option Nat) : Prop :=
         s.resolve8 H i o = .error { raise := ⟨c, info, aux⟩, log := log }
       let live : Prop := hLow H = 0 ∧ s.members.contains s.pkg = true ∧ D.state ≠ 0 ∧ D.state ≠ 3 ∧ D.gen = hGen H
       let subset (a b : Nat) : Prop := ∀ j, j < 8 → a.testBit j = true → b.testBit j = true
       let mine : Prop := s.core.tk.part = D.part
       (¬ live → stops 0x08 H 0 (some s.core.tk.part)) ∧
       (live → ¬ mine → s.grantOf (hKey H) s.core.tk.part = none → stops 0x08 H 0 (some D.part)) ∧
       (live → mine → 64 < i.toNat + D.rank → stops 0x01 s.wordInfo 0 none) ∧
       (live → mine → i.toNat + D.rank ≤ 64 → o.need < 256 → ¬ subset (hRights H) D.rights → stops 0x08 H 0 (some D.part)) ∧
       (live → mine → i.toNat + D.rank ≤ 64 → o.need < 256 → subset (hRights H) D.rights → ¬ subset o.need (hRights H) →
         stops 0x09 H 0 (some D.part)) ∧
       (live → mine → i.toNat + D.rank ≤ 64 → o.need < 256 → subset (hRights H) D.rights → subset o.need (hRights H) →
         (D.layout = 2 → stops 0x05 0 H none) ∧
         (D.layout ≠ 2 → o.atomic = true → fmtWidth D.fmt = 4 → stops 0x01 s.wordInfo 0 none) ∧
         (D.layout ≠ 2 → o.atomic = false → (∃ k, k < D.rank ∧ D.dims.getD k 0 ≤ cs.getD k 0) →
           stops 0x0A H (BitVec.ofNat 64 (D.bitOf cs / 8)) none)))) ∧
  ((∀ (s : State) (d h x : XReg) (e : Bool), s.core.isSys = false → (Instr.hinfo d h x e).wf = true →
     let H := s.getX h
     let sel := (s.getX x).toNat
     s.violation (s.core.requester s.pkg .core) H none = none → hHome H = s.pkg →
     Completes (.hinfo d h x e) s fun t => ∃ due v, s.cycle < due ∧
       (sel < 5 ∨ sel = 7 → v = (s.desc H).extractLsb' (64 * sel) 64) ∧ (sel = 6 ∨ 7 < sel → v = 0) ∧
       (sel = 5 → ∀ j, j < 64 → ¬ (4 ≤ j ∧ j < 12) → (s.desc H).shmap ≠ 0 → v.getLsbD j = (s.desc H).shmap.testBit j) ∧
       ArrivesX { s with fresh := s.fresh + 1 } t d v due) ∧
   (∀ (s : State) (h i : XReg) (e : Bool), s.core.isSys = false → (Instr.hpf h i e).wf = true →
     (∀ f, s.resolve8 (s.getX h) i { need := 1, run := true } = .error f → exec (.hpf h i e) s = .next s) ∧
     (s.l2Holds s.core.id = false → Completes (.hpf h i e) s (MemoryMoves s)) ∧
     (s.l2Holds s.core.id = true → Completes (.hpf h i e) s fun t =>
       (∃ more, t.pfHeld = s.pfHeld ++ more) ∧ t = { s with pfHeld := t.pfHeld })) ∧
   (∀ (s : State) (q : AtomicReq), s.core.isSys = false →
     let x : Sector := ⟨q.addr / 64 * 64, q.home, false⟩
     s.sectorOk x = true → s.refusedAt q.core x = false → s.migrated x.line = (x.line, false) →
     (q.ret = false → Completes (.atomicPerformed q) s (MemoryMoves s)) ∧
     (q.ret = true → Completes (.atomicPerformed q) s fun t => ∃ m was, MemoryMoves s m ∧
       t = m.sched (s.cycle + 1) ptLand (.valueArrives q.core (.x q.dest was)))))

/-! ### Fetch and copy channels, streams (R222..R245) -/

/-- A channel command enters its queue (R222) with the staging registers and pins as they stand at its issue (R39, R218), and starts in a
later cycle; nothing else changes. -/
def CommandQueued (s t : State) (copy : Bool) (ch : Nat) (kind : ChanKind) (total : Nat) : Prop :=
  let cmd : ChanCmd :=
    { kind, seq := s.core.seq, issue := s.cycle, stg := s.core.staged (if copy then 1 else 0), phase := s.core.phase,
      pins := s.core.pins.map fun p => (p.home * 2 ^ 23 + p.slot, p.ver), total }
  ∃ at_, s.cycle < at_ ∧ t = { s with
    core := { s.core.modChan copy ch (fun q => { q with queue := q.queue ++ [cmd] }) with seq := s.core.seq + 1 }
    agenda := agendaPut s.agenda (at_ * 16 + ptPush) (.channelCommandStart s.core.id copy ch), fresh := s.fresh + 1 }

/-- Channel words. fget, fpref, cput, cmov (R223..R228, R232, R235, R236): with no reserved bit set, the format and count rules kept, the
rows inside the window and every object resolved, the command is queued; a fault of resolution is taken at the group. fcancel (R233)
removes every command of the channel that has not started. cdrain and cstat (R230, R238, R239) give the channel's status word after 1
cycle, or at issue + 2 for cstat, and the report clears ERR, CAUSE and NERR; cdrain.t faults with cause 0x1B when ERR is set. -/
def Obligations.ChannelWords : Prop :=
  (∀ (s : State) (n : BitVec 4), s.core.isSys = false →
     let ch := n.toNat
     let rows := s.core.tk.rows
     let fe := s.core.staged 0
     let cp := s.core.staged 1
     let H := vget fe 0 0
     let C := vget cp 0 0
     let M := vget cp 7 0
     let fp := patternAt fe 8 (baseOf fe (s.desc H))
     let cpp := patternAt cp 9 (baseOf cp (s.desc C))
     let mp := patternAt cp 9 (wrap64 (vget cp 8 0).toInt)
     let row (w : Word) : Nat := w.toNat / 512
     let fget := [walkReq s s.core H false (originOf fe (s.desc H).rank) fp]
     let fgetc := [tileReq s s.core H false (originOf fe (s.desc H).rank)]
     let cput := [walkReq s s.core C true (originOf cp (s.desc C).rank) cpp]
     let cputc := [tileReq s s.core C true (originOf cp (s.desc C).rank)]
     let cmov := [walkReq s s.core C true (originOf cp (s.desc C).rank) cpp,
       walkReq s s.core M false (coordsOf (s.desc M).dims (vget cp 8 0).toNat) mp]
     let resolves (w : Instr) (copy : Bool) (kind : ChanKind) (total : Nat) (qs : List PatReq) : Prop := w.wf = true →
       (∀ q ∈ qs, hHome q.h = s.pkg) →
       (s.resolvePat s.core (if copy then .copy else .fetch) qs = none → Completes w s (CommandQueued s · copy ch kind total)) ∧
       (∀ q f, s.resolvePat s.core (if copy then .copy else .fetch) qs = some (q, f) →
         exec w s = .next (s.hFault (if copy then .copy else .fetch) q.h q.origin f))
     (feReserved fe = false → (∀ d, s.known H = some d → fp.fmtOk d = true) → row (vget fe 7 0) + fp.runs ≤ rows →
       resolves (.fget n false) false .fget fp.runs fget) ∧
     (∀ d, s.known H = some d → row (vget fe 7 0) + (d.npos + 1) ≤ rows → resolves (.fget n true) false .fgetc 1 fgetc) ∧
     ((Instr.fpref n).wf = true → Completes (.fpref n) s (CommandQueued s · false ch .fpref 1)) ∧
     ((Instr.fcancel n).wf = true → Completes (.fcancel n) s fun t =>
       t = s.onCore fun c => c.modChan false ch fun q => { q with queue := q.queue.filter (·.started) }) ∧
     (cpReserved cp = false → (∀ d, s.known C = some d → cpp.fmtOk d = true) → row (vget cp 7 0) + cpp.runs ≤ rows →
       resolves (.cput n false) true .cput cpp.runs cput) ∧
     (∀ d, s.known C = some d → row (vget cp 7 0) + (d.npos + 1) ≤ rows → resolves (.cput n true) true .cputc 1 cputc) ∧
     (cpReserved cp = false → ∀ a b, s.known C = some a → s.known M = some b → a.fmt = b.fmt → fmtWidth a.fmt ≠ 4 →
       cpp.fmtOk a = true → cpp.fmtOk b = true → resolves (.cmov n) true .cmov cpp.runs cmov)) ∧
  (∀ (s : State) (n : BitVec 4) (t f : Bool) (d : XReg), s.core.isSys = false →
     let c := s.core.chan (!f) n.toNat
     let w : Word := BitVec.ofNat 64 ((if c.err then 1 else 0) + c.queue.length % 16 * 2 ^ 8 + c.nerr % 256 * 2 ^ 24 + c.cause.toNat * 2 ^ 32)
     let r := s.onCore fun k => k.modChan (!f) n.toNat fun c => { c with err := false, cause := 0, nerr := 0, bad := none, werr := [] }
     ((Instr.cdrain n t f d).wf = true → (t = false ∨ c.err = false) → Completes (.cdrain n t f d) s fun u => ScalarResult r u d w 1) ∧
     ((Instr.cdrain n true f d).wf = true → c.err = true →
       exec (.cdrain n true f d) s = .next (r.fault 0x1B w (BitVec.ofNat 64 n.toNat))) ∧
     ((Instr.cstat n f d).wf = true → Completes (.cstat n f d) s fun u => ArrivesX r u d w (s.cycle + 2)))

/-- Only core k differs, and what is scheduled with the free times drawn for it. -/
def CoreAlone (s t : State) (k : Nat) : Prop := t = { s.putCore (t.coreOf k) with agenda := t.agenda, fresh := t.fresh }

/-- sbind and sfree (R241, R244), and the walker's next vector (R241, R242): a bound stream holds the pattern and the pins in force and
its first fetch is due; a freed one holds nothing, and no fetch for it remains; a fetched run joins the buffer behind the earlier ones,
while the die's L2 takes requests (R272). -/
def Obligations.StreamWords : Prop :=
  (∀ (s : State) (n : BitVec 4), s.core.isSys = false →
    let r := s.core.staged 0
    let H := vget r 0 0
    let x := vget r 13 0
    let p := patternAt r 8 (baseOf r (s.desc H))
    let gone (e : Nat × Instr) : Prop := ∀ c q, e.2 = .streamVectorFetched c q → ¬ (c = s.core.id ∧ q = n.toNat)
    ((Instr.sbind n).wf = true → feReserved r = false → x.toNat < 2 ^ 9 → chainOk x p.n0 = true →
      (∀ d, s.known H = some d → p.fmtOk d = true ∧ (x.getLsbD 4 = true ∨ (d.fmt = fieldN x 0 4 ∧ d.fmt ≤ 10))) → hHome H = s.pkg →
      s.resolvePat s.core .fetch [walkReq s s.core H false (originOf r (s.desc H).rank) p] = none →
      Completes (.sbind n) s fun t =>
        t = { s with core := { s.core with streams := t.core.streams }, agenda := t.agenda, fresh := t.fresh } ∧
        t.core.streams = vset s.core.streams n.toNat
          { bound := true, stg := r, ftz := vfFtz s.core.arch.vfmt, total := p.runs,
            pins := s.core.pins.map fun p => (p.home * 2 ^ 23 + p.slot, p.ver) } ∧
        ∃ due, s.cycle < due ∧ (due * 16 + ptPush, Instr.streamVectorFetched s.core.id n.toNat) ∈ t.agenda) ∧
    ((Instr.sfree n).wf = true → Completes (.sfree n) s fun t =>
      t = { s with core := { s.core with streams := vset s.core.streams n.toNat {} }, agenda := t.agenda } ∧
      ∀ e, e ∈ t.agenda ↔ e ∈ s.agenda ∧ gone e)) ∧
  (∀ (s : State) (k q : Nat), q < 8 →
    let st := vget (s.coreOf k).streams q {}
    let H := vget st.stg 0 0
    let d := s.desc H
    let p := patternAt st.stg 8 (baseOf st.stg d)
    let ver := mget st.pins (hKey H)
    s.l2Holds k = false → s.leaving = [] →
    (st.bound = false ∨ 4 ≤ st.buf.length ∨ st.total ≤ st.next → exec (.streamVectorFetched k q) s = .next s) ∧
    (st.bound = true → st.buf.length < 4 → st.next < st.total → st.err = none → hHome H = s.pkg →
      (∀ rb m s', p.run d st.next = some rb → (∀ n ∈ sectorsOf rb.all, s.locate H d ver (64 * n) ≠ .missing) →
        s.readSectors k H d ver (sectorsOf rb.all) = (.ok m, s') →
        let v := chainVec st d.fmt (rb.data.map (pieceBits m)) (rb.scale.map (pieceBits m)) (rb.sup.map (pieceBits m))
        Completes (.streamVectorFetched k q) s fun t => ObjectMoves s s' ∧ CoreAlone s' t k ∧
          let tag : Tag := if (vget st.stg 9 0).getLsbD 12 then tagC else tagS
          let after : VStream := { st with buf := st.buf ++ [⟨v.1, tag, v.2⟩], next := st.next + 1 }
          t.coreOf k = { s'.coreOf k with streams := vset (s.coreOf k).streams q after }) ∧
      (p.run d st.next = none → Completes (.streamVectorFetched k q) s fun t => CoreAlone s t k ∧ ∃ r, r.cause = 0x0A ∧ r.info = H ∧
        t.coreOf k = { s.coreOf k with streams := vset (s.coreOf k).streams q { st with err := some r } })))

/-- A command's start (R222): a fetch is under way with every row to come; a copy at the head of its channel is performed at a read point.
Rows of a fetch as they are written (R227), and the completion of fetches and copies (R229, R235), while the die's L2 takes requests
(R272). -/
def Obligations.ChannelEvents : Prop :=
  ∀ (s : State) (k ch : Nat), ch < 16 → s.l2Holds k = false → s.leaving = [] →
    let c := s.coreOf k
    let leaves (b : Core) (copy : Bool) (q : ChanCmd) (d : Core) : Prop := ∀ x, c.chan copy ch = x →
      d = b.modChan copy ch (fun _ => d.chan copy ch) ∧
      (d.chan copy ch).queue = x.queue.filter (fun y => y.seq ≠ q.seq) ∧
      (q.err = none → (d.chan copy ch).err = x.err ∧ (d.chan copy ch).cause = x.cause ∧ (d.chan copy ch).nerr = x.nerr) ∧
      (∀ e, q.err = some e → (d.chan copy ch).err = true ∧ (d.chan copy ch).cause = (if x.err then x.cause else e) ∧
        (d.chan copy ch).nerr = min 255 (x.nerr + 1))
    let started (copy : Bool) (q : ChanCmd) : Core := c.modChan copy ch fun x => { x with
      queue := x.queue.map fun y => if y.seq = q.seq then { y with started := true } else y }
    (∀ q, (c.chan false ch).queue.find? (fun q => !q.started) = some q → q.kind ≠ .clz → q.again = false → q.issue < s.cycle →
      Completes (.channelCommandStart k false ch) s fun t => CoreAlone s t k ∧ t.coreOf k = started false q ∧
        ∀ r, r < q.total → ∃ due, s.cycle ≤ due ∧ (due * 16 + ptFill, Instr.fetchRowWritten k ch q.seq r) ∈ t.agenda) ∧
    (∀ q l, (c.chan true ch).queue = q :: l → q.started = false → q.kind ≠ .clz → q.again = false → q.issue < s.cycle →
      Completes (.channelCommandStart k true ch) s fun t => CoreAlone s t k ∧ t.coreOf k = started true q ∧
        ∃ due, s.cycle ≤ due ∧ (due * 16 + ptRead, Instr.copyCommandComplete k ch) ∈ t.agenda) ∧
    (∀ seq r q rb m s',
      let H := vget q.stg 0 0
      let d := s.desc H
      let ver := mget q.pins (hKey H)
      let row := (vget q.stg 7 0).toNat / 512 + r
      (c.chan false ch).queue.find? (fun q => q.seq = seq) = some q → q.kind = .fget → q.runs.contains r = false → q.spoiled.contains r = false → q.done = false →
      hHome H = s.pkg →
      (patternAt q.stg 8 (baseOf q.stg d)).run d r = some rb → (∀ n ∈ sectorsOf rb.all, s.locate H d ver (64 * n) ≠ .missing) →
      s.readSectors k H d ver (sectorsOf rb.all) = (.ok m, s') →
      (∀ f ∈ c.fills, f.1 = row → f.2 ≤ seq) → (∀ y ∈ (c.chan false ch).queue, y.seq ≤ seq) →
      Completes (.fetchRowWritten k ch seq r) s fun t => ObjectMoves s s' ∧ CoreAlone s' t k ∧
        (t.coreOf k).physRow (c.tk.base + row) =
          ⟨rowOf d.w (rb.data.map (pieceBits m)) (rb.scale.map (pieceBits m)) (rb.sup.map (pieceBits m)),
            if (vget q.stg 9 0).getLsbD 12 then tagC else tagS⟩ ∧
        (∀ p, p ≠ c.tk.base + row → (t.coreOf k).physRow p = (s'.coreOf k).physRow p) ∧
        (t.coreOf k).arch = c.arch ∧
        ((t.coreOf k).chan false ch).queue =
          (c.chan false ch).queue.map fun y => if y.seq = seq then { y with runs := r :: y.runs } else y) ∧
    (∀ q l, (c.chan false ch).queue = q :: l → q.started = true → q.runs.length + q.spoiled.length = q.total →
      Completes (.fetchCommandComplete k ch) s fun t => CoreAlone s t k ∧ leaves c false q (t.coreOf k)) ∧
    (∀ q l, (c.chan true ch).queue = q :: l → q.started = true → q.kind ≠ .clz →
      ((∀ e, q.err = some e → Completes (.copyCommandComplete k ch) s fun t => CoreAlone s t k ∧ leaves c true q (t.coreOf k)) ∧
      (∀ rb, q.err = none → q.kind = .cput →
        let H := vget q.stg 0 0
        let d := s.desc H
        let p := patternAt q.stg 9 (baseOf q.stg d)
        let row := c.row ((vget q.stg 7 0).toNat / 512)
        q.waits s c = false → p.runs = 1 → p.run d 0 = some rb → hHome H = s.pkg → c.pinOf H = none → d.watch = false →
        Tag.isH row.tag = false → Tag.isX row.tag = false →
        let s' := s.writePieces (c.requester s.pkg .copy) H d
          ((rb.data.zipIdx.map fun p => (p.1, elem d.w row.data p.2)) ++
            (rb.scale.zipIdx.map fun p => (p.1, elem 8 row.data (256 + p.2))) ++ rb.sup.map fun p => (p, elem 32 row.data 66))
        Completes (.copyCommandComplete k ch) s fun t => ObjectMoves s s' ∧ CoreAlone s' t k ∧ leaves (s'.coreOf k) true q (t.coreOf k))))

/-- clz (R237, R258, R266): with a member package and a core of it named and the rows inside the window, the command is queued; its rows
leave as they stand at a read point, each to arrive within 65,535 cycles; it completes once every row is answered, and rows without an
answer after 65,536 cycles are undelivered, an error of the command. -/
def Obligations.LandingSends : Prop :=
  (∀ (s : State) (n : BitVec 4), s.core.isSys = false → (Instr.clzCopy n).wf = true →
    let r := s.core.staged 1
    let t := vget r 14 0
    let x := vget r 15 0
    let rows := x.toNat % 2 ^ 13 + 1
    let src := (vget r 7 0).toNat / 512
    let cmd : ChanCmd := { kind := .clz, seq := s.core.seq, issue := s.cycle, stg := r, phase := s.core.phase, total := rows }
    t.toNat < 2 ^ 44 → t.toNat / 2 ^ 19 % 2 ^ 10 = 0 → x.toNat < 2 ^ 29 → x.toNat / 2 ^ 13 % 8 = 0 →
    (s.core.tk.rows < src + rows → exec (.clzCopy n) s = .next (s.fault 0x0A 0 (BitVec.ofNat 64 (max src s.core.tk.rows)))) ∧
    (src + rows ≤ s.core.tk.rows →
      ((s.members.contains (t.toNat / 2 ^ 10 % 512) = false ∨ 768 ≤ t.toNat % 1024) → exec (.clzCopy n) s = .next (s.fault 0x0F t 0)) ∧
      (s.members.contains (t.toNat / 2 ^ 10 % 512) = true → t.toNat % 1024 < 768 → Completes (.clzCopy n) s fun u =>
        ∃ at_, s.cycle < at_ ∧ u = { s with
          core := { s.core.modChan true n.toNat (fun q => { q with queue := q.queue ++ [cmd] }) with seq := s.core.seq + 1 }
          agenda := agendaPut s.agenda (at_ * 16 + ptRead) (.channelCommandStart s.core.id true n.toNat), fresh := s.fresh + 1 }))) ∧
  (∀ (s : State) (k ch : Nat), ch < 16 →
    let c := s.coreOf k
    (∀ q, (c.chan true ch).queue.find? (fun q => !q.started) = some q → q.kind = .clz → q.issue < s.cycle → s.clock % 16 = ptRead →
      (∀ y ∈ (c.chan true ch).queue, y.kind = .clz → y.started = false) →
      let t := vget q.stg 14 0
      let src := (vget q.stg 7 0).toNat / 512
      t.toNat / 2 ^ 10 % 512 = s.pkg →
      Completes (.channelCommandStart k true ch) s fun u => CoreAlone s u k ∧
        (u.coreOf k) = c.modChan true ch (fun x => { x with
          queue := x.queue.map fun y => if y.seq = q.seq then { y with started := true, sent := s.cycle } else y }) ∧
        (∀ i, i < q.total → ∃ due, s.cycle < due ∧ due ≤ s.cycle + 65535 ∧
          (due * 16 + ptArrive, Instr.landingRowArrival (t.toNat % 1024)
            { fromPkg := s.pkg, fromCore := k, fromCh := ch, cmd := q.seq, zone := t.toNat / 2 ^ 29 % 16, slot := t.toNat / 2 ^ 33 % 8,
              off := (vget q.stg 15 0).toNat / 2 ^ 16 % 2 ^ 13 + i, gen := BitVec.ofNat 8 (t.toNat / 2 ^ 36),
              data := (c.row (src + i)).data, tag := (c.row (src + i)).tag }) ∈ u.agenda) ∧
        ((s.cycle + 65536) * 16 + ptEnd, Instr.rowUndelivered k ch) ∈ u.agenda) ∧
    (∀ q l, (c.chan true ch).queue = q :: l → q.kind = .clz → q.started = true → q.runs.length = q.total →
      Completes (.clzComplete k ch) s fun u => CoreAlone s u k ∧
        ((u.coreOf k).chan true ch).queue = l.filter (fun y => y.seq ≠ q.seq) ∧
        ((u.coreOf k).chan true ch).err = ((c.chan true ch).err || q.err.isSome)) ∧
    (∀ q, (c.chan true ch).queue.find? (fun q => q.kind == .clz && q.started) = some q → q.sent + 65536 ≤ s.cycle →
      q.runs.length < q.total →
      Completes (.rowUndelivered k ch) s fun u => CoreAlone s u k ∧
        (u.coreOf k) = c.modChan true ch (fun x => { x with queue := x.queue.map fun y =>
          if y.seq = q.seq then { y.fail 0x0F with runs := List.range y.total } else y }) ∧
        (s.cycle * 16 + ptEnd, Instr.clzComplete k ch) ∈ u.agenda))

/-! ### Landing zones and arrival barriers (R246..R266) -/

/-- The scalar register empties and waits for a value (R33), which the value log expects (R326); results on their way to it are dropped
(R36). -/
def waitingX (c : Core) (d : XReg) (cyc : Nat) : Core :=
  { c with
    arch := c.arch.markX d (d = 0), pend := c.pend.filter fun p => !p.hitsX d, varOut := c.varOut + 1
    valueLog := (c.logIssue d.toNat cyc).valueLog }

/-- The zone and barrier words (R246, R262..R265): they act on a pair that the task holds at issue + 1, with the deadline scheduled; what
each does to the pair; lzstat and barstat answer at issue + 2; a pair that the task does not hold faults. lzres (R250, R264): the
destination waits for the grant word of the request, or of its time-out after 65,536 cycles; a target that is no member, or no compute
core, answers RESULT 11. -/
def Obligations.LandingWords : Prop :=
  (∀ (s : State) (d : XReg), s.core.isSys = false → (Instr.lzres d).wf = true →
     let t := (s.core.arch.stg.toList.getD 66 0).toNat
     let x := (s.core.arch.stg.toList.getD 71 0).toNat
     let pkg := t / 2 ^ 10
     let core := t % 2 ^ 10
     let zone := x % 16
     let c := { waitingX s.core d s.cycle with lzresOut := s.core.lzresOut ++ [d] }
     t < 2 ^ 19 → x < 2 ^ 26 → x / 16 % 2 ^ 12 = 0 →
     let q : ResReq := { fromPkg := s.pkg, fromCore := s.core.id, part := s.core.tk.part, zone, slen := x / 2 ^ 16 + 1, pkg, core, dest := some d }
     let late := agendaPut s.agenda ((s.cycle + 65536) * 16 + ptEnd) (.lzresTimeout s.core.id d zone t)
     (s.members.contains pkg = true → core < 768 → pkg = s.pkg → Completes (.lzres d) s fun u =>
       u = { s with core := c, agenda := u.agenda, fresh := s.fresh + 1 } ∧
       ((∃ at_, s.cycle < at_ ∧ at_ < s.cycle + 65536 ∧
           u.agenda = agendaPut late (at_ * 16 + ptArrive) (.reservationRequest core q)) ∨ u.agenda = late)) ∧
     (s.members.contains pkg = true → core < 768 → pkg ≠ s.pkg → Completes (.lzres d) s fun u =>
       u = { s with
         core := c
         agenda := late
         outbox := (pkg, { src := s.pkg, srcCore := s.core.id, seq := s.sent, body := .reserve core q }) :: s.outbox, sent := s.sent + 1
         via := u.via }) ∧
     ((s.members.contains pkg = false ∨ 768 ≤ core) → Completes (.lzres d) s fun u =>
       u = { s with core := c, agenda := u.agenda, fresh := s.fresh + 1 } ∧ ∃ due, s.cycle < due ∧
         (due * 16 + ptLand, Instr.valueArrives s.core.id (.x d (BitVec.ofNat 64 (3 * 2 ^ 62 + zone * 2 ^ 29 + t)))) ∈ u.agenda)) ∧
  ((∀ (s : State) (n : BitVec 4), s.core.isSys = false →
     let sy (i : Nat) : Nat := (s.core.arch.stg.toList.getD (64 + i) 0).toNat
     let base := sy 4 / 512
     let nrows := sy 5 % 2 ^ 13 + 1
     let expect := sy 5 / 2 ^ 16
     let dl := s.cycle + sy 6
     let arms : Prop := sy 5 < 2 ^ 32 ∧ sy 5 / 2 ^ 13 % 8 = 0 ∧ expect ≠ 0 ∧ sy 6 < 2 ^ 32 ∧ sy 6 ≠ 0
     let held : Prop := n.toNat < s.core.tk.z
     let acts (t : State) (op : LzOp) (deadline : Option Nat) : Prop :=
       t = { s with
         core := { s.core with pairPend := s.core.pairPend ++ [(s.cycle + 1, n.toNat, op)] }
         agenda := match deadline with
           | some at_ => agendaPut s.agenda (at_ * 16 + ptEnd) (.barrierDeadline s.core.id n.toNat)
           | none => s.agenda }
     let p := vget s.core.pairs n.toNat {}
     let st : Nat := match p.zone with | .closed => 0 | .opened => 1 | .complete => 2 | .timedout => 3 | .faulted => 4
     let bs : Nat := match p.bar with | .idle => 0 | .armed => 1 | .complete => 2 | .timedout => 3
     let bits (f : Nat → Bool) : Nat := ((List.range 8).map fun i => if f i then 2 ^ i else 0).sum
     (held →
       ((Instr.lzopen n).wf = true → arms → p.zone = .closed → base + nrows ≤ s.core.tk.rows →
         Completes (.lzopen n) s (acts · (.opens base nrows expect dl) (some dl))) ∧
       ((Instr.lzopen n).wf = true → arms → p.zone ≠ .closed → exec (.lzopen n) s = .next (s.fault 0x0F (BitVec.ofNat 64 n.toNat) 0)) ∧
       ((Instr.lzclose n).wf = true → Completes (.lzclose n) s (acts · .closes none)) ∧
       ((Instr.lzclr n).wf = true → p.zone ≠ .closed → Completes (.lzclr n) s (acts · .clears none)) ∧
       ((Instr.barinit n).wf = true → arms → Completes (.barinit n) s (acts · (.inits expect dl) (some dl))) ∧
       (∀ d x, (Instr.lzstat n d x).wf = true → (s.getX x).toNat = 0 → Completes (.lzstat n d x) s fun t =>
         ArrivesX s t d (BitVec.ofNat 64 (st + p.gen.toNat * 2 ^ 8 + p.alloc % 2 ^ 13 * 2 ^ 16 +
           bits (fun i => (vget p.slots i {}).state ≠ .free) * 2 ^ 40)) (s.cycle + 2)) ∧
       (∀ d x, (Instr.lzstat n d x).wf = true → Completes (.lzstat n d x) s fun t =>
         ArrivesX s t d (p.statWord (s.getX x).toNat) (s.cycle + 2)) ∧
       (∀ d, (Instr.barstat n d).wf = true → Completes (.barstat n d) s fun t =>
         ArrivesX s t d (BitVec.ofNat 64 (bs + (if p.zfault then 8 else 0) + p.expect % 2 ^ 16 * 2 ^ 16 + p.arrived % 2 ^ 16 * 2 ^ 32 +
           p.gen.toNat * 2 ^ 48 + p.stale % 256 * 2 ^ 56)) (s.cycle + 2))) ∧
     (¬ held →
       (∀ i ∈ [Instr.lzclose n, .lzclr n], i.wf = true → exec i s = .next (s.fault 0x0F (BitVec.ofNat 64 n.toNat) 0)) ∧
       ((Instr.lzopen n).wf = true → arms → exec (.lzopen n) s = .next (s.fault 0x0F (BitVec.ofNat 64 n.toNat) 0)) ∧
       ((Instr.barinit n).wf = true → arms → exec (.barinit n) s = .next (s.fault 0x10 (BitVec.ofNat 64 n.toNat) 0)))) ∧
   (∀ (p : Pair) (base nrows expect dl : Nat),
     let free : Vector LSlot 8 := Vector.replicate 8 {}
     p.act (.opens base nrows expect dl) =
       { gen := p.gen + 1, zone := .opened, base, nrows, alloc := 0, slots := free, bar := .armed, expect, arrived := 0, deadline := dl,
         stale := 0, zfault := false } ∧
     (p.zone = .closed → p.act .closes = p) ∧
     (p.zone ≠ .closed → p.act .closes = { p with gen := p.gen + 1, zone := .closed, slots := free, bar := .idle }) ∧
     p.act .clears = { p with gen := p.gen + 1, zone := .opened, alloc := 0, slots := free, bar := .idle } ∧
     (p.bar ≠ .armed → (∀ s ∈ p.slots.toList, ¬ (s.state = .reserved ∧ s.miss ≠ 0)) → p.zone ≠ .closed →
       p.act (.inits expect dl) =
         { p with zone := .opened, alloc := 0, slots := free, bar := .armed, expect := expect, arrived := 0, deadline := dl, zfault := false }) ∧
     (p.bar = .armed → p.zone = .closed →
       p.act (.inits expect dl) = { p with gen := p.gen + 1, expect := expect, arrived := 0, deadline := dl, zfault := false })))

/-- Arrivals at a zone (R250, R251, R253, R259): what a row does to a pair and to the window, how a request is granted (a task of another
partition answers RESULT 11, one that is SAVED RESULT 10), and time-outs. -/
def Obligations.LandingArrivals : Prop :=
  (∀ (s : State) (k : Nat) (r : LandingRow) (task : Task), r.zone < 16 → r.slot < 8 →
    let c := s.coreOf k
    let p := vget c.pairs r.zone {}
    let slot := vget p.slots r.slot {}
    c.task = some task → r.zone < task.z →
    let leaves (t : State) (q : Pair) (rows : List (Nat × Row)) : Prop :=
      (t.coreOf k).pairs = vset c.pairs r.zone q ∧ (t.coreOf k).rows = rows ∧ (t.coreOf k).arch = c.arch ∧
      t = { s with core := t.core, parked := t.parked, agenda := t.agenda, outbox := t.outbox, sent := t.sent, via := t.via }
    let mine : Prop := slot.state = .reserved ∧ slot.pkg = r.fromPkg ∧ slot.core = r.fromCore ∧ r.off < slot.slen
    let seen := vset p.slots r.slot { slot with miss := slot.miss &&& ~~~(BitVec.ofNat 1024 (2 ^ r.off)) }
    let row := dput {} c.rows (task.base + (p.base + slot.zrow + r.off)) ⟨r.data, r.tag⟩
    let does (Q : State → Prop) : Prop := Completes (.landingRowArrival k r) s Q
    (p.zone = .closed → does (leaves · p c.rows)) ∧
    (p.zone ≠ .closed → r.gen ≠ p.gen → does (leaves · { p with stale := min 255 (p.stale + 1) } c.rows)) ∧
    (p.zone ≠ .closed → r.gen = p.gen → ¬ (p.zone = .opened ∧ p.bar = .armed) → does (leaves · p c.rows)) ∧
    (p.zone = .opened → p.bar = .armed → r.gen = p.gen →
      (¬ mine → does (leaves · { p with zone := .faulted, bar := .timedout, zfault := true } c.rows)) ∧
      (mine → slot.miss.getLsbD r.off = false → does (leaves · { p with slots := seen } row)) ∧
      (mine → slot.miss.getLsbD r.off = true → p.arrived + 1 ≠ p.expect →
        does (leaves · { p with slots := seen, arrived := p.arrived + 1 } row)) ∧
      (mine → slot.miss.getLsbD r.off = true → p.arrived + 1 = p.expect →
        does (leaves · { p with slots := seen, arrived := p.arrived + 1, bar := .complete, zone := .complete } row)))) ∧
  (∀ (s : State) (k : Nat) (q : ResReq) (task : Task) (d : XReg) (T : Nat), k < 768 → q.zone < 16 → q.dest = some d → q.fromPkg = s.pkg →
    let late : Instr := .lzresTimeout q.fromCore d q.zone (q.core % 2 ^ 10 + q.pkg % 2 ^ 9 * 2 ^ 10)
    (T * 16 + ptEnd, late) ∈ s.agenda → (∀ e ∈ s.agenda, e.2 = late → e.1 = T * 16 + ptEnd) →
    let c := s.coreOf k
    let p := vget c.pairs q.zone {}
    let room (i : Nat) : Prop := i < 8 ∧ (vget p.slots i {}).state = .free ∧ ∀ j, j < i → (vget p.slots j {}).state ≠ .free
    let answers (t : State) (res zrow gen slot : Nat) : Prop := (T * 16 + ptEnd, late) ∈ t.agenda ∨ ∃ due, s.cycle < due ∧ due ≤ T ∧
      (due * 16 + ptLand, Instr.valueArrives q.fromCore (.x d (BitVec.ofNat 64 (q.core % 2 ^ 10 + q.pkg % 2 ^ 9 * 2 ^ 10 +
        q.zone * 2 ^ 29 + slot * 2 ^ 33 + gen * 2 ^ 36 + zrow % 2 ^ 13 * 2 ^ 48 + res * 2 ^ 62)))) ∈ t.agenda
    let does (Q : State → Prop) : Prop := Completes (.reservationRequest k q) s Q
    (s.partOf k ≠ some q.part →
      (s.savedFrom k q.part = false → does fun t => t.coreOf k = c ∧ answers t 3 0 0 0) ∧
      (s.savedFrom k q.part = true → does fun t => t.coreOf k = c ∧ answers t 2 0 0 0)) ∧
    (c.task = some task → q.part = task.part → q.zone < task.z →
      (¬ (p.zone = .opened ∧ p.bar = .armed) → does fun t => t.coreOf k = c ∧ answers t 2 0 0 0) ∧
      (p.zone = .opened → p.bar = .armed → (∀ i, i < 8 → (vget p.slots i {}).state ≠ .free) →
        does fun t => t.coreOf k = c ∧ answers t 1 0 0 0) ∧
      (p.zone = .opened → p.bar = .armed → ∀ i, room i →
        (p.nrows < p.alloc + q.slen → does fun t => t.coreOf k = c ∧ answers t 1 0 0 0) ∧
        (p.alloc + q.slen ≤ p.nrows → does fun t => answers t 0 p.alloc p.gen.toNat i ∧
          let slot : LSlot :=
            { state := .reserved, pkg := q.fromPkg, core := q.fromCore, zrow := p.alloc, slen := q.slen, miss := BitVec.ofNat 1024 (2 ^ q.slen - 1) }
          t.coreOf k = { c with pairs := vset c.pairs q.zone { p with slots := vset p.slots i slot, alloc := p.alloc + q.slen } })))) ∧
  (∀ (s : State) (k : Nat) (d : XReg) (zone target : Nat), target < 2 ^ 19 → zone < 16 →
    let late : Instr := .valueArrives k (.x d (BitVec.ofNat 64 (3 * 2 ^ 62 + zone * 2 ^ 29 + target)))
    Completes (.lzresTimeout k d zone target) s fun t => t = { s with
      agenda := agendaPut s.agenda ((s.cycle + 1) * 16 + ptLand) late })

/-- Barrier arrivals and releases (R253..R255, R262, R264): an arrival of the pair's generation counts while the barrier is ARMED and
completes it at EXPECT, any other is stale; it waits for rows on their way and for copies that could yet be read (R208, R254); a release
frees the slot's owner; deadlines and time-outs. -/
def Obligations.BarrierEvents : Prop :=
  ∀ (s : State) (k from_ : Nat) (sender : Sender) (pair : Nat) (g : BitVec 8) (task : Task),
    k ≠ from_ → sender.core = from_ → pair < 16 →
    let comes : Instr := .barrierArrival k s.pkg sender pair g
    let c := s.coreOf k
    let p := vget c.pairs pair {}
    let set (q : Pair) : Core := { c with pairs := vset c.pairs pair q }
    let f := s.coreOf from_
    let told (t : State) (r : SyncResult) : Prop :=
      (t.coreOf from_ = if f.asking.isSome then { f with accepted := some r, relOut := [], askDue := none } else f) ∧
      t = { s with core := t.core, parked := t.parked } ∧ ∀ j, j ≠ k → j ≠ from_ → t.coreOf j = s.coreOf j
    (s.rowsOnWay s.pkg from_ = false → s.releaseWaits from_ = false → c.task = some task →
      (pair < task.z → task.part = sender.part →
        (p.bar = .armed → g = p.gen → p.arrived + 1 ≠ p.expect → Completes comes s fun t =>
          t.coreOf k = set { p with arrived := p.arrived + 1 } ∧ told t .ok) ∧
        (p.bar = .armed → g = p.gen → p.arrived + 1 = p.expect → Completes comes s fun t =>
          t.coreOf k = set { p with arrived := p.arrived + 1, bar := .complete, zone := if p.zone = .opened then .complete else p.zone } ∧
          told t .ok) ∧
        (¬ (p.bar = .armed ∧ g = p.gen) → Completes comes s fun t =>
          t.coreOf k = set { p with stale := min 255 (p.stale + 1) } ∧ told t .ok)) ∧
      (¬ (pair < task.z ∧ task.part = sender.part) → Completes comes s fun t =>
        t.coreOf k = c ∧ told t (.fault 0x0F (f.arch.stg.toList.getD 66 0) 0))) ∧
    (s.rowsOnWay s.pkg from_ = true ∨ s.releaseWaits from_ = true → Completes comes s fun t =>
      t = s.sched (s.cycle + 1) ptArrive comes) ∧
    (p.bar = .armed → p.deadline = s.cycle → Completes (.barrierDeadline k pair) s fun t =>
      t = s.putCore (set { p with bar := .timedout, zone := if p.zone = .opened then .timedout else p.zone })) ∧
    (p.bar ≠ .armed ∨ p.deadline ≠ s.cycle → Completes (.barrierDeadline k pair) s fun t => t = s.putCore (set p)) ∧
    (∀ rel : Word, rel.toNat / 2 ^ 29 % 16 = pair → c.task = some task → pair < task.z →
      let i := rel.toNat / 2 ^ 33 % 8
      let slot := vget p.slots i {}
      let yours : Prop := slot.state = .reserved ∧ slot.pkg = s.pkg ∧ slot.core = from_ ∧ p.gen.toNat = rel.toNat / 2 ^ 36 % 256
      (yours → Completes (.slotReleaseAtTarget k s.pkg from_ rel) s fun t =>
        t.coreOf k = set { p with slots := vset p.slots i { slot with state := .released } } ∧ told t .ok) ∧
      (¬ yours → Completes (.slotReleaseAtTarget k s.pkg from_ rel) s fun t => t.coreOf k = set p ∧ told t .ok)) ∧
    (∀ w b, f.asking = some w → decodeWord w = .ok (b, .lzrel) → Completes (.lzrelTimeout from_) s fun t =>
      t = s.putCore { f with accepted := some (.fault 0x0F (f.arch.stg.toList.getD 72 0) 0), relOut := [], askDue := none })

/-! ### Versions, pins, events and signals (R201..R221, R264) -/

/-- What a publish leaves (R202, R205, R215): VCUR is the version and the rest of the descriptor is as before, the publish is recorded
with the core's die, its LTIME and the die's REBASE count, every task event that waits for it fires, and the packages that wait for it are
told; memory and every register are as before. Of a replicated object Lovage reads the copies that it sends (R188; where they stand is the
model's choice, notes/assumptions/50.md), and only what stands below the handle unit moves with that. -/
def Published (s t : State) (key ver : Nat) : Prop :=
  let d := (mget s.descs key).getD 0
  let die := s.core.id / 32
  let rb := (vget s.dies die {}).rebase.toNat
  let fired (v : Vector TEvent 64) : Vector TEvent 64 := v.map fun e =>
    if e.st = .armed ∧ e.home * 2 ^ 23 + e.slot = key ∧ e.ver ≤ ver then { e with st := .fired, pubDie := die, ts := s.core.ltime, rb := rb }
    else e
  (∀ j, j < 512 → ((mget t.descs key).getD 0).getLsbD j = if 256 ≤ j ∧ j < 288 then ver.testBit (j - 256) else d.getLsbD j) ∧
  (∀ k, k ≠ key → mget t.descs k = mget s.descs k) ∧
  t.pubs = { slot := key, ver := ver, die := die, ts := s.core.ltime, rb := rb } :: s.pubs ∧
  ∃ m, (m = s ∨ Desc.replicated d = true ∧ MemoryMoves s m) ∧
    t.core = { m.core with events := fired s.core.events, accepted := none, asking := none } ∧
    (∀ k, k ≠ s.core.id → t.coreOf k = { m.coreOf k with events := fired (s.coreOf k).events }) ∧
    t = { m with
      core := t.core, parked := t.parked, descs := t.descs, kept := t.kept, pool := t.pool, pubs := t.pubs, saves := t.saves
      subs := t.subs, outbox := t.outbox, sent := t.sent, via := t.via }

/-- opub, over, osub, opin, ounpin (R214..R219), on an object of this package on which the handle passes, with no unreported write error:
what the request does as it is performed. -/
def Obligations.VersionWords : Prop :=
  ∀ (s : State), s.core.isSys = false → s.core.accepted = none →
    let h := s.core.arch.stg.toList.getD 64 0
    let v := (s.core.arch.stg.toList.getD 65 0).toNat
    let key := hKey h
    let d := s.desc h
    let passes (need : Nat) : Prop := hHome h = s.pkg ∧ s.violation (s.core.requester s.pkg .core) h (some need) = none
    let joined : Prop := s.core.writeErr key = none
    let done (t : State) : Prop := t = s.onCore fun c => { c with accepted := none, asking := none }
    let clean := s.onCore fun c => { c with accepted := none, asking := none }
    (passes 8 → joined →
      (d.vcur < 2 ^ 32 - 1 → Completes .opub s (Published s · key (d.vcur + 1))) ∧
      (d.vcur = 2 ^ 32 - 1 → exec .opub s = .next (clean.fault 0x0D h 0)) ∧
      (v ≤ d.vcur → Completes .over s done) ∧
      (d.vcur < v → v < 2 ^ 32 → Completes .over s (Published s · key v)) ∧
      (2 ^ 32 ≤ v → exec .over s = .next (clean.fault 0x0D h 0))) ∧
    (∀ e : BitVec 8, (Instr.osub e).wf = true → v < 2 ^ 32 → passes 1 →
      let ev : TEvent := { st := .armed, home := hHome h, slot := key % 2 ^ 23, gen := hGen h, ver := v }
      (d.vcur < v → Completes (.osub e) s fun t =>
        t = clean.onCore fun c => { c with events := vset c.events e.toNat ev }) ∧
      (v ≤ d.vcur → Completes (.osub e) s fun t => ∃ die ts rb,
        (∀ p, firstPublish s.pubs key v = some p → die = p.die ∧ ts = p.ts ∧ rb = p.rb) ∧
        t = clean.onCore fun c => { c with events := vset c.events e.toNat { ev with st := .fired, pubDie := die, ts := ts, rb := rb } })) ∧
    (passes 16 → v < 2 ^ 32 →
      let u := s.unpin key
      let vs := u.pinnedVers key
      let vcur := Desc.vcur ((mget u.descs key).getD 0)
      let fits : Prop := u.core.pins.length < 16 ∧ v ≤ vcur ∧ (v = vcur ∨ v ∈ vs) ∧ (v ∈ vs ∨ vs.length < 2)
      (fits → Completes .opin s fun t =>
        t.core = { u.core with pins := u.core.pins ++ [⟨hHome h, key % 2 ^ 23, v, 0⟩], accepted := none, asking := none } ∧
        t.pinned = (s.core.id, key, v) :: u.pinned ∧ (t.keptVer key v).isSome = true ∧
        t = { u with core := t.core, pinned := t.pinned, kept := t.kept, descs := t.descs }) ∧
      (¬ fits → exec .opin s = .next ((u.onCore fun c => { c with accepted := none, asking := none }).fault 0x0E h (BitVec.ofNat 64 v)))) ∧
    (passes 16 →
      ((∀ p ∈ s.core.pins, p.home * 2 ^ 23 + p.slot ≠ key) → Completes .ounpin s done) ∧
      ((∃ p ∈ s.core.pins, p.home * 2 ^ 23 + p.slot = key) → Completes .ounpin s fun t =>
        t.core = { s.core with pins := s.core.pins.filter fun p => p.home * 2 ^ 23 + p.slot ≠ key, accepted := none, asking := none } ∧
        t.pinned = s.pinned.filter (fun p => ¬ (p.1 = s.core.id ∧ p.2.1 = key)) ∧
        (∀ k ∈ s.kept, k.slot ≠ key → k ∈ t.kept) ∧
        t = { s with core := t.core, pinned := t.pinned, kept := t.kept, pool := t.pool, descs := t.descs }))

/-- evsig, evsig.b and lzrel (R220, R221, R264) as their request is performed; a sync word whose request was accepted before it issues
does what was found (R214); the events that accept requests, a release once no copy can return an older value (R208), and the arrival of
values, with no later write of their register due (R32), and of resolutions (R33, R193, R209). AUX 0 in the version fault of a release
whose markers come too late is the model's choice (notes/assumptions/30.md). -/
def Obligations.SignalWords : Prop :=
  (∀ (s : State), s.core.isSys = false →
    let clean := s.onCore fun c => { c with accepted := none, asking := none }
    let tk := s.core.tk
    let sy (i : Nat) : Word := s.core.arch.stg.toList.getD (64 + i) 0
    (∀ e : BitVec 8, ∀ i ∈ [Instr.opub, .over, .opin, .ounpin, .lzrel, .osub e, .evsig e, .evsigB e], i.wf = true →
      (s.core.accepted = some .ok → Completes i s (· = clean)) ∧
      (∀ c info aux, s.core.accepted = some (.fault c info aux) → exec i s = .next (clean.fault c info aux))) ∧
    (s.core.accepted = none →
      (∀ e r, (Instr.evsig e).wf = true → s.replay? tk.rid tk.replay = some r → Completes (.evsig e) s fun t =>
        t = { clean with replays := t.replays } ∧ t.replay? tk.rid tk.replay = some
          (if e = 0 ∨ r.event e.toNat ≠ .idle then r else { r with events := mput r.events e.toNat .fired })) ∧
      (∀ n task, (Instr.evsigB n).wf = true → (sy 2).toNat < 2 ^ 19 → (sy 3).toNat < 2 ^ 8 → (sy 2).toNat / 2 ^ 10 = s.pkg →
        s.members.contains s.pkg = true →
        let k := (sy 2).toNat % 2 ^ 10
        k < 768 → (s.coreOf k).task = some task →
        let p := vget (s.coreOf k).pairs n.toNat {}
        (n.toNat < task.z → s.core.tk.part = task.part → Completes (.evsigB n) s fun t =>
          (t.coreOf k).pairs = vset (s.coreOf k).pairs n.toNat
            (if p.bar = .armed ∧ (sy 3).toNat = p.gen.toNat then
              (if p.arrived + 1 = p.expect then
                { p with arrived := p.arrived + 1, bar := .complete, zone := if p.zone = .opened then .complete else p.zone }
              else { p with arrived := p.arrived + 1 })
            else { p with stale := min 255 (p.stale + 1) }) ∧
          (t.coreOf k).arch = (s.coreOf k).arch ∧ t.core.arch = s.core.arch ∧ t = { s with core := t.core, parked := t.parked }) ∧
        (¬ (n.toNat < task.z ∧ s.core.tk.part = task.part) → exec (.evsigB n) s = .next (clean.fault 0x0F (sy 2) 0))) ∧
      (∀ task, (sy 8).toNat / 2 ^ 10 % 2 ^ 9 = s.pkg → s.members.contains s.pkg = true →
        let k := (sy 8).toNat % 2 ^ 10
        let zone := (sy 8).toNat / 2 ^ 29 % 16
        let i := (sy 8).toNat / 2 ^ 33 % 8
        k < 768 → (s.coreOf k).task = some task → zone < task.z →
        let p := vget (s.coreOf k).pairs zone {}
        let slot := vget p.slots i {}
        slot.state = .reserved → slot.pkg = s.pkg → slot.core = s.core.id → p.gen.toNat = (sy 8).toNat / 2 ^ 36 % 256 →
        Completes .lzrel s fun t =>
          (t.coreOf k).pairs = vset (s.coreOf k).pairs zone { p with slots := vset p.slots i { slot with state := .released } } ∧
          (t.coreOf k).arch = (s.coreOf k).arch ∧ t.core.arch = s.core.arch ∧ t = { s with core := t.core, parked := t.parked }) ∧
      ((s.members.contains ((sy 8).toNat / 2 ^ 10 % 2 ^ 9) = false ∨ 768 ≤ (sy 8).toNat % 2 ^ 10) →
        exec .lzrel s = .next (clean.fault 0x0F (sy 8) 0)))) ∧
  (∀ (s : State) (w : IWord) (b : Bool) (i : Instr), s.core.asking = some w → decodeWord w = .ok (b, i) →
    let k := s.core.id
    let sy (j : Nat) : Word := s.core.arch.stg.toList.getD (64 + j) 0
    let finds (t : State) (r : SyncResult) : Prop := t = s.onCore fun c => { c with accepted := some r, relOut := [], askDue := none }
    (∀ e r, i = .evsig e → s.core.accepted = none → s.releaseWaits k = false → s.replay? s.core.tk.rid s.core.tk.replay = some r →
      Completes (.syncRequestAccepted k) s fun t => t.core = { s.core with accepted := some .ok, relOut := [], askDue := none } ∧
        t = { s with core := t.core, replays := t.replays } ∧ t.replay? s.core.tk.rid s.core.tk.replay = some
          (if e = 0 ∨ r.event e.toNat ≠ .idle then r else { r with events := mput r.events e.toNat .fired })) ∧
    (∀ n, i = .evsigB n → Completes (.markerTimeout k) s (finds · (.fault 0x0F (sy 2) 0))) ∧
    (i = .opub ∨ i = .over → Completes (.markerTimeout k) s (finds · (.fault 0x0B (sy 0) 0))) ∧
    (s.core.accepted = none → s.releaseWaits k = true → Completes (.syncRequestAccepted k) s fun t =>
      t = s.sched (s.cycle + 1) ptEnd (.syncRequestAccepted k)) ∧
    Completes (.resolutionComplete k) s fun t =>
      t.core = { s.core with asking := none, resolved := true, xlate := (s.core.xlate ++ (s.resolves i).map hKey).eraseDups } ∧
      t = { s with core := t.core, far := t.far, fresh := t.fresh } ∧ ((∀ h ∈ s.resolves i, hHome h = s.pkg) → t.far = s.far)) ∧
  (∀ (s : State) (k : Nat) (d : XReg) (v : Word),
    let c := s.coreOf k
    (∀ p ∈ c.pend, p.dest.forReg (.x d v) = true → s.cycle < p.due) → Completes (.valueArrives k (.x d v)) s fun t => t = s.putCore (t.coreOf k) ∧
      (t.coreOf k).arch.getX d = (if d = 0 then 0 else v) ∧ (t.coreOf k).arch.fullX d = true ∧
      (∀ r, r ≠ d → (t.coreOf k).arch.getX r = c.arch.getX r ∧ (t.coreOf k).arch.fullX r = c.arch.fullX r) ∧
      (t.coreOf k).valueLog = logFill (.x d v) s.cycle c.valueLog ∧ (t.coreOf k).varOut = c.varOut - 1 ∧
      { (t.coreOf k).arch with x := c.arch.x, xFull := c.arch.xFull } = c.arch) ∧
  (∀ (s : State) (k : Nat) (d : VCode) (v : Vec) (g : Tag), d.toNat < 56 →
    let c := s.coreOf k
    (∀ p ∈ c.pend, p.dest.forReg (.v d v g) = true → s.cycle < p.due) → Completes (.valueArrives k (.v d v g)) s fun t => t = s.putCore (t.coreOf k) ∧
      (t.coreOf k).arch.getV d = { data := v, tag := g, full := true } ∧
      (∀ r, r ≠ d → (t.coreOf k).arch.getV r = c.arch.getV r) ∧ { (t.coreOf k).arch with v := c.arch.v } = c.arch)

/-! ### Tasks, phases and kicks (R59..R61, R299..R310, R313) -/

/-- Phases, task ends and checkpoints as words (R59..R61, R307), and kicks (R300..R303, R313). -/
def Obligations.TaskWords : Prop :=
  (∀ (s : State), s.core.isSys = false →
     let c := s.core
     let row := (c.arch.stg.toList.getD 73 0).toNat / 512
     let next (k : Nat) : BitVec 1024 := (mget c.tk.inputs (8 * (c.phase + 1) + k)).getD 0
     let idle (k : Nat) : Prop :=
       (recKind (next k) = 2 ∧ (vget c.pairs (recRow (next k)) {}).bar = .idle) ∨
       (recKind (next k) = 3 ∧ recForeign (next k) = false ∧ recRow (next k) < 64 ∧ (vget c.events (recRow (next k)) {}).st = .idle)
     (∀ d, (Instr.gkick d).wf = true →
       (row < c.tk.rows → Completes (.gkick d) s fun t => ∃ at_, s.cycle < at_ ∧
         t = { s with
           core := { waitingX c d s.cycle with gkickOut := c.gkickOut ++ [d] }
           agenda := agendaPut s.agenda (at_ * 16 + ptPush) (.kick c.tk.part (.core c.id c.tk.rid (some d))
             ((List.range 16).map fun i => BitVec.ofNat 64 (elem 64 (windowRow s row).data i)))
           fresh := s.fresh + 1 }) ∧
       (c.tk.rows ≤ row → exec (.gkick d) s = .next (s.fault 0x0A 0 (BitVec.ofNat 64 row)))) ∧
     Completes .ckpt s (· = s.onCore fun c => { c with ckptDue := true }) ∧
     (c.merr = none →
       (c.phase + 1 < c.tk.phases → (∀ k, k < 8 → ¬ idle k) → Completes .phase s (· = s.onCore fun c => { c with waiting := true })) ∧
       (c.phase + 1 < c.tk.phases → ∀ k, k < 8 → idle k → (∀ j, j < k → ¬ idle j) →
         exec .phase s = .next (s.fault 0x10 (BitVec.ofNat 64 (recRow (next k))) 0)) ∧
       (c.tk.phases ≤ c.phase + 1 → exec .phase s = .next (s.fault 0x01 s.wordInfo 0)) ∧
       Completes .tend s (· = s.onCore fun c => { c with ending := true }))) ∧
  (∀ (s : State) (part : Nat) (p : List Word),
     let status (t : State) (rid replay infl code : Nat) : Prop :=
       ((mget t.windows part).getD {}).kick = BitVec.ofNat 64 (rid % 2 ^ 16 * 2 ^ 48 + replay % 2 ^ 16 * 2 ^ 32 + infl % 2 ^ 8 * 2 ^ 8 + code)
     let flights := (s.replays.filter fun r => r.part = part && r.inFlight).length
     let runs (src : KickSource) (Q : State → Prop) : Prop := Completes (.kick part src p) s Q
     let hosts (Q : State → Prop) : Prop := ∀ src ∈ [KickSource.iow, .ioe], runs src Q
     let replay := if p.length = 16 then (p.getD 1 0).toNat % 2 ^ 16 else 0
     (pktOk p = false → hosts fun t => status t 0 replay flights 7 ∧ t = { s with windows := t.windows }) ∧
     (pktOk p = true → hHome (p.getD 0 0) = s.pkg → ∀ g, s.violation ⟨part, .host, 1023, s.pkg⟩ (p.getD 0 0) (some 128) = none →
       s.graphs.find? (fun g => hKey g.handle = hKey (p.getD 0 0) && hGen g.handle = hGen (p.getD 0 0) && g.part = part) = some g →
       ((s.region? g.rid).map (·.st) ≠ some 1 → hosts fun t =>
         status t g.rid replay flights 6 ∧ t = { s with windows := t.windows }) ∧
       (∀ patches gen, (s.region? g.rid).map (·.st) = some 1 → s.effCores g.rid ≠ [] →
         (∀ i, i < imgNodes g.image → nodeRows g.image i + nodeCarve g.image i ≤ s.effRowcap g.rid ∧ nodeZ g.image i ≤ s.effLzcap g.rid) →
         flights < 4 → (∀ r ∈ s.replays, r.rid = g.rid → r.replay = replay → r.inFlight = false) → pktNtab p = 0 →
         patches = (List.range (pktNinl p)).map (fun k => ((p.getD (4 + 2 * k) 0).toNat, p.getD (5 + 2 * k) 0)) →
         applyPatches (g.latest.getD (imgDefaults g.image)) patches = some gen → 1 ≤ imgNodes g.image →
         let accepted (t : State) : Prop := ∃ r, t.replays.getLast? = some r ∧ r.part = part ∧ r.rid = g.rid ∧ r.replay = replay ∧
           r.graph = g.handle ∧ r.gen = gen ∧ r.genNo = (g.kicks + 1) % 2 ^ 32 ∧ r.cores = s.effCores g.rid ∧
           r.nodes = List.replicate (imgNodes g.image) .waiting ∧ r.st = .running ∧ r.fb = (p.getD 1 0).getLsbD 16 ∧
           t.graphs = s.graphs.map (fun x => if x.handle = g.handle ∧ x.part = part then { x with latest := some gen, kicks := x.kicks + 1 } else x) ∧
           status t g.rid replay (flights + 1) 0
         (hosts fun t => accepted t ∧ t = { s with
           windows := t.windows, replays := t.replays, graphs := t.graphs, vlogs := t.vlogs, far := t.far, fresh := t.fresh }) ∧
         (∀ k own d, s.isIn g.rid own = true →
           runs (.core k own (some d)) fun t => accepted t ∧ ∃ due, s.cycle < due ∧
             t.agenda = agendaPut s.agenda (due * 16 + ptLand) (.valueArrives k (.x d ((mget t.windows part).getD {}).kick))))))

/-- The dispatcher (R304..R306): a node whose dependences hold gets its tasks, placed by R304; one that can no longer hold is abandoned; a
free core takes a task and finds the registers and engines that R41, R89, R117 and R308 give it, and its cycle counts for CORE_BUSY
(R356); a waiting region ages. That the task's window begins at the row above the core's object carve-out is the model's choice
(notes/assumptions/36.md). -/
def Obligations.Dispatch : Prop :=
  (∀ (s : State) (rid replay node : Nat) (r : Replay), s.replay? rid replay = some r → r.nodes[node]? = some .waiting →
    let g := s.imageOf r.graph
    let n := r.cores.length
    (s.nodeReady r node = some true → Completes (.nodeCreate rid replay node) s fun t =>
      t.tasks = s.tasks ++ (List.range (nodeTiles g node)).map (fun i =>
        { rid, replay, node, tile := i, core := r.cores.getD ((i + node * 2654435761 % n) % n) 0 }) ∧
      t.replay? rid replay = some { r with nodes := r.nodes.set node .created } ∧ t = { s with tasks := t.tasks, replays := t.replays }) ∧
    (s.nodeReady r node = some false → Completes (.nodeCreate rid replay node) s fun t =>
      (∃ q, t.replay? rid replay = some q ∧ q.nodes = r.nodes.set node .abandoned) ∧ t = { s with replays := t.replays }) ∧
    (s.nodeReady r node = none → Completes (.nodeCreate rid replay node) s (· = s))) ∧
  (∀ (s : State) (k rid : Nat) (credits : List (Nat × Int)) (x : TaskRec) (r : Replay), (s.coreOf k).free = true →
    s.pickRegion (s.coreOf k) (s.candidates k) = some (rid, credits) →
    firstTask s.replays ((s.candidates k).filter fun t => t.rid = rid) = some x → s.replay? x.rid x.replay = some r →
    let g := s.imageOf r.graph
    let i := x.node
    let c := { s.coreOf k with objRows := s.objectRows k }
    Completes (.taskTake k) s fun t =>
      let d := t.coreOf k
      d.state = .running ∧ d.waiting = true ∧ d.phase = 0 ∧ d.inPhase = 0 ∧ d.ending = false ∧ d.credits = credits ∧
      d.arch = { ovfptr := nodeOvf g i, pc := BitVec.ofNat 64 (nodeEntry g i) } ∧
      d.pend = [] ∧ d.pins = [] ∧ d.events = Vector.replicate 64 {} ∧
      (∃ task, d.task = some task ∧ task.part = r.part ∧ task.rid = x.rid ∧ task.replay = x.replay ∧ task.node = i ∧ task.tile = x.tile ∧
        task.params = r.gen ∧ task.pgen = r.genNo ∧ task.phases = nodePhases g i ∧ task.isreg = nodeIsreg g i ∧ task.z = nodeZ g i ∧
        task.rows = nodeRows g i ∧ task.carve = nodeCarve g i ∧ task.base = c.objRows ∧ task.code = nodeCode g i ∧
        (c.begin task (nodeOvf g i) (nodeEntry g i)).rows = c.rows.filter (fun p => decide (p.1 < c.objRows)) ∧
        task.tc.toList = [x.tile / (nodeTs g i 1 * nodeTs g i 2), x.tile / nodeTs g i 2 % nodeTs g i 1, x.tile % nodeTs g i 2]) ∧
      (s.cycle * 16 + ptEnd, Instr.meterAdd r.part x.rid 12 1) ∈ t.agenda ∧
      t.tasks = s.tasks.map fun y => if y.rid = x.rid && y.replay = x.replay && y.node = i && y.tile = x.tile then { y with st := .running } else y) ∧
  (∀ (s : State) (k rid : Nat),
    ((∃ x ∈ s.candidates k, x.rid = rid) → Completes (.priorityAging k rid) s fun t => t = s.putCore
      { s.coreOf k with aging := mput (s.coreOf k).aging rid (min 7 ((mget (s.coreOf k).aging rid).getD 0 + 1)) }) ∧
    ((∀ x ∈ s.candidates k, x.rid ≠ rid) → Completes (.priorityAging k rid) s (· = s)))

/-- Phase inputs and starts (R297, R307, R308): the fetch of a phase's inputs begins under the pins then in force; a tile input's rows are
written with its tag, or the input ends in error, checked as `fget` is (R223), while the die's L2 takes requests (R272); a phase that is
ready starts 4 cycles later with the input status word in ISREG. -/
def Obligations.PhaseStarts : Prop :=
  ∀ (s : State) (k : Nat),
    let c := s.coreOf k
    (c.task ≠ none → c.fetching = false → Completes (.phaseInputFetch k 0) s fun t => CoreAlone s t k ∧
      t.coreOf k =
        { c with fetching := true, inputsIn := [], inputErr := none, inPins := c.pins.map fun p => (p.home * 2 ^ 23 + p.slot, p.ver) } ∧
      ∀ n, n < 8 → recKind (c.input n) = 1 → ∃ due, s.cycle < due ∧ (due * 16 + ptFill, Instr.phaseInputFetch k (n + 1)) ∈ t.agenda) ∧
    (∀ n, c.task ≠ none → c.fetching = true → c.inputsIn.contains n = false →
      let r := c.input n
      let h := vget c.tk.params (recSlot r) 0
      let d := s.desc h
      let cs := (inputOrigin r c.tk.tc d.rank).map fun (i : Int) => (BitVec.ofInt 64 i).toNat
      let p : Pattern := { base := wrap64 (linOf d.dims cs), n0 := recN0 r, ns := [recRows r, 1, 1, 1],
                           strs := [1, (if d.rank = 1 then (recN0 r : Int) else (inner d.dims 0 : Int)), 0, 0, 0] }
      hHome h = s.pkg → s.l2Holds k = false →
      (recCoef r = false → s.known h = some d → p.fmtOk d = false → Completes (.phaseInputFetch k (n + 1)) s fun t =>
        CoreAlone s t k ∧ (t.coreOf k).inputErr = (if c.inputErr.isSome then c.inputErr else some (n, 0x01)) ∧
          (t.coreOf k).rows = c.rows) ∧
      ((recCoef r = false → s.known h = some d → p.fmtOk d = true) →
        c.tk.rows < recRow r + (if recCoef r then (if s.deadHandle h then 1 else d.npos + 1) else recRows r) →
        Completes (.phaseInputFetch k (n + 1)) s fun t => CoreAlone s t k ∧
          (t.coreOf k).inputErr = (if c.inputErr.isSome then c.inputErr else some (n, 0x0A)) ∧ (t.coreOf k).rows = c.rows) ∧
      (∀ cause owner, s.violation (c.requester s.pkg .fetch) h (some 1) = some (cause, owner) →
        (recCoef r = false → s.known h = some d → p.fmtOk d = true) → recRow r + s.inputRows h r ≤ c.tk.rows →
        Completes (.phaseInputFetch k (n + 1)) s fun t => (t.coreOf k).inputsIn = n :: c.inputsIn ∧
          (t.coreOf k).inputErr = (if c.inputErr.isSome then c.inputErr else some (n, cause)) ∧ (t.coreOf k).rows = c.rows ∧
          (t.coreOf k).arch = c.arch) ∧
      (∀ rb m s', s.violation (c.requester s.pkg .fetch) h (some 1) = none → d.layout ≠ 2 → recCoef r = false →
        p.fmtOk d = true → p.crosses d = false → inner cs 0 % d.blk = 0 → recRows r = 1 → recRow r + 1 ≤ c.tk.rows →
        p.run d 0 = some rb →
        (∀ x ∈ p.pieces d, ∀ y ∈ s.span h d (mget c.inPins (hKey h)) x.1 x.2, y ≠ .missing) →
        s.readSectors k h d (mget c.inPins (hKey h)) (sectorsOf rb.all) = (.ok m, s') →
        Completes (.phaseInputFetch k (n + 1)) s fun t => ObjectMoves s s' ∧ CoreAlone s' t k ∧
          (t.coreOf k).inputsIn = n :: c.inputsIn ∧ (t.coreOf k).inputErr = c.inputErr ∧ (t.coreOf k).arch = c.arch ∧
          (t.coreOf k).physRow (c.tk.base + recRow r) =
            ⟨rowOf d.w (rb.data.map (pieceBits m)) (rb.scale.map (pieceBits m)) (rb.sup.map (pieceBits m)),
              if recTagC r then tagC else tagS⟩ ∧
          ∀ q, q ≠ c.tk.base + recRow r → (t.coreOf k).physRow q = (s'.coreOf k).physRow q)) ∧
    (s.phaseReady c = false → Completes (.phaseStart k) s (· = s)) ∧
    (s.phaseReady c = true → (∀ n, n < 16 → (c.chan false n).err = false) → c.inputErr = none → c.pend = [] → c.rowPend = [] →
      (∀ e ∈ s.agenda, ∀ a, e.2 ≠ .valueArrives k a) → (∀ n, n < 8 → recKind (c.input n) ≠ 3) →
      Completes (.phaseStart k) s fun t => t = s.putCore (t.coreOf k) ∧
        let d := t.coreOf k
        d.phase = c.inPhase ∧ d.inPhase = c.inPhase + 1 ∧ d.waiting = false ∧ d.issueAt = s.cycle + 4 ∧ d.fetching = false ∧
        d.rows = c.rows ∧ d.phaseCk = d.ckpt ∧ d.ckpt = d.arch ∧
        (c.tk.isreg = 0 → d.arch = c.arch) ∧
        (0 < c.tk.isreg → c.tk.isreg < 64 →
          (∀ n, n < 64 → (d.arch.getX (BitVec.ofNat 6 c.tk.isreg)).getLsbD n = decide (n < 8 ∧ recKind (c.input n) = 2 ∧
            (vget c.pairs (recRow (c.input n)) {}).bar = .timedout)) ∧
          (∀ r, r ≠ BitVec.ofNat 6 c.tk.isreg → d.arch.getX r = c.arch.getX r)))

/-! ### Faults, traps and the system words (R314..R317, R334..R342) -/

/-- Taking a fault. On a compute core (R314, R315, R317): no word of the group takes effect, results issued before stay on their way, the
core halts with the record of R315, the package fault queue names it once, and source 0 pends on the system cores. On a system core
(R339): SEPC, SCAUSE and SINFO are written, IE goes to PIE and clears, and the group at SVEC issues 3 cycles later; with IE at 0 the core
halts. That the fault of a system core with IE at 0 leaves SEPC, SCAUSE, SINFO and the fault record as they were is the model's choice
(notes/assumptions/46.md). -/
def Obligations.FaultTaking : Prop :=
  ∀ (s : State) (c : BitVec 8) (info aux : Word),
    let k := s.core
    let t := s.fault c info aux
    let rec_ (lo n : Nat) : BitVec n := t.core.frec.extractLsb' lo n
    let at_ (w : Nat) : Word := BitVec.ofNat 64 (w / 3 * 4 + w % 3)
    let quiet (c : Core) : Core := { c with taken := none, loopsNext := none, vout := none, raised := t.core.raised }
    (k.isSys = false → c ≠ 0x18 →
      t.core = { quiet k with
        state := .halted, arch := { k.arch with pc := at_ k.gstart }, frec := t.core.frec } ∧
      rec_ 0 8 = c ∧ rec_ 8 4 = BitVec.ofNat 4 k.wpos ∧ rec_ 12 2 = 0 ∧ rec_ 14 7 = k.arch.flags ∧
      rec_ 21 7 = k.arch.vfmt.extractLsb' 8 7 ∧ rec_ 28 4 = BitVec.ofNat 4 k.phase ∧ rec_ 32 160 = 0 ∧
      rec_ 192 32 = (at_ k.gstart).truncate 32 ∧ rec_ 224 32 = (at_ k.gend).truncate 32 ∧ rec_ 256 32 = BitVec.ofNat 32 k.tk.tile ∧
      rec_ 288 16 = BitVec.ofNat 16 k.tk.node ∧ rec_ 304 16 = BitVec.ofNat 16 k.tk.rid ∧ rec_ 320 64 = BitVec.ofNat 64 s.cycle ∧
      rec_ 384 64 = info ∧ rec_ 448 64 = aux ∧
      t.faultQ = (if k.id ∈ s.faultQ then s.faultQ else s.faultQ ++ [k.id]) ∧
      (∀ x ∈ s.parked, x.isSys = true → ∃ y ∈ t.parked, y = { x with sipend := x.sipend ||| 1 }) ∧
      t = { s with core := t.core, parked := t.parked, faultQ := t.faultQ, agenda := t.agenda, fresh := t.fresh }) ∧
    (k.isSys = true →
      (k.sstat.getLsbD 0 = true → t = { s with core := { quiet k with
        wfi := false, sepc := at_ k.gstart, scause := c.zeroExtend 64, sinfo := info, sstat := 2, arch := { k.arch with pc := k.svec },
        issueAt := s.cycle + 3 } }) ∧
      (k.sstat.getLsbD 0 = false → t = { s with core := { quiet k with
        wfi := false, state := .halted, arch := { k.arch with pc := at_ k.gstart } } }))

/-- trap, sysc, brk, tfence, chk, vchk and ident (R335..R338): each either has no effect and goes on, or faults with its cause, INFO and
AUX; PC names the word and NPC the word after it; ident gives the identity word after 1 cycle. A privileged word on a compute core raises
cause 0x03 with the word as INFO and has no other effect (R29, R334). -/
def Obligations.ServiceWords : Prop :=
  (∀ (s : State) (a b : XReg) (sr : BitVec 12), s.core.isSys = false →
     ∀ i ∈ [Instr.eret, .wfi, .mfsr a sr, .mtsr a sr, .pld a b, .pst a b, .pord, .hinv a, .wpset a b, .wpclr a], i.wf = true →
       exec i s = .next (s.fault 0x03 s.wordInfo 0)) ∧
  ((∀ (s : State) (i : BitVec 16),
     ((Instr.trap i).wf = true → exec (.trap i) s = .next (s.fault 0x13 (BitVec.ofNat 64 i.toNat) 0)) ∧
     ((Instr.sysc i).wf = true → exec (.sysc i) s = .next (s.fault 0x13 (BitVec.ofNat 64 (i.toNat + 2 ^ 16)) 0)) ∧
     ((Instr.brk i).wf = true → exec (.brk i) s = .next (s.fault 0x12 (BitVec.ofNat 64 i.toNat) 0)) ∧
     (s.core.gend = s.core.gstart + 1 → ∀ q ∈ [(Instr.trap i, (0x13 : BitVec 8), i.toNat), (.sysc i, 0x13, i.toNat + 2 ^ 16),
         (.brk i, 0x12, i.toNat)], q.1.wf = true → ∃ t, exec q.1 s = .next t ∧
       let at_ (w : Nat) : Word := BitVec.ofNat 64 (w / 3 * 4 + w % 3)
       (s.core.isSys = false → t.core.state = .halted ∧ t.core.frec.extractLsb' 0 8 = q.2.1 ∧
         t.core.frec.extractLsb' 384 64 = BitVec.ofNat 64 q.2.2 ∧ t.core.frec.extractLsb' 192 32 = (at_ s.core.gstart).truncate 32 ∧
         t.core.frec.extractLsb' 224 32 = (at_ (s.core.gstart + 1)).truncate 32) ∧
       (s.core.isSys = true → s.core.sstat.getLsbD 0 = true → t.core.scause = q.2.1.zeroExtend 64 ∧
         t.core.sinfo = BitVec.ofNat 64 q.2.2 ∧ t.core.sepc = at_ s.core.gstart))) ∧
   (∀ (s : State) (a b : XReg),
     let on := s.core.arch.flags &&& s.core.arch.vfmt.extractLsb' 8 7
     let v := s.getV a
     let w := s.getV b
     (on = 0 → Completes .tfence s (· = s)) ∧
     (on ≠ 0 → exec .tfence s = .next (s.fault 0x14 (BitVec.ofNat 64 on.toNat) 0)) ∧
     ((Instr.chk a b).wf = true → s.getX a = s.getX b → Completes (.chk a b) s (· = s)) ∧
     ((Instr.chk a b).wf = true → s.getX a ≠ s.getX b → exec (.chk a b) s = .next (s.fault 0x15 (s.getX a) (s.getX b))) ∧
     ((56 ≤ a.toNat ∨ 56 ≤ b.toNat) → exec (.vchk a b) s = .next (s.fault 0x01 s.wordInfo 0)) ∧
     ((Instr.vchk a b).wf = true →
       ((∀ i, i < s.visible 8 → elem 8 v.data i = elem 8 w.data i) → v.tag = w.tag → Completes (.vchk a b) s (· = s)) ∧
       ((∀ i, i < s.visible 8 → elem 8 v.data i = elem 8 w.data i) → v.tag ≠ w.tag →
         exec (.vchk a b) s = .next (s.fault 0x15 512 0)) ∧
       (∀ i, i < s.visible 8 → elem 8 v.data i ≠ elem 8 w.data i → (∀ j, j < i → elem 8 v.data j = elem 8 w.data j) →
         exec (.vchk a b) s = .next (s.fault 0x15 (BitVec.ofNat 64 i) 0)))) ∧
   (∀ (s : State) (d : XReg), (Instr.ident d).wf = true → s.core.id < 1024 → s.pkg < 512 →
     let c := s.core
     let die := if 776 ≤ c.id then 25 else if 768 ≤ c.id then 24 else c.id / 32
     let phys := (if c.isSys then c.id - 768 else c.remap.getD
       (((List.range 34).filter fun p => (Config.partCen die).getLsbD p).getD (c.id % 32) 0)) % 64
     GivesX (.ident d) s d (BitVec.ofNat 64 ((if c.isSys = false ∧ c.tk.lock = true then 8 else 0) + (if c.isSys then 16 else 0) +
       die * 2 ^ 5 + phys * 2 ^ 10 + c.id * 2 ^ 16 + s.pkg * 2 ^ 31 + Config.partRev.toNat * 2 ^ 40 + 0xD24A * 2 ^ 48)) 1))

/-- eret, wfi, mfsr, mtsr, pord, hinv, wpset, wpclr on a system core (R339..R342), and an interrupt taken; pld, pst, the registers of
control space and the fault queue (R317, R340): a physical load's value is on its way, a store changes its 8 bytes alone, an address out
of range faults with cause 0x0A, and a read of the fault queue takes its oldest entry. That the WATCH bit stands after wpset is the
model's choice (notes/assumptions/37.md), and so are which interrupt is taken, the lowest source first, with its pending bit cleared but
for source 0 and a free SINFO (notes/assumptions/21.md), and that pld and pst are performed in the step of the word
(notes/assumptions/5.md). -/
def Obligations.SystemWords : Prop :=
  (∀ (s : State), s.core.isSys = true →
     let c := s.core
     let live (w : Word) : Prop := s.violation ⟨(s.desc (w &&& ~~~15#64)).part, .core, c.id, s.pkg⟩ (w &&& ~~~15#64) none = none
     let gone (part n : Nat) (w : Watch) : Bool := ¬ (w.part = part ∧ w.n = n)
     Completes .eret s (fun t => t = { s with core := { c with
       taken := some c.sepc, sstat := if c.sstat.getLsbD 1 then (c.sstat &&& 2) + 1 else c.sstat &&& 2 } }) ∧
     Completes .wfi s (fun t => t = { s with core := { c with wfi := decide (c.sipend &&& c.sien.truncate 7 = 0) } }) ∧
     Completes .pord s (· = s) ∧
     (∀ d (sr : BitVec 12), (Instr.mfsr d sr).wf = true →
       (sr = 0 → GivesX (.mfsr d sr) s d c.sstat 1) ∧ (sr = 1 → GivesX (.mfsr d sr) s d c.sepc 1) ∧
       (sr = 2 → GivesX (.mfsr d sr) s d c.scause 1) ∧ (sr = 3 → GivesX (.mfsr d sr) s d c.sinfo 1) ∧
       (sr = 4 → GivesX (.mfsr d sr) s d c.svec 1) ∧ (sr = 5 → GivesX (.mfsr d sr) s d (BitVec.ofNat 64 c.sipend.toNat) 1) ∧
       (sr = 6 → GivesX (.mfsr d sr) s d c.sien 1) ∧ (sr = 7 → GivesX (.mfsr d sr) s d (BitVec.ofNat 64 s.cycle) 1) ∧
       (∀ i, i < 4 → sr.toNat = 0x10 + i → GivesX (.mfsr d sr) s d (vget c.sscr i 0) 1)) ∧
     (∀ d (sr : BitVec 12), (Instr.mtsr d sr).wf = true →
       let w := s.getX d
       let sets (e : Core) : Prop := Completes (.mtsr d sr) s (fun t => t = { s with core := e })
       (sr = 0 → sets { c with sstat := w &&& 3 }) ∧ (sr = 1 → sets { c with sepc := w }) ∧ (sr = 2 → sets { c with scause := w }) ∧
       (sr = 3 → sets { c with sinfo := w }) ∧ (sr = 4 → sets { c with svec := w }) ∧ (sr = 6 → sets { c with sien := w &&& 0x7F }) ∧
       (∀ i, i < 4 → sr.toNat = 0x10 + i → sets { c with sscr := vset c.sscr i w })) ∧
     (∀ a, (Instr.hinv a).wf = true → Completes (.hinv a) s fun t =>
       let keep (l : List Nat) : List Nat := if s.getX a = 0 then [] else l.filter fun k => k ≠ hKey (s.getX a)
       (∀ k, t.coreOf k = { s.coreOf k with xlate := keep (s.coreOf k).xlate }) ∧
       t = { s with core := t.core, parked := t.parked, far := if s.getX a = 0 then [] else mdel s.far (hKey (s.getX a)) }) ∧
     (∀ a b, live (s.getX a) →
       let x := s.getX a
       let part := (s.desc (x &&& ~~~15#64)).part
       let n := x.toNat % 16
       ((Instr.wpset a b).wf = true → Completes (.wpset a b) s fun t => ∃ descs far fresh,
         t = { s with watches := { part, n, slot := hKey x % 2 ^ 23, home := hHome x, lo := (s.getX b).toNat, hi := (s.getX (b + 1)).toNat } ::
           s.watches.filter (gone part n),
                      descs, far, fresh } ∧
         let watch (m m' : List (Nat × Desc)) : Prop :=
           m' = m ∨ m' = (mget m (hKey x)).elim m fun d => mput m (hKey x) (Desc.set d 58 1 1)
         watch s.descs descs ∧ watch s.far far ∧ fresh = s.fresh + 1) ∧
       ((Instr.wpclr a).wf = true → Completes (.wpclr a) s fun t => t = { s with watches := s.watches.filter (gone part n) })) ∧
     (∀ src, src < 7 → c.state = .running → c.sstat.getLsbD 0 = true → (c.sipend &&& c.sien.truncate 7).getLsbD src = true →
       (∀ j, j < src → (c.sipend &&& c.sien.truncate 7).getLsbD j = false) →
       Completes (.interrupt c.id) s fun t => ∃ info, t = { s with
         core := { c with
           sepc := c.arch.pc, scause := BitVec.ofNat 64 (0x80 + src), sinfo := info, sstat := 2, arch := { c.arch with pc := c.svec },
           issueAt := s.cycle + 3, wfi := false, sipend := if src = 0 then c.sipend else c.sipend &&& ~~~(BitVec.ofNat 7 (2 ^ src)) }
         fresh := s.fresh + 1 })) ∧
  (∀ (s : State),
     let c := s.core
     let arrives (t : State) (d : XReg) (w : Word) : Prop := ∃ due, s.cycle < due ∧
       (due * 16 + ptLand, Instr.valueArrives c.id (.x d w)) ∈ t.agenda ∧
       t.core = { waitingX c d s.cycle with physOut := c.physOut ++ [d], sipend := t.core.sipend }
     (c.isSys = true → ∀ d a,
       let p := (s.getX a).toNat
       let x : Sector := ⟨p / 64 * 64, 1, false⟩
       let refused : Prop := 2 ^ 52 ≤ p ∨ p % 8 ≠ 0 ∨ (2 ≤ p / 2 ^ 44 % 4 ∧ p / 2 ^ 46 % 64 ≠ 0) ∨
         (p / 2 ^ 44 % 4 = 2 ∧ 768 ≤ p % 2 ^ 44 / 2 ^ 22)
       ((Instr.pld d a).wf = true →
         (refused → exec (.pld d a) s = .next (s.fault 0x0A 0 (s.getX a))) ∧
         (p < 2 ^ 52 → p % 8 = 0 → paSpace p < 2 → s.sectorOk x = true → s.refusedAt c.id x = false → s.migrated x.line = (x.line, false) → Completes (.pld d a) s fun t =>
           arrives t d ((s.plainSector (p / 64)).extractLsb' (8 * (p % 64)) 64) ∧
           t = { s with core := t.core, agenda := t.agenda, fresh := t.fresh }) ∧
         (p < 2 ^ 52 → p % 8 = 0 → paSpace p < 2 → s.sectorOk x = false → exec (.pld d a) s = .next (s.fault 0x18 (BitVec.ofNat 64 x.pa) 0)) ∧
         (∀ k, k < 768 → p = 0x300001000000 + k * 0x1000 + 0x18 → Completes (.pld d a) s fun t => arrives t d (s.coreOf k).ctxa ∧
           t = { s with core := t.core, agenda := t.agenda, fresh := t.fresh })) ∧
       ((Instr.pst a d).wf = true →
         (refused → exec (.pst a d) s = .next (s.fault 0x0A 0 (s.getX a))) ∧
         (p < 2 ^ 52 → p % 8 = 0 → paSpace p < 2 → s.sectorOk x = true → s.refusedAt c.id x = false → s.migrated x.line = (x.line, false) →
           (∀ u, s.part? (paKey p) = some u → u.undo.st ≠ .opened ∧ u.undo.st ≠ .rolling) →
           Completes (.pst a d) s (StoredAs s · [.ok x true] fun _ j old =>
             if 8 * (p % 64) ≤ j ∧ j < 8 * (p % 64) + 64 then (s.getX d).getLsbD (j - 8 * (p % 64)) else old)) ∧
         (∀ k, k < 768 → p = 0x300001000000 + k * 0x1000 + 0x18 → s.heldBy c.id = none → Completes (.pst a d) s fun t =>
           t = s.putCore { s.coreOf k with ctxa := s.getX d }))) ∧
     (∀ k w, k < 768 → Completes (.registerWrite (0x300001000000 + k * 0x1000 + 8) w) s fun t =>
       t = s.putCore { s.coreOf k with rpc := w }) ∧
     (∀ d i l, s.faultQ = i :: l → Completes (.faultQueueRead d) s fun t => arrives t d (BitVec.ofNat 64 (2 ^ 63 + i)) ∧ t.faultQ = l ∧
       (l ≠ [] → t = { s with core := t.core, agenda := t.agenda, fresh := t.fresh, faultQ := l })) ∧
     (∀ d, s.faultQ = [] → Completes (.faultQueueRead d) s fun t => arrives t d 0 ∧
       t = { s with core := t.core, agenda := t.agenda, fresh := t.fresh }))

/-! ### Control of a core from outside it (R317..R330) -/

/-- No value is outstanding and no engine of a core has work that a resumption would take up again (R40, R142, R159, R172, R245), and its
text is loaded. -/
def NothingHeld (s : State) (c : Core) : Prop :=
  c.text ≠ [] ∧ c.pend = [] ∧ c.rowPend = [] ∧ c.varOut = 0 ∧ (∀ n, n < 4 → vget c.arch.hold n none = none) ∧ c.mtile = none ∧ c.wave = none ∧ c.discarding = false ∧
  (∀ b n, n < 16 → ∀ x ∈ (c.chan b n).queue, x.started = true) ∧
  ∀ n, n < 8 → (vget c.streams n {}).walking = false ∨ ∃ e ∈ s.agenda, e.2 = .streamVectorFetched c.id n

/-- A core runs again at an address: its next group issues one cycle later, and nothing else has changed (R40, R318). -/
def RunsAt (s t : State) (c : Core) (pc : Word) : Prop :=
  t = s.putCore { c with
    state := .running, wasHalt := false, arch := { c.arch with pc := pc }, issueAt := s.cycle + 1, raised := none, taken := none
    loopsNext := none, vout := none, resolved := false, accepted := none, asking := none, resumeAt := none, wanted := [] }

/-- STOP and the collector (R318..R321), RESUME, RESUME_NEXT, RESUME_AT, ROLLBACK and the writes of XREG (R318, R324): in the states that
allow each, what it does to the core; in the others, nothing. -/
def Obligations.CoreControl : Prop :=
  ∀ (s : State) (k : Nat), k < 768 →
    let c := s.coreOf k
    let halts : Prop := c.state = .halted ∨ c.state = .stopped
    let npc : Word := BitVec.ofNat 64 (c.frec.toNat / 2 ^ 224 % 2 ^ 32)
    ((¬ (c.state = .running ∨ c.state = .halted) ∨ c.ending = true) → Completes (.stop k) s (· = s)) ∧
    ((c.state = .running ∨ c.state = .halted) → c.ending = false → Completes (.stop k) s fun t => CoreAlone s t k ∧ t.fresh = s.fresh ∧
      t.coreOf k = { c with
        state := .stopping, wasHalt := decide (c.state = .halted), clack := 0, resolved := false, asking := (t.coreOf k).asking
        resumeAt := none } ∧
      (∀ e ∈ t.agenda, e ∈ s.agenda ∧ ∀ b n, e.2 ≠ .channelCommandStart k b n) ∧
      (∀ e ∈ s.agenda, (∀ b n, e.2 ≠ .channelCommandStart k b n) → e.2 ≠ .resolutionComplete k → e ∈ t.agenda)) ∧
    (c.state ≠ .stopping → Completes (.collectorDone k) s (· = s)) ∧
    (c.state = .stopping → Completes (.collectorDone k) s fun t =>
      let d := t.coreOf k
      d.state = .stopped ∧ d.wloads = [] ∧ (∀ w ∈ c.wloads, (d.slot w.slot).state = .empty) ∧ d.rows = c.rows ∧ d.ckptWave = c.wave ∧
      (∀ r, d.arch.getX r = c.arch.getX r ∧ d.arch.getV r = c.arch.getV r) ∧ d.arch.pc = c.arch.pc ∧ d.ckpt.pc = c.arch.pc ∧
      (c.wloads = [] → c.pend = [] → c.rowPend = [] → (∀ e ∈ s.agenda, ∀ a, e.2 ≠ .valueArrives k a) → d.arch = c.arch ∧ d.ckpt = c.arch) ∧
      ∀ x ∈ s.parked, x.isSys = true → ∃ y ∈ t.parked, y = { x with sipend := x.sipend ||| 0x20 }) ∧
    (∀ i ∈ [Instr.cctlResume k, .resumeNext k, .resumeAt k, .rollback k], ¬ halts ∨ c.discarding = true → Completes i s (· = s)) ∧
    (halts → NothingHeld s c →
      Completes (.cctlResume k) s (RunsAt s · c c.arch.pc) ∧
      Completes (.resumeNext k) s (RunsAt s · c npc) ∧
      (c.rpc.toNat % 4 ≠ 3 → Completes (.resumeAt k) s (RunsAt s · c c.rpc))) ∧
    (halts → c.discarding = false → c.rpc.toNat % 4 = 3 → Completes (.resumeAt k) s fun t =>
      (t.coreOf k).state = .halted ∧ (t.coreOf k).frec.toNat % 256 = 0x01 ∧ (t.coreOf k).rows = c.rows ∧ t.mem = s.mem) ∧
    (halts → c.discarding = false → c.varOut ≠ 0 → Completes (.cctlResume k) s fun t =>
      t = s.putCore { c with resumeAt := some c.arch.pc }) ∧
    (halts → c.discarding = false → c.varOut = 0 → c.text ≠ [] → c.pend = [] → c.rowPend = [] → c.mtile = none →
      (∀ b n, n < 16 → ∀ x ∈ (c.chan b n).queue, x.started = true) → ∀ w r, c.wave = some w → w.stop = some r →
      Completes (.cctlResume k) s fun t => (t.coreOf k).state = .running ∧
        (t.coreOf k).wave = some { w with stop := none, s := w.s + (s.cycle + r) - w.T, T := s.cycle + r } ∧
        ((s.cycle + r) * 16 + ptWave, Instr.waveletCommandWrite k) ∈ t.agenda) ∧
    (halts → NothingHeld s c → c.ckptTile = none → c.ckptWave = none → c.ckptLate = [] → c.lzresOut = [] → c.gkickOut = [] →
      (∀ e ∈ s.agenda, ∀ a, e.2 ≠ .valueArrives k a) → Completes (.rollback k) s fun t =>
      let d := t.coreOf k
      d.state = .running ∧ d.arch = c.ckpt ∧ d.issueAt = s.cycle + 1 ∧ d.mcmds = [] ∧ d.wloads = [] ∧ d.fe = c.fe ∧ d.cp = c.cp ∧
      d.streams = c.streams ∧ d.pairs = c.pairs ∧ d.events = c.events ∧ d.pins = c.pins ∧ t.mem = s.mem ∧
      ∀ p, d.physRow p = ((c.rowLog.filter fun e =>
        decide (e.interval = c.interval) && decide (e.writer ≠ .fetch) && decide (e.row = p)).getLast?).elim (c.physRow p) (·.old)) ∧
    (∀ r w, ¬ halts → Completes (.xregWrite k r w) s (· = s)) ∧
    (∀ r w, halts → Completes (.xregWrite k r w) s fun t => t = s.putCore (t.coreOf k) ∧
      (t.coreOf k).arch.getX r = (if r = 0 then 0 else w) ∧ (∀ q, q ≠ r → (t.coreOf k).arch.getX q = c.arch.getX q) ∧
      (∀ q, (t.coreOf k).arch.fullX q = (c.arch.fullX q || decide (q = r))) ∧ (t.coreOf k).rows = c.rows ∧
      { (t.coreOf k).arch with x := c.arch.x, xFull := c.arch.xFull } = c.arch)

/-- SAVE, RESTORE and DISCARD (R293, R318, R322, R323). A saved context stands in the save area that CTXA names, and the core holds no
task; a restored one is what was saved, but for what belongs to the core; the task of an image that no longer reads as it was written, its
key no longer in force or its bytes changed, is abandoned; that changed bytes lose the task is the model's choice
(notes/assumptions/22.md). The time that each takes is free within the bound of its size. -/
def Obligations.SaveAndRestore : Prop :=
  ∀ (s : State) (k : Nat), k < 768 →
    let c := s.coreOf k
    let area := c.ctxa.toNat % 2 ^ 46 / 65536 * 65536
    let later (i : Instr) (e : Instr) (bytes : Nat) : Prop := Completes i s fun t => ∃ d, d < 3400 ∧
      t = { s with agenda := agendaPut s.agenda ((s.cycle + bytes / 256 + 1 + d) * 16 + ptEnd) e, fresh := s.fresh + 1 }
    (c.state ≠ .stopped → Completes (.save k) s (· = s)) ∧
    (c.state = .stopped → c.task ≠ none → c.discarding = false → (∀ e ∈ s.agenda, e.2 ≠ .saveComplete k) →
      later (.save k) (.saveComplete k) c.imageBytes) ∧
    (c.state = .stopped → c.task ≠ none → s.l2Holds k = false → s.leaving = [] → Completes (.saveComplete k) s fun t =>
      let ctx := { c with fetching := false, inputsIn := [], inputErr := none }
      mget t.saves area = some { tag := s.keyTag c.tk.part, num := s.fresh, ctx } ∧
      (t.coreOf k).state = .saved ∧ (t.coreOf k).task = none ∧ (t.coreOf k).pend = [] ∧ (t.coreOf k).mcmds = [] ∧
      (∀ p ∈ s.pinned, p.1 = k → (1024 + area / 65536, p.2) ∈ t.pinned) ∧
      ∃ m, MemoryMoves s m ∧ t = { m with
        core := t.core, parked := t.parked, agenda := t.agenda, fresh := t.fresh, saves := t.saves, pinned := t.pinned }) ∧
    (∀ im, c.state = .idle ∨ c.state = .saved → c.task = none → mget s.saves area = some im → im.ctx.id = k →
      (∀ e ∈ s.agenda, e.2 ≠ .restoreComplete k) → later (.restore k) (.restoreComplete k) im.ctx.imageBytes) ∧
    ((¬ (c.state = .idle ∨ c.state = .saved) ∨ mget s.saves area = none) → Completes (.restore k) s (· = s)) ∧
    (∀ im, c.task = none → mget s.saves area = some im → im.ctx.id = k →
      s.l2Holds k = false → s.leaving = [] →
      (s.imageReads im area = true → s.rowsFit im.ctx.tk k = false → Completes (.restoreComplete k) s fun t =>
        t = { s with agenda := agendaPut s.agenda ((s.cycle + 1) * 16 + ptEnd) (.restoreComplete k) }) ∧
      (s.imageReads im area = true → s.rowsFit im.ctx.tk k = true → Completes (.restoreComplete k) s fun t =>
        let n := s.objectRows k
        let ctx := im.ctx.rebased n
        mget t.saves area = none ∧
        t.coreOf k = { ctx with
          state := if im.ctx.wasHalt then .halted else .stopped, credits := c.credits, aging := c.aging, ltime := (t.coreOf k).ltime
          l1 := (t.coreOf k).l1, l1sleep := none, xlate := c.xlate, remap := c.remap, ctxa := c.ctxa
          errand := c.errand, rpc := c.rpc, padPend := (t.coreOf k).padPend
          rows := c.rows.filter (fun r => decide (r.1 < n)) ++ ctx.rows } ∧
        (im.ctx.tk.base = im.ctx.objRows →
          (∀ p ∈ im.ctx.rows, p.1 < im.ctx.tk.base + im.ctx.tk.rows ∨ 8192 - im.ctx.tk.carve ≤ p.1) →
          (t.coreOf k).tk.base = n ∧ ∀ r, r < im.ctx.tk.rows → (t.coreOf k).physRow (n + r) = im.ctx.physRow (im.ctx.tk.base + r)) ∧
        ∃ m, MemoryMoves s m ∧ t = { m with
          core := t.core, parked := t.parked, agenda := t.agenda, fresh := t.fresh, saves := t.saves, pinned := t.pinned }) ∧
      (s.imageReads im area = false → Completes (.restoreComplete k) s fun t =>
        (t.coreOf k).state = .idle ∧ (t.coreOf k).task = none ∧ (t.coreOf k).arch = c.arch ∧ mget t.saves area = none)) ∧
    (c.state = .halted ∨ c.state = .stopped → c.task ≠ none → c.discarding = false → c.mtile = none →
      (∀ w, c.wave = some w → w.stop = none) → Completes (.discard k) s fun t =>
      let keep (q : Chan) : Chan := { q with queue := q.queue.filter (·.started) }
      t.coreOf k = { c with
        discarding := true, fe := c.fe.map keep, cp := c.cp.map keep, waiting := false, ending := false
        asking := none, recover := none, resumeAt := none, mwaits := [], streams := Vector.replicate 8 {} } ∧
      CoreAlone s t k ∧ ∀ e ∈ t.agenda, e ∈ s.agenda ∧ ∀ b n, e.2 ≠ .channelCommandStart k b n) ∧
    (c.state = .stopped → c.task ≠ none → c.discarding = false → c.mtile = none → ∀ w r, c.wave = some w → w.stop = some r →
      Completes (.discard k) s fun t =>
        (t.coreOf k).wave = some { w with stop := none, s := w.s + (s.cycle + r) - w.T, T := s.cycle + r } ∧
        ((s.cycle + r) * 16 + ptWave, Instr.waveletCommandWrite k) ∈ t.agenda) ∧
    (c.state = .idle ∨ c.state = .saved → Completes (.discard k) s fun t => (t.coreOf k).state = .idle ∧ mget t.saves area = none ∧
      t.mem = s.mem) ∧
    (c.state = .running → Completes (.discard k) s (· = s)) ∧
    (c.discarding = false → Completes (.discardComplete k) s (· = s)) ∧
    (c.discarding = true → Completes (.discardComplete k) s fun t =>
      let d := t.coreOf k
      d.state = .idle ∧ d.task = none ∧ d.discarding = false ∧ (c.pend = [] → d.arch = c.arch) ∧ (c.pend = [] → c.rowPend = [] → d.rows = c.rows) ∧
      (∀ n, n < 16 → (vget d.pairs n {}).zone = .closed) ∧
      (∀ n, n < 64 → (vget d.events n {}).st = .abandoned) ∧
      (∀ p ∈ t.pinned, p.1 ≠ k) ∧ t.mem = s.mem)

/-- Automatic recovery (R327, R330), and Lovage's answer to a core (R186, R292, R335, R367). Recovery of a HALTED core, the return of
STATE to what it was, and an end point counted in groups are the model's choice (notes/assumptions/24.md), and so is the record that
Lovage keeps of a fault (notes/assumptions/11.md). -/
def Obligations.Recovery : Prop :=
  ∀ (s : State) (k : Nat), k < 768 →
    let c := s.coreOf k
    let engine (i : Instr) : Prop := i = .mtilePassStart k ∨ i = .waveletCommandWrite k ∨
      (∃ q m, i = .resultRowPush k q m) ∨ (∃ q, i = .heldRowEntersQueue k q) ∨ ∃ n, i = .weightLoadComplete k n
    let recovers (i : Instr) (cause : BitVec 8) (info aux : Word) : Prop := Completes i s fun t => ∃ d : Nat, CoreAlone s t k ∧
      t.coreOf k = { c with
        state := .recovering, mcmds := [], wloads := [], mtile := none, wave := none, pushHeld := [], mwaits := []
        recover := some { pc := c.arch.pc, back := c.state, cause, info, aux, endAt := c.groups, since := s.cycle + 1 + d } } ∧
      ∀ e, e ∈ t.agenda ↔ e ∈ s.agenda ∧ ¬ engine e.2
    let field (d : Core) (lo n : Nat) : BitVec n := d.frec.extractLsb' lo n
    let cause := c.frec.toNat % 256
    let info : Word := field c 384 64
    let npc : Word := (field c 224 32).zeroExtend 64
    (c.task ≠ none → c.discarding = false → (c.state = .running ∨ c.state = .stopping ∨ c.state = .halted) → c.recover = none →
      (∀ m addr, recovers (.matrixDataError k m addr) 0x17 addr (match m with | .parity => 1 | .residue => 2 | .accEcc => 3)) ∧
      (∀ n addr, c.tk.lock = true → recovers (.lockstepMismatch k n addr) 0x16 addr (BitVec.ofNat 64 n))) ∧
    (∀ n addr, c.tk.lock = false → Completes (.lockstepMismatch k n addr) s (· = s)) ∧
    (∀ agree, c.recover = none → Completes (.recoveryComplete k agree) s (· = s)) ∧
    (∀ r, c.recover = some r →
      Completes (.recoveryComplete k true) s (fun t => t = s.putCore { c with
        recover := none, retries := c.retries + 1, state := r.back }) ∧
      Completes (.recoveryComplete k false) s fun t =>
        let d := t.coreOf k
        d.state = .retired ∧ d.recover = none ∧ d.retries = c.retries ∧ d.mcmds = [] ∧ d.wloads = [] ∧ d.mtile = none ∧ d.wave = none ∧
        field d 0 8 = r.cause ∧ field d 384 64 = r.info ∧ field d 448 64 = r.aux ∧ field d 192 32 = r.pc.truncate 32 ∧ d.arch.pc = r.pc ∧
        k ∈ t.faultQ ∧ t.mem = s.mem) ∧
    (c.state = .halted → c.discarding = false → s.unserved c = false → cause = 0x12 → Completes (.missingObjectResolved k) s (· = s)) ∧
    (c.state = .halted → NothingHeld s c → s.unserved c = false → cause = 0x13 → info.getLsbD 16 = true → Completes (.missingObjectResolved k) s fun t =>
      let d := t.coreOf k
      d.state = .running ∧ d.arch.pc = npc ∧ d.issueAt = s.cycle + 1 ∧ d.rows = c.rows ∧ t.mem = s.mem ∧
      ∀ r, (r = 0 ∨ 8 ≤ r.toNat) → d.arch.getX r = c.arch.getX r) ∧
    (c.state = .halted → NothingHeld s c → s.unserved c = false → cause = 0x0B → Completes (.missingObjectResolved k) s fun t =>
      (t.coreOf k).state = .running ∧ (t.coreOf k).arch = c.arch ∧ (t.coreOf k).issueAt = s.cycle + 1) ∧
    (c.state = .halted → s.unserved c = false → cause ≠ 0x0B → cause ≠ 0x1C → cause ≠ 0x12 → cause ≠ 0x13 →
      (s.effFpol c.tk.rid = 2 → cause = 0x14 → NothingHeld s c → Completes (.missingObjectResolved k) s (RunsAt s · c npc)) ∧
      (c.task ≠ none → c.discarding = false → c.mtile = none →
        (s.effFpol c.tk.rid = 1 ∨ s.effFpol c.tk.rid = 2 ∧ cause ≠ 0x14) → Completes (.missingObjectResolved k) s fun t =>
          (t.coreOf k).state = .halted ∧ (t.coreOf k).discarding = true ∧ (t.coreOf k).arch = c.arch ∧ t.mem = s.mem ∧
          t.faultLog = (k, c.frec, false) :: s.faultLog))

/-! ### Caches, controllers and keys (R268..R288, R332, R346) -/

/-- Logical time (R271, R272) and the directory (R275, R276): a tick raises LTIME of every compute core; a rebase takes 2^38 from every
timestamp of its die and drops L1 copies; a read request puts the die in the set of the entry that covers the line, ownership makes it the
one member, an invalidation leaves no copy of its region; two buddies of one state and set, unused for 65,536 cycles, become one. -/
def Obligations.CacheEvents : Prop :=
  (∀ s : State, Completes .ltimeTick s fun t =>
    (∀ k, t.coreOf k = if k < 768 then { s.coreOf k with ltime := (s.coreOf k).ltime + 1 } else s.coreOf k) ∧
    (∀ d, d < 24 → t.die d = { s.die d with idle := (s.die d).idle + 1 }) ∧
    t = { s with core := t.core, parked := t.parked, dies := t.dies }) ∧
  (∀ (s : State) (d : Nat), d < 24 → Completes (.rebase d) s fun t =>
    let x := s.die d
    (∀ k, t.coreOf k =
      if k < 768 ∧ k / 32 = d then
        { s.coreOf k with
          ltime := (s.coreOf k).ltime - 2 ^ 38, l1 := if (s.coreOf k).l1sleep.isSome then (s.coreOf k).l1 else [] }
      else s.coreOf k) ∧
    t.die d = { x with
      l2 := x.l2.map fun l => { l with wts := l.wts - 2 ^ 38, rts := l.rts - 2 ^ 38 }
      mts := x.mts - 2 ^ 38, idle := x.idle - 2 ^ 38, rebase := x.rebase + 1, holdTo := s.cycle + 65 } ∧
    (∀ e, e ≠ d → t.die e = s.die e) ∧ t = { s with core := t.core, parked := t.parked, dies := t.dies }) ∧
  (∀ (s : State) (d line : Nat), d < 24 →
    let me : BitVec 24 := BitVec.ofNat 24 (2 ^ d)
    let entry (t : State) (P : DirEntry → Prop) : Prop :=
      ∃ e ∈ (t.die (homeDie line)).dir, e.base ≤ line ∧ line < e.base + 2 ^ e.k ∧ P e
    Completes (.directoryRead d line) s (fun t => MemoryMoves s t ∧
      entry t fun e => e.set.getLsbD d = true ∧ (e.st = .own → e.set = me)) ∧
    Completes (.directoryOwnership d line) s (fun t => MemoryMoves s t ∧ entry t fun e => e.st = .own ∧ e.set = me) ∧
    ∀ k, Completes (.invalidation d line k) s fun t =>
      let hit (n : Nat) : Prop := line ≤ n ∧ n < line + 2 ^ k
      MemoryMoves s t ∧ (∀ l ∈ (t.die d).l2, ¬ hit l.line) ∧ (∀ l ∈ (s.die d).l2, ¬ hit l.line → l ∈ (t.die d).l2) ∧
      ∀ c, c < 768 → c / 32 = d → ∀ l ∈ (t.coreOf c).l1, ¬ hit l.line) ∧
  (∀ (s : State) (h base : Nat) (e f : DirEntry), h < 24 →
    let buddy := if base / 2 ^ e.k % 2 = 0 then base + 2 ^ e.k else base - 2 ^ e.k
    (s.die h).dir.find? (fun x => x.base = base) = some e → (s.die h).dir.find? (fun x => x.base = buddy) = some f →
    let may : Prop := e.k < 10 ∧ f.k = e.k ∧ f.st = e.st ∧ f.set = e.set ∧ e.st ≠ .mig ∧ e.used + 65536 ≤ s.cycle ∧
      f.used + 65536 ≤ s.cycle
    (¬ may → Completes (.directoryMerge h base) s (· = s)) ∧
    (may → Completes (.directoryMerge h base) s fun t => t = { s with dies := t.dies } ∧
      (∃ g ∈ (t.die h).dir, g.base = min base buddy ∧ g.k = e.k + 1 ∧ g.st = e.st ∧ g.set = e.set) ∧
      (∀ g ∈ (t.die h).dir, g.base ≠ max base buddy) ∧
      ∀ g ∈ (s.die h).dir, g.base ≠ base → g.base ≠ buddy → g ∈ (t.die h).dir))

/-- The memory controllers with the undo log (R332), page migration (R278), retention sleep (R273), key destruction (R287) and way masks
(R283, R288). That a line whose requests are held has been copied already, and that a migration ends with its last line, is the model's
choice (notes/assumptions/16.md). -/
def Obligations.MemoryEvents : Prop :=
  (∀ (s : State) (line : Nat) (m : Mask),
    let k := lineKeyId line
    let sec := lineSector line
    (s.keyLive k = false ∨ s.ctlOn line = false → Completes (.memoryControllerWrite line m) s (· = s)) ∧
    (s.keyLive k = true → s.ctlOn line = true → Completes (.memoryControllerWrite line m) s fun t => MemoryMoves s t ∧ t.plainSector line = m ∧
      ((∀ p, s.part? k = some p → p.undo.st ≠ .opened ∧ p.undo.st ≠ .rolling) →
        t.parts = s.parts ∧ ∀ a, a / 64 ≠ sec → memGet t.mem a = memGet s.mem a) ∧
      ∀ p, s.part? k = some p → p.undo.st = .opened → (∀ e ∈ p.undo.log, e.1 ≠ line) →
        ∃ q, t.part? k = some q ∧
          (p.undo.used + 128 ≤ p.undo.size → q.undo = { p.undo with
            used := p.undo.used + 128, log := (line, (mget s.lineKey sec).getD 0, s.storedSector sec) :: p.undo.log }) ∧
          (p.undo.size < p.undo.used + 128 → q.undo = { p.undo with st := .sealed, lost := true }))) ∧
  (∀ (s : State) (home page : Nat), home < 24 →
    (∀ dest, Completes (.pageMigration home page dest) s fun t => MemoryMoves s t ∧
      (∃ m ∈ (t.die home).migs, m.page = page ∧ m.dest = dest ∧ m.next = 0 ∧ m.held = []) ∧
      (∃ e ∈ (t.die home).dir, e.base = page * 1024 ∧ e.k = 10 ∧ e.st = .mig) ∧
      (∀ d, d < 24 → ∀ l ∈ (t.die d).l2, lineSector l.line / 1024 ≠ page) ∧
      ((s.cycle + 4) * 16 + ptEnd, Instr.migrationLineCopy home page) ∈ t.agenda) ∧
    ∀ m, (s.die home).migs.find? (fun m => m.page = page) = some m →
      let src := page * 1024 + m.next
      let dst := m.dest * 1024 + m.next
      (m.next < 1023 → m.dest < 2 ^ 30 → s.ctlOn dst = true → Completes (.migrationLineCopy home page) s fun t => MemoryMoves s t ∧
        (m.held.contains m.next = false →
          t.storedSector dst = s.storedSector src ∧ (mget t.lineKey dst).getD 0 = (mget s.lineKey src).getD 0) ∧
        (m.held.contains m.next = true → t.mem = s.mem) ∧
        { m with next := m.next + 1 } ∈ (t.die home).migs ∧
        ((s.cycle + 4) * 16 + ptEnd, Instr.migrationLineCopy home page) ∈ t.agenda) ∧
      (1023 ≤ m.next → Completes (.migrationLineCopy home page) s fun t => ∀ x ∈ (t.die home).migs, x.page ≠ page)) ∧
  (∀ (s : State) (c : Nat), c < 768 →
    let k := s.coreOf c
    let now := (s.die (c / 32)).rebase.toNat
    (k.task ≠ none → Completes (.cacheSleep (.l1 c)) s (· = s)) ∧
    (k.task = none → k.l1sleep = none → Completes (.cacheSleep (.l1 c)) s (· = s.putCore { k with l1sleep := some now })) ∧
    (∀ n, k.l1sleep = some n → Completes (.cacheWake (.l1 c)) s
      (· = s.putCore { k with l1sleep := none, l1 := if n = now then k.l1 else [] }))) ∧
  (∀ (s : State) (d w : Nat), d < 24 →
    ((∀ p ∈ (s.die d).l2way, p.2.getLsbD w = false) → mget (s.die d).l2sleep w = none → Completes (.cacheSleep (.l2 d w)) s fun t =>
      MemoryMoves s t ∧ mget (t.die d).l2sleep w = some (s.die d).rebase.toNat ∧ ∀ l ∈ (t.die d).l2, l.way = w → l.dirty = false) ∧
    (∀ n, mget (s.die d).l2sleep w = some n → Completes (.cacheWake (.l2 d w)) s fun t =>
      MemoryMoves s t ∧ mget (t.die d).l2sleep w = none ∧ t.mem = s.mem ∧
      (n = (s.die d).rebase.toNat → (t.die d).l2 = (s.die d).l2) ∧
      (n ≠ (s.die d).rebase.toNat → ∀ l ∈ (t.die d).l2, l.way ≠ w))) ∧
  (∀ (s : State) (d : Nat), d < 24 →
    let x := s.die d
    let k := x.kkey.toNat
    (x.kbusy = true ∨ k = 0 → Completes (.kscrubGo d) s (· = s)) ∧
    (x.kbusy = false → k ≠ 0 → Completes (.kscrubGo d) s fun t =>
      (t.die d).kbusy = true ∧ (∀ l ∈ (t.die d).l2, lineKeyId l.line ≠ k) ∧ (∀ l ∈ (t.die d).msc, lineKeyId l.line ≠ k) ∧
      (t.die d).refuses = x.refuses ||| BitVec.ofNat 64 (2 ^ k) ∧ (∀ e, e ≠ d → t.die e = s.die e) ∧
      (∀ c, c < 768 → c / 32 = d → ∀ l ∈ (t.coreOf c).l1, lineKeyId l.line ≠ k) ∧
      (∃ due, s.cycle < due ∧ due ≤ s.cycle + 200000 ∧ (due * 16 + ptEnd, Instr.keyScrubComplete d) ∈ t.agenda) ∧
      t = { s with core := t.core, parked := t.parked, agenda := t.agenda, fresh := t.fresh, dies := t.dies }) ∧
    Completes (.keyScrubComplete d) s (· = { s with dies := vset s.dies d { x with kbusy := false } })) ∧
  (∀ (s : State) (d k c : Nat) (w : Word), d < 24 →
    Completes (.l2wayWrite d k w) s (fun t => MemoryMoves s t ∧ (mget (t.die d).l2way k).getD 0 = w.truncate 16 ∧
      ∀ l ∈ (t.die d).l2, lineKeyId l.line = k → ((mget (s.die d).l2way k).getD 0).getLsbD l.way = true →
        (w.truncate 16 : BitVec 16).getLsbD l.way = true) ∧
    ((∀ n, n < 16 → stackDie n ≠ d) → Completes (.mscwayWrite d k c w) s (· = s)) ∧
    ((∃ n, n < 16 ∧ stackDie n = d) → Completes (.mscwayWrite d k c w) s fun t => MemoryMoves s t ∧
      (mget (t.die d).mscway (4 * k + c)).getD 0 = w.truncate 16 ∧
      ∀ l ∈ (t.die d).msc, lineKeyId l.line = k → ((s.die d).mscMask k c).getLsbD l.way = true →
        ((t.die d).mscMask k c).getLsbD l.way = true))

/-! ### The package around the cores (R364..R379) -/

/-- Channel PHYs (R369..R373): the broadcast delays, mode registers, and the pattern test, whose results stand at its end; one that writes
loses the training row, whose place is the model's choice (notes/assumptions/31.md), and no other memory. Writes that would disturb a
running test are held until then. -/
def Obligations.ChannelPhys : Prop :=
  ∀ (s : State) (ch : Nat) (w : Word),
    let p := s.phy ch
    let put (q : Phy) : State := { s with phys := mput s.phys ch q }
    let tap : BitVec 7 := w.truncate 7
    let ctl := w &&& 0xFFFF00007FFFFF30#64
    let bit (n : Nat) : Bool := w.getLsbD n
    let mrw (i : Nat) : Bool := bit 17 || (bit 16 == decide (i = 1))
    (p.busy = true → ∀ q ∈ [(Instr.rdallWrite ch w, 0x300), (.wdallWrite ch w, 0x700), (.modeRegisterWrite ch w, 0xA00),
        (.patternTestStart ch w, 0x900)], Completes q.1 s (· = put { p with held := p.held ++ [(1023, 0x300010000000 + ch * 0x1000 + q.2, w)] })) ∧
    (p.busy = false →
      Completes (.rdallWrite ch w) s (· = put { p with rdly := Vector.replicate 66 tap }) ∧
      Completes (.wdallWrite ch w) s (· = put { p with wdly := Vector.replicate 66 tap }) ∧
      Completes (.modeRegisterWrite ch w) s (fun t => t = put { p with mode := (t.phy ch).mode } ∧
        ∀ i n, i < 2 → n < 256 → mget (t.phy ch).mode (256 * i + n) =
          if mrw i ∧ n = w.toNat / 256 % 256 then some (w.truncate 8) else mget p.mode (256 * i + n)) ∧
      ((bit 0 = false ∨ p.en = true ∨ 2 ≤ w.toNat / 16 % 4) →
        Completes (.patternTestStart ch w) s (· = put { p with patctl := ctl })) ∧
      (bit 0 = true → p.en = false → w.toNat / 16 % 4 < 2 → Completes (.patternTestStart ch w) s fun t =>
        t.phy ch = { p with patctl := ctl, busy := true, done := false, err := 0, errcnt := 0 } ∧
        t = { s with
          phys := t.phys
          agenda := agendaPut s.agenda ((s.cycle + 40 + 16 * (w.toNat / 2 ^ 48 + 1)) * 16 + ptEnd) (.patternTestEnd ch) }) ∧
      Completes (.patternTestEnd ch) s (· = s)) ∧
    (p.busy = true → p.held = [] → Completes (.patternTestEnd ch) s fun t => ∃ q,
      q = { p with busy := false, done := true, err := q.err, errcnt := q.errcnt } ∧
      (∀ l, l < 66 → q.err.getLsbD l = decide (p.laneErr ch l ≠ 0)) ∧
      (p.patMode ≠ 1 → t = put q) ∧
      (p.patMode = 1 → t = { put q with mem := t.mem, lineKey := t.lineKey, fresh := t.fresh } ∧
        ∀ sec, ¬ (sec / 2 ^ 30 = ch / 32 ∧ sec / 256 % 2 ^ 22 < 4 ∧ sec / 8 % 32 = ch % 32) → t.storedSector sec = s.storedSector sec)) ∧
    (ch < 512 → p.busy = true → p.held = [(1023, 0x300010000000 + ch * 0x1000 + 0x300, w)] → Completes (.patternTestEnd ch) s fun t =>
      (t.phy ch).busy = false ∧ (t.phy ch).done = true ∧ (t.phy ch).rdly = Vector.replicate 66 tap ∧ (t.phy ch).held = [])

/-- Ports with the markers of releases under way (R209, R375, R376), host links (R377), heat (R379) and the boot (R364). That a shutdown
leaves the reset state with the clock running on and only powerGood to come is the model's choice (notes/assumptions/25.md), and so is
that an EN write leaves a port that is not fitted where it was (notes/assumptions/30.md). -/
def Obligations.PackageEvents : Prop :=
  ∀ (s : State) (n : Nat),
    let p := s.port n
    let put (q : Port) : State := { s with ports := mput s.ports n q }
    -- the port goes down; packets and flush markers that went over it go again over a path that lives
    let downs (i : Instr) (q : Port) : Prop := Completes i s fun t =>
      t = { put q with outbox := t.outbox, sent := t.sent, via := t.via, fresh := t.fresh } ∧
      (∀ c ∈ s.cores, ∀ r ∈ c.relOut, n ∈ r.2.2 → p.st = .up → (put q).livePaths ≠ [] → ∃ a m,
        (r.1, ({ src := s.pkg, srcCore := c.id, seq := m, body := .marker c.id r.2.1 n r.2.2.length a } : Packet)) ∈ t.outbox) ∧
      ((p.st ≠ .up ∨ (∀ v ∈ s.via, v.2.2 ≠ n) ∧ ∀ c ∈ s.cores, ∀ r ∈ c.relOut, n ∉ r.2.2) → t = put q)
    (n < 72 → Config.partPorts.getLsbD n = true →
      Completes (.portEnableWrite n true) s
        (· = put { p with en := true, st := if p.st = .down then .training else p.st }) ∧
      downs (.portEnableWrite n false) { p with en := false, st := .down }) ∧
    (72 ≤ n → ∀ en, Completes (.portEnableWrite n en) s (· = s)) ∧
    -- EN is RW on all 72 ports (R374); that a port which is not fitted stays where it was is log entry 30
    (n < 72 → Config.partPorts.getLsbD n = false → Completes (.portEnableWrite n true) s (· = put { p with en := true }) ∧
      downs (.portEnableWrite n false) { p with en := false, st := .down }) ∧
    (∀ peer, (p.st ≠ .training → ∀ ok, Completes (.portTrainingComplete n ok peer) s (· = s)) ∧
      (p.st = .training → Completes (.portTrainingComplete n false peer) s (· = put { p with st := .failed })) ∧
      (p.st = .training → Completes (.portTrainingComplete n true peer) s fun t =>
        t.port n = { p with st := .up, peer := BitVec.ofNat 9 peer, fecs := [(s.cycle, 0)] } ∧ peer ∈ t.members ∧
        (∀ m ∈ s.members, m ∈ t.members) ∧
        -- packets that no port has taken go over a port that is UP (R375)
        (∀ v ∈ s.via, v ∈ t.via) ∧ (∀ o ∈ s.outbox, ∃ v ∈ t.via, v.2.1 = o.2.seq) ∧
        t = { s with ports := t.ports, members := t.members, via := t.via })) ∧
    (p.st = .up → downs (.portFailure n) { p with st := .failed }) ∧
    (p.st ≠ .up → Completes (.portFailure n) s (· = s)) ∧
    (Completes (.hostLinkDown .iow) s (· = { s with links := (false, s.links.2) }) ∧
      Completes (.hostLinkDown .ioe) s (· = { s with links := (s.links.1, false) }) ∧
      Completes (.hostLinkUp .iow) s (· = { s with links := (true, s.links.2) }) ∧
      Completes (.hostLinkUp .ioe) s (· = { s with links := (s.links.1, true) })) ∧
    (n < 24 → s.clock % 32 ≠ 0 → Completes (.thermalGate n) s (· = { s with dies := vset s.dies n { s.die n with gateAsk := some true } }) ∧
      Completes (.thermalUngate n) s (· = { s with dies := vset s.dies n { s.die n with gateAsk := some false } })) ∧
    (n < 24 → s.clock % 32 = 0 → Completes (.thermalGate n) s (· = { s with dies := vset s.dies n { s.die n with gated := true, gateAsk := none } }) ∧
      Completes (.thermalUngate n) s (· = { s with dies := vset s.dies n { s.die n with gated := false, gateAsk := none } })) ∧
    Completes .thermalShutdown s (fun t => t = { State.reset with power := .off, clock := s.clock, agenda := t.agenda } ∧
      ∀ e, e ∈ t.agenda ↔ e ∈ s.agenda ∧ e.2 = .powerGood) ∧
    (s.power = .cold → Completes .powerGood s fun t => ∃ d, d < 20000000 ∧
      t = { s with power := .booting, bstep := 1, bootAt := s.cycle + d, fresh := s.fresh + 1 }) ∧
    (s.power = .off → Completes .powerGood s fun t => t.power = .booting ∧ t.bstep = 1 ∧ t.clock = 0 ∧ t.mem = s.mem) ∧
    (s.power ≠ .cold → s.power ≠ .off → Completes .powerGood s (· = s)) ∧
    (∀ d, s.power = .booting → s.bstep ≠ 8 → Completes (.bootStepTimeout d) s fun t =>
      t.power = .bootFailed ∧ t.failstep = s.bstep ∧ (s.bstep = 1 → t.bdetail = 24 ∨ t.bdetail = 25) ∧
      (s.bstep = 2 ∨ s.bstep = 9 → t.bdetail = 0) ∧ (s.bstep = 3 → t.bdetail ∈ ([1, 2, 3] : List (BitVec 16))) ∧
      (s.bstep = 5 → t.bdetail.toNat < 512) ∧ (s.bstep = 6 ∨ s.bstep = 7 → t.bdetail = d) ∧ t.coreOf 768 = { s.coreOf 768 with state := .halted } ∧
      t = { s with core := t.core, parked := t.parked, power := t.power, failstep := t.failstep, bdetail := t.bdetail }) ∧
    (∀ d, s.power ≠ .booting ∨ s.bstep = 8 → Completes (.bootStepTimeout d) s (· = s))

/-- Accesses from outside the compute dies (R184, R189): checked here, logged and refused when they violate, with no effect where they are
not served; bytes written are then read, and a read is answered. The host's come over a link that is up (R377). A release of another
package is performed once its flush markers are here and no copy here can return an older value (R208, R209). A packet's duplicate is
dropped, one from a package that has left the domain is refused, and what the others ask for is done (R375, R376). -/
def Obligations.OutsideAccess : Prop :=
  (∀ (s : State) (a : OuterAccess),
    let own : OuterAccess := { a with kind := .host, core := 1023, pkg := s.pkg }
    let does (i : Instr) (a : OuterAccess) : Prop :=
      let q : Requester := ⟨a.part, a.kind, a.core, a.pkg⟩
      let h := a.handle
      let d := s.desc h
      let need := if a.write.isSome then 2 else 1
      let sector := a.offset / 64
      let answer (b : PacketBody) (n : Nat) : Nat × Packet := (a.pkg, { src := s.pkg, srcCore := 1023, seq := n, body := b })
      -- a completer abort on PCIe, a NACK on the fabric
      let refused (t : State) (c : BitVec 8) : Prop :=
        (a.kind = .host → t.replies = .abort :: s.replies ∧ t.outbox = s.outbox) ∧
        (a.kind ≠ .host → t.replies = s.replies ∧ t.outbox = answer (.refused a.core c) s.sent :: s.outbox)
      (∀ v, s.violation q h (some need) = some v → hHome h = s.pkg → Completes i s fun t =>
        (∃ l, mget t.vlogs v.2 = some l ∧ l.entries.length ≤ 64 ∧ l.entries ≠ []) ∧ refused t v.1 ∧
        t = { s with vlogs := t.vlogs, replies := t.replies, outbox := t.outbox, sent := t.sent, via := t.via }) ∧
      (s.violation q h (some need) = none → hHome h = s.pkg → a.offset + a.len ≤ d.extent → 0 < a.len →
        (a.write = none → Completes i s fun t => ObjectMoves { s with replies := t.replies } t) ∧
        (∀ x we, a.write = none → (a.offset + a.len - 1) / 64 = sector → s.locate h d none (64 * sector) = .ok x we →
          s.sectorOk x = true → paSpace x.pa ≠ 2 → x.home ≠ 2 → x.comp = false → s.migrated x.line = (x.line, false) →
          (∀ k, k < 24 → (s.die k).l2Line x.line = none ∧ (s.die k).mscLine x.line = none) →
          Completes i s fun t =>
            let bytes := (List.range a.len).map fun j => lineByte (s.plainSector x.line) (a.offset % 64 + j)
            (a.kind = .host → t.replies = .bytes bytes :: s.replies) ∧
            (a.kind ≠ .host → ∃ n, answer (.value a.core a.part a.len (packNat 8 (bytes.map (·.toNat)))) n ∈ t.outbox)) ∧
        (∀ bs x, a.write = some bs → bs.length = a.len → (a.kind = .host ∨ d.replicated = false) → d.watch = false →
          (a.offset + a.len - 1) / 64 = sector → s.locate h d none (64 * sector) = .ok x true →
          s.poolShort h [64 * sector] = none → s.sectorOk x = true → paSpace x.pa ≠ 2 → x.home ≠ 2 → s.migrated x.line = (x.line, false) →
          Completes i s fun t => ObjectMoves s t ∧
            ∀ j, j < a.len → some (lineByte (t.plainSector x.line) (a.offset % 64 + j)) = bs[j]?))
    does (.remoteAccess a) a ∧ ∀ link,
      (s.linkUp link = true → does (.hostWrite (.object link a)) own) ∧
      (s.linkUp link = false → Completes (.hostWrite (.object link a)) s (· = s))) ∧
  (∀ (s : State) (p : Packet),
    ((p.src, p.seq) ∈ s.seen → Completes (.fabricPacket p) s (· = s)) ∧
    ((p.src, p.seq) ∉ s.seen →
      (p.src ∉ s.members → ∀ core r, p.body = .landing core r → Completes (.fabricPacket p) s fun t =>
        t.coreOf core = s.coreOf core ∧ t.mem = s.mem ∧
        (p.src, ({ src := s.pkg, srcCore := p.srcCore, seq := s.sent, body := .answer p.srcCore r.fromCh r.cmd false } : Packet)) ∈ t.outbox) ∧
      (p.src ∈ s.members →
        (∀ core r, p.body = .landing core r → Completes (.fabricPacket p) s fun t =>
          ((s.cycle + 1) * 16 + ptArrive, Instr.landingRowArrival core { r with fromPkg := p.src, fromCore := p.srcCore }) ∈ t.agenda ∧
          t = { s with seen := (p.src, p.seq) :: s.seen, agenda := t.agenda }) ∧
        (∀ core q, p.body = .reserve core q → Completes (.fabricPacket p) s fun t =>
          t = { s with
            seen := (p.src, p.seq) :: s.seen
            agenda := agendaPut s.agenda ((s.cycle + 1) * 16 + ptArrive)
              (.reservationRequest core { q with fromPkg := p.src, fromCore := p.srcCore }) }) ∧
        (∀ core sender pair bgen paths, p.body = .arrival core sender pair bgen paths →
          let mine (m : Nat × Nat × Nat) : Bool := decide (m.1 = p.src) && decide (m.2.1 = sender.rel)
          (paths ≤ s.marks.countP mine → Completes (.fabricPacket p) s fun t =>
            t = { s with
              seen := (p.src, p.seq) :: s.seen, marks := s.marks.filter fun m => !mine m
              agenda := agendaPut s.agenda ((s.cycle + 1) * 16 + ptArrive)
                (.barrierArrival core p.src { sender with core := p.srcCore } pair bgen) }) ∧
          (s.marks.countP mine < paths → Completes (.fabricPacket p) s fun t =>
            t = { s with seen := (p.src, p.seq) :: s.seen, heldRel := s.heldRel ++ [(s.cycle, p)] })) ∧
        (∀ core rel, p.body = .release core rel → Completes (.fabricPacket p) s fun t =>
          t = { s with
            seen := (p.src, p.seq) :: s.seen
            agenda := agendaPut s.agenda ((s.cycle + 1) * 16 + ptArrive) (.slotReleaseAtTarget core p.src p.srcCore rel) }) ∧
        (∀ core rel path paths, p.body = .marker core rel path paths true → (p.src, rel, path) ∉ s.marks →
          let mine (m : Nat × Nat × Nat) : Bool := decide (m.1 = p.src) && decide (m.2.1 = rel)
          (s.marks.countP mine + 1 < paths → Completes (.fabricPacket p) s fun t =>
            t = { s with seen := (p.src, p.seq) :: s.seen, marks := (p.src, rel, path) :: s.marks }) ∧
          (paths ≤ s.marks.countP mine + 1 → (∀ e ∈ s.relStale, ¬ (e.1 = p.src ∧ e.2.1 = rel)) →
            (s.staleCopies = [] → Completes (.fabricPacket p) s fun t =>
              t = { s with
                seen := (p.src, p.seq) :: s.seen, marks := s.marks.filter (fun m => !mine m), sent := s.sent + 1, via := t.via
                outbox := (p.src, { src := s.pkg, srcCore := 1023, seq := s.sent, body := .done core rel }) :: s.outbox }) ∧
            (s.staleCopies ≠ [] → Completes (.fabricPacket p) s fun t =>
              t = { s with
                seen := (p.src, p.seq) :: s.seen, marks := (p.src, rel, path) :: s.marks
                relStale := (p.src, rel, s.staleCopies) :: s.relStale, heldRel := s.heldRel ++ [(s.cycle, p)] }))))))

/-! ### Partitions, host commands and sessions (R343..R363) -/

/-- What the answer to a doorbell leaves besides a command's own effect: its window, the interrupts that it sends, free result words, and
the pending source 3 of the system cores. -/
def told (s t : State) : State :=
  { s with windows := t.windows, msis := t.msis, fresh := t.fresh, core := t.core, parked := t.parked }

/-- A command that completes in its window (R349, R350): DONE with its code, one more in SEQ, its results and data, and the function's
vector 0 last of the interrupts. -/
structure Replies (s t : State) (win op : Nat) (code : BitVec 8) (res : List Word) (data : List (BitVec 8) := []) : Prop where
  window : t.window win = { s.window win with
    opc := BitVec.ofNat 8 op, start := s.cycle, work := (t.window win).work, st := 2, code := code, seq := (s.window win).seq + 1
    data := data, res := (t.window win).res }
  result : ∀ i, i < res.length → some (vget (t.window win).res i 0) = res[i]?
  msi    : ∃ l, t.msis = s.msis ++ l ++ [⟨win, 0⟩]

/-- A command that goes on (R350): its window is BUSY with it. -/
def Busy (t : State) (win op : Nat) : Prop := (t.window win).st = 1 ∧ (t.window win).opc = BitVec.ofNat 8 op

/-- A doorbell that is taken and whose command is run (R347, R350..R352): the package is READY, the window exists and is not BUSY, it
allows the command, and the arguments past those that the command takes are 0. -/
def Accepts (s : State) (win n : Nat) (sys part : Bool) : Prop :=
  win < 64 ∧ (win ≠ 0 → (s.part? win).isSome = true) ∧ s.power = .ready ∧ (s.window win).st ≠ 1 ∧
  (if win = 0 then sys else part) = true ∧ ∀ i, n ≤ i → i < 16 → vget (s.window win).args i 0 = 0

/-- The command windows (R347, R348, R350..R352, R364, R377): over a link that is down nothing is written; an argument register takes what
is written while its window is not BUSY; a BUSY window counts a doorbell in REJECT; a package that is not READY answers 0x05, a window
that does not allow the command, or an opcode that names none, 0x01, an argument that the command does not take 0x02; else the opcode's
command is run. -/
def Obligations.Doorbells : Prop :=
  ∀ (s : State) (link : HostLink) (win : Nat), win < 64 → (win ≠ 0 → (s.part? win).isSome = true) → s.power ≠ .cold → s.power ≠ .off →
    let w := s.window win
    let up : Prop := match link with | .iow => s.links.1 = true | .ioe => s.links.2 = true
    let answers (i : Instr) (op : Nat) (code : BitVec 8) : Prop := Completes i s fun t => Replies s t win op code [] ∧ t = told s t
    -- opcode, command, arguments that it takes in a window, whether the system's and a partition's window allow it (R352)
    let commands : List (Nat × (Nat → Instr) × (Nat → Nat) × Bool × Bool) :=
    [ (0x01, .identCmd, fun _ => 0, true, true), (0x02, .status, fun _ => 0, true, true),
      (0x03, .partCreate, fun _ => 16, true, false), (0x04, .partDestroy, fun _ => 1, true, false),
      (0x05, .partQuota, fun _ => 3, true, false), (0x06, .keyLoad, fun _ => 2, true, false),
      (0x07, .keyGen, fun _ => 1, true, false), (0x08, .keyKill, fun _ => 1, true, false),
      (0x09, .objCreate, fun _ => 8, false, true), (0x0A, .objDestroy, fun _ => 1, false, true),
      (0x0B, .objShare, fun _ => 3, false, true), (0x0C, .graphLoad, fun _ => 2, false, true),
      (0x0D, .regionStop, fun _ => 3, false, true), (0x0E, .preempt, fun _ => 1, false, true),
      (0x0F, .resume, fun _ => 1, false, true), (0x10, .ckptBegin, fun _ => 1, false, true),
      (0x11, .ckptRollback, fun _ => 0, false, true), (0x12, .meterSnap, fun w => if w = 0 then 1 else 0, true, true),
      (0x13, .vlogRead, fun _ => 2, false, true), (0x14, .fabricJoin, fun _ => 3, true, false),
      (0x15, .fabricLeave, fun _ => 0, true, false) ]
    (¬ up → ∀ op offset bytes, Completes (.doorbell link win op) s (· = s) ∧ Completes (.hostWrite (.window link win offset bytes)) s (· = s)) ∧
    (∀ (i : Nat) (v : Word), i < 16 → up →
      let put : Instr := .hostWrite (.window link win (0x40 + 8 * i) ((List.range 8).map fun k => v.extractLsb' (8 * k) 8))
      (w.st ≠ 1 → Completes put s (· = { s with windows := mput s.windows win { w with args := vset w.args i v } })) ∧
      (w.st = 1 → Completes put s (· = s)) ∧
      exec (.hostWrite (.window link win 8 ((List.range 8).map fun k => v.extractLsb' (8 * k) 8))) s = exec (.doorbell link win (v.truncate 8)) s) ∧
    (∀ q ∈ commands,
      let i := q.2.1 win
      let allows : Prop := (if win = 0 then q.2.2.2.1 else q.2.2.2.2) = true
      let bell : Instr := .doorbell link win (BitVec.ofNat 8 q.1)
      -- the doorbell answers a next state itself, with the command's effect
      (up → (∃ t, exec bell s = .next t ∧ exec i s = .next t) ∧ ∀ P, Completes i s P → Completes bell s P) ∧
      ∀ j, (j = i ∨ up ∧ j = bell) →
        (w.st = 1 → Completes j s (· = { s with windows := mput s.windows win { w with reject := w.reject + 1 } })) ∧
        (w.st ≠ 1 → s.power ≠ .ready → q.1 ≠ 1 → q.1 ≠ 2 → answers j q.1 0x05) ∧
        (w.st ≠ 1 → s.power = .ready → ¬ allows → answers j q.1 0x01) ∧
        (w.st ≠ 1 → s.power = .ready → allows → (∃ k, q.2.2.1 win ≤ k ∧ k < 16 ∧ vget w.args k 0 ≠ 0) → answers j q.1 0x02)) ∧
    (up → Accepts s win 0 true true → s.pkg < 512 → Completes (.doorbell link win 0x01) s fun t => t = told s t ∧
      Replies s t win 0x01 0 [BitVec.ofNat 64 (16 + s.pkg * 2 ^ 31 + Config.partRev.toNat * 2 ^ 40 + 0xD24A * 2 ^ 48), 1]) ∧
    (up → Accepts s win 3 true false → (13 < (vget w.args 1 0).toNat) → 1 ≤ (vget w.args 0 0).toNat → (vget w.args 0 0).toNat ≤ 63 →
      (s.part? (vget w.args 0 0).toNat).isSome = true → answers (.doorbell link win 0x05) 0x05 0x02) ∧
    (∀ op : BitVec 8, (op = 0 ∨ 0x15 < op.toNat) → up → w.st ≠ 1 → s.power = .ready →
      answers (.doorbell link win op) op.toNat 0x01)

/-- IDENT, STATUS, PART_QUOTA, METER_SNAP, VLOG_READ (R352, R358, R360, R363) and the addition to a meter (R357, R358). -/
def Obligations.MetersAndQueries : Prop :=
  (∀ (s : State) (win : Nat),
    let a (i : Nat) : Nat := (vget (s.window win).args i 0).toNat
    let answers (i : Instr) (op : Nat) (code : BitVec 8) (res : List Word) : Prop :=
      Completes i s fun t => Replies s t win op code res ∧ t = told s t
    (Accepts s win 0 true true →
      (s.pkg < 512 → answers (.identCmd win) 0x01 0
        [BitVec.ofNat 64 (16 + s.pkg * 2 ^ 31 + Config.partRev.toNat * 2 ^ 40 + 0xD24A * 2 ^ 48), 1]) ∧
      (∀ p, win ≠ 0 → s.part? win = some p → answers (.status win) 0x02 0
        [BitVec.ofNat 64 (1 + (if s.cores.any fun c => c.isSys && c.state == .halted then 2 else 0) + s.parts.length % 256 * 2 ^ 8),
          BitVec.ofNat 64 p.meters.hit.toNat])) ∧
    (Accepts s win 3 true false → ∀ p, s.part? (a 0) = some p → 1 ≤ a 0 → a 0 ≤ 63 →
      (13 < a 1 → answers (.partQuota win) 0x05 0x02 []) ∧
      (a 1 ≤ 13 → Completes (.partQuota win) s fun t =>
        Replies s t win 0x05 0 [BitVec.ofNat 64 (vget p.meters.quota (a 1) 0)] ∧
        ∃ q, t.part? (a 0) = some q ∧ vget q.meters.quota (a 1) 0 = a 2 ∧ q.meters.count = p.meters.count ∧
          (∀ j, j ≠ a 1 → vget q.meters.quota j 0 = vget p.meters.quota j 0) ∧
          (a 2 ≠ 0 → a 2 ≤ vget p.meters.count (a 1) 0 → p.meters.met (a 1) = false → q.meters.hit.getLsbD (a 1) = true ∧
            (⟨a 0, 1⟩ : Msi) ∈ t.msis ∧ ⟨0, 1⟩ ∈ t.msis ∧ ∀ r, t.region? p.root = some r → r.st ≠ 1))) ∧
    (Accepts s win 0 false true → ∀ p, s.part? win = some p → Completes (.meterSnap win) s fun t => ∃ b,
      Replies s t win 0x12 0 [] b ∧ b.take 8 = leBytes (p.k + 256) 8 ∧ (b.drop 8).take 8 = leBytes (p.meters.seq + 1) 8 ∧
      (b.drop 16).take 8 = leBytes s.cycle 8 ∧ (b.drop 24).take 112 = p.meters.count.toList.flatMap (fun c => leBytes c 8) ∧
      (∃ q, t.part? win = some q ∧ q.meters = { p.meters with seq := p.meters.seq + 1, last := b }) ∧
      t = { told s t with parts := t.parts }) ∧
    (Accepts s win 2 false true →
      ((a 1 = 0 ∨ 60 < a 1) → answers (.vlogRead win) 0x13 0x02 []) ∧
      (1 ≤ a 1 → a 1 ≤ 60 →
        let l := (mget s.vlogs win).getD {}
        let es := (l.entries.drop (a 0)).take (a 1)
        Completes (.vlogRead win) s fun t => t = told s t ∧
          Replies s t win 0x13 0 [BitVec.ofNat 64 l.lost, BitVec.ofNat 64 es.length] (es.flatMap fun e => leBytes e.toNat 64)))) ∧
  (∀ (s : State) (k rid i n : Nat),
    (s.part? k = none → Completes (.meterAdd k rid i n) s (· = s)) ∧
    (∀ p, s.part? k = some p → i < 14 →
      let mine (r : Region) : Prop := r.part = k ∧ s.isIn rid r.rid = true
      let count := min (2 ^ 64 - 1) (vget p.meters.count i 0 + n)
      let quota := vget p.meters.quota i 0
      Completes (.meterAdd k rid i n) s fun t =>
        (∃ q, t.part? k = some q ∧ vget q.meters.count i 0 = count ∧ q.meters.quota = p.meters.quota ∧
          (∀ j, j ≠ i → vget q.meters.count j 0 = vget p.meters.count j 0) ∧
          (quota ≠ 0 → vget p.meters.count i 0 < quota → quota ≤ count → q.meters.hit = p.meters.hit ||| BitVec.ofNat 14 (2 ^ i) ∧
            (⟨k, 1⟩ : Msi) ∈ t.msis ∧ ⟨0, 1⟩ ∈ t.msis ∧ ∀ r, t.region? p.root = some r → r.st ≠ 1)) ∧
        (∀ r ∈ s.regions, ∃ u ∈ t.regions, u.rid = r.rid ∧ u.part = r.part ∧
          (mine r → vget u.sums i 0 = vget r.sums i 0 + n) ∧ (¬ mine r → u.sums = r.sums)) ∧
        ((quota = 0 ∨ quota ≤ vget p.meters.count i 0 ∨ count < quota) → (∀ r ∈ s.regions, s.effQuota r.rid i = 0) →
          t = { s with parts := t.parts, regions := t.regions })))

/-- PART_CREATE, PART_DESTROY, KEY_LOAD, KEY_GEN, KEY_KILL (R344..R346, R353), and the SPDM responder (R361, R362). Code 0x02 for an id
outside 1 to 63, 0x05 for a partition that does not exist and for KEY_KILL of a key that is not LIVE are the model's choice
(notes/assumptions/26.md), and so are the layout of a configuration and the value of an object measurement (notes/assumptions/29.md). -/
def Obligations.PartitionsAndKeys : Prop :=
  (∀ (s : State),
    let a (i : Nat) : Nat := (vget (s.window 0).args i 0).toNat
    let k := a 0
    let answers (i : Instr) (op : Nat) (code : BitVec 8) : Prop := Completes i s fun t => Replies s t 0 op code [] ∧ t = told s t
    -- no die refuses the key id any longer
    let serves (k : Nat) : Vector Die 24 := s.dies.map fun d => { d with refuses := d.refuses &&& ~~~BitVec.ofNat 64 (2 ^ k) }
    let fields : Prop := a 13 < 2 ^ 16 ∧ a 14 % 2 ^ 16 < 2 ^ 14 ∧ a 14 / 2 ^ 16 % 2 ^ 16 < 2 ^ 14 ∧ a 14 < 2 ^ 46 ∧ a 15 % 4 = 0 ∧
      a 15 < 256 ∧ a 15 / 32 % 4 ≠ 3
    (Accepts s 0 16 true false →
      ((k = 0 ∨ 63 < k) → answers (.partCreate 0) 0x03 0x02) ∧
      (1 ≤ k → k ≤ 63 → (s.part? k).isSome = true → answers (.partCreate 0) 0x03 0x05) ∧
      (1 ≤ k → k ≤ 63 → s.part? k = none → s.argCores 0 ≠ 0 → fields →
        let l2 : BitVec 16 := BitVec.ofNat 16 (a 13)
        (s.overlaps (s.argCores 0) l2 (s.argMsc 0) = true → answers (.partCreate 0) 0x03 0x03) ∧
        (s.overlaps (s.argCores 0) l2 (s.argMsc 0) = false → Completes (.partCreate 0) s fun t =>
          let rid := s.freeRid
          Replies s t 0 0x03 0 [BitVec.ofNat 64 rid] ∧ t.nextRid = rid % 65535 + 1 ∧ mget t.keys k = none ∧
          (∃ p, t.part? k = some p ∧ p.root = rid ∧ p.meters.count = Vector.replicate 14 0 ∧ p.meters.hit = 0 ∧ p.undo = {}) ∧
          (∃ r ∈ t.regions, r.rid = rid ∧ r.part = k ∧ r.parent = none ∧ r.coreset = s.argCores 0 ∧ r.st = 1 ∧
            r.prio.toNat = a 15 / 4 % 8 ∧ r.fpol.toNat = a 15 / 32 % 4 ∧ r.lock = decide (a 15 / 128 % 2 = 1)) ∧
          (∀ d, d < 24 → (mget (t.die d).l2way k).getD 0 = l2)))) ∧
    (Accepts s 0 1 true false →
      (∀ q ∈ [(Instr.partDestroy 0, 0x04), (.keyGen 0, 0x07), (.keyKill 0, 0x08)],
        ((k = 0 ∨ 63 < k) → answers q.1 q.2 0x02) ∧ (1 ≤ k → k ≤ 63 → s.part? k = none → answers q.1 q.2 0x05)) ∧
      (∀ p, 1 ≤ k → k ≤ 63 → s.part? k = some p → p.k = k →
        (Completes (.partDestroy 0) s fun t => Busy t 0 0x04 ∧ (∀ r, t.region? p.root = some r → r.st ≠ 1) ∧
          ∀ c, c < 768 → (s.coreOf c).task ≠ none → s.isIn (s.coreOf c).tk.rid p.root = true → (t.coreOf c).discarding = true) ∧
        (mget s.keys k = some .live → answers (.keyGen 0) 0x07 0x05 ∧ Completes (.keyKill 0) s fun t => Busy t 0 0x08 ∧ t = told s t) ∧
        (mget s.keys k ≠ some .live → answers (.keyKill 0) 0x08 0x05 ∧ Completes (.keyGen 0) s fun t => Replies s t 0 0x07 0 [] ∧
          mget t.keys k = some .live ∧ s.keyTag k < t.keyTag k ∧
          t = { told s t with keys := t.keys, keyLoads := t.keyLoads, dies := serves k }))) ∧
    (Accepts s 0 2 true false → ∀ p, 1 ≤ k → k ≤ 63 → s.part? k = some p → p.k = k →
      let staged : Prop := ∃ x ∈ s.sessions, x.id = a 1 ∧ mget x.staged k ≠ none
      (mget s.keys k = some .live → answers (.keyLoad 0) 0x06 0x05) ∧
      (mget s.keys k ≠ some .live → ¬ staged → answers (.keyLoad 0) 0x06 0x09) ∧
      (mget s.keys k ≠ some .live → staged → Completes (.keyLoad 0) s fun t => Replies s t 0 0x06 0 [] ∧
        mget t.keys k = some .live ∧ s.keyTag k < t.keyTag k ∧ (∀ x ∈ t.sessions, x.id = a 1 → mget x.staged k = none) ∧
        (∀ b, (∀ x ∈ s.sessions, x.id = a 1 → ∀ b', mget x.staged k = some b' → b' = b) → mget t.keyBytes (t.keyTag k) = some b) ∧
        (∀ m, m ≠ t.keyTag k → mget t.keyBytes m = mget s.keyBytes m) ∧
        t = { told s t with keys := t.keys, keyLoads := t.keyLoads, keyBytes := t.keyBytes, sessions := t.sessions, dies := serves k }))) ∧
  (∀ (s : State) (path : MgmtPath),
    let open_ : Prop := match path with | .pcie .iow => s.links.1 = true | .pcie .ioe => s.links.2 = true | .smbus => True
    let up : Prop := open_ ∧ s.power ≠ .cold ∧ s.power ≠ .off
    (∀ i n, ¬ up → ∀ q ∈ [Instr.getCertificate path, .challenge path n, .getMeasurements path i, .keyExchange path],
      Completes q s (· = s)) ∧
    (up → Completes (.getCertificate path) s (· = { s with spdm := .certificate Config.certificate :: s.spdm }) ∧
      (∀ n, Completes (.challenge path n) s fun t => ∃ sig, t = { s with spdm := .challenge n sig :: s.spdm, fresh := s.fresh + 1 }) ∧
      (∀ i, Completes (.getMeasurements path i) s fun t => ∃ v sig, t.spdm = .measurement i v sig :: s.spdm ∧
        t = { s with spdm := t.spdm, fresh := t.fresh, parts := t.parts } ∧ (i < 0x50 ∨ 0x90 ≤ i → t.parts = s.parts) ∧
        (∀ k p, 1 ≤ k → k ≤ 63 → s.part? k = some p → (i = 0x10 + k → v = s.configOf p) ∧
          (i = 0x50 + k → p.k = k → ∃ q, t.part? k = some q ∧ q.meters = { p.meters with seq := p.meters.seq + 1, last := v }) ∧
          (i = 0x90 + k → v = (sha384 (s.measuredRoots k)).map (BitVec.ofNat 8)))) ∧
      Completes (.keyExchange path) s (· = { s with
        spdm := .session s.nextSess :: s.spdm, sessions := s.sessions ++ [{ id := s.nextSess }], nextSess := s.nextSess + 1 }))) ∧
  (∀ (s : State) (id k : Nat) (bytes : Mask),
    let mine : Prop := (∃ x ∈ s.sessions, x.id = id) ∧ 1 ≤ k ∧ k ≤ 63
    (mine → Completes (.keyDelivery id k bytes) s fun t => t = { s with spdm := .ok :: s.spdm, sessions := t.sessions } ∧
      (∀ x ∈ t.sessions, x.id = id → mget x.staged k = some bytes) ∧ t.sessions.map (·.id) = s.sessions.map (·.id)) ∧
    (¬ mine → Completes (.keyDelivery id k bytes) s (· = { s with spdm := .error :: s.spdm })) ∧
    Completes (.sessionEnd id) s fun t => t = { s with sessions := t.sessions } ∧
      ∀ x, x ∈ t.sessions ↔ x ∈ s.sessions ∧ x.id ≠ id)

/-- OBJ_CREATE, OBJ_DESTROY, OBJ_SHARE (R179, R354) and GRAPH_LOAD (R299, R355). Code 0x06 for a handle homed elsewhere, the split of 0x02
and 0x07 in OBJ_CREATE, and the kept version 0 are the model's choice (notes/assumptions/27.md). -/
def Obligations.ObjectCommands : Prop :=
  ∀ (s : State) (win : Nat), win ≠ 0 →
    let a (i : Nat) : Nat := (vget (s.window win).args i 0).toNat
    let h := vget (s.window win).args 0 0
    let key := hKey h
    let q : Requester := ⟨win, .host, 1023, s.pkg⟩
    let answers (i : Instr) (op : Nat) (code : BitVec 8) : Prop := Completes i s fun t => Replies s t win op code [] ∧ t = told s t
    let refuses (i : Instr) (op : Nat) (need : Nat) : Prop :=
      (hHome h ≠ s.pkg → Completes i s fun t => Replies s t win op 0x06 [] ∧ t = { told s t with vlogs := t.vlogs }) ∧
      ∀ v, s.violation q h (some need) = some v → hHome h = s.pkg →
        Completes i s fun t => Replies s t win op 0x06 [] ∧ t = { told s t with vlogs := t.vlogs } ∧ mget t.vlogs v.2 ≠ none
    (Accepts s win 8 false true →
      (s.argsBad win = true → answers (.objCreate win) 0x09 0x02) ∧
      (s.argsBad win = false → (s.argDesc win).wellMade = false → answers (.objCreate win) 0x09 0x07) ∧
      (s.argsBad win = false → (s.argDesc win).wellMade = true → mget s.keys win ≠ some .live → answers (.objCreate win) 0x09 0x09) ∧
      (∀ n, s.argsBad win = false → (s.argDesc win).wellMade = true → mget s.keys win = some .live → s.freeSlot = some n →
        Completes (.objCreate win) s fun t => ∃ d : BitVec 512,
          let id := s.pkg * 2 ^ 23 + n
          let gen := Desc.gen ((mget s.descs id).getD 0)
          mget t.descs id = some d ∧ Desc.state d = 1 ∧ Desc.part d = win ∧ Desc.gen d = gen ∧
          (∀ j, 28 ≤ j → j < 512 → ¬ (384 ≤ j ∧ j < 436) → d.getLsbD j = BitVec.getLsbD (s.argDesc win) j) ∧
          (∃ v ∈ t.kept, v.slot = id ∧ v.ver = 0 ∧ v.pages = []) ∧ (∀ j, j ≠ id → mget t.descs j = mget s.descs j) ∧
          Replies s t win 0x09 0 [BitVec.ofNat 64 (id * 2 ^ 32 + gen * 2 ^ 12 + (s.argDesc win).rights * 2 ^ 4)])) ∧
    (Accepts s win 1 false true →
      refuses (.objDestroy win) 0x0A 0 ∧
      (s.violation q h (some 0) = none → hHome h = s.pkg → (s.desc h).part = win → hRights h = (s.desc h).rights →
        ((s.desc h).f 436 2 ≠ 0 → answers (.objDestroy win) 0x0A 0x05) ∧
        ((s.desc h).f 436 2 = 0 → s.objectBusy key = true → Completes (.objDestroy win) s fun t => Busy t win 0x0A ∧ t = told s t) ∧
        ((s.desc h).f 436 2 = 0 → s.objectBusy key = false → Completes (.objDestroy win) s fun t => Replies s t win 0x0A 0 [] ∧
          (∃ d, mget t.descs key = some d ∧ Desc.gen d = ((s.desc h).gen + 1) % 2 ^ 20 ∧
            Desc.state d = (if 2 ^ 20 - 1 ≤ (s.desc h).gen + 1 then 3 else 0)) ∧
          (∀ g ∈ t.grants, g.slot ≠ key) ∧ (∀ v ∈ t.kept, v.slot ≠ key) ∧ (∀ p ∈ t.pubs, p.slot ≠ key) ∧
          (∀ p ∈ t.pool, p.1 ≠ key) ∧
          (∀ c n, n < 64 → (vget (t.coreOf c).events n {}).st = let e := vget (s.coreOf c).events n {}
            if e.st = .armed ∧ e.home * 2 ^ 23 + e.slot = key then .abandoned else e.st)))) ∧
    (Accepts s win 3 false true →
      let to_ := a 1
      let r := a 2
      let good : Prop := 1 ≤ to_ ∧ to_ ≤ 63 ∧ to_ ≠ win ∧ r ≤ 255 ∧ lacks r (hRights h) = false ∧ r / 32 % 2 = 0
      let others (g : Grant) : Prop := ¬ (g.slot = key ∧ g.target = to_)
      (¬ good → answers (.objShare win) 0x0B 0x02) ∧
      (good → s.part? to_ = none → answers (.objShare win) 0x0B 0x05) ∧
      (good → (s.part? to_).isSome = true →
        refuses (.objShare win) 0x0B 32 ∧
        (s.violation q h (some 32) = none → hHome h = s.pkg →
          (r ≠ 0 → 8 ≤ (s.grants.filter fun g => decide (g.slot = key) && decide (g.target ≠ to_)).length →
            answers (.objShare win) 0x0B 0x04) ∧
          ((r = 0 ∨ (s.grants.filter fun g => decide (g.slot = key) && decide (g.target ≠ to_)).length < 8) →
            Completes (.objShare win) s fun t =>
              Replies s t win 0x0B 0 [BitVec.ofNat 64 (key * 2 ^ 32 + hGen h * 2 ^ 12 + r * 2 ^ 4)] ∧
              t = { told s t with grants := t.grants } ∧
              ∀ g, g ∈ t.grants ↔ (g ∈ s.grants ∧ others g) ∨ (r ≠ 0 ∧ g = ⟨key, to_, BitVec.ofNat 8 r⟩))))) ∧
    (Accepts s win 2 false true →
      ((∀ r ∈ s.regions, ¬ (r.rid = a 1 ∧ r.part = win)) → answers (.graphLoad win) 0x0C 0x02) ∧
      (∀ r, s.regions.find? (fun r => r.rid = a 1 && r.part = win) = some r →
        refuses (.graphLoad win) 0x0C 128 ∧
        (s.violation q h (some 128) = none → hHome h = s.pkg →
          let same (g : Graph) : Bool := decide (g.part = win) && decide (hKey g.handle = key)
          ((∃ g ∈ s.graphs, same g = true ∧ hGen g.handle = hGen h) → answers (.graphLoad win) 0x0C 0x05) ∧
          ((∀ g ∈ s.graphs, same g = true → hGen g.handle ≠ hGen h) →
            ((s.graphs.filter fun g => decide (g.part = win) && !same g).length < 256) →
            let b := (s.modWindow win fun w => { w with st := 1, opc := 0x0C, start := s.cycle, work := 0 }).sysPend 3
            ∀ img u, { b with graphs := s.graphs.filter fun g => !same g }.wholeImage h = (some img, u) →
              (imageOk img u.nposOf = false → Completes (.graphLoad win) s fun t => (t.window win).code = 0x08 ∧ (t.window win).st = 2) ∧
              (imageOk img u.nposOf = true →
                (∀ n, n < imgNodes img → u.violation ⟨win, .host, 1023, u.pkg⟩ (nodeCode img n) (some 128) = none) →
                Completes (.graphLoad win) s fun t => (t.window win).code = 0 ∧ (t.window win).st = 2 ∧
                  t.graphs = u.graphs ++ [{ handle := h, rid := r.rid, part := win, image := img : Graph }] ∧
                  t = { told u t with graphs := t.graphs })))))

/-- REGION_STOP with its time limit, PREEMPT, RESUME (R311, R355), CKPT_BEGIN and CKPT_ROLLBACK (R332, R333), FABRIC_JOIN and FABRIC_LEAVE
(R376). FABRIC_JOIN with the package's own id, and the operations that a FABRIC_LEAVE lets go on, are the model's choice
(notes/assumptions/30.md), and so are the rollback by entries compared with their stored bytes, 0x02 for a CKPT_BEGIN of 0 bytes and its
bound of 2^24 pages (notes/assumptions/23.md). -/
def Obligations.RegionCommands : Prop :=
  ∀ (s : State) (win : Nat),
    let a (i : Nat) : Nat := (vget (s.window win).args i 0).toNat
    let answers (i : Instr) (op : Nat) (code : BitVec 8) : Prop := Completes i s fun t => Replies s t win op code [] ∧ t = told s t
    let here (rid c : Nat) : Prop := c < 768 ∧ (s.coreOf c).task ≠ none ∧ s.isIn (s.coreOf c).tk.rid rid = true
    (∀ q ∈ [(3, Instr.regionStop win, 0x0D), (1, .preempt win, 0x0E), (1, .resume win, 0x0F)], win ≠ 0 → Accepts s win q.1 false true →
      (∀ r ∈ s.regions, ¬ (r.rid = a 0 ∧ r.part = win)) → answers q.2.1 q.2.2 0x02) ∧
    (∀ r, win ≠ 0 → s.regions.find? (fun r => r.rid = a 0 && r.part = win) = some r → s.region? r.rid = some r →
      (Accepts s win 3 false true →
        (1 < a 1 → answers (.regionStop win) 0x0D 0x02) ∧
        (a 1 ≤ 1 → r.st = 1 → Completes (.regionStop win) s fun t => Busy t win 0x0D ∧ (∃ u, t.region? r.rid = some u ∧ u.st = 2) ∧
          (a 2 ≠ 0 → ((s.cycle + a 2) * 16 + ptEnd, Instr.regionStopTimeLimit win) ∈ t.agenda) ∧
          (a 1 = 1 → ∀ c, here r.rid c → (t.coreOf c).discarding = true))) ∧
      (Accepts s win 1 false true →
        (r.st = 1 → Completes (.preempt win) s fun t => Busy t win 0x0E ∧ (∃ u, t.region? r.rid = some u ∧ u.st = 3) ∧
          ∀ c, here r.rid c → (s.coreOf c).state = .running → (s.coreOf c).ending = false →
            (∀ x ∈ s.tasks, x.st ≠ .held) → (t.coreOf c).state = .stopping ∧ (t.coreOf c).errand = 1) ∧
        ((s.quotaHolds win r.rid = true ∨ ∃ x ∈ s.tasks, x.st = .held ∧ s.isIn x.rid r.rid = true) → answers (.resume win) 0x0F 0x05) ∧
        (s.quotaHolds win r.rid = false → (∀ x ∈ s.tasks, ¬ (x.st = .held ∧ s.isIn x.rid r.rid = true)) →
          Completes (.resume win) s fun t => Busy t win 0x0F ∧ (∃ u, t.region? r.rid = some u ∧ u.st = 1) ∧ t.tasks = s.tasks))) ∧
    (let w := s.window win
     (¬ (w.st = 1 ∧ w.opc = 0x0D) → Completes (.regionStopTimeLimit win) s (· = s)) ∧
     (w.st = 1 → w.opc = 0x0D → Completes (.regionStopTimeLimit win) s fun t => (t.window win).st = 2 ∧ (t.window win).code = 0x0A ∧
       (t.window win).seq = w.seq + 1 ∧ (∀ r, s.region? (a 0) = some r → vget (t.window win).res 0 0 = r.st.zeroExtend 64) ∧
       t = { s with windows := t.windows, msis := s.msis ++ [⟨win, 0⟩], fresh := t.fresh })) ∧
    (∀ p, win ≠ 0 → Accepts s win 1 false true → s.part? win = some p →
      ((a 0 = 0 ∨ a 0 % 65536 ≠ 0) → answers (.ckptBegin win) 0x10 0x02) ∧
      (a 0 ≠ 0 → a 0 % 65536 = 0 →
        (p.undo.st = .rolling → answers (.ckptBegin win) 0x10 0x05) ∧
        (p.undo.st ≠ .rolling → 2 ^ 24 < s.nextPage + a 0 / 65536 → answers (.ckptBegin win) 0x10 0x04) ∧
        (p.undo.st ≠ .rolling → s.nextPage + a 0 / 65536 ≤ 2 ^ 24 → Completes (.ckptBegin win) s fun t => ∃ q i,
          t.part? win = some q ∧ q.undo.st = .opened ∧ q.undo.lost = false ∧ q.undo.size = a 0 ∧ q.undo.used = 0 ∧ q.undo.log = [] ∧
          q.undo.interval = i ∧ i = p.undo.interval + 1 ∧ Replies s t win 0x10 0 [i.zeroExtend 64] ∧
          ∀ d, d < 24 → ∀ l ∈ (t.die d).l2, lineKeyId l.line = win → l.dirty = false))) ∧
    (∀ p, win ≠ 0 → Accepts s win 0 false true → s.part? win = some p →
      ((s.partBusy win = true ∨ p.undo.st ≠ .opened) → answers (.ckptRollback win) 0x11 0x05) ∧
      (s.partBusy win = false → p.undo.st = .opened → (p.undo.log.map fun e => lineSector e.1).Nodup →
        let n := p.undo.used / 128
        let at_ (i : Nat) : Nat := (p.undo.base + 128 * i) / 64
        p.undo.log.length = n →
        (∀ (i : Nat) e, p.undo.log.reverse[i]? = some e → (s.plainSector (at_ i)).toNat % 2 ^ 64 / 64 = e.1 ∧
          s.plainSector (at_ i + 1) = s.storedAs e.1 e.2.1 e.2.2 ∧
          ∀ j, j < n → lineSector e.1 ≠ lineSector (at_ j) ∧ lineSector e.1 ≠ lineSector (at_ j + 1)) →
        (∀ d, d < 24 → (∀ l ∈ (s.die d).l2, lineKeyId l.line ≠ win) ∧ ∀ l ∈ (s.die d).msc, lineKeyId l.line ≠ win) →
        Completes (.ckptRollback win) s fun t => Replies s t win 0x11 0 [BitVec.ofNat 64 n] ∧
          (∃ q, t.part? win = some q ∧ q.undo = { p.undo with st := .idle, log := [] }) ∧
          (∀ e ∈ p.undo.log, t.storedSector (lineSector e.1) = e.2.2 ∧ (mget t.lineKey (lineSector e.1)).getD 0 = e.2.1) ∧
          ∀ b, (∀ e ∈ p.undo.log, b / 64 ≠ lineSector e.1) → memGet t.mem b = memGet s.mem b)) ∧
    (win = 0 → Accepts s 0 3 true false →
      ((511 < a 0 ∨ 255 < a 2) → answers (.fabricJoin 0) 0x14 0x02) ∧
      (a 0 ≤ 511 → a 2 ≤ 255 →
        (a 0 ≠ s.pkg → a 0 ∈ s.members → answers (.fabricJoin 0) 0x14 0x0B) ∧
        ((a 0 = s.pkg ∨ a 0 ∉ s.members) → Completes (.fabricJoin 0) s fun t => Busy t 0 0x14 ∧ t.pkg = a 0 ∧
          (a 0 ≠ s.pkg → a 0 ∈ t.members ∧ s.pkg ∉ t.members) ∧
          (∀ n, n < 72 → Config.partPorts.getLsbD n = true → (a 1 + a 2 * 2 ^ 64).testBit n = true →
            t.port n = { s.port n with en := true, st := if (s.port n).st = .up then .up else .training }) ∧
          (∀ n, ((a 1 + a 2 * 2 ^ 64).testBit n = false ∨ 72 ≤ n) → t.port n = s.port n)))) ∧
    (win = 0 → Accepts s 0 0 true false → Completes (.fabricLeave 0) s fun t => Busy t 0 0x15 ∧
      t = { told s t with members := [s.pkg], leaving := s.members.filter (· ≠ s.pkg) })

/-! ### The step, the reset state and invariants -/

/-- A step runs the decoded instruction (R18, R30, R31, R36, R43). At the point of issue, when nothing scheduled is due and the focus core
alone is ready, its group is one word that decodes to an instruction, shows no cause by itself and waits for nothing: the step runs the
instruction on the state that names the group, in which the engines' status stands as the group finds it and values that the instruction
supersedes are no longer awaited, and then ends the group (R37), or takes the fault that the word has raised, with the group's own effects
dropped (R314). -/
def Obligations.StepRunsDecodedWord : Prop :=
  ∀ (s : State) (w : IWord) (i : Instr) (g : Nat),
    let c := s.core
    let s1 : State := { s with core := { c with tried := s.cycle + 1, gstart := g, gend := g + 1, wpos := 0 } }
    let s2 : State := State.supersede { s1 with core := { s1.core with chView := some (s1.core.chbusy s.cycle, s1.core.cherr), vout := none } } i
    let look := s1.look none w
    s.power ≠ .off → agendaNext s.clock s.agenda = none → s.clock % 16 = ptIssue → s.readyCores = [c.id] →
    (c.isSys && c.sstat.getLsbD 0 && c.pending != 0) = false → c.wfi = false → c.startErr = none → c.ovf = none → c.recover = none →
    indexOf c.arch.pc.toNat = some g → c.text[g]? = some w → decodeWord w = .ok (false, i) →
    groupOk [wordClass w] = true → wordClass w ≠ 4 → look.cause = none →
    s1.operandsWait [look] = false → s1.queuesWait [look] = false → s1.toResolve [look] = none → s1.toAccept [look] = none →
    (∀ t, exec i s2 = .next t → t.core.raised = none →
      step s = .next ((if countsForFence w then t.onCore fun k => k.noteResults c.pend.length else t).endGroup [i])) ∧
    (∀ t f, exec i s2 = .next t → t.core.raised = some f → step s = .next (s1.refault t f)) ∧
    (∀ f, exec i s2 = .fault f → step s = .fault f) ∧ (∀ r, exec i s2 = .refused r → step s = .refused r)

/-- The state after reset: power is not yet good (R364), time is 0 (R6), nothing is scheduled, every core is IDLE without a task and reads
zero in every register, memory lists nothing in its canonical form, and a step goes on. Registers without a stated reset value hold the
model's choice (notes/assumptions/1). -/
def Obligations.ResetState : Prop :=
  let s := State.reset
  s.power = .cold ∧ s.clock = 0 ∧ s.agenda = [] ∧ s.mem = [] ∧ Memory.wf s.mem = true ∧ s.parts = [] ∧ s.faultQ = [] ∧
  (∀ k, (s.coreOf k).state = .idle ∧ (s.coreOf k).task = none ∧ (s.coreOf k).arch.pc = 0 ∧ (s.coreOf k).arch.flags = 0 ∧
    (∀ r, (s.coreOf k).arch.getX r = 0 ∧ (s.coreOf k).arch.fullX r = true) ∧
    ∀ r, (s.coreOf k).arch.getV r = { data := 0, tag := tagS, full := true }) ∧
  ∃ t, step s = .next t ∧ t.power = .cold

/-- Every step keeps the canonical form of memory: addresses strictly rising and no entry equal to what an unlisted address reads as. It
is the model's own invariant, and what makes equal memories equal data. -/
def Obligations.StepsKeepMemoryForm : Prop :=
  ∀ (s t : State), Memory.wf s.mem = true → step s = .next t → Memory.wf t.mem = true

/-! ### Encodings (R15, R23..R28) -/

/-- Decoding an encoded instruction gives it back: every word of the opcode table with every value of its operand fields, with and without
the chain bit. -/
def Obligations.EncodeDecodes : Prop :=
  ∀ (k : Bool) (d a b : XReg) (e f g : Bool) (i : BitVec 10) (j : BitVec 16) (u : BitVec 3) (n : BitVec 4) (l : BitVec 23) (o : BitVec 11)
    (z : BitVec 17) (m q : BitVec 2) (s t : BitVec 5) (r : BitVec 12) (y : BitVec 8),
    let back (x : Instr) : Prop := ∃ w, encode k x = some w ∧ decodeWord w = .ok (k, x)
    (∀ x ∈ [
      Instr.add d a b e f, .sub d a b e f, .and d a b e f, .or d a b e f, .xor d a b e f, .andn d a b e f, .shl d a b e f,
      .shr d a b e f, .sra d a b e f, .rol d a b e f, .mul d a b e f, .mulh d a b e f, .mulhn d a b e f, .div d a b e f, .divn d a b e f,
      .rem d a b e f, .remn d a b e f, .min d a b e f, .max d a b e f, .minn d a b e f, .maxn d a b e f, .slt d a b e f, .sltn d a b e f,
      .seq d a b e f, .sext d a b e f, .bext d a b e f, .bins d a b e f, .fadd d a b e f, .fsub d a b e f, .fmul d a b e f,
      .fmin d a b e f, .fmax d a b e f], back x) ∧
    (∀ x ∈ [
      Instr.haadd d a b e f, .hamax d a b e f, .hamin d a b e f, .hamaxn d a b e f, .haminn d a b e f, .haand d a b e f, .haor d a b e f,
      .haxor d a b e f, .haswp d a b e f, .hacas d a b e f, .hfadd d a b e f, .hfamax d a b e f, .hfamin d a b e f, .clz d a e,
      .ctz d a e, .popc d a e, .fset d a e, .fclr d a e, .fcvti d a e, .icvtf d a e, .hpf d a e, .addi d a i, .andi d a i, .ori d a i,
      .xori d a i, .slti d a i, .sltni d a i, .vld d a i, .vst d a i, .rmg d a i, .vfill d a i, .rtagw d a i], back x) ∧
    (∀ x ∈ [
      Instr.rtagr d a i, .qst d a i, .shli d a b, .shri d a b, .srai d a b, .vaddx d a b, .vmulx d a b, .vfmax d a b, .vperm d a b,
      .vrot d a b, .xcl d a b, .xred d a b, .vext d a b, .vins d a b, .mand d a b, .mor d a b, .fdiv d a b, .lis d j, .lih d j, .sld d j,
      .sst d j, .vsld d j, .vsst d j, .mfcr d i, .mtcr d i, .setfmt d i, .setmfmt d i, .stg d u n, .ldg d u n, .setthr d a, .vbcast d a,
      .vidx d a], back x) ∧
    (∀ x ∈ [
      Instr.vred d a, .vredmax d a, .mnot d a, .mpop d a, .vtagx d a, .vpop d a, .fexp2 d a, .flog2 d a, .frcp d a, .frsqrt d a,
      .fsqrt d a, .fsin d a, .fcos d a, .ftanh d a, .fsigm d a, .fgelu d a, .fsilu d a, .wcnt d a, .chk d a, .vchk d a, .pld d a,
      .pst d a, .wpset d a, .br l, .call l, .beq d a o, .bne d a o, .blt d a o, .bge d a o, .bltn d a o, .bgen d a o, .bz d z], back x) ∧
    (∀ x ∈ [
      Instr.bnz d z, .loop d z, .jr d, .mwld d, .mwstr d, .gkick d, .lzres d, .hinv d, .ident d, .wpclr d, .vadd d a b m, .vsub d a b m,
      .vmul d a b m, .vfma d a b m, .vfms d a b m, .vmin d a b m, .vmax d a b m, .vand d a b m, .vor d a b m, .vxor d a b m,
      .vshl d a b m, .vshr d a b m, .vsra d a b m, .vadds d a b m, .vsubs d a b m, .vmulh d a b m, .vdot4 d a b m, .vcmpeq d a b m,
      .vcmplt d a b m, .vcmple d a b m, .vsel d a b m, .vcvt d a b m], back x) ∧
    (∀ x ∈ [
      Instr.vabsd d a b m, .vclamp d a b m, .vabs d a m, .vneg d a m, .vmov d a m, .cascadeExtension s t d a e f, .vimm d r, .mfsr d r,
      .mtsr d r, .vtag d a n, .hld d a b e, .hst d a b e, .hlds d a b e, .hsts d a b e, .hvadd d a b e, .hvmax d a b e, .hinfo d a b e,
      .mmul m q e f g d, .mtile m q e f g d, .mzero m, .mdrain m q, .mstat e d y, .fget n e, .cput n e, .fpref n, .fcancel n, .sbind n,
      .sfree n, .cmov n, .clzCopy n, .lzopen n, .lzclose n], back x) ∧
    (∀ x ∈ [
      Instr.lzclr n, .barinit n, .cdrain n e f d, .cstat n e d, .wfwd y, .wst y, .osub y, .evsig y, .evsigB y, .lzstat n d a,
      .barstat n d, .trap j, .sysc j, .brk j, .ret, .phase, .tend, .ckpt, .winv, .wstC, .wexp, .wbias, .opub, .opin, .ounpin, .over,
      .lzrel, .tfence, .eret, .wfi, .pord], back x)

/-- A word that decodes is the encoding of what it decodes to: no bit of a word is dropped, and no two words name one instruction and
chain bit. -/
def Obligations.DecodeEncodes : Prop :=
  ∀ (w : IWord) (k : Bool) (x : Instr), decodeWord w = .ok (k, x) → encode k x = some w
end

