-- ==== Sys2Proof/Laws/Cells.lean ====
section
/-! SUPPORT. Sparse maps and memory: a read after a write, and the canonical form that every write keeps. -/

namespace Sys2Proof.Machine

open Sys2Proof

theorem mget_mput {α : Type} (l : List (Nat × α)) (k j : Nat) (a : α) :
    mget (mput l k a) j = if j = k then some a else mget l j := by
  induction l with
  | nil =>
    by_cases e : k = j
    · simp [mput, mget, e]
    · simp [mput, mget, e, Ne.symm e]
  | cons p t ih =>
    obtain ⟨i, b⟩ := p
    unfold mput
    split
    · by_cases e : k = j
      · simp [mget, e]
      · rw [mget, if_neg e, if_neg (Ne.symm e)]
    · split
      · rename_i e; subst e
        by_cases e : k = j
        · simp [mget, e]
        · rw [mget, if_neg e, if_neg (Ne.symm e), mget, if_neg e]
      · rename_i h
        rw [mget, mget, ih]
        by_cases e : i = j
        · subst e; rw [if_pos rfl, if_pos rfl, if_neg (by omega)]
        · rw [if_neg e, if_neg e]

theorem mget_mdel {α : Type} (l : List (Nat × α)) (k j : Nat) : mget (mdel l k) j = if j = k then none else mget l j := by
  induction l with
  | nil => simp [mdel, mget]
  | cons p t ih =>
    obtain ⟨i, b⟩ := p
    simp only [mdel] at ih ⊢
    by_cases hi : i = k
    · subst hi
      rw [List.filter_cons_of_neg (by simp), ih]
      by_cases e : j = i
      · simp [e]
      · simp [mget, e, Ne.symm e]
    · rw [List.filter_cons_of_pos (by simp [hi]), mget, mget, ih]
      by_cases e : i = j
      · subst e; simp [hi]
      · simp [e]

/-- A table's read after a write. -/
theorem mget_dput {α : Type} [DecidableEq α] (x : α) (l : List (Nat × α)) (k j : Nat) (a : α) :
    (mget (dput x l k a) j).getD x = if j = k then a else (mget l j).getD x := by
  unfold dput
  split
  · rename_i e; rw [mget_mdel]; by_cases hj : j = k <;> simp [hj, e]
  · rw [mget_mput, mget_mdel]; by_cases hj : j = k <;> simp [hj]

/-- Memory: a read after a write. -/
theorem memGet_memPut (m : List Host.Cell) (a b : Nat) (v : BitVec 8) :
    memGet (memPut m a v) b = if b = a then v else memGet m b := mget_dput ..

theorem memGet_fold (m : List Host.Cell) (base n : Nat) (f : Nat → BitVec 8) (a : Nat) :
    memGet ((List.range n).foldl (fun m i => memPut m (base + i) (f i)) m) a =
      if base ≤ a ∧ a < base + n then f (a - base) else memGet m a := by
  induction n with
  | zero => rw [if_neg (by omega)]; rfl
  | succ n ih =>
    rw [List.range_succ, List.foldl_append, List.foldl_cons, List.foldl_nil, memGet_memPut, ih]
    by_cases h : a = base + n
    · subst h; simp
    · rw [if_neg h]
      by_cases k : base ≤ a ∧ a < base + n
      · rw [if_pos k, if_pos (by omega)]
      · rw [if_neg k, if_neg (by omega)]

/-! ### The canonical form -/

theorem Memory.wf_iff (l : List Host.Cell) :
    Memory.wf l = true ↔ l.Pairwise (fun p q => p.1 < q.1) ∧ ∀ p ∈ l, p.2 ≠ 0 := by
  induction l with
  | nil => simp [Memory.wf]
  | cons p t ih =>
    obtain ⟨a, b⟩ := p
    cases t with
    | nil => simp [Memory.wf]
    | cons q t =>
      obtain ⟨c, d⟩ := q
      simp only [Memory.wf, Bool.and_eq_true, bne_iff_ne, decide_eq_true_eq, ih]
      constructor
      · rintro ⟨⟨hb, hac⟩, hp, hz⟩
        refine ⟨List.pairwise_cons.mpr ⟨?_, hp⟩, ?_⟩
        · intro r hr
          rcases List.mem_cons.mp hr with rfl | hr
          · exact hac
          · exact Nat.lt_trans hac (List.rel_of_pairwise_cons hp hr)
        · intro r hr
          rcases List.mem_cons.mp hr with rfl | hr
          · exact hb
          · exact hz r hr
      · rintro ⟨hp, hz⟩
        obtain ⟨h1, h2⟩ := List.pairwise_cons.mp hp
        exact ⟨⟨hz _ (List.mem_cons_self ..), h1 _ (List.mem_cons_self ..)⟩, h2, fun r hr => hz r (List.mem_cons_of_mem _ hr)⟩

theorem mput_mem {α : Type} (l : List (Nat × α)) (k : Nat) (a : α) (p : Nat × α) (h : p ∈ mput l k a) : p = (k, a) ∨ p ∈ l := by
  induction l with
  | nil => simpa [mput] using h
  | cons q t ih =>
    obtain ⟨j, b⟩ := q
    simp only [mput] at h
    split at h
    · simpa using h
    · split at h
      · rcases List.mem_cons.mp h with h | h
        · exact .inl h
        · exact .inr (List.mem_cons_of_mem _ h)
      · rcases List.mem_cons.mp h with h | h
        · exact .inr (h ▸ List.mem_cons_self ..)
        · rcases ih h with h | h
          · exact .inl h
          · exact .inr (List.mem_cons_of_mem _ h)

theorem mput_sorted {α : Type} (l : List (Nat × α)) (k : Nat) (a : α) (h : l.Pairwise (fun p q => p.1 < q.1)) :
    (mput l k a).Pairwise (fun p q => p.1 < q.1) := by
  induction l with
  | nil => simp [mput]
  | cons q t ih =>
    obtain ⟨j, b⟩ := q
    obtain ⟨h1, h2⟩ := List.pairwise_cons.mp h
    simp only [mput]
    split
    · rename_i lt
      refine List.pairwise_cons.mpr ⟨?_, h⟩
      intro r hr
      rcases List.mem_cons.mp hr with rfl | hr
      · exact lt
      · exact Nat.lt_trans lt (h1 r hr)
    · split
      · rename_i e; subst e
        exact List.pairwise_cons.mpr ⟨h1, h2⟩
      · refine List.pairwise_cons.mpr ⟨?_, ih h2⟩
        intro r hr
        rcases mput_mem t k a r hr with rfl | hr
        · show j < k; omega
        · exact h1 r hr

/-- A write of one byte keeps the canonical form. -/
theorem memPut_wf (m : List Host.Cell) (a : Nat) (v : BitVec 8) (h : Memory.wf m = true) : Memory.wf (memPut m a v) = true := by
  rw [Memory.wf_iff] at h ⊢
  have hf : (mdel m a).Pairwise (fun p q => p.1 < q.1) := h.1.filter _
  have hz : ∀ p ∈ mdel m a, p.2 ≠ 0 := fun p hp => h.2 p (List.mem_filter.mp hp).1
  unfold memPut dput
  split
  · exact ⟨hf, hz⟩
  · rename_i hv
    refine ⟨mput_sorted _ _ _ hf, fun p hp => ?_⟩
    rcases mput_mem _ _ _ _ hp with rfl | hp
    · exact hv
    · exact hz p hp

/-- A selection of cells keeps it. -/
theorem filter_wf (m : List Host.Cell) (p : Host.Cell → Bool) (h : Memory.wf m = true) : Memory.wf (m.filter p) = true := by
  rw [Memory.wf_iff] at h ⊢
  exact ⟨h.1.filter _, fun q hq => h.2 q (List.mem_filter.mp hq).1⟩

theorem fold_wf (l : List Nat) (m : List Host.Cell) (f : Nat → Nat) (g : Nat → BitVec 8) (h : Memory.wf m = true) :
    Memory.wf (l.foldl (fun m i => memPut m (f i) (g i)) m) = true := by
  induction l generalizing m with
  | nil => exact h
  | cons i l ih => exact ih _ (memPut_wf _ _ _ h)

/-- A sector's write keeps it. -/
theorem putSector_wf (s : State) (sec tag : Nat) (d : Mask) (h : Memory.wf s.mem = true) :
    Memory.wf (s.putSector sec tag d).mem = true := fold_wf _ _ _ _ h

/-- The memory of the machine right after reset has it. -/
theorem reset_wf : Memory.wf State.reset.mem = true := rfl

/-- What a sector's write does to a stored byte. -/
theorem putSector_byte (s : State) (sec tag : Nat) (d : Mask) (a : Nat) :
    memGet (s.putSector sec tag d).mem a = if a / 64 = sec then d.extractLsb' (8 * (a % 64)) 8 else memGet s.mem a := by
  show memGet ((List.range 64).foldl (fun m i => memPut m (64 * sec + i) (d.extractLsb' (8 * i) 8)) s.mem) a = _
  rw [memGet_fold]
  by_cases h : a / 64 = sec
  · rw [if_pos (by omega), if_pos h]; congr 2; omega
  · rw [if_neg (by omega), if_neg h]

end Sys2Proof.Machine
end

