-- ==== Sys2Proof/Laws/Cores.lean ====
section
/-! SUPPORT. The cores of a state: a read of one core after a write of one, or of all. -/

namespace Sys2Proof.Machine

open Sys2Proof

theorem findCore_id (l : List Core) (i : Nat) (c : Core) (h : findCore l i = some c) : c.id = i := by
  have := List.find?_some h; simpa using this

/-- The core that an id names has that id. -/
@[simp] theorem coreOf_id (s : State) (i : Nat) : (s.coreOf i).id = i := by
  unfold State.coreOf
  split
  · assumption
  · cases h : findCore s.parked i with
    | none => rfl
    | some c => exact findCore_id _ _ _ h

theorem findCore_parkCore (l : List Core) (c : Core) (i : Nat) :
    findCore (parkCore l c) i = if i = c.id then some c else findCore l i := by
  induction l with
  | nil =>
    by_cases h : c.id = i
    · simp [parkCore, findCore, h]
    · simp [parkCore, findCore, h, Ne.symm h]
  | cons d t ih =>
    unfold parkCore
    split
    · by_cases h : c.id = i
      · simp [findCore, h]
      · rw [if_neg (Ne.symm h)]
        show List.find? _ (c :: _) = _
        rw [List.find?_cons_of_neg (by simpa using h)]
        rfl
    · split
      · rename_i h1 h2
        by_cases h : c.id = i
        · simp [findCore, h]
        · rw [if_neg (Ne.symm h)]
          show List.find? _ (c :: _) = List.find? _ (d :: _)
          rw [List.find?_cons_of_neg (by simpa using h), List.find?_cons_of_neg (by simpa [← h2] using h)]
      · rename_i h1 h2
        by_cases h : d.id = i
        · have : ¬ i = c.id := by omega
          rw [if_neg this]
          simp [findCore, h]
        · show List.find? _ (d :: _) = _
          rw [List.find?_cons_of_neg (by simpa using h)]
          show findCore (parkCore t c) i = _
          rw [ih]
          split
          · rfl
          · show _ = List.find? _ (d :: _)
            rw [List.find?_cons_of_neg (by simpa using h)]; rfl

/-- A core after a write of one core. -/
theorem coreOf_putCore (s : State) (c : Core) (i : Nat) : (s.putCore c).coreOf i = if i = c.id then c else s.coreOf i := by
  unfold State.putCore
  by_cases h : s.core.id = c.id
  · rw [if_pos h]
    unfold State.coreOf
    by_cases e : i = c.id
    · rw [if_pos e, if_pos e.symm]
    · rw [if_neg e, if_neg (Ne.symm e), if_neg (by omega)]
  · rw [if_neg h]
    show (if s.core.id = i then s.core else (findCore (parkCore s.parked c) i).getD _) = _
    rw [findCore_parkCore]
    by_cases e : i = c.id
    · rw [if_pos e, if_pos e, if_neg (by omega)]; rfl
    · rw [if_neg e, if_neg e]; rfl

theorem coreOf_modCore (s : State) (i j : Nat) (f : Core → Core) (h : (f (s.coreOf i)).id = i) :
    (s.modCore i f).coreOf j = if j = i then f (s.coreOf i) else s.coreOf j := by
  unfold State.modCore
  rw [coreOf_putCore, h]

theorem parkCore_parkCore (l : List Core) (c d : Core) (h : c.id = d.id) : parkCore (parkCore l c) d = parkCore l d := by
  induction l with
  | nil => simp [parkCore, h]
  | cons e t ih =>
    by_cases h1 : c.id < e.id
    · simp [parkCore, h ▸ h1, h]
    · by_cases h2 : c.id = e.id
      · simp [parkCore, h2, h ▸ h2]
      · simp [parkCore, h1, h2, ← h, ih]

/-- The later of two writes of one core stands. -/
theorem putCore_putCore (s : State) (c d : Core) (h : c.id = d.id) : (s.putCore c).putCore d = s.putCore d := by
  unfold State.putCore
  by_cases e : s.core.id = c.id
  · rw [if_pos e, if_pos h, if_pos (e.trans h)]
  · rw [if_neg e, if_neg (by rw [← h]; exact e), if_neg (by rw [← h]; exact e), parkCore_parkCore _ _ _ h]

/-- Two updates of one core are one. -/
theorem modCore_modCore (s : State) (i : Nat) (f g : Core → Core) (h : (f (s.coreOf i)).id = i) (k : (g (f (s.coreOf i))).id = i) :
    (s.modCore i f).modCore i g = s.modCore i fun c => g (f c) := by
  unfold State.modCore
  rw [coreOf_putCore, h, if_pos rfl, putCore_putCore _ _ _ (h.trans k.symm)]

/-- Storing a core touches the cores alone. -/
theorem putCore_frame (s : State) (c : Core) :
    s.putCore c = { s with core := (s.putCore c).core, parked := (s.putCore c).parked } := by
  unfold State.putCore; split <;> rfl

section
variable (s : State) (c : Core) (i : Nat) (f : Core → Core)

@[simp] theorem putCore_agenda : (s.putCore c).agenda = s.agenda := by rw [putCore_frame]
@[simp] theorem putCore_mem : (s.putCore c).mem = s.mem := by rw [putCore_frame]
@[simp] theorem putCore_clock : (s.putCore c).clock = s.clock := by rw [putCore_frame]
@[simp] theorem modCore_agenda : (s.modCore i f).agenda = s.agenda := putCore_agenda ..
@[simp] theorem modCore_mem : (s.modCore i f).mem = s.mem := putCore_mem ..
@[simp] theorem modCore_clock : (s.modCore i f).clock = s.clock := putCore_clock ..
end

theorem findCore_map (l : List Core) (f : Core → Core) (hf : ∀ c, (f c).id = c.id) (i : Nat) :
    findCore (l.map f) i = (findCore l i).map f := by
  induction l with
  | nil => rfl
  | cons c t ih =>
    by_cases h : c.id = i
    · simp [findCore, hf, h]
    · simp only [findCore, List.map_cons] at ih ⊢
      rw [List.find?_cons_of_neg (by simpa [hf] using h), List.find?_cons_of_neg (by simpa using h), ih]

/-- A core after an update of every core out of reset. -/
theorem coreOf_allCores (s : State) (f : Core → Core) (hf : ∀ c, (f c).id = c.id) (i : Nat) :
    (s.allCores f).coreOf i = if s.core.id = i ∨ (findCore s.parked i).isSome then f (s.coreOf i) else s.coreOf i := by
  show (if (f s.core).id = i then f s.core else (findCore (s.parked.map f) i).getD _) = _
  rw [hf, findCore_map _ _ hf]
  unfold State.coreOf
  by_cases h : s.core.id = i
  · simp only [if_pos h, if_pos (Or.inl h)]
  · rw [if_neg h, if_neg h]
    cases hp : findCore s.parked i with
    | none => simp only [Option.isSome_none, h]; rfl
    | some c => simp only [Option.isSome_some, h]; rfl

end Sys2Proof.Machine
end

