-- ==== Sys2Proof/Laws/Elements.lean ====
section
/-! SUPPORT. Vectors as lists of elements: what `elem` reads of what `ofElems` packs. -/

namespace Sys2Proof.Machine

open Sys2Proof

theorem packNat_digit (w : Nat) (l : List Nat) (k : Nat) :
    packNat w l / 2 ^ (w * k) % 2 ^ w = l.getD k 0 % 2 ^ w := by
  induction l generalizing k with
  | nil => simp [packNat]
  | cons a l ih =>
    cases k with
    | zero => simp [packNat]
    | succ k =>
      have h : packNat w (a :: l) / 2 ^ (w * (k + 1)) = packNat w l / 2 ^ (w * k) := by
        rw [Nat.mul_succ, Nat.add_comm, Nat.pow_add, ← Nat.div_div_eq_div_mul, packNat,
          Nat.add_mul_div_left _ _ (Nat.two_pow_pos w), Nat.div_eq_of_lt (Nat.mod_lt _ (Nat.two_pow_pos w)), Nat.zero_add]
      rw [h, ih]; simp

/-- Position k of a packed vector is the k-th listed pattern. -/
theorem elem_ofElems (w : Nat) (l : List Nat) (k : Nat) (h : w * (k + 1) ≤ 4096) :
    elem w (ofElems w l) k = l.getD k 0 % 2 ^ w := by
  rw [elem, ofElems, BitVec.toNat_ofNat, ← packNat_digit w l k]
  have e : 2 ^ 4096 = 2 ^ (w * k) * 2 ^ (4096 - w * k) := by rw [← Nat.pow_add]; congr 1; rw [Nat.mul_succ] at h; omega
  rw [e, Nat.mod_mul_right_div_self]
  exact Nat.mod_mod_of_dvd _ (Nat.pow_dvd_pow 2 (by rw [Nat.mul_succ] at h; omega))

theorem elems_getD (w : Nat) (v : Vec) (k : Nat) (h : k < 4096 / w) : (elems w v).getD k 0 = elem w v k := by
  simp [elems, List.getD_eq_getElem?_getD, h]

theorem elem_lt (w : Nat) (v : Vec) (k : Nat) : elem w v k < 2 ^ w := Nat.mod_lt _ (Nat.two_pow_pos w)

end Sys2Proof.Machine
end

