-- ==== Sys2Proof/Laws/Memory.lean ====
section
/-! SUPPORT. What the operations below the handle unit may change: one lemma for each, and the canonical form of memory that
each keeps; what a sector reads as after a write. -/

namespace Sys2Proof.Machine

open Sys2Proof

/-- The operations below the handle unit: what they move, and the form that they keep. -/
structure Below (s t : State) : Prop where
  moves : MemoryMoves s t
  form  : Memory.wf s.mem = true → Memory.wf t.mem = true

theorem CoreMoves.refl (c : Core) : CoreMoves c c := ⟨rfl, fun _ => rfl⟩

theorem CoreMoves.trans {c d e : Core} (h : CoreMoves c d) (k : CoreMoves d e) : CoreMoves c e := by
  have hs : d.isSys = c.isSys := by rw [h.1]; rfl
  exact ⟨by rw [k.1, h.1], fun hc => (k.2 (hs.trans hc)).trans (h.2 hc)⟩

theorem CoreMoves.id_eq {c d : Core} (h : CoreMoves c d) : d.id = c.id := by rw [h.1]

theorem MemoryMoves.refl (s : State) : MemoryMoves s s := ⟨rfl, .refl _, fun _ => .refl _, fun _ h => h⟩

theorem MemoryMoves.trans {s t u : State} (h : MemoryMoves s t) (k : MemoryMoves t u) : MemoryMoves s u :=
  ⟨by rw [k.1, h.1], h.2.1.trans k.2.1, fun i => (h.2.2.1 i).trans (k.2.2.1 i), fun e he => k.2.2.2 e (h.2.2.2 e he)⟩

theorem Below.refl (s : State) : Below s s := ⟨.refl s, id⟩

theorem Below.trans {s t u : State} (h : Below s t) (k : Below t u) : Below s u := ⟨h.moves.trans k.moves, k.form ∘ h.form⟩

theorem Below.of_eq {α : Type} {s t : State} {x : α} {r : α × State} (h : Below s r.2) (e : r = (x, t)) : Below s t := by
  rw [e] at h; exact h

theorem Below.fold {α : Type} (l : List α) (f : State → α → State) (hf : ∀ s a, Below s (f s a)) (s : State) :
    Below s (l.foldl f s) := by
  induction l generalizing s with
  | nil => exact .refl s
  | cons a l ih => exact (hf s a).trans (ih _)

/-- What a step below the handle unit may do to a core. -/
def LowCore (f : Core → Core) : Prop := ∀ c, CoreMoves c (f c)

theorem below_modCore (s : State) (i : Nat) (f : Core → Core) (hf : LowCore f) : Below s (s.modCore i f) := by
  have hid : (f (s.coreOf i)).id = i := ((hf _).id_eq).trans (coreOf_id s i)
  refine ⟨⟨?_, ?_, fun j => ?_, fun e h => ?_⟩, fun h => ?_⟩
  · unfold State.modCore State.putCore; split <;> rfl
  · unfold State.modCore State.putCore
    rw [hid]
    by_cases e : s.core.id = i
    · rw [if_pos e]
      have hc : s.coreOf i = s.core := by unfold State.coreOf; rw [if_pos e]
      rw [hc]; exact hf _
    · rw [if_neg e]; exact .refl _
  · rw [coreOf_modCore s i j f hid]
    split
    · rename_i e; subst e; exact hf _
    · exact .refl _
  · rw [modCore_agenda]; exact h
  · rw [modCore_mem]; exact h

theorem below_allCores (s : State) (f : Core → Core) (hf : LowCore f):
    Below s (s.allCores f) := by
  refine ⟨⟨rfl, hf _, fun j => ?_, fun e h => h⟩, id⟩
  rw [coreOf_allCores s f (fun c => (hf c).id_eq)]
  split
  · exact hf _
  · exact .refl _

theorem agendaPut_mem (l : List (Nat × Instr)) (k : Nat) (i : Instr) (e : Nat × Instr) :
    e ∈ agendaPut l k i ↔ e = (k, i) ∨ e ∈ l := by
  induction l with
  | nil => simp [agendaPut]
  | cons p t ih =>
    obtain ⟨j, x⟩ := p
    unfold agendaPut
    split
    · simp
    · simp only [List.mem_cons, ih]; tauto

/-- A step that leaves the cores, memory and what is scheduled alone. -/
theorem below_rest (s t : State) (h : t = { s with
      agenda := t.agenda, fresh := t.fresh, mem := t.mem, lineKey := t.lineKey, kept := t.kept, pool := t.pool, parts := t.parts })
    (ha : ∀ e ∈ s.agenda, e ∈ t.agenda) (hm : Memory.wf s.mem = true → Memory.wf t.mem = true) : Below s t := by
  refine ⟨⟨?_, ?_, fun i => ?_, ha⟩, hm⟩
  · rw [h]
  · rw [h]; exact .refl _
  · have : t.coreOf i = s.coreOf i := by rw [h]; rfl
    rw [this]; exact .refl _

theorem below_sched (s : State) (c p : Nat) (i : Instr) : Below s (s.sched c p i) :=
  below_rest _ _ rfl (fun e h => (agendaPut_mem _ _ _ e).mpr (.inr h)) id

theorem below_fresh (s : State) (n : Nat) : Below s { s with fresh := n } := below_rest _ _ rfl (fun _ h => h) id

theorem below_modDie (s : State) (d : Nat) (f : Die → Die) : Below s (s.modDie d f) := by
  refine ⟨⟨rfl, .refl _, fun i => ?_, fun _ h => h⟩, id⟩
  have h : (s.modDie d f).coreOf i = if s.core.id = i then s.core else (findCore s.parked i).getD
      { id := i, ltime := (vget (s.modDie d f).dies (i / 32) {}).idle } := rfl
  rw [h]
  unfold State.coreOf
  by_cases e : s.core.id = i
  · rw [if_pos e, if_pos e]; exact .refl _
  · rw [if_neg e, if_neg e]
    cases findCore s.parked i
    · exact ⟨rfl, fun _ => rfl⟩
    · exact .refl _

theorem below_modPart (s : State) (k : Nat) (f : Part → Part) : Below s (s.modPart k f) := below_rest _ _ rfl (fun _ h => h) id

theorem below_putSector (s : State) (a b : Nat) (d : Mask) : Below s (s.putSector a b d) :=
  below_rest _ _ rfl (fun _ h => h) (putSector_wf s a b d)

theorem below_sysPend (s : State) (n : Nat) : Below s (s.sysPend n) := by
  unfold State.sysPend State.sysCores
  refine below_allCores _ _ (fun c => ?_)
  by_cases h : c.isSys = true
  · rw [if_pos h]; exact ⟨rfl, fun hc => absurd h (by simp [hc])⟩
  · rw [if_neg h]; exact .refl _

theorem below_meterLine (s : State) (l : Nat) (w : Bool) (o : Option Nat) : Below s (s.meterLine l w o) := by
  unfold State.meterLine
  extract_lets
  split
  · exact .refl s
  · exact below_sched ..

theorem below_undoLog (s : State) (l : Nat) : Below s (s.undoLog l) := by
  unfold State.undoLog
  split
  · exact .refl s
  · extract_lets
    split
    · exact .refl s
    · split
      · exact (below_modPart ..).trans (below_sysPend ..)
      · exact ((below_putSector ..).trans (below_putSector ..)).trans (below_modPart ..)

theorem below_ctlWrite (s : State) (l : Nat) (d : Mask) (o : Option Nat) : Below s (s.ctlWrite l d o) := by
  unfold State.ctlWrite
  split
  · exact ((below_undoLog s l).trans (below_putSector ..)).trans (below_meterLine ..)
  · exact .refl s

theorem below_ite {s t u : State} (p : Prop) [Decidable p] (h : Below s t) (k : Below s u) : Below s (if p then t else u) := by
  split
  · exact h
  · exact k

theorem below_dropL1 (s : State) (d : Nat) (p : Nat → Bool) : Below s (s.dropL1 d p) := by
  refine below_allCores _ _ fun c => ?_
  split <;> exact ⟨rfl, fun _ => rfl⟩

theorem below_pickWay (s t : State) (l : List Nat) (w : Nat) (h : s.pickWay l = some (w, t)) : Below s t := by
  unfold State.pickWay at h
  by_cases e : l.isEmpty
  · rw [if_pos e] at h; cases h
  · rw [if_neg e] at h; cases h; exact below_fresh ..

theorem below_mscAlloc (s : State) (h : Nat) (ways : List Nat) (first : Bool) (l : L2Line) :
    Below s (s.mscAlloc h ways first l) := by
  unfold State.mscAlloc
  extract_lets set put
  have hput : ∀ w t, Below t (put w t) := fun w t => below_modDie ..
  clear_value put
  split
  · exact hput ..
  · split
    · exact .refl s
    · extract_lets s1
      refine (Below.trans ?_ (below_ite _ (below_ctlWrite s1 _ _ none) (.refl s1))).trans (hput ..)
      exact below_modDie ..

theorem below_victimLine (s : State) (l : L2Line) : Below s (s.victimLine l) := by
  unfold State.victimLine
  extract_lets
  exact below_ite _ (below_mscAlloc ..) (below_ite _ (below_ctlWrite ..) (.refl s))

theorem below_evictL2 (s : State) (d : Nat) (l : L2Line) : Below s (s.evictL2 d l) :=
  ((below_modDie ..).trans (below_dropL1 ..)).trans (below_victimLine ..)

theorem below_invalidateAt (s : State) (d b k : Nat) : Below s (s.invalidateAt d b k) := by
  unfold State.invalidateAt
  extract_lets
  refine ((Below.fold _ _ (fun s l => ?_) s).trans (below_modDie ..)).trans (below_dropL1 ..)
  split
  · exact below_ctlWrite ..
  · exact .refl s

theorem below_downgradeAt (s : State) (d b k : Nat) : Below s (s.downgradeAt d b k) := by
  unfold State.downgradeAt
  extract_lets
  exact (Below.fold _ _ (fun s l => below_ctlWrite ..) s).trans (below_modDie ..)

theorem below_dirRoom (s : State) (h : Nat) (k : Option Nat) : Below s (s.dirRoom h k) := by
  unfold State.dirRoom
  extract_lets
  split
  · exact .refl s
  · split
    · exact .refl s
    · extract_lets
      exact (Below.fold _ _ (fun s d => below_invalidateAt ..) s).trans (below_modDie ..)

theorem below_putDir (s : State) (h : Nat) (e : DirEntry) : Below s (s.putDir h e) := below_modDie ..

theorem below_dirEntry (s : State) (l : Nat) : Below s (s.dirEntry l).2 := by
  unfold State.dirEntry
  extract_lets
  split
  · exact .refl s
  · exact below_dirRoom ..

theorem below_halve (s : State) (e : DirEntry) (l : Nat) : Below s (s.halve e l).2 := by
  unfold State.halve
  split
  · exact .refl s
  · extract_lets _ _ _ s1
    have h1 : Below s s1 := below_dirRoom ..
    split
    · exact h1.trans (below_putDir ..)
    · exact h1.trans (below_putDir ..)

theorem below_dirRead (s : State) (d l : Nat) : Below s (s.dirRead d l) := by
  have h1 := below_dirEntry s l
  unfold State.dirRead
  extract_lets h
  split
  rename_i e s1 he
  rw [he] at h1
  split
  · split
    rename_i e2 s2 he2
    have h2 := below_halve s1 e l
    rw [he2] at h2
    extract_lets
    exact ((h1.trans h2).trans (Below.fold _ _ (fun s d => below_downgradeAt ..) _)).trans (below_putDir ..)
  · split
    · exact h1.trans (below_putDir ..)
    · exact h1.trans (below_putDir ..)

theorem below_dirOwn (s : State) (d l : Nat) : Below s (s.dirOwn d l) := by
  have h1 := below_dirEntry s l
  unfold State.dirOwn
  extract_lets h
  split
  rename_i e s1 he
  rw [he] at h1
  extract_lets others
  split
  · exact h1.trans (below_putDir ..)
  · split
    rename_i e2 s2 he2
    have h2 := below_halve s1 e l
    rw [he2] at h2
    extract_lets
    exact ((h1.trans h2).trans (Below.fold _ _ (fun s d => below_invalidateAt ..) _)).trans (below_putDir ..)

theorem below_dirUse (s : State) (l : Nat) : Below s (s.dirUse l) := by
  have h1 := below_dirEntry s l
  unfold State.dirUse
  split
  rename_i e s1 he
  rw [he] at h1
  exact h1.trans (below_putDir ..)

theorem below_dirClear (s : State) (l : Nat) : Below s (s.dirClear l) := by
  have h1 := below_dirEntry s l
  unfold State.dirClear
  extract_lets h
  split
  rename_i e s1 he
  rw [he] at h1
  split
  · exact h1.trans (below_putDir ..)
  · split
    rename_i e2 s2 he2
    have h2 := below_halve s1 e l
    rw [he2] at h2
    extract_lets
    exact ((h1.trans h2).trans (Below.fold _ _ (fun s d => below_invalidateAt ..) _)).trans (below_putDir ..)

theorem below_ctlSector (s : State) (l : Nat) (c : Bool) (o : Option Nat) : Below s (s.ctlSector l c o).2 := by
  unfold State.ctlSector
  split
  · exact below_meterLine ..
  · exact .refl s

theorem below_takeLine (s : State) (l : Nat) (c : Bool) (o : Option Nat) : Below s (s.takeLine l c o).2.2 := by
  unfold State.takeLine
  extract_lets h
  split
  · exact below_modDie s (homeDie l) fun d => { d with msc := d.msc.filter fun m => m.line ≠ l }
  · exact below_ctlSector ..

theorem below_wakeWay (s : State) (d w : Nat) : Below s (s.wakeWay d w) := by
  unfold State.wakeWay
  split
  · exact .refl s
  · extract_lets
    exact (below_modDie ..).trans (below_dropL1 ..)

theorem below_haveL2 (s : State) (d l c : Nat) (a b p : Bool) (o : Option Nat) : Below s (s.haveL2 d l c a b p o).2 := by
  unfold State.haveL2
  extract_lets s0 hd s1
  have h0 : Below s s0 := by
    show Below s (match (s.die d).l2Line l with | some l => s.wakeWay d l.way | none => s)
    split
    · exact below_wakeWay ..
    · exact .refl s
  have h1 : Below s s1 :=
    h0.trans (below_ite _ (below_ite _ (.refl s0) (below_dirOwn ..)) (below_ite _ (.refl s0) (below_dirRead ..)))
  clear_value s1
  split
  · exact h1
  · have h2 := below_takeLine s1 l a o
    split
    · rename_i x s2 he
      rw [he] at h2
      exact h1.trans h2
    · rename_i data dirty s2 he
      rw [he] at h2
      replace h2 := h1.trans h2
      extract_lets s3
      have h3 : Below s s3 := h2.trans (below_ite _ (below_dirOwn ..) (.refl _))
      clear_value s3
      split
      · exact h3.trans (below_ite _ (below_ctlWrite ..) (.refl _))
      · rename_i w s4 hp
        have h4 : Below s s4 := h3.trans (below_pickWay _ _ _ _ hp)
        extract_lets s6 s5 ln
        have h6 : Below s s6 := h4.trans (below_wakeWay ..)
        have h5 : Below s s5 := by
          refine h6.trans ?_
          show Below s6 (match (s6.die d).inWay l w with | some v => s6.evictL2 d v | none => s6)
          split
          · exact below_evictL2 ..
          · exact .refl _
        exact h5.trans (below_modDie s5 d fun die => die.putL2 ln)

theorem below_putL1 (s : State) (c : Nat) (l : L1Line) : Below s (s.putL1 c l) := by
  unfold State.putL1
  extract_lets
  split
  · exact below_modCore _ _ _ fun _ => ⟨rfl, fun _ => rfl⟩
  · exact (below_fresh s _).trans (below_modCore _ _ _ fun _ => ⟨rfl, fun _ => rfl⟩)

theorem below_modL1 (s : State) (c : Nat) (f : List L1Line → List L1Line) : Below s (s.modL1 c f) := by
  unfold State.modL1
  split
  · exact below_modCore _ _ _ fun _ => ⟨rfl, fun _ => rfl⟩
  · exact .refl s

theorem below_setLtime (s : State) (d c t : Nat) : Below s (s.setLtime d c t) := by
  unfold State.setLtime
  split
  · exact below_modCore _ _ _ fun _ => ⟨rfl, fun _ => rfl⟩
  · exact .refl s

theorem below_leaseRead (s : State) (d c l k : Nat) (a b p : Bool) : Below s (s.leaseRead d c l k a b p).2 := by
  have h1 := below_haveL2 s d l k a false p (some c)
  unfold State.leaseRead
  split
  · rename_i s1 he
    rw [he] at h1; exact h1
  · rename_i x held s1 he
    rw [he] at h1
    extract_lets t s2
    split
    · have h2 : Below s s2 := (h1.trans (below_setLtime ..)).trans (below_modDie ..)
      exact h2.trans (below_ite _ (below_putL1 ..) (.refl _))
    · exact h1

theorem below_leaseWrite (s : State) (d c l k : Nat) (p : Bool) (f : Mask → Mask) : Below s (s.leaseWrite d c l k p f) := by
  have h1 := below_haveL2 s d l k false true p (some c)
  unfold State.leaseWrite
  split
  · rename_i s1 he
    rw [he] at h1; exact h1
  · rename_i x held s1 he
    rw [he] at h1
    extract_lets own t data s2
    have h2 : Below s s2 := h1.trans <| below_ite _
      ((below_ite _ (below_setLtime s1 d c t) (.refl s1)).trans (below_modDie ..)) (below_ctlWrite ..)
    exact h2.trans (below_modL1 ..)

/-! ### Migration (R278) -/

theorem below_moveSector (s : State) (k a b : Nat) : Below s (s.moveSector k a b) := by
  unfold State.moveSector
  extract_lets
  exact below_ite _ ((below_meterLine ..).trans (below_ctlWrite ..)) ((below_undoLog ..).trans (below_putSector ..))

theorem below_forwarded (s : State) (l : Nat) : Below s (s.forwarded l).2 := by
  unfold State.forwarded
  split
  · exact .refl s
  · extract_lets
    split
    · exact .refl s
    · extract_lets dest s1
      have h1 : Below s s1 := (below_moveSector ..).trans (below_modDie ..)
      exact h1

theorem below_padWrite (s : State) (a : Nat) (d : Mask) : Below s (s.padWrite a d) := by
  unfold State.padWrite
  extract_lets
  refine below_modCore _ _ _ fun c => ?_
  split <;> exact ⟨rfl, fun _ => rfl⟩

/-- A core's read of a sector. -/
theorem below_readSector (s : State) (c : Nat) (x : Sector) (l : Bool) (k : Nat) : Below s (s.readSector c x l k).2 := by
  have hf := below_forwarded s x.line
  unfold State.readSector
  split
  · exact .refl s
  · split
    · exact .refl s
    · split
      rename_i line mig he
      rw [he] at hf
      split
      · exact hf.trans (below_ctlSector ..)
      · extract_lets d
        split
        · exact hf
        · exact hf.trans (below_leaseRead ..)

/-- A core's write of a sector. -/
theorem below_writeSector (s : State) (c : Nat) (x : Sector) (k : Nat) (f : Mask → Mask) :
    Below s (s.writeSector c x k f) := by
  have hf := below_forwarded s x.line
  unfold State.writeSector
  split
  · exact .refl s
  · split
    · exact below_padWrite ..
    · split
      rename_i line mig he
      rw [he] at hf
      exact hf.trans (below_ite _ (below_ctlWrite ..) (below_leaseWrite ..))

theorem below_streamSector (s : State) (c : Nat) (x : Sector) : Below s (s.streamSector c x).2 := by
  have hf := below_forwarded s x.line
  unfold State.streamSector
  split
  · exact .refl s
  · split
    · exact .refl s
    · split
      rename_i line mig he
      rw [he] at hf
      split
      · exact hf
      · split
        · exact hf
        · exact hf.trans (below_ctlSector ..)

theorem below_outerRead (s : State) (x : Sector) : Below s (s.outerRead x).2 := by
  have hf := below_forwarded s x.line
  unfold State.outerRead
  split
  · exact .refl s
  · split
    · exact .refl s
    · split
      rename_i line mig he
      rw [he] at hf
      split
      · exact hf.trans (below_leaseRead ..)
      · split
        · exact hf
        · split
          · exact hf
          · exact hf.trans (below_ctlSector ..)

theorem below_outerWrite (s : State) (x : Sector) (f : Mask → Mask) : Below s (s.outerWrite x f) := by
  have hf := below_forwarded s x.line
  unfold State.outerWrite
  split
  · exact .refl s
  · split
    · exact below_padWrite ..
    · split
      rename_i line mig he
      rw [he] at hf
      split
      · exact hf.trans (below_leaseWrite ..)
      · extract_lets
        exact ((hf.trans (below_dirClear ..)).trans (below_modDie ..)).trans (below_ctlWrite ..)

/-- An atomic on a sector. -/
theorem below_atomicSector (s : State) (c : Nat) (x : Sector) (r : Bool) (f : Mask → Mask) :
    Below s (s.atomicSector c x r f).2 := by
  have hf := below_forwarded s x.line
  unfold State.atomicSector
  split
  · exact .refl s
  · split
    · exact below_padWrite ..
    · split
      rename_i line mig he
      rw [he] at hf
      extract_lets s1 h old s2 atL2 s3 old2
      have h1 : Below s s1 := hf.trans (below_modL1 ..)
      have h2 : Below s s2 := h1.trans (below_dirUse ..)
      clear_value s1 s2
      split
      · exact h1.trans (below_ctlWrite ..)
      · have hat : ∀ d s, Below s (atL2 d s).2 := by
          intro d s
          have h2 := below_haveL2 s d line (classOf false false line) false true (x.home == 2) (some c)
          show Below s (match s.haveL2 d line (classOf false false line) false true (x.home == 2) (some c) with
            | (none, s) => (none, s)
            | (some (l, held), s) =>
              (some l.data, if held then s.leaseWrite d c line l.cls (x.home == 2) f else s.ctlWrite line (f l.data) (some c))).2
          split
          · rename_i s2 he; rw [he] at h2; exact h2
          · rename_i held s2 he
            rw [he] at h2
            exact h2.trans (below_ite _ (below_leaseWrite ..) (below_ctlWrite ..))
        clear_value atL2
        split
        · exact h2.trans (hat ..)
        · split
          · split
            · dsimp only
              exact h2.trans (below_modDie ..)
            · exact h2.trans (hat ..)
          · split
            · exact h2.trans (hat ..)
            · exact (h2.trans (below_dirClear ..)).trans (below_ctlWrite ..)

/-! ### Objects -/

theorem below_copySectors (s : State) (a b : Nat) : Below s (s.copySectors a b) := by
  refine Below.fold _ _ (fun s i => ?_) s
  have h := below_forwarded s (a + i)
  split
  · exact below_ctlWrite ..
  · split
    rename_i l s1 he
    rw [he] at h
    exact (h.trans (below_meterLine ..)).trans (below_ctlWrite ..)

theorem below_purgePage (s : State) (l : Nat) : Below s (s.purgePage l) :=
  Below.fold _ _ (fun _ _ => (below_invalidateAt ..).trans (below_modDie ..)) s

/-- What this package knows of other packages' sectors stands apart from what moves below the handle unit. -/
theorem Below.farMem {s t : State} (h : Below s t) (x : List (FarAt × Mask)) :
    Below { s with farMem := x } { t with farMem := x } :=
  ⟨⟨by have h1 := h.moves.1; generalize t = u at *; rw [h1], h.moves.2.1, fun i => h.moves.2.2.1 i, h.moves.2.2.2⟩, h.form⟩

/-- `t` with what `s` knew of other packages' sectors. -/
def State.sameFar (s t : State) : State := { t with farMem := s.farMem }

theorem Below.throughFar {s t u : State} (h : Below s (s.sameFar t)) (k : Below t (t.sameFar u)) : Below s (s.sameFar u) :=
  h.trans (k.farMem s.farMem)

theorem below_readFar (s : State) (k c : Nat) (a : FarAt) (own : Bool) : Below s (s.sameFar (s.readFar k c a own).2) := by
  unfold State.readFar
  extract_lets m s1
  have h1 : Below s (s.sameFar s1) := (below_fresh s _).trans (below_sched ..)
  split <;> exact h1

theorem below_versions (s : State) (p : List (Nat × Nat)) (k : List KeptVer) : Below s { s with pool := p, kept := k } :=
  below_rest _ _ rfl (fun _ h => h) id

theorem below_cow (s : State) (h : Word) (d : Desc) (o : Nat) : Below s (s.cow h d o) := by
  unfold State.cow
  extract_lets slot page
  split
  · exact .refl s
  · split
    · extract_lets src to_ s1 leaf
      have h1 : Below s s1 := (below_purgePage ..).trans (below_copySectors ..)
      clear_value s1
      exact h1.trans (below_versions ..)
    · exact .refl s

theorem below_readServed (s : State) (c : Nat) (l1 : Bool) (k : Nat) (own : Bool) (l : List Served) :
    Below s (s.sameFar (s.readServed c l1 k own l).2) := by
  induction l generalizing s with
  | nil => exact .refl s
  | cons x t ih =>
    unfold State.readServed
    have hr : ∀ (r : Except Nat Nat × State),
        (r = match x with
          | .ok x _ =>
            match s.readSector c x l1 k with
            | (some m, s) => (.ok m.toNat, s)
            | (none, s) => (.error x.pa, s)
          | .remote _ a _ _ => s.readFar (s.workPart c) c a own
          | .missing => (.ok 0, s)) → Below s (s.sameFar r.2) := by
      rintro r rfl
      split
      · rename_i x _
        have h1 := below_readSector s c x l1 k
        split
        · rename_i he; rw [he] at h1; exact h1.farMem s.farMem
        · rename_i he; rw [he] at h1; exact h1.farMem s.farMem
      · exact below_readFar ..
      · exact .refl s
    split
    rename_i r s1 he
    have h1 := hr _ he.symm
    split
    · exact h1
    · have h2 := ih s1
      split
      · rename_i h3; rw [h3] at h2; exact h1.throughFar h2
      · rename_i h3; rw [h3] at h2; exact h1.throughFar h2

/-- A read of an object's bits. -/
theorem below_readBits (s : State) (c : Nat) (l1 : Bool) (l : List Served) (b n : Nat) (own : Bool) :
    Below s (s.sameFar (s.readBits c l1 l b n own).2) := by
  unfold State.readBits
  have h := fun k => below_readServed s c l1 k own l
  split
  · rename_i he
    exact Eq.mp (congrArg (fun r : Except Nat Nat × State => Below s (s.sameFar r.2)) he :) (h _)
  · exact h _

theorem below_performAtomic (s : State) (c : Nat) (x : Sector) (op : AtomicOp) (w fmt bit v new : Nat) (r : Bool) :
    Below s (s.performAtomic c x op w fmt bit v new r).2 := by
  have h1 := below_atomicSector s c x r (atomicOnSector op w fmt bit v new)
  unfold State.performAtomic
  split
  · rename_i he; rw [he] at h1; exact h1
  · rename_i he; rw [he] at h1; exact h1

/-- A sector is its 64 bytes, the first lowest. -/
theorem packNat_bytes (d : Mask) :
    BitVec.ofNat 512 (packNat 8 ((List.range 64).map fun i => (d.extractLsb' (8 * i) 8).toNat)) = d := by
  apply BitVec.eq_of_getLsbD_eq
  intro j hj
  have e : j = 8 * (j / 8) + j % 8 := by omega
  have h := packNat_digit 8 ((List.range 64).map fun i => (d.extractLsb' (8 * i) 8).toNat) (j / 8)
  rw [List.getD_eq_getElem?_getD, List.getElem?_map, List.getElem?_range (by omega)] at h
  have t := congrArg (fun n => n.testBit (j % 8)) h
  simp only [Nat.testBit_mod_two_pow, Nat.testBit_div_two_pow, Option.map_some, Option.getD_some] at t
  have hm : j % 8 < 8 := Nat.mod_lt _ (by omega)
  simp only [hm, decide_true, Bool.true_and, BitVec.testBit_toNat, BitVec.getLsbD_extractLsb', Nat.add_comm (j % 8), ← e] at t
  rw [BitVec.getLsbD_ofNat, t]; simp [hj]

/-- A sector's write is read back, and no other sector changes. -/
theorem storedSector_putSector (s : State) (sec tag n : Nat) (d : Mask) :
    (s.putSector sec tag d).storedSector n = if n = sec then d else s.storedSector n := by
  unfold State.storedSector
  by_cases h : n = sec
  · rw [if_pos h]
    refine Eq.trans ?_ (packNat_bytes d)
    congr 2
    apply List.map_congr_left
    intro i hi
    rw [List.mem_range] at hi
    rw [putSector_byte, if_pos (by omega)]; congr 3; omega
  · rw [if_neg h]
    congr 2
    apply List.map_congr_left
    intro i hi
    rw [List.mem_range] at hi
    rw [putSector_byte, if_neg (by omega)]

/-- What a line's key reads of a sector that it has just written is what was written; other sectors read as before. -/
theorem plainSector_putSector (s : State) (sec line : Nat) (d : Mask) :
    (s.putSector sec (s.keyTag (lineKeyId line)) d).plainSector line = if lineSector line = sec then d else s.plainSector line := by
  have hk (t : Nat) : (s.putSector sec t d).keyTag (lineKeyId line) = s.keyTag (lineKeyId line) := rfl
  have ht (t : Nat) : mget (s.putSector sec t d).lineKey (lineSector line) = mget (dput 0 s.lineKey sec t) (lineSector line) := rfl
  unfold State.plainSector
  simp only [hk, ht, storedSector_putSector, mget_dput]
  by_cases h : lineSector line = sec
  · simp [h, State.keyTag]
  · simp only [h, if_false]
    rfl

end Sys2Proof.Machine
end

