-- ==== Sys2Proof/Laws/Results.lean ====
section
/-! SUPPORT. Results on their way: what a pushed result does when it lands, and that it changes nothing else. -/

namespace Sys2Proof.Machine

open Sys2Proof

theorem Core.logRow_pend (c : Core) (x : List Pend) (w : RowWriter) (p : Nat) :
    Core.logRow { c with pend := x } w p = { Core.logRow c w p with pend := x } := by
  by_cases h : (c.rowLog.any fun e => e.row = p && e.interval = c.interval) = true
  · rw [Core.logRow, Core.logRow, if_pos h, if_pos h]
  · rw [Core.logRow, Core.logRow, if_neg h, if_neg h]; rfl

theorem Core.writeRow_pend (c : Core) (x : List Pend) (w : RowWriter) (p : Nat) (r : Row) :
    Core.writeRow { c with pend := x } w p r = { Core.writeRow c w p r with pend := x } := by
  rw [Core.writeRow, Core.logRow_pend]; rfl

/-- Landing does not look at what else is on its way. -/
theorem Core.land_pend (c : Core) (x : List Pend) (d : Dest) :
    Core.land { c with pend := x } d = { Core.land c d with pend := x } := by
  cases d with
  | carveX o w =>
    exact Core.writeRow_pend ..
  | carveV n r =>
    exact Core.writeRow_pend ..
  | _ => rfl

theorem Core.land_all_pend (l : List Pend) (c : Core) (x : List Pend) :
    l.foldl (fun c p => c.land p.dest) { c with pend := x } =
      { l.foldl (fun c p => c.land p.dest) c with pend := x } := by
  induction l generalizing c with
  | nil => rfl
  | cons p l ih => simp only [List.foldl_cons, Core.land_pend, ih]

/-- The core with the results due by a cycle landed, apart from the list of what is on its way: writes, then raises. -/
def Core.afterWrites (c : Core) (n : Nat) : Core :=
  ((c.pend.filter fun p => p.due ≤ n).filter fun p => !p.dest.isRaise).foldl (fun c p => c.land p.dest) c

theorem Core.landDue_eq (c : Core) (n : Nat) :
    c.landDue n =
      { ((c.pend.filter fun p => p.due ≤ n).filter fun p => p.dest.isRaise).foldl (fun c p => c.land p.dest) (c.afterWrites n)
        with pend := c.pend.filter fun p => ¬ p.due ≤ n } := by
  simp only [Core.landDue, Core.afterWrites, List.foldl_append, Bool.not_false, Bool.and_true, decide_not]

/-- Raises change FLAGS alone. -/
theorem Core.land_raises (l : List Pend) (h : ∀ p ∈ l, p.dest.isRaise = true) :
    ∃ f : BitVec 7, ∀ c : Core, l.foldl (fun c p => c.land p.dest) c =
      { c with arch := { c.arch with flags := c.arch.flags ||| f } } := by
  induction l with
  | nil => exact ⟨0, fun c => by simp⟩
  | cons p l ih =>
    obtain ⟨f, hf⟩ := ih fun q hq => h q (List.mem_cons_of_mem _ hq)
    have hp := h p (List.mem_cons_self ..)
    cases hd : p.dest <;> simp [hd, Dest.isRaise] at hp
    rename_i w
    refine ⟨w ||| f, fun c => ?_⟩
    rw [List.foldl_cons, hf]
    simp only [hd, Core.land]
    rw [BitVec.or_assoc]

/-- A result that is no raise lands after every earlier one of its cycle, and before the raises. -/
theorem landed_pushResult (s : State) (lat : Nat) (d : Dest) (h : d.isRaise = false) :
    ∃ (c : Core) (f : BitVec 7),
      s.landed (s.cycle + lat) = { c.arch with flags := c.arch.flags ||| f } ∧
      (s.pushResult lat d).landed (s.cycle + lat) =
        { (c.land d).arch with flags := (c.land d).arch.flags ||| f } := by
  obtain ⟨f, hf⟩ := Core.land_raises
    ((s.core.pend.filter fun p => p.due ≤ s.cycle + lat).filter fun p => p.dest.isRaise)
    (fun p hp => (List.mem_filter.mp hp).2)
  refine ⟨s.core.afterWrites (s.cycle + lat), f, ?_, ?_⟩
  · simp only [State.landed, Core.landDue_eq, hf]
  · simp only [State.landed, Core.landDue_eq, State.pushResult, State.onCore]
    simp only [List.filter_append, List.filter_cons, List.filter_nil, h, Nat.le_refl, decide_true, ↓reduceIte,
      Bool.false_eq_true, List.append_nil, hf, Core.afterWrites, List.foldl_append, Core.land_all_pend, Bool.not_false]
    simp

/-- Before it is due, a pushed result is not seen. -/
theorem landed_pushResult_early (s : State) (lat : Nat) (d : Dest) (n : Nat) (h : n < s.cycle + lat) :
    (s.pushResult lat d).landed n = s.landed n := by
  have hn : ¬ s.cycle + lat ≤ n := by omega
  simp only [State.landed, Core.landDue_eq, State.pushResult, State.onCore, List.filter_append, List.filter_cons,
    List.filter_nil, hn, decide_false, Bool.false_eq_true, ↓reduceIte, List.append_nil, Core.afterWrites,
    Core.land_all_pend]

theorem getX_setX (a : Arch) (r q : XReg) (w : Word) :
    (a.setX r w).getX q = if r = 0 then a.getX q else if q = r then w else a.getX q := by
  by_cases hr : r = 0
  · rw [Arch.setX, if_pos hr, if_pos hr]
  · rw [Arch.setX, if_neg hr, if_neg hr]
    by_cases hq : q = r
    · subst hq; rw [Arch.getX, if_neg hr, if_pos rfl]; exact Vector.getElem_set_self ..
    · have h : r.toNat ≠ q.toNat := fun e => hq (BitVec.eq_of_toNat_eq e.symm)
      simp only [Arch.getX, if_neg hq]
      split
      · rfl
      · exact Vector.getElem_set_ne _ _ h

/-- A fixed-latency scalar result does what R31 gives it, and nothing else. -/
theorem writeX_result (s : State) (d : XReg) (v : Word) (lat : Nat) : ScalarResult s (s.writeX d v lat) d v lat := by
  obtain ⟨c, f, hs, ht⟩ := landed_pushResult s lat (.x d v) rfl
  have hx : ∀ r, ({ (c.land (.x d v)).arch with flags := (c.land (.x d v)).arch.flags ||| f } : Arch).getX r =
      (c.arch.setX d v).getX r := fun r => rfl
  refine ⟨rfl, ?_, ?_, ?_, ?_, ?_⟩
  · rw [State.writeX, ht, hx, getX_setX]; split
    · rename_i h; simp [h, Arch.getX]
    · exact if_pos rfl
  · rw [State.writeX, ht, hs]; simp only [Core.land, Arch.setX]; split <;> simp
  · intro r hr
    rw [State.writeX, ht, hx, getX_setX, hs]
    simp only [hr, if_false, ite_self]; rfl
  · rw [State.writeX, ht, hs]; simp only [Core.land, Arch.setX]; split <;> rfl
  · intro n hn; exact landed_pushResult_early s lat _ n hn

/-- A raise of flags is a result that adds to FLAGS when it lands (R46). -/
theorem landed_raiseFlags (s : State) (f : FlagSet) (lat : Nat) :
    (s.raiseFlags f lat).landed (s.cycle + lat) =
      { s.landed (s.cycle + lat) with flags := (s.landed (s.cycle + lat)).flags ||| f } := by
  by_cases hf : f = 0
  · subst hf; simp [State.raiseFlags]
  · rw [State.raiseFlags, if_neg hf]
    simp only [State.landed, Core.landDue_eq, State.pushResult, State.onCore, List.filter_append, List.filter_cons,
      List.filter_nil, Nat.le_refl, decide_true, ↓reduceIte, Dest.isRaise, Bool.not_true, Bool.false_eq_true,
      List.append_nil, Core.afterWrites, Core.land_all_pend, List.foldl_append, List.foldl_cons, List.foldl_nil]
    rfl

theorem landed_raiseFlags_early (s : State) (f : FlagSet) (lat n : Nat) (h : n < s.cycle + lat) :
    (s.raiseFlags f lat).landed n = s.landed n := by
  rw [State.raiseFlags]; split
  · rfl
  · exact landed_pushResult_early s lat _ n h

theorem raiseFlags_frame (s : State) (f : FlagSet) (lat : Nat) : OnlyResults s (s.raiseFlags f lat) := by
  rw [State.raiseFlags]; split <;> rfl

theorem OnlyResults.cycle_eq {s t : State} (h : OnlyResults s t) : t.cycle = s.cycle := by rw [h]; rfl

theorem OnlyResults.trans {s t u : State} (h : OnlyResults s t) (k : OnlyResults t u) : OnlyResults s u := by
  unfold OnlyResults at *; rw [k, h]

/-- A scalar result with the flags that rise with it (R46, R52). -/
theorem writeX_raise_result (s : State) (d : XReg) (v : Word) (lat : Nat) (f : FlagSet) :
    ScalarResult s ((s.writeX d v lat).raiseFlags f lat) d v lat f := by
  have h := writeX_result s d v lat
  have hc : (s.writeX d v lat).cycle = s.cycle := rfl
  have hl := landed_raiseFlags (s.writeX d v lat) f lat
  rw [hc] at hl
  refine ⟨h.frame.trans (raiseFlags_frame ..), ?_, ?_, ?_, ?_, ?_⟩
  · rw [hl]; exact h.value
  · rw [hl]; have := h.flags; simp_all
  · intro r hr; rw [hl]; exact h.others r hr
  · rw [hl]; exact h.rest
  · intro n hn; rw [landed_raiseFlags_early _ _ _ _ (hc ▸ hn)]; exact h.early n hn

theorem getV_setV (a : Arch) (r q : VCode) (d : Vec) (g : Tag) :
    (a.setV r d g).getV q =
      if q = r ∧ r.toNat < 56 then { data := d, tag := g, full := (a.getV q).full } else a.getV q := by
  by_cases hr : r.toNat < 56
  · by_cases hq : q = r
    · subst hq; simp [Arch.setV, Arch.getV, hr]
    · have h : r.toNat ≠ q.toNat := fun e => hq (BitVec.eq_of_toNat_eq e.symm)
      rw [if_neg (fun e => hq e.1), Arch.setV, dif_pos hr]
      simp only [Arch.getV]
      split
      · exact Vector.getElem_set_ne _ _ h
      · rfl
  · rw [if_neg (fun e => hr e.2), Arch.setV, dif_neg hr]

/-- A fixed-latency vector result: what it writes, and that it changes nothing else. -/
theorem writeV_result (s : State) (d : VCode) (v : Vec) (g : Tag) (lat : Nat) :
    VectorResult s (s.writeV d v g lat) d v g lat 0 := by
  obtain ⟨c, f, hs, ht⟩ := landed_pushResult s lat (.v d v g) rfl
  have hv : ∀ r, ({ (c.land (.v d v g)).arch with flags := (c.land (.v d v g)).arch.flags ||| f } : Arch).getV r =
      (c.arch.setV d v g).getV r := fun r => rfl
  refine ⟨rfl, ?_, ?_, ?_, ?_⟩
  · intro hd
    rw [State.writeV, ht, hv, getV_setV, if_pos ⟨rfl, hd⟩, hs]; rfl
  · rw [State.writeV, ht, hs]; simp only [Core.land, Arch.setV]; split <;> simp
  · intro r hr
    rw [State.writeV, ht, hv, getV_setV, if_neg (fun e => hr e.1), hs]; rfl
  · rw [State.writeV, ht, hs]; simp only [Core.land, Arch.setV]; split <;> rfl

end Sys2Proof.Machine
end

