-- ==== Sys2Proof/Laws/State.lean ====
section
/-! SUPPORT. What each update of the state does to each field: one fact per field and update, so that no proof unfolds an update. -/

namespace Sys2Proof.Machine

open Sys2Proof

/-! `onCore` -/
section
variable (s : State) (f : Core → Core)

@[simp] theorem State.onCore_clock : (s.onCore f).clock = s.clock := rfl
@[simp] theorem State.onCore_core : (s.onCore f).core = f s.core := rfl
@[simp] theorem State.onCore_parked : (s.onCore f).parked = s.parked := rfl
@[simp] theorem State.onCore_agenda : (s.onCore f).agenda = s.agenda := rfl
@[simp] theorem State.onCore_fresh : (s.onCore f).fresh = s.fresh := rfl
@[simp] theorem State.onCore_power : (s.onCore f).power = s.power := rfl
@[simp] theorem State.onCore_failstep : (s.onCore f).failstep = s.failstep := rfl
@[simp] theorem State.onCore_bstep : (s.onCore f).bstep = s.bstep := rfl
@[simp] theorem State.onCore_bdetail : (s.onCore f).bdetail = s.bdetail := rfl
@[simp] theorem State.onCore_bootAt : (s.onCore f).bootAt = s.bootAt := rfl
@[simp] theorem State.onCore_pkg : (s.onCore f).pkg = s.pkg := rfl
@[simp] theorem State.onCore_members : (s.onCore f).members = s.members := rfl
@[simp] theorem State.onCore_dies : (s.onCore f).dies = s.dies := rfl
@[simp] theorem State.onCore_mem : (s.onCore f).mem = s.mem := rfl
@[simp] theorem State.onCore_lineKey : (s.onCore f).lineKey = s.lineKey := rfl
@[simp] theorem State.onCore_keys : (s.onCore f).keys = s.keys := rfl
@[simp] theorem State.onCore_keyLoads : (s.onCore f).keyLoads = s.keyLoads := rfl
@[simp] theorem State.onCore_keyBytes : (s.onCore f).keyBytes = s.keyBytes := rfl
@[simp] theorem State.onCore_descs : (s.onCore f).descs = s.descs := rfl
@[simp] theorem State.onCore_far : (s.onCore f).far = s.far := rfl
@[simp] theorem State.onCore_farMem : (s.onCore f).farMem = s.farMem := rfl
@[simp] theorem State.onCore_marks : (s.onCore f).marks = s.marks := rfl
@[simp] theorem State.onCore_heldRel : (s.onCore f).heldRel = s.heldRel := rfl
@[simp] theorem State.onCore_relStale : (s.onCore f).relStale = s.relStale := rfl
@[simp] theorem State.onCore_subs : (s.onCore f).subs = s.subs := rfl
@[simp] theorem State.onCore_faultLog : (s.onCore f).faultLog = s.faultLog := rfl
@[simp] theorem State.onCore_kept : (s.onCore f).kept = s.kept := rfl
@[simp] theorem State.onCore_pubs : (s.onCore f).pubs = s.pubs := rfl
@[simp] theorem State.onCore_pool : (s.onCore f).pool = s.pool := rfl
@[simp] theorem State.onCore_pinned : (s.onCore f).pinned = s.pinned := rfl
@[simp] theorem State.onCore_grants : (s.onCore f).grants = s.grants := rfl
@[simp] theorem State.onCore_watches : (s.onCore f).watches = s.watches := rfl
@[simp] theorem State.onCore_watchLog : (s.onCore f).watchLog = s.watchLog := rfl
@[simp] theorem State.onCore_vlogs : (s.onCore f).vlogs = s.vlogs := rfl
@[simp] theorem State.onCore_parts : (s.onCore f).parts = s.parts := rfl
@[simp] theorem State.onCore_finals : (s.onCore f).finals = s.finals := rfl
@[simp] theorem State.onCore_regions : (s.onCore f).regions = s.regions := rfl
@[simp] theorem State.onCore_graphs : (s.onCore f).graphs = s.graphs := rfl
@[simp] theorem State.onCore_replays : (s.onCore f).replays = s.replays := rfl
@[simp] theorem State.onCore_tasks : (s.onCore f).tasks = s.tasks := rfl
@[simp] theorem State.onCore_windows : (s.onCore f).windows = s.windows := rfl
@[simp] theorem State.onCore_msis : (s.onCore f).msis = s.msis := rfl
@[simp] theorem State.onCore_faultQ : (s.onCore f).faultQ = s.faultQ := rfl
@[simp] theorem State.onCore_saves : (s.onCore f).saves = s.saves := rfl
@[simp] theorem State.onCore_phys : (s.onCore f).phys = s.phys := rfl
@[simp] theorem State.onCore_ports : (s.onCore f).ports = s.ports := rfl
@[simp] theorem State.onCore_outbox : (s.onCore f).outbox = s.outbox := rfl
@[simp] theorem State.onCore_sent : (s.onCore f).sent = s.sent := rfl
@[simp] theorem State.onCore_via : (s.onCore f).via = s.via := rfl
@[simp] theorem State.onCore_leaving : (s.onCore f).leaving = s.leaving := rfl
@[simp] theorem State.onCore_farDue : (s.onCore f).farDue = s.farDue := rfl
@[simp] theorem State.onCore_pfHeld : (s.onCore f).pfHeld = s.pfHeld := rfl
@[simp] theorem State.onCore_seen : (s.onCore f).seen = s.seen := rfl
@[simp] theorem State.onCore_links : (s.onCore f).links = s.links := rfl
@[simp] theorem State.onCore_replies : (s.onCore f).replies = s.replies := rfl
@[simp] theorem State.onCore_sessions : (s.onCore f).sessions = s.sessions := rfl
@[simp] theorem State.onCore_nextSess : (s.onCore f).nextSess = s.nextSess := rfl
@[simp] theorem State.onCore_spdm : (s.onCore f).spdm = s.spdm := rfl
@[simp] theorem State.onCore_nextRid : (s.onCore f).nextRid = s.nextRid := rfl
@[simp] theorem State.onCore_lpdFirst : (s.onCore f).lpdFirst = s.lpdFirst := rfl
@[simp] theorem State.onCore_nextPage : (s.onCore f).nextPage = s.nextPage := rfl

end

/-! `pushResult` -/
section
variable (s : State) (n : Nat) (d : Dest)

@[simp] theorem State.pushResult_clock : (s.pushResult n d).clock = s.clock := rfl
@[simp] theorem State.pushResult_core :
    (s.pushResult n d).core = { s.core with pend := s.core.pend ++ [{ due := s.cycle + n, dest := d }] } := rfl
@[simp] theorem State.pushResult_parked : (s.pushResult n d).parked = s.parked := rfl
@[simp] theorem State.pushResult_agenda : (s.pushResult n d).agenda = s.agenda := rfl
@[simp] theorem State.pushResult_fresh : (s.pushResult n d).fresh = s.fresh := rfl
@[simp] theorem State.pushResult_power : (s.pushResult n d).power = s.power := rfl
@[simp] theorem State.pushResult_failstep : (s.pushResult n d).failstep = s.failstep := rfl
@[simp] theorem State.pushResult_bstep : (s.pushResult n d).bstep = s.bstep := rfl
@[simp] theorem State.pushResult_bdetail : (s.pushResult n d).bdetail = s.bdetail := rfl
@[simp] theorem State.pushResult_bootAt : (s.pushResult n d).bootAt = s.bootAt := rfl
@[simp] theorem State.pushResult_pkg : (s.pushResult n d).pkg = s.pkg := rfl
@[simp] theorem State.pushResult_members : (s.pushResult n d).members = s.members := rfl
@[simp] theorem State.pushResult_dies : (s.pushResult n d).dies = s.dies := rfl
@[simp] theorem State.pushResult_mem : (s.pushResult n d).mem = s.mem := rfl
@[simp] theorem State.pushResult_lineKey : (s.pushResult n d).lineKey = s.lineKey := rfl
@[simp] theorem State.pushResult_keys : (s.pushResult n d).keys = s.keys := rfl
@[simp] theorem State.pushResult_keyLoads : (s.pushResult n d).keyLoads = s.keyLoads := rfl
@[simp] theorem State.pushResult_keyBytes : (s.pushResult n d).keyBytes = s.keyBytes := rfl
@[simp] theorem State.pushResult_descs : (s.pushResult n d).descs = s.descs := rfl
@[simp] theorem State.pushResult_far : (s.pushResult n d).far = s.far := rfl
@[simp] theorem State.pushResult_farMem : (s.pushResult n d).farMem = s.farMem := rfl
@[simp] theorem State.pushResult_marks : (s.pushResult n d).marks = s.marks := rfl
@[simp] theorem State.pushResult_heldRel : (s.pushResult n d).heldRel = s.heldRel := rfl
@[simp] theorem State.pushResult_relStale : (s.pushResult n d).relStale = s.relStale := rfl
@[simp] theorem State.pushResult_subs : (s.pushResult n d).subs = s.subs := rfl
@[simp] theorem State.pushResult_faultLog : (s.pushResult n d).faultLog = s.faultLog := rfl
@[simp] theorem State.pushResult_kept : (s.pushResult n d).kept = s.kept := rfl
@[simp] theorem State.pushResult_pubs : (s.pushResult n d).pubs = s.pubs := rfl
@[simp] theorem State.pushResult_pool : (s.pushResult n d).pool = s.pool := rfl
@[simp] theorem State.pushResult_pinned : (s.pushResult n d).pinned = s.pinned := rfl
@[simp] theorem State.pushResult_grants : (s.pushResult n d).grants = s.grants := rfl
@[simp] theorem State.pushResult_watches : (s.pushResult n d).watches = s.watches := rfl
@[simp] theorem State.pushResult_watchLog : (s.pushResult n d).watchLog = s.watchLog := rfl
@[simp] theorem State.pushResult_vlogs : (s.pushResult n d).vlogs = s.vlogs := rfl
@[simp] theorem State.pushResult_parts : (s.pushResult n d).parts = s.parts := rfl
@[simp] theorem State.pushResult_finals : (s.pushResult n d).finals = s.finals := rfl
@[simp] theorem State.pushResult_regions : (s.pushResult n d).regions = s.regions := rfl
@[simp] theorem State.pushResult_graphs : (s.pushResult n d).graphs = s.graphs := rfl
@[simp] theorem State.pushResult_replays : (s.pushResult n d).replays = s.replays := rfl
@[simp] theorem State.pushResult_tasks : (s.pushResult n d).tasks = s.tasks := rfl
@[simp] theorem State.pushResult_windows : (s.pushResult n d).windows = s.windows := rfl
@[simp] theorem State.pushResult_msis : (s.pushResult n d).msis = s.msis := rfl
@[simp] theorem State.pushResult_faultQ : (s.pushResult n d).faultQ = s.faultQ := rfl
@[simp] theorem State.pushResult_saves : (s.pushResult n d).saves = s.saves := rfl
@[simp] theorem State.pushResult_phys : (s.pushResult n d).phys = s.phys := rfl
@[simp] theorem State.pushResult_ports : (s.pushResult n d).ports = s.ports := rfl
@[simp] theorem State.pushResult_outbox : (s.pushResult n d).outbox = s.outbox := rfl
@[simp] theorem State.pushResult_sent : (s.pushResult n d).sent = s.sent := rfl
@[simp] theorem State.pushResult_via : (s.pushResult n d).via = s.via := rfl
@[simp] theorem State.pushResult_leaving : (s.pushResult n d).leaving = s.leaving := rfl
@[simp] theorem State.pushResult_farDue : (s.pushResult n d).farDue = s.farDue := rfl
@[simp] theorem State.pushResult_pfHeld : (s.pushResult n d).pfHeld = s.pfHeld := rfl
@[simp] theorem State.pushResult_seen : (s.pushResult n d).seen = s.seen := rfl
@[simp] theorem State.pushResult_links : (s.pushResult n d).links = s.links := rfl
@[simp] theorem State.pushResult_replies : (s.pushResult n d).replies = s.replies := rfl
@[simp] theorem State.pushResult_sessions : (s.pushResult n d).sessions = s.sessions := rfl
@[simp] theorem State.pushResult_nextSess : (s.pushResult n d).nextSess = s.nextSess := rfl
@[simp] theorem State.pushResult_spdm : (s.pushResult n d).spdm = s.spdm := rfl
@[simp] theorem State.pushResult_nextRid : (s.pushResult n d).nextRid = s.nextRid := rfl
@[simp] theorem State.pushResult_lpdFirst : (s.pushResult n d).lpdFirst = s.lpdFirst := rfl
@[simp] theorem State.pushResult_nextPage : (s.pushResult n d).nextPage = s.nextPage := rfl

end

/-! `sched` -/
section
variable (s : State) (n p : Nat) (i : Instr)

@[simp] theorem State.sched_clock : (s.sched n p i).clock = s.clock := rfl
@[simp] theorem State.sched_core : (s.sched n p i).core = s.core := rfl
@[simp] theorem State.sched_parked : (s.sched n p i).parked = s.parked := rfl
@[simp] theorem State.sched_agenda : (s.sched n p i).agenda = agendaPut s.agenda (n * 16 + p) i := rfl
@[simp] theorem State.sched_fresh : (s.sched n p i).fresh = s.fresh := rfl
@[simp] theorem State.sched_power : (s.sched n p i).power = s.power := rfl
@[simp] theorem State.sched_failstep : (s.sched n p i).failstep = s.failstep := rfl
@[simp] theorem State.sched_bstep : (s.sched n p i).bstep = s.bstep := rfl
@[simp] theorem State.sched_bdetail : (s.sched n p i).bdetail = s.bdetail := rfl
@[simp] theorem State.sched_bootAt : (s.sched n p i).bootAt = s.bootAt := rfl
@[simp] theorem State.sched_pkg : (s.sched n p i).pkg = s.pkg := rfl
@[simp] theorem State.sched_members : (s.sched n p i).members = s.members := rfl
@[simp] theorem State.sched_dies : (s.sched n p i).dies = s.dies := rfl
@[simp] theorem State.sched_mem : (s.sched n p i).mem = s.mem := rfl
@[simp] theorem State.sched_lineKey : (s.sched n p i).lineKey = s.lineKey := rfl
@[simp] theorem State.sched_keys : (s.sched n p i).keys = s.keys := rfl
@[simp] theorem State.sched_keyLoads : (s.sched n p i).keyLoads = s.keyLoads := rfl
@[simp] theorem State.sched_keyBytes : (s.sched n p i).keyBytes = s.keyBytes := rfl
@[simp] theorem State.sched_descs : (s.sched n p i).descs = s.descs := rfl
@[simp] theorem State.sched_far : (s.sched n p i).far = s.far := rfl
@[simp] theorem State.sched_farMem : (s.sched n p i).farMem = s.farMem := rfl
@[simp] theorem State.sched_marks : (s.sched n p i).marks = s.marks := rfl
@[simp] theorem State.sched_heldRel : (s.sched n p i).heldRel = s.heldRel := rfl
@[simp] theorem State.sched_relStale : (s.sched n p i).relStale = s.relStale := rfl
@[simp] theorem State.sched_subs : (s.sched n p i).subs = s.subs := rfl
@[simp] theorem State.sched_faultLog : (s.sched n p i).faultLog = s.faultLog := rfl
@[simp] theorem State.sched_kept : (s.sched n p i).kept = s.kept := rfl
@[simp] theorem State.sched_pubs : (s.sched n p i).pubs = s.pubs := rfl
@[simp] theorem State.sched_pool : (s.sched n p i).pool = s.pool := rfl
@[simp] theorem State.sched_pinned : (s.sched n p i).pinned = s.pinned := rfl
@[simp] theorem State.sched_grants : (s.sched n p i).grants = s.grants := rfl
@[simp] theorem State.sched_watches : (s.sched n p i).watches = s.watches := rfl
@[simp] theorem State.sched_watchLog : (s.sched n p i).watchLog = s.watchLog := rfl
@[simp] theorem State.sched_vlogs : (s.sched n p i).vlogs = s.vlogs := rfl
@[simp] theorem State.sched_parts : (s.sched n p i).parts = s.parts := rfl
@[simp] theorem State.sched_finals : (s.sched n p i).finals = s.finals := rfl
@[simp] theorem State.sched_regions : (s.sched n p i).regions = s.regions := rfl
@[simp] theorem State.sched_graphs : (s.sched n p i).graphs = s.graphs := rfl
@[simp] theorem State.sched_replays : (s.sched n p i).replays = s.replays := rfl
@[simp] theorem State.sched_tasks : (s.sched n p i).tasks = s.tasks := rfl
@[simp] theorem State.sched_windows : (s.sched n p i).windows = s.windows := rfl
@[simp] theorem State.sched_msis : (s.sched n p i).msis = s.msis := rfl
@[simp] theorem State.sched_faultQ : (s.sched n p i).faultQ = s.faultQ := rfl
@[simp] theorem State.sched_saves : (s.sched n p i).saves = s.saves := rfl
@[simp] theorem State.sched_phys : (s.sched n p i).phys = s.phys := rfl
@[simp] theorem State.sched_ports : (s.sched n p i).ports = s.ports := rfl
@[simp] theorem State.sched_outbox : (s.sched n p i).outbox = s.outbox := rfl
@[simp] theorem State.sched_sent : (s.sched n p i).sent = s.sent := rfl
@[simp] theorem State.sched_via : (s.sched n p i).via = s.via := rfl
@[simp] theorem State.sched_leaving : (s.sched n p i).leaving = s.leaving := rfl
@[simp] theorem State.sched_farDue : (s.sched n p i).farDue = s.farDue := rfl
@[simp] theorem State.sched_pfHeld : (s.sched n p i).pfHeld = s.pfHeld := rfl
@[simp] theorem State.sched_seen : (s.sched n p i).seen = s.seen := rfl
@[simp] theorem State.sched_links : (s.sched n p i).links = s.links := rfl
@[simp] theorem State.sched_replies : (s.sched n p i).replies = s.replies := rfl
@[simp] theorem State.sched_sessions : (s.sched n p i).sessions = s.sessions := rfl
@[simp] theorem State.sched_nextSess : (s.sched n p i).nextSess = s.nextSess := rfl
@[simp] theorem State.sched_spdm : (s.sched n p i).spdm = s.spdm := rfl
@[simp] theorem State.sched_nextRid : (s.sched n p i).nextRid = s.nextRid := rfl
@[simp] theorem State.sched_lpdFirst : (s.sched n p i).lpdFirst = s.lpdFirst := rfl
@[simp] theorem State.sched_nextPage : (s.sched n p i).nextPage = s.nextPage := rfl

end

/-! `unsched` -/
section
variable (s : State) (p : Instr → Bool)

@[simp] theorem State.unsched_clock : (s.unsched p).clock = s.clock := rfl
@[simp] theorem State.unsched_core : (s.unsched p).core = s.core := rfl
@[simp] theorem State.unsched_parked : (s.unsched p).parked = s.parked := rfl
@[simp] theorem State.unsched_agenda : (s.unsched p).agenda = s.agenda.filter fun e => !p e.2 := rfl
@[simp] theorem State.unsched_fresh : (s.unsched p).fresh = s.fresh := rfl
@[simp] theorem State.unsched_power : (s.unsched p).power = s.power := rfl
@[simp] theorem State.unsched_failstep : (s.unsched p).failstep = s.failstep := rfl
@[simp] theorem State.unsched_bstep : (s.unsched p).bstep = s.bstep := rfl
@[simp] theorem State.unsched_bdetail : (s.unsched p).bdetail = s.bdetail := rfl
@[simp] theorem State.unsched_bootAt : (s.unsched p).bootAt = s.bootAt := rfl
@[simp] theorem State.unsched_pkg : (s.unsched p).pkg = s.pkg := rfl
@[simp] theorem State.unsched_members : (s.unsched p).members = s.members := rfl
@[simp] theorem State.unsched_dies : (s.unsched p).dies = s.dies := rfl
@[simp] theorem State.unsched_mem : (s.unsched p).mem = s.mem := rfl
@[simp] theorem State.unsched_lineKey : (s.unsched p).lineKey = s.lineKey := rfl
@[simp] theorem State.unsched_keys : (s.unsched p).keys = s.keys := rfl
@[simp] theorem State.unsched_keyLoads : (s.unsched p).keyLoads = s.keyLoads := rfl
@[simp] theorem State.unsched_keyBytes : (s.unsched p).keyBytes = s.keyBytes := rfl
@[simp] theorem State.unsched_descs : (s.unsched p).descs = s.descs := rfl
@[simp] theorem State.unsched_far : (s.unsched p).far = s.far := rfl
@[simp] theorem State.unsched_farMem : (s.unsched p).farMem = s.farMem := rfl
@[simp] theorem State.unsched_marks : (s.unsched p).marks = s.marks := rfl
@[simp] theorem State.unsched_heldRel : (s.unsched p).heldRel = s.heldRel := rfl
@[simp] theorem State.unsched_relStale : (s.unsched p).relStale = s.relStale := rfl
@[simp] theorem State.unsched_subs : (s.unsched p).subs = s.subs := rfl
@[simp] theorem State.unsched_faultLog : (s.unsched p).faultLog = s.faultLog := rfl
@[simp] theorem State.unsched_kept : (s.unsched p).kept = s.kept := rfl
@[simp] theorem State.unsched_pubs : (s.unsched p).pubs = s.pubs := rfl
@[simp] theorem State.unsched_pool : (s.unsched p).pool = s.pool := rfl
@[simp] theorem State.unsched_pinned : (s.unsched p).pinned = s.pinned := rfl
@[simp] theorem State.unsched_grants : (s.unsched p).grants = s.grants := rfl
@[simp] theorem State.unsched_watches : (s.unsched p).watches = s.watches := rfl
@[simp] theorem State.unsched_watchLog : (s.unsched p).watchLog = s.watchLog := rfl
@[simp] theorem State.unsched_vlogs : (s.unsched p).vlogs = s.vlogs := rfl
@[simp] theorem State.unsched_parts : (s.unsched p).parts = s.parts := rfl
@[simp] theorem State.unsched_finals : (s.unsched p).finals = s.finals := rfl
@[simp] theorem State.unsched_regions : (s.unsched p).regions = s.regions := rfl
@[simp] theorem State.unsched_graphs : (s.unsched p).graphs = s.graphs := rfl
@[simp] theorem State.unsched_replays : (s.unsched p).replays = s.replays := rfl
@[simp] theorem State.unsched_tasks : (s.unsched p).tasks = s.tasks := rfl
@[simp] theorem State.unsched_windows : (s.unsched p).windows = s.windows := rfl
@[simp] theorem State.unsched_msis : (s.unsched p).msis = s.msis := rfl
@[simp] theorem State.unsched_faultQ : (s.unsched p).faultQ = s.faultQ := rfl
@[simp] theorem State.unsched_saves : (s.unsched p).saves = s.saves := rfl
@[simp] theorem State.unsched_phys : (s.unsched p).phys = s.phys := rfl
@[simp] theorem State.unsched_ports : (s.unsched p).ports = s.ports := rfl
@[simp] theorem State.unsched_outbox : (s.unsched p).outbox = s.outbox := rfl
@[simp] theorem State.unsched_sent : (s.unsched p).sent = s.sent := rfl
@[simp] theorem State.unsched_via : (s.unsched p).via = s.via := rfl
@[simp] theorem State.unsched_leaving : (s.unsched p).leaving = s.leaving := rfl
@[simp] theorem State.unsched_farDue : (s.unsched p).farDue = s.farDue := rfl
@[simp] theorem State.unsched_pfHeld : (s.unsched p).pfHeld = s.pfHeld := rfl
@[simp] theorem State.unsched_seen : (s.unsched p).seen = s.seen := rfl
@[simp] theorem State.unsched_links : (s.unsched p).links = s.links := rfl
@[simp] theorem State.unsched_replies : (s.unsched p).replies = s.replies := rfl
@[simp] theorem State.unsched_sessions : (s.unsched p).sessions = s.sessions := rfl
@[simp] theorem State.unsched_nextSess : (s.unsched p).nextSess = s.nextSess := rfl
@[simp] theorem State.unsched_spdm : (s.unsched p).spdm = s.spdm := rfl
@[simp] theorem State.unsched_nextRid : (s.unsched p).nextRid = s.nextRid := rfl
@[simp] theorem State.unsched_lpdFirst : (s.unsched p).lpdFirst = s.lpdFirst := rfl
@[simp] theorem State.unsched_nextPage : (s.unsched p).nextPage = s.nextPage := rfl

end

/-! `allCores` -/
section
variable (s : State) (f : Core → Core)

@[simp] theorem State.allCores_clock : (s.allCores f).clock = s.clock := rfl
@[simp] theorem State.allCores_core : (s.allCores f).core = f s.core := rfl
@[simp] theorem State.allCores_parked : (s.allCores f).parked = s.parked.map f := rfl
@[simp] theorem State.allCores_agenda : (s.allCores f).agenda = s.agenda := rfl
@[simp] theorem State.allCores_fresh : (s.allCores f).fresh = s.fresh := rfl
@[simp] theorem State.allCores_power : (s.allCores f).power = s.power := rfl
@[simp] theorem State.allCores_failstep : (s.allCores f).failstep = s.failstep := rfl
@[simp] theorem State.allCores_bstep : (s.allCores f).bstep = s.bstep := rfl
@[simp] theorem State.allCores_bdetail : (s.allCores f).bdetail = s.bdetail := rfl
@[simp] theorem State.allCores_bootAt : (s.allCores f).bootAt = s.bootAt := rfl
@[simp] theorem State.allCores_pkg : (s.allCores f).pkg = s.pkg := rfl
@[simp] theorem State.allCores_members : (s.allCores f).members = s.members := rfl
@[simp] theorem State.allCores_dies : (s.allCores f).dies = s.dies := rfl
@[simp] theorem State.allCores_mem : (s.allCores f).mem = s.mem := rfl
@[simp] theorem State.allCores_lineKey : (s.allCores f).lineKey = s.lineKey := rfl
@[simp] theorem State.allCores_keys : (s.allCores f).keys = s.keys := rfl
@[simp] theorem State.allCores_keyLoads : (s.allCores f).keyLoads = s.keyLoads := rfl
@[simp] theorem State.allCores_keyBytes : (s.allCores f).keyBytes = s.keyBytes := rfl
@[simp] theorem State.allCores_descs : (s.allCores f).descs = s.descs := rfl
@[simp] theorem State.allCores_far : (s.allCores f).far = s.far := rfl
@[simp] theorem State.allCores_farMem : (s.allCores f).farMem = s.farMem := rfl
@[simp] theorem State.allCores_marks : (s.allCores f).marks = s.marks := rfl
@[simp] theorem State.allCores_heldRel : (s.allCores f).heldRel = s.heldRel := rfl
@[simp] theorem State.allCores_relStale : (s.allCores f).relStale = s.relStale := rfl
@[simp] theorem State.allCores_subs : (s.allCores f).subs = s.subs := rfl
@[simp] theorem State.allCores_faultLog : (s.allCores f).faultLog = s.faultLog := rfl
@[simp] theorem State.allCores_kept : (s.allCores f).kept = s.kept := rfl
@[simp] theorem State.allCores_pubs : (s.allCores f).pubs = s.pubs := rfl
@[simp] theorem State.allCores_pool : (s.allCores f).pool = s.pool := rfl
@[simp] theorem State.allCores_pinned : (s.allCores f).pinned = s.pinned := rfl
@[simp] theorem State.allCores_grants : (s.allCores f).grants = s.grants := rfl
@[simp] theorem State.allCores_watches : (s.allCores f).watches = s.watches := rfl
@[simp] theorem State.allCores_watchLog : (s.allCores f).watchLog = s.watchLog := rfl
@[simp] theorem State.allCores_vlogs : (s.allCores f).vlogs = s.vlogs := rfl
@[simp] theorem State.allCores_parts : (s.allCores f).parts = s.parts := rfl
@[simp] theorem State.allCores_finals : (s.allCores f).finals = s.finals := rfl
@[simp] theorem State.allCores_regions : (s.allCores f).regions = s.regions := rfl
@[simp] theorem State.allCores_graphs : (s.allCores f).graphs = s.graphs := rfl
@[simp] theorem State.allCores_replays : (s.allCores f).replays = s.replays := rfl
@[simp] theorem State.allCores_tasks : (s.allCores f).tasks = s.tasks := rfl
@[simp] theorem State.allCores_windows : (s.allCores f).windows = s.windows := rfl
@[simp] theorem State.allCores_msis : (s.allCores f).msis = s.msis := rfl
@[simp] theorem State.allCores_faultQ : (s.allCores f).faultQ = s.faultQ := rfl
@[simp] theorem State.allCores_saves : (s.allCores f).saves = s.saves := rfl
@[simp] theorem State.allCores_phys : (s.allCores f).phys = s.phys := rfl
@[simp] theorem State.allCores_ports : (s.allCores f).ports = s.ports := rfl
@[simp] theorem State.allCores_outbox : (s.allCores f).outbox = s.outbox := rfl
@[simp] theorem State.allCores_sent : (s.allCores f).sent = s.sent := rfl
@[simp] theorem State.allCores_via : (s.allCores f).via = s.via := rfl
@[simp] theorem State.allCores_leaving : (s.allCores f).leaving = s.leaving := rfl
@[simp] theorem State.allCores_farDue : (s.allCores f).farDue = s.farDue := rfl
@[simp] theorem State.allCores_pfHeld : (s.allCores f).pfHeld = s.pfHeld := rfl
@[simp] theorem State.allCores_seen : (s.allCores f).seen = s.seen := rfl
@[simp] theorem State.allCores_links : (s.allCores f).links = s.links := rfl
@[simp] theorem State.allCores_replies : (s.allCores f).replies = s.replies := rfl
@[simp] theorem State.allCores_sessions : (s.allCores f).sessions = s.sessions := rfl
@[simp] theorem State.allCores_nextSess : (s.allCores f).nextSess = s.nextSess := rfl
@[simp] theorem State.allCores_spdm : (s.allCores f).spdm = s.spdm := rfl
@[simp] theorem State.allCores_nextRid : (s.allCores f).nextRid = s.nextRid := rfl
@[simp] theorem State.allCores_lpdFirst : (s.allCores f).lpdFirst = s.lpdFirst := rfl
@[simp] theorem State.allCores_nextPage : (s.allCores f).nextPage = s.nextPage := rfl

end

/-! `modDie` -/
section
variable (s : State) (d : Nat) (f : Die → Die)

@[simp] theorem State.modDie_clock : (s.modDie d f).clock = s.clock := rfl
@[simp] theorem State.modDie_core : (s.modDie d f).core = s.core := rfl
@[simp] theorem State.modDie_parked : (s.modDie d f).parked = s.parked := rfl
@[simp] theorem State.modDie_agenda : (s.modDie d f).agenda = s.agenda := rfl
@[simp] theorem State.modDie_fresh : (s.modDie d f).fresh = s.fresh := rfl
@[simp] theorem State.modDie_power : (s.modDie d f).power = s.power := rfl
@[simp] theorem State.modDie_failstep : (s.modDie d f).failstep = s.failstep := rfl
@[simp] theorem State.modDie_bstep : (s.modDie d f).bstep = s.bstep := rfl
@[simp] theorem State.modDie_bdetail : (s.modDie d f).bdetail = s.bdetail := rfl
@[simp] theorem State.modDie_bootAt : (s.modDie d f).bootAt = s.bootAt := rfl
@[simp] theorem State.modDie_pkg : (s.modDie d f).pkg = s.pkg := rfl
@[simp] theorem State.modDie_members : (s.modDie d f).members = s.members := rfl
@[simp] theorem State.modDie_dies : (s.modDie d f).dies = vset s.dies d (f (s.die d)) := rfl
@[simp] theorem State.modDie_mem : (s.modDie d f).mem = s.mem := rfl
@[simp] theorem State.modDie_lineKey : (s.modDie d f).lineKey = s.lineKey := rfl
@[simp] theorem State.modDie_keys : (s.modDie d f).keys = s.keys := rfl
@[simp] theorem State.modDie_keyLoads : (s.modDie d f).keyLoads = s.keyLoads := rfl
@[simp] theorem State.modDie_keyBytes : (s.modDie d f).keyBytes = s.keyBytes := rfl
@[simp] theorem State.modDie_descs : (s.modDie d f).descs = s.descs := rfl
@[simp] theorem State.modDie_far : (s.modDie d f).far = s.far := rfl
@[simp] theorem State.modDie_farMem : (s.modDie d f).farMem = s.farMem := rfl
@[simp] theorem State.modDie_marks : (s.modDie d f).marks = s.marks := rfl
@[simp] theorem State.modDie_heldRel : (s.modDie d f).heldRel = s.heldRel := rfl
@[simp] theorem State.modDie_relStale : (s.modDie d f).relStale = s.relStale := rfl
@[simp] theorem State.modDie_subs : (s.modDie d f).subs = s.subs := rfl
@[simp] theorem State.modDie_faultLog : (s.modDie d f).faultLog = s.faultLog := rfl
@[simp] theorem State.modDie_kept : (s.modDie d f).kept = s.kept := rfl
@[simp] theorem State.modDie_pubs : (s.modDie d f).pubs = s.pubs := rfl
@[simp] theorem State.modDie_pool : (s.modDie d f).pool = s.pool := rfl
@[simp] theorem State.modDie_pinned : (s.modDie d f).pinned = s.pinned := rfl
@[simp] theorem State.modDie_grants : (s.modDie d f).grants = s.grants := rfl
@[simp] theorem State.modDie_watches : (s.modDie d f).watches = s.watches := rfl
@[simp] theorem State.modDie_watchLog : (s.modDie d f).watchLog = s.watchLog := rfl
@[simp] theorem State.modDie_vlogs : (s.modDie d f).vlogs = s.vlogs := rfl
@[simp] theorem State.modDie_parts : (s.modDie d f).parts = s.parts := rfl
@[simp] theorem State.modDie_finals : (s.modDie d f).finals = s.finals := rfl
@[simp] theorem State.modDie_regions : (s.modDie d f).regions = s.regions := rfl
@[simp] theorem State.modDie_graphs : (s.modDie d f).graphs = s.graphs := rfl
@[simp] theorem State.modDie_replays : (s.modDie d f).replays = s.replays := rfl
@[simp] theorem State.modDie_tasks : (s.modDie d f).tasks = s.tasks := rfl
@[simp] theorem State.modDie_windows : (s.modDie d f).windows = s.windows := rfl
@[simp] theorem State.modDie_msis : (s.modDie d f).msis = s.msis := rfl
@[simp] theorem State.modDie_faultQ : (s.modDie d f).faultQ = s.faultQ := rfl
@[simp] theorem State.modDie_saves : (s.modDie d f).saves = s.saves := rfl
@[simp] theorem State.modDie_phys : (s.modDie d f).phys = s.phys := rfl
@[simp] theorem State.modDie_ports : (s.modDie d f).ports = s.ports := rfl
@[simp] theorem State.modDie_outbox : (s.modDie d f).outbox = s.outbox := rfl
@[simp] theorem State.modDie_sent : (s.modDie d f).sent = s.sent := rfl
@[simp] theorem State.modDie_via : (s.modDie d f).via = s.via := rfl
@[simp] theorem State.modDie_leaving : (s.modDie d f).leaving = s.leaving := rfl
@[simp] theorem State.modDie_farDue : (s.modDie d f).farDue = s.farDue := rfl
@[simp] theorem State.modDie_pfHeld : (s.modDie d f).pfHeld = s.pfHeld := rfl
@[simp] theorem State.modDie_seen : (s.modDie d f).seen = s.seen := rfl
@[simp] theorem State.modDie_links : (s.modDie d f).links = s.links := rfl
@[simp] theorem State.modDie_replies : (s.modDie d f).replies = s.replies := rfl
@[simp] theorem State.modDie_sessions : (s.modDie d f).sessions = s.sessions := rfl
@[simp] theorem State.modDie_nextSess : (s.modDie d f).nextSess = s.nextSess := rfl
@[simp] theorem State.modDie_spdm : (s.modDie d f).spdm = s.spdm := rfl
@[simp] theorem State.modDie_nextRid : (s.modDie d f).nextRid = s.nextRid := rfl
@[simp] theorem State.modDie_lpdFirst : (s.modDie d f).lpdFirst = s.lpdFirst := rfl
@[simp] theorem State.modDie_nextPage : (s.modDie d f).nextPage = s.nextPage := rfl

end

/-! `modPart` -/
section
variable (s : State) (k : Nat) (f : Part → Part)

@[simp] theorem State.modPart_clock : (s.modPart k f).clock = s.clock := rfl
@[simp] theorem State.modPart_core : (s.modPart k f).core = s.core := rfl
@[simp] theorem State.modPart_parked : (s.modPart k f).parked = s.parked := rfl
@[simp] theorem State.modPart_agenda : (s.modPart k f).agenda = s.agenda := rfl
@[simp] theorem State.modPart_fresh : (s.modPart k f).fresh = s.fresh := rfl
@[simp] theorem State.modPart_power : (s.modPart k f).power = s.power := rfl
@[simp] theorem State.modPart_failstep : (s.modPart k f).failstep = s.failstep := rfl
@[simp] theorem State.modPart_bstep : (s.modPart k f).bstep = s.bstep := rfl
@[simp] theorem State.modPart_bdetail : (s.modPart k f).bdetail = s.bdetail := rfl
@[simp] theorem State.modPart_bootAt : (s.modPart k f).bootAt = s.bootAt := rfl
@[simp] theorem State.modPart_pkg : (s.modPart k f).pkg = s.pkg := rfl
@[simp] theorem State.modPart_members : (s.modPart k f).members = s.members := rfl
@[simp] theorem State.modPart_dies : (s.modPart k f).dies = s.dies := rfl
@[simp] theorem State.modPart_mem : (s.modPart k f).mem = s.mem := rfl
@[simp] theorem State.modPart_lineKey : (s.modPart k f).lineKey = s.lineKey := rfl
@[simp] theorem State.modPart_keys : (s.modPart k f).keys = s.keys := rfl
@[simp] theorem State.modPart_keyLoads : (s.modPart k f).keyLoads = s.keyLoads := rfl
@[simp] theorem State.modPart_keyBytes : (s.modPart k f).keyBytes = s.keyBytes := rfl
@[simp] theorem State.modPart_descs : (s.modPart k f).descs = s.descs := rfl
@[simp] theorem State.modPart_far : (s.modPart k f).far = s.far := rfl
@[simp] theorem State.modPart_farMem : (s.modPart k f).farMem = s.farMem := rfl
@[simp] theorem State.modPart_marks : (s.modPart k f).marks = s.marks := rfl
@[simp] theorem State.modPart_heldRel : (s.modPart k f).heldRel = s.heldRel := rfl
@[simp] theorem State.modPart_relStale : (s.modPart k f).relStale = s.relStale := rfl
@[simp] theorem State.modPart_subs : (s.modPart k f).subs = s.subs := rfl
@[simp] theorem State.modPart_faultLog : (s.modPart k f).faultLog = s.faultLog := rfl
@[simp] theorem State.modPart_kept : (s.modPart k f).kept = s.kept := rfl
@[simp] theorem State.modPart_pubs : (s.modPart k f).pubs = s.pubs := rfl
@[simp] theorem State.modPart_pool : (s.modPart k f).pool = s.pool := rfl
@[simp] theorem State.modPart_pinned : (s.modPart k f).pinned = s.pinned := rfl
@[simp] theorem State.modPart_grants : (s.modPart k f).grants = s.grants := rfl
@[simp] theorem State.modPart_watches : (s.modPart k f).watches = s.watches := rfl
@[simp] theorem State.modPart_watchLog : (s.modPart k f).watchLog = s.watchLog := rfl
@[simp] theorem State.modPart_vlogs : (s.modPart k f).vlogs = s.vlogs := rfl
@[simp] theorem State.modPart_parts :
    (s.modPart k f).parts = s.parts.map fun p => if p.k = k then f p else p := rfl
@[simp] theorem State.modPart_finals : (s.modPart k f).finals = s.finals := rfl
@[simp] theorem State.modPart_regions : (s.modPart k f).regions = s.regions := rfl
@[simp] theorem State.modPart_graphs : (s.modPart k f).graphs = s.graphs := rfl
@[simp] theorem State.modPart_replays : (s.modPart k f).replays = s.replays := rfl
@[simp] theorem State.modPart_tasks : (s.modPart k f).tasks = s.tasks := rfl
@[simp] theorem State.modPart_windows : (s.modPart k f).windows = s.windows := rfl
@[simp] theorem State.modPart_msis : (s.modPart k f).msis = s.msis := rfl
@[simp] theorem State.modPart_faultQ : (s.modPart k f).faultQ = s.faultQ := rfl
@[simp] theorem State.modPart_saves : (s.modPart k f).saves = s.saves := rfl
@[simp] theorem State.modPart_phys : (s.modPart k f).phys = s.phys := rfl
@[simp] theorem State.modPart_ports : (s.modPart k f).ports = s.ports := rfl
@[simp] theorem State.modPart_outbox : (s.modPart k f).outbox = s.outbox := rfl
@[simp] theorem State.modPart_sent : (s.modPart k f).sent = s.sent := rfl
@[simp] theorem State.modPart_via : (s.modPart k f).via = s.via := rfl
@[simp] theorem State.modPart_leaving : (s.modPart k f).leaving = s.leaving := rfl
@[simp] theorem State.modPart_farDue : (s.modPart k f).farDue = s.farDue := rfl
@[simp] theorem State.modPart_pfHeld : (s.modPart k f).pfHeld = s.pfHeld := rfl
@[simp] theorem State.modPart_seen : (s.modPart k f).seen = s.seen := rfl
@[simp] theorem State.modPart_links : (s.modPart k f).links = s.links := rfl
@[simp] theorem State.modPart_replies : (s.modPart k f).replies = s.replies := rfl
@[simp] theorem State.modPart_sessions : (s.modPart k f).sessions = s.sessions := rfl
@[simp] theorem State.modPart_nextSess : (s.modPart k f).nextSess = s.nextSess := rfl
@[simp] theorem State.modPart_spdm : (s.modPart k f).spdm = s.spdm := rfl
@[simp] theorem State.modPart_nextRid : (s.modPart k f).nextRid = s.nextRid := rfl
@[simp] theorem State.modPart_lpdFirst : (s.modPart k f).lpdFirst = s.lpdFirst := rfl
@[simp] theorem State.modPart_nextPage : (s.modPart k f).nextPage = s.nextPage := rfl

end

/-! `modWindow` -/
section
variable (s : State) (k : Nat) (f : Window → Window)

@[simp] theorem State.modWindow_clock : (s.modWindow k f).clock = s.clock := rfl
@[simp] theorem State.modWindow_core : (s.modWindow k f).core = s.core := rfl
@[simp] theorem State.modWindow_parked : (s.modWindow k f).parked = s.parked := rfl
@[simp] theorem State.modWindow_agenda : (s.modWindow k f).agenda = s.agenda := rfl
@[simp] theorem State.modWindow_fresh : (s.modWindow k f).fresh = s.fresh := rfl
@[simp] theorem State.modWindow_power : (s.modWindow k f).power = s.power := rfl
@[simp] theorem State.modWindow_failstep : (s.modWindow k f).failstep = s.failstep := rfl
@[simp] theorem State.modWindow_bstep : (s.modWindow k f).bstep = s.bstep := rfl
@[simp] theorem State.modWindow_bdetail : (s.modWindow k f).bdetail = s.bdetail := rfl
@[simp] theorem State.modWindow_bootAt : (s.modWindow k f).bootAt = s.bootAt := rfl
@[simp] theorem State.modWindow_pkg : (s.modWindow k f).pkg = s.pkg := rfl
@[simp] theorem State.modWindow_members : (s.modWindow k f).members = s.members := rfl
@[simp] theorem State.modWindow_dies : (s.modWindow k f).dies = s.dies := rfl
@[simp] theorem State.modWindow_mem : (s.modWindow k f).mem = s.mem := rfl
@[simp] theorem State.modWindow_lineKey : (s.modWindow k f).lineKey = s.lineKey := rfl
@[simp] theorem State.modWindow_keys : (s.modWindow k f).keys = s.keys := rfl
@[simp] theorem State.modWindow_keyLoads : (s.modWindow k f).keyLoads = s.keyLoads := rfl
@[simp] theorem State.modWindow_keyBytes : (s.modWindow k f).keyBytes = s.keyBytes := rfl
@[simp] theorem State.modWindow_descs : (s.modWindow k f).descs = s.descs := rfl
@[simp] theorem State.modWindow_far : (s.modWindow k f).far = s.far := rfl
@[simp] theorem State.modWindow_farMem : (s.modWindow k f).farMem = s.farMem := rfl
@[simp] theorem State.modWindow_marks : (s.modWindow k f).marks = s.marks := rfl
@[simp] theorem State.modWindow_heldRel : (s.modWindow k f).heldRel = s.heldRel := rfl
@[simp] theorem State.modWindow_relStale : (s.modWindow k f).relStale = s.relStale := rfl
@[simp] theorem State.modWindow_subs : (s.modWindow k f).subs = s.subs := rfl
@[simp] theorem State.modWindow_faultLog : (s.modWindow k f).faultLog = s.faultLog := rfl
@[simp] theorem State.modWindow_kept : (s.modWindow k f).kept = s.kept := rfl
@[simp] theorem State.modWindow_pubs : (s.modWindow k f).pubs = s.pubs := rfl
@[simp] theorem State.modWindow_pool : (s.modWindow k f).pool = s.pool := rfl
@[simp] theorem State.modWindow_pinned : (s.modWindow k f).pinned = s.pinned := rfl
@[simp] theorem State.modWindow_grants : (s.modWindow k f).grants = s.grants := rfl
@[simp] theorem State.modWindow_watches : (s.modWindow k f).watches = s.watches := rfl
@[simp] theorem State.modWindow_watchLog : (s.modWindow k f).watchLog = s.watchLog := rfl
@[simp] theorem State.modWindow_vlogs : (s.modWindow k f).vlogs = s.vlogs := rfl
@[simp] theorem State.modWindow_parts : (s.modWindow k f).parts = s.parts := rfl
@[simp] theorem State.modWindow_finals : (s.modWindow k f).finals = s.finals := rfl
@[simp] theorem State.modWindow_regions : (s.modWindow k f).regions = s.regions := rfl
@[simp] theorem State.modWindow_graphs : (s.modWindow k f).graphs = s.graphs := rfl
@[simp] theorem State.modWindow_replays : (s.modWindow k f).replays = s.replays := rfl
@[simp] theorem State.modWindow_tasks : (s.modWindow k f).tasks = s.tasks := rfl
@[simp] theorem State.modWindow_windows :
    (s.modWindow k f).windows = mput s.windows k (f (s.window k)) := rfl
@[simp] theorem State.modWindow_msis : (s.modWindow k f).msis = s.msis := rfl
@[simp] theorem State.modWindow_faultQ : (s.modWindow k f).faultQ = s.faultQ := rfl
@[simp] theorem State.modWindow_saves : (s.modWindow k f).saves = s.saves := rfl
@[simp] theorem State.modWindow_phys : (s.modWindow k f).phys = s.phys := rfl
@[simp] theorem State.modWindow_ports : (s.modWindow k f).ports = s.ports := rfl
@[simp] theorem State.modWindow_outbox : (s.modWindow k f).outbox = s.outbox := rfl
@[simp] theorem State.modWindow_sent : (s.modWindow k f).sent = s.sent := rfl
@[simp] theorem State.modWindow_via : (s.modWindow k f).via = s.via := rfl
@[simp] theorem State.modWindow_leaving : (s.modWindow k f).leaving = s.leaving := rfl
@[simp] theorem State.modWindow_farDue : (s.modWindow k f).farDue = s.farDue := rfl
@[simp] theorem State.modWindow_pfHeld : (s.modWindow k f).pfHeld = s.pfHeld := rfl
@[simp] theorem State.modWindow_seen : (s.modWindow k f).seen = s.seen := rfl
@[simp] theorem State.modWindow_links : (s.modWindow k f).links = s.links := rfl
@[simp] theorem State.modWindow_replies : (s.modWindow k f).replies = s.replies := rfl
@[simp] theorem State.modWindow_sessions : (s.modWindow k f).sessions = s.sessions := rfl
@[simp] theorem State.modWindow_nextSess : (s.modWindow k f).nextSess = s.nextSess := rfl
@[simp] theorem State.modWindow_spdm : (s.modWindow k f).spdm = s.spdm := rfl
@[simp] theorem State.modWindow_nextRid : (s.modWindow k f).nextRid = s.nextRid := rfl
@[simp] theorem State.modWindow_lpdFirst : (s.modWindow k f).lpdFirst = s.lpdFirst := rfl
@[simp] theorem State.modWindow_nextPage : (s.modWindow k f).nextPage = s.nextPage := rfl

end

/-! `modRegion` -/
section
variable (s : State) (k : Nat) (f : Region → Region)

@[simp] theorem State.modRegion_clock : (s.modRegion k f).clock = s.clock := rfl
@[simp] theorem State.modRegion_core : (s.modRegion k f).core = s.core := rfl
@[simp] theorem State.modRegion_parked : (s.modRegion k f).parked = s.parked := rfl
@[simp] theorem State.modRegion_agenda : (s.modRegion k f).agenda = s.agenda := rfl
@[simp] theorem State.modRegion_fresh : (s.modRegion k f).fresh = s.fresh := rfl
@[simp] theorem State.modRegion_power : (s.modRegion k f).power = s.power := rfl
@[simp] theorem State.modRegion_failstep : (s.modRegion k f).failstep = s.failstep := rfl
@[simp] theorem State.modRegion_bstep : (s.modRegion k f).bstep = s.bstep := rfl
@[simp] theorem State.modRegion_bdetail : (s.modRegion k f).bdetail = s.bdetail := rfl
@[simp] theorem State.modRegion_bootAt : (s.modRegion k f).bootAt = s.bootAt := rfl
@[simp] theorem State.modRegion_pkg : (s.modRegion k f).pkg = s.pkg := rfl
@[simp] theorem State.modRegion_members : (s.modRegion k f).members = s.members := rfl
@[simp] theorem State.modRegion_dies : (s.modRegion k f).dies = s.dies := rfl
@[simp] theorem State.modRegion_mem : (s.modRegion k f).mem = s.mem := rfl
@[simp] theorem State.modRegion_lineKey : (s.modRegion k f).lineKey = s.lineKey := rfl
@[simp] theorem State.modRegion_keys : (s.modRegion k f).keys = s.keys := rfl
@[simp] theorem State.modRegion_keyLoads : (s.modRegion k f).keyLoads = s.keyLoads := rfl
@[simp] theorem State.modRegion_keyBytes : (s.modRegion k f).keyBytes = s.keyBytes := rfl
@[simp] theorem State.modRegion_descs : (s.modRegion k f).descs = s.descs := rfl
@[simp] theorem State.modRegion_far : (s.modRegion k f).far = s.far := rfl
@[simp] theorem State.modRegion_farMem : (s.modRegion k f).farMem = s.farMem := rfl
@[simp] theorem State.modRegion_marks : (s.modRegion k f).marks = s.marks := rfl
@[simp] theorem State.modRegion_heldRel : (s.modRegion k f).heldRel = s.heldRel := rfl
@[simp] theorem State.modRegion_relStale : (s.modRegion k f).relStale = s.relStale := rfl
@[simp] theorem State.modRegion_subs : (s.modRegion k f).subs = s.subs := rfl
@[simp] theorem State.modRegion_faultLog : (s.modRegion k f).faultLog = s.faultLog := rfl
@[simp] theorem State.modRegion_kept : (s.modRegion k f).kept = s.kept := rfl
@[simp] theorem State.modRegion_pubs : (s.modRegion k f).pubs = s.pubs := rfl
@[simp] theorem State.modRegion_pool : (s.modRegion k f).pool = s.pool := rfl
@[simp] theorem State.modRegion_pinned : (s.modRegion k f).pinned = s.pinned := rfl
@[simp] theorem State.modRegion_grants : (s.modRegion k f).grants = s.grants := rfl
@[simp] theorem State.modRegion_watches : (s.modRegion k f).watches = s.watches := rfl
@[simp] theorem State.modRegion_watchLog : (s.modRegion k f).watchLog = s.watchLog := rfl
@[simp] theorem State.modRegion_vlogs : (s.modRegion k f).vlogs = s.vlogs := rfl
@[simp] theorem State.modRegion_parts : (s.modRegion k f).parts = s.parts := rfl
@[simp] theorem State.modRegion_finals : (s.modRegion k f).finals = s.finals := rfl
@[simp] theorem State.modRegion_regions :
    (s.modRegion k f).regions = s.regions.map fun r => if r.rid = k then f r else r := rfl
@[simp] theorem State.modRegion_graphs : (s.modRegion k f).graphs = s.graphs := rfl
@[simp] theorem State.modRegion_replays : (s.modRegion k f).replays = s.replays := rfl
@[simp] theorem State.modRegion_tasks : (s.modRegion k f).tasks = s.tasks := rfl
@[simp] theorem State.modRegion_windows : (s.modRegion k f).windows = s.windows := rfl
@[simp] theorem State.modRegion_msis : (s.modRegion k f).msis = s.msis := rfl
@[simp] theorem State.modRegion_faultQ : (s.modRegion k f).faultQ = s.faultQ := rfl
@[simp] theorem State.modRegion_saves : (s.modRegion k f).saves = s.saves := rfl
@[simp] theorem State.modRegion_phys : (s.modRegion k f).phys = s.phys := rfl
@[simp] theorem State.modRegion_ports : (s.modRegion k f).ports = s.ports := rfl
@[simp] theorem State.modRegion_outbox : (s.modRegion k f).outbox = s.outbox := rfl
@[simp] theorem State.modRegion_sent : (s.modRegion k f).sent = s.sent := rfl
@[simp] theorem State.modRegion_via : (s.modRegion k f).via = s.via := rfl
@[simp] theorem State.modRegion_leaving : (s.modRegion k f).leaving = s.leaving := rfl
@[simp] theorem State.modRegion_farDue : (s.modRegion k f).farDue = s.farDue := rfl
@[simp] theorem State.modRegion_pfHeld : (s.modRegion k f).pfHeld = s.pfHeld := rfl
@[simp] theorem State.modRegion_seen : (s.modRegion k f).seen = s.seen := rfl
@[simp] theorem State.modRegion_links : (s.modRegion k f).links = s.links := rfl
@[simp] theorem State.modRegion_replies : (s.modRegion k f).replies = s.replies := rfl
@[simp] theorem State.modRegion_sessions : (s.modRegion k f).sessions = s.sessions := rfl
@[simp] theorem State.modRegion_nextSess : (s.modRegion k f).nextSess = s.nextSess := rfl
@[simp] theorem State.modRegion_spdm : (s.modRegion k f).spdm = s.spdm := rfl
@[simp] theorem State.modRegion_nextRid : (s.modRegion k f).nextRid = s.nextRid := rfl
@[simp] theorem State.modRegion_lpdFirst : (s.modRegion k f).lpdFirst = s.lpdFirst := rfl
@[simp] theorem State.modRegion_nextPage : (s.modRegion k f).nextPage = s.nextPage := rfl

/-! ### Reads past updates -/

end

/-! `pushResult` -/
section
variable (s : State) (n : Nat) (d : Dest) (r : XReg)

@[simp] theorem State.pushResult_getX : (s.pushResult n d).getX r = s.getX r := rfl
end

/-! `pushResult` -/
section
variable (s : State) (n : Nat) (d : Dest) (r : VCode)

@[simp] theorem State.pushResult_getV : (s.pushResult n d).getV r = s.getV r := rfl
end

/-! `sched` -/
section
variable (s : State) (n p : Nat) (i : Instr) (r : XReg)

@[simp] theorem State.sched_getX : (s.sched n p i).getX r = s.getX r := rfl
end

/-! `pushResult` -/
section
variable (s : State) (n : Nat) (d : Dest)

@[simp] theorem State.pushResult_cycle : (s.pushResult n d).cycle = s.cycle := rfl
end

/-! `onCore` -/
section
variable (s : State) (f : Core → Core)

@[simp] theorem State.onCore_cycle : (s.onCore f).cycle = s.cycle := rfl
end

/-! `sched` -/
section
variable (s : State) (n p : Nat) (i : Instr)

@[simp] theorem State.sched_cycle : (s.sched n p i).cycle = s.cycle := rfl
end

/-! `onCore` -/
section
variable (s : State) (f g : Core → Core)

@[simp] theorem State.onCore_onCore : (s.onCore f).onCore g = s.onCore fun c => g (f c) := rfl

end

/-! ### Taking a fault (R314, R328, R339) -/

/-- The one operation of every precise fault, by where it is taken and what was consumed. -/
theorem State.takeFault_cases (s : State) (f : Raise) :
    (s.core.isSys = true ∧
      s.takeFault f = (s.trap f.cause f.info (addrOf s.core.gstart)).onCore fun c => { c with raised := some f }) ∨
    (s.core.isSys = false ∧ f.cause = 0x18 ∧ s.takeFault f = s.consumeBad f.info) ∨
    (s.core.isSys = false ∧ f.cause ≠ 0x18 ∧ s.takeFault f = s.halt f (addrOf s.core.gstart) (addrOf s.core.gend) s.core.wpos) := by
  unfold State.takeFault
  cases h : s.core.isSys
  · by_cases hc : f.cause = 0x18
    · exact .inr (.inl ⟨rfl, hc, by rw [if_neg (by simp), if_pos hc]⟩)
    · exact .inr (.inr ⟨rfl, hc, by rw [if_neg (by simp), if_neg hc]⟩)
  · exact .inl ⟨rfl, by simp⟩

/-- A word either raises nothing and does what it does, or is an illegal instruction. -/
theorem State.word_next (s : State) (i : Instr) (k : State → State) (h : i.wf = true) : s.word i k = .next (k s) := by
  simp [State.word, h]

theorem State.computeWord_next (s : State) (i : Instr) (k : State → State) (hs : s.core.isSys = false) (h : i.wf = true) :
    s.computeWord i k = .next (k s) := by
  simp [State.computeWord, h, hs]

end Sys2Proof.Machine
end

