-- ==== Sys2Proof/Tests/Slice0.lean ====
section
/-! SUPPORT. Tests: words decode as the spec's encodings say, ill-formed terms are refused, instructions give the values that the spec
gives, and every hypothesis of a statement is met by some state. -/

set_option Elab.async false

namespace Sys2Proof.Tests

open Sys2Proof Sys2Proof.Machine
theorem test_decode_class0_a :
    decodeWord 0x00057A7E = .ok (false, .add 21 58 31 true false) ∧
    decodeWord 0x00157A7E = .ok (false, .sub 21 58 31 true false) ∧
    decodeWord 0x00257A7E = .ok (false, .and 21 58 31 true false) ∧
    decodeWord 0x00357A7E = .ok (false, .or 21 58 31 true false) ∧
    decodeWord 0x00457A7E = .ok (false, .xor 21 58 31 true false) ∧
    decodeWord 0x00557A7E = .ok (false, .andn 21 58 31 true false) ∧
    decodeWord 0x00657A7E = .ok (false, .shl 21 58 31 true false) ∧
    decodeWord 0x00757A7E = .ok (false, .shr 21 58 31 true false) ∧
    decodeWord 0x00857A7E = .ok (false, .sra 21 58 31 true false) ∧
    decodeWord 0x00957A7E = .ok (false, .rol 21 58 31 true false) ∧
    decodeWord 0x00A57A7E = .ok (false, .mul 21 58 31 true false) ∧
    decodeWord 0x00B57A7E = .ok (false, .mulh 21 58 31 true false) ∧
    decodeWord 0x00C57A7E = .ok (false, .mulhn 21 58 31 true false) ∧
    decodeWord 0x00D57A7E = .ok (false, .div 21 58 31 true false) ∧
    decodeWord 0x00E57A7E = .ok (false, .divn 21 58 31 true false) ∧
    decodeWord 0x00F57A7E = .ok (false, .rem 21 58 31 true false) ∧
    decodeWord 0x01057A7E = .ok (false, .remn 21 58 31 true false) ∧
    decodeWord 0x01157A7E = .ok (false, .min 21 58 31 true false) ∧
    decodeWord 0x01257A7E = .ok (false, .max 21 58 31 true false) ∧
    decodeWord 0x01357A7E = .ok (false, .minn 21 58 31 true false) ∧
    decodeWord 0x01457A7E = .ok (false, .maxn 21 58 31 true false) ∧
    decodeWord 0x01557A7E = .ok (false, .slt 21 58 31 true false) ∧
    decodeWord 0x01657A7E = .ok (false, .sltn 21 58 31 true false) ∧
    decodeWord 0x01757A7E = .ok (false, .seq 21 58 31 true false) := by
  and_intros <;> rfl

theorem test_decode_class0_b :
    decodeWord 0x01857A00 = .ok (false, .clz 21 58 false) ∧
    decodeWord 0x01957A00 = .ok (false, .ctz 21 58 false) ∧
    decodeWord 0x01A57A00 = .ok (false, .popc 21 58 false) ∧
    decodeWord 0x01B57A7E = .ok (false, .sext 21 58 31 true false) ∧
    decodeWord 0x01C57A7E = .ok (false, .bext 21 58 31 true false) ∧
    decodeWord 0x01D57A7E = .ok (false, .bins 21 58 31 true false) ∧
    decodeWord 0x01E57A00 = .ok (false, .fset 21 58 false) ∧
    decodeWord 0x01F57A00 = .ok (false, .fclr 21 58 false) ∧
    decodeWord 0x02057A7E = .ok (false, .fadd 21 58 31 true false) ∧
    decodeWord 0x02157A7E = .ok (false, .fsub 21 58 31 true false) ∧
    decodeWord 0x02257A7E = .ok (false, .fmul 21 58 31 true false) ∧
    decodeWord 0x02357A7E = .ok (false, .fmin 21 58 31 true false) ∧
    decodeWord 0x02457A7E = .ok (false, .fmax 21 58 31 true false) ∧
    decodeWord 0x02557A00 = .ok (false, .fcvti 21 58 false) ∧
    decodeWord 0x02657A00 = .ok (false, .icvtf 21 58 false) := by
  and_intros <;> rfl

theorem test_decode_class1 :
    decodeWord 0x0815E91F = .ok (false, .addi 21 58 287) ∧
    decodeWord 0x0855E91F = .ok (false, .andi 21 58 287) ∧
    decodeWord 0x0895E91F = .ok (false, .ori 21 58 287) ∧
    decodeWord 0x08D5E91F = .ok (false, .xori 21 58 287) ∧
    decodeWord 0x0915E81F = .ok (false, .shli 21 58 31) ∧
    decodeWord 0x0955E81F = .ok (false, .shri 21 58 31) ∧
    decodeWord 0x0995E81F = .ok (false, .srai 21 58 31) ∧
    decodeWord 0x09D5E91F = .ok (false, .slti 21 58 287) ∧
    decodeWord 0x0A15E91F = .ok (false, .sltni 21 58 287) ∧
    decodeWord 0x0A5500FA = .ok (false, .lis 21 250) ∧
    decodeWord 0x0A9500FA = .ok (false, .lih 21 250) ∧
    decodeWord 0x0AD500FA = .ok (false, .mfcr 21 250) ∧
    decodeWord 0x0B0054FA = .ok (false, .mtcr 21 250) ∧
    decodeWord 0x0B40542F = .ok (false, .stg 21 2 15) ∧
    decodeWord 0x0B95002F = .ok (false, .ldg 21 2 15) ∧
    decodeWord 0x0BC054FA = .ok (false, .setfmt 21 250) ∧
    decodeWord 0x0C0054FA = .ok (false, .setmfmt 21 250) ∧
    decodeWord 0x0C55E800 = .ok (false, .setthr 21 58) := by
  and_intros <;> rfl

theorem test_decode_class2 :
    decodeWord 0x100000D5 = .ok (false, .br 213) ∧
    decodeWord 0x108000D5 = .ok (false, .call 213) ∧
    decodeWord 0x112BD11F = .ok (false, .beq 21 58 287) ∧
    decodeWord 0x11ABD11F = .ok (false, .bne 21 58 287) ∧
    decodeWord 0x122BD11F = .ok (false, .blt 21 58 287) ∧
    decodeWord 0x12ABD11F = .ok (false, .bge 21 58 287) ∧
    decodeWord 0x132BD11F = .ok (false, .bltn 21 58 287) ∧
    decodeWord 0x13ABD11F = .ok (false, .bgen 21 58 287) ∧
    decodeWord 0x142A00FA = .ok (false, .bz 21 250) ∧
    decodeWord 0x14AA00FA = .ok (false, .bnz 21 250) ∧
    decodeWord 0x152A0000 = .ok (false, .jr 21) ∧
    decodeWord 0x15800000 = .ok (false, .ret) ∧
    decodeWord 0x162A00FA = .ok (false, .loop 21 250) ∧
    decodeWord 0x16800000 = .ok (false, .phase) ∧
    decodeWord 0x17000000 = .ok (false, .tend) ∧
    decodeWord 0x17800000 = .ok (false, .ckpt) := by
  and_intros <;> rfl

theorem test_decode_class3_a :
    decodeWord 0x18057A7C = .ok (false, .vadd 21 58 31 0) ∧
    decodeWord 0x18157A7C = .ok (false, .vsub 21 58 31 0) ∧
    decodeWord 0x18257A7C = .ok (false, .vmul 21 58 31 0) ∧
    decodeWord 0x18357A7C = .ok (false, .vfma 21 58 31 0) ∧
    decodeWord 0x18457A7C = .ok (false, .vfms 21 58 31 0) ∧
    decodeWord 0x18557A7C = .ok (false, .vmin 21 58 31 0) ∧
    decodeWord 0x18657A7C = .ok (false, .vmax 21 58 31 0) ∧
    decodeWord 0x18757A03 = .ok (false, .vabs 21 58 3) ∧
    decodeWord 0x18857A03 = .ok (false, .vneg 21 58 3) ∧
    decodeWord 0x18957A7C = .ok (false, .vand 21 58 31 0) ∧
    decodeWord 0x18A57A7C = .ok (false, .vor 21 58 31 0) ∧
    decodeWord 0x18B57A7C = .ok (false, .vxor 21 58 31 0) ∧
    decodeWord 0x18C57A7C = .ok (false, .vshl 21 58 31 0) ∧
    decodeWord 0x18D57A7C = .ok (false, .vshr 21 58 31 0) ∧
    decodeWord 0x18E57A7C = .ok (false, .vsra 21 58 31 0) ∧
    decodeWord 0x18F57A7C = .ok (false, .vadds 21 58 31 0) ∧
    decodeWord 0x19057A7C = .ok (false, .vsubs 21 58 31 0) ∧
    decodeWord 0x19157A7C = .ok (false, .vmulh 21 58 31 0) ∧
    decodeWord 0x19257A7C = .ok (false, .vdot4 21 58 31 0) ∧
    decodeWord 0x19357A7C = .ok (false, .vcmpeq 21 58 31 0) ∧
    decodeWord 0x19457A7C = .ok (false, .vcmplt 21 58 31 0) ∧
    decodeWord 0x19557A7C = .ok (false, .vcmple 21 58 31 0) ∧
    decodeWord 0x19657A7C = .ok (false, .vsel 21 58 31 0) ∧
    decodeWord 0x19757A03 = .ok (false, .vmov 21 58 3) := by
  and_intros <;> rfl

theorem test_decode_class3_b :
    decodeWord 0x19857A7C = .ok (false, .vcvt 21 58 31 0) ∧
    decodeWord 0x19957A7C = .ok (false, .vabsd 21 58 31 0) ∧
    decodeWord 0x19A57A7C = .ok (false, .vclamp 21 58 31 0) := by
  and_intros <;> rfl

theorem test_decode_class4 :
    decodeWord 0x2574F888 = .ok (false, .cascadeExtension 21 26 31 4 false true) := by
  rfl

theorem test_decode_class5 :
    decodeWord 0x280540E8 = .ok (false, .vbcast 21 58) ∧
    decodeWord 0x28157A7C = .ok (false, .vaddx 21 58 31) ∧
    decodeWord 0x28257A7C = .ok (false, .vmulx 21 58 31) ∧
    decodeWord 0x28357A7C = .ok (false, .vfmax 21 58 31) ∧
    decodeWord 0x284543E8 = .ok (false, .vimm 21 250) ∧
    decodeWord 0x285540E8 = .ok (false, .vidx 21 58) ∧
    decodeWord 0x28657A7C = .ok (false, .vperm 21 58 31) ∧
    decodeWord 0x28757A7C = .ok (false, .vrot 21 58 31) ∧
    decodeWord 0x28857A7C = .ok (false, .xcl 21 58 31) ∧
    decodeWord 0x28957A7C = .ok (false, .xred 21 58 31) ∧
    decodeWord 0x28A57A00 = .ok (false, .vred 21 58) ∧
    decodeWord 0x28B57A00 = .ok (false, .vredmax 21 58) ∧
    decodeWord 0x28C57A7C = .ok (false, .vext 21 58 31) ∧
    decodeWord 0x28D57A7C = .ok (false, .vins 21 58 31) ∧
    decodeWord 0x28E57A7C = .ok (false, .mand 21 58 31) ∧
    decodeWord 0x28F57A7C = .ok (false, .mor 21 58 31) ∧
    decodeWord 0x29057A00 = .ok (false, .mnot 21 58) ∧
    decodeWord 0x29157A00 = .ok (false, .mpop 21 58) ∧
    decodeWord 0x29257A3C = .ok (false, .vtag 21 58 15) ∧
    decodeWord 0x29357A00 = .ok (false, .vtagx 21 58) ∧
    decodeWord 0x29457A00 = .ok (false, .vpop 21 58) := by
  and_intros <;> rfl

theorem test_decode_class6 :
    decodeWord 0x300AF400 = .ok (false, .fexp2 21 58) ∧
    decodeWord 0x302AF400 = .ok (false, .flog2 21 58) ∧
    decodeWord 0x304AF400 = .ok (false, .frcp 21 58) ∧
    decodeWord 0x306AF400 = .ok (false, .frsqrt 21 58) ∧
    decodeWord 0x308AF400 = .ok (false, .fsqrt 21 58) ∧
    decodeWord 0x30AAF400 = .ok (false, .fsin 21 58) ∧
    decodeWord 0x30CAF400 = .ok (false, .fcos 21 58) ∧
    decodeWord 0x30EAF400 = .ok (false, .ftanh 21 58) ∧
    decodeWord 0x310AF400 = .ok (false, .fsigm 21 58) ∧
    decodeWord 0x312AF400 = .ok (false, .fgelu 21 58) ∧
    decodeWord 0x314AF400 = .ok (false, .fsilu 21 58) ∧
    decodeWord 0x316AF4F8 = .ok (false, .fdiv 21 58 31) := by
  and_intros <;> rfl

theorem test_decode_class7 :
    decodeWord 0x3815E91F = .ok (false, .vld 21 58 287) ∧
    decodeWord 0x3855E91F = .ok (false, .vst 21 58 287) ∧
    decodeWord 0x3895E91F = .ok (false, .rmg 21 58 287) ∧
    decodeWord 0x38D500FA = .ok (false, .sld 21 250) ∧
    decodeWord 0x391500FA = .ok (false, .sst 21 250) ∧
    decodeWord 0x395500FA = .ok (false, .vsld 21 250) ∧
    decodeWord 0x399500FA = .ok (false, .vsst 21 250) ∧
    decodeWord 0x39D5E91F = .ok (false, .vfill 21 58 287) ∧
    decodeWord 0x3A15E91F = .ok (false, .rtagw 21 58 287) ∧
    decodeWord 0x3A55E91F = .ok (false, .rtagr 21 58 287) ∧
    decodeWord 0x3A95E91F = .ok (false, .qst 21 58 287) := by
  and_intros <;> rfl

theorem test_decode_class8 :
    decodeWord 0x400AF4FA = .ok (false, .hld 21 58 31 true) ∧
    decodeWord 0x402AF4FA = .ok (false, .hst 21 58 31 true) ∧
    decodeWord 0x404AF4FA = .ok (false, .hlds 21 58 31 true) ∧
    decodeWord 0x406AF4FA = .ok (false, .hsts 21 58 31 true) ∧
    decodeWord 0x40802BD0 = .ok (false, .hpf 21 58 false) ∧
    decodeWord 0x40AAF4FC = .ok (false, .haadd 21 58 31 true false) ∧
    decodeWord 0x40CAF4FC = .ok (false, .hamax 21 58 31 true false) ∧
    decodeWord 0x40EAF4FC = .ok (false, .hamin 21 58 31 true false) ∧
    decodeWord 0x410AF4FC = .ok (false, .hamaxn 21 58 31 true false) ∧
    decodeWord 0x412AF4FC = .ok (false, .haminn 21 58 31 true false) ∧
    decodeWord 0x414AF4FC = .ok (false, .haand 21 58 31 true false) ∧
    decodeWord 0x416AF4FC = .ok (false, .haor 21 58 31 true false) ∧
    decodeWord 0x418AF4FC = .ok (false, .haxor 21 58 31 true false) ∧
    decodeWord 0x41AAF4FC = .ok (false, .haswp 21 58 31 true false) ∧
    decodeWord 0x41CAF4FC = .ok (false, .hacas 21 58 31 true false) ∧
    decodeWord 0x41EAF4FC = .ok (false, .hfadd 21 58 31 true false) ∧
    decodeWord 0x420AF4FC = .ok (false, .hfamax 21 58 31 true false) ∧
    decodeWord 0x422AF4FC = .ok (false, .hfamin 21 58 31 true false) ∧
    decodeWord 0x424AF4FA = .ok (false, .hvadd 21 58 31 true) ∧
    decodeWord 0x426AF4FA = .ok (false, .hvmax 21 58 31 true) ∧
    decodeWord 0x428AF4FA = .ok (false, .hinfo 21 58 31 true) := by
  and_intros <;> rfl

theorem test_decode_class9 :
    decodeWord 0x480C020E = .ok (false, .mmul 1 2 false true false 14) ∧
    decodeWord 0x48280000 = .ok (false, .mzero 1) ∧
    decodeWord 0x484C0000 = .ok (false, .mdrain 1 2) ∧
    decodeWord 0x48600015 = .ok (false, .mwld 21) ∧
    decodeWord 0x48800015 = .ok (false, .mwstr 21) ∧
    decodeWord 0x48AC020E = .ok (false, .mtile 1 2 false true false 14) ∧
    decodeWord 0x48C03A1F = .ok (false, .mstat false 58 31) := by
  and_intros <;> rfl

theorem test_decode_class10 :
    decodeWord 0x500A0100 = .ok (false, .fget 5 true) ∧
    decodeWord 0x502A0000 = .ok (false, .fpref 5) ∧
    decodeWord 0x504A0000 = .ok (false, .fcancel 5) ∧
    decodeWord 0x506A0000 = .ok (false, .sbind 5) ∧
    decodeWord 0x508A0000 = .ok (false, .sfree 5) := by
  and_intros <;> rfl

theorem test_decode_class11 :
    decodeWord 0x580A0100 = .ok (false, .cput 5 true) ∧
    decodeWord 0x582A0000 = .ok (false, .cmov 5) ∧
    decodeWord 0x584A0000 = .ok (false, .clzCopy 5) ∧
    decodeWord 0x586A0204 = .ok (false, .cdrain 5 true false 4) ∧
    decodeWord 0x588A011F = .ok (false, .cstat 5 true 31) := by
  and_intros <;> rfl

theorem test_decode_class12 :
    decodeWord 0x600000D5 = .ok (false, .wfwd 213) ∧
    decodeWord 0x60200000 = .ok (false, .winv) ∧
    decodeWord 0x604000D5 = .ok (false, .wst 213) ∧
    decodeWord 0x60400100 = .ok (false, .wstC) ∧
    decodeWord 0x60600000 = .ok (false, .wexp) ∧
    decodeWord 0x6080153A = .ok (false, .wcnt 21 58) ∧
    decodeWord 0x60A00000 = .ok (false, .wbias) := by
  and_intros <;> rfl

theorem test_decode_class13 :
    decodeWord 0x68000000 = .ok (false, .opub) ∧
    decodeWord 0x682000D5 = .ok (false, .osub 213) ∧
    decodeWord 0x68400000 = .ok (false, .opin) ∧
    decodeWord 0x68600000 = .ok (false, .ounpin) ∧
    decodeWord 0x68800000 = .ok (false, .over) ∧
    decodeWord 0x68A000D5 = .ok (false, .evsig 213) ∧
    decodeWord 0x68A001D5 = .ok (false, .evsigB 213) ∧
    decodeWord 0x68C01500 = .ok (false, .gkick 21) ∧
    decodeWord 0x68EA0000 = .ok (false, .lzopen 5) ∧
    decodeWord 0x690A0000 = .ok (false, .lzclose 5) ∧
    decodeWord 0x69201500 = .ok (false, .lzres 21) ∧
    decodeWord 0x69400000 = .ok (false, .lzrel) ∧
    decodeWord 0x696A0000 = .ok (false, .lzclr 5) ∧
    decodeWord 0x698A3A1F = .ok (false, .lzstat 5 58 31) ∧
    decodeWord 0x69AA0000 = .ok (false, .barinit 5) ∧
    decodeWord 0x69CA3A00 = .ok (false, .barstat 5 58) := by
  and_intros <;> rfl

theorem test_decode_class14 :
    decodeWord 0x700000D5 = .ok (false, .trap 213) ∧
    decodeWord 0x70200000 = .ok (false, .tfence) ∧
    decodeWord 0x70402BD0 = .ok (false, .chk 21 58) ∧
    decodeWord 0x70602BD0 = .ok (false, .vchk 21 58) ∧
    decodeWord 0x708000D5 = .ok (false, .sysc 213) ∧
    decodeWord 0x70A00000 = .ok (false, .eret) ∧
    decodeWord 0x70C00000 = .ok (false, .wfi) ∧
    decodeWord 0x70EA87D0 = .ok (false, .mfsr 21 250) ∧
    decodeWord 0x710A87D0 = .ok (false, .mtsr 21 250) ∧
    decodeWord 0x712AF400 = .ok (false, .pld 21 58) ∧
    decodeWord 0x71402BD0 = .ok (false, .pst 21 58) ∧
    decodeWord 0x71600000 = .ok (false, .pord) ∧
    decodeWord 0x71802A00 = .ok (false, .hinv 21) ∧
    decodeWord 0x71AA8000 = .ok (false, .ident 21) ∧
    decodeWord 0x71C000D5 = .ok (false, .brk 213) ∧
    decodeWord 0x71E02BD0 = .ok (false, .wpset 21 58) ∧
    decodeWord 0x72002A00 = .ok (false, .wpclr 21) := by
  and_intros <;> rfl

/-! ### Ill-formed terms are refused -/

theorem test_wf_control_registers :
    (Instr.mfcr 1 0x02).wf = false ∧ (Instr.mfcr 1 0x17).wf = false ∧ (Instr.mfcr 1 0x80).wf = false ∧
    (Instr.mtcr 1 0x00).wf = false ∧ (Instr.mtcr 1 0x28).wf = false ∧ (Instr.stg 1 5 0).wf = false ∧
    (Instr.ldg 1 5 0).wf = false ∧ (Instr.setthr 8 1).wf = false := by decide

theorem test_wf_vector_destinations :
    (∀ i ∈ [Instr.vadd 56 0 0 0, .vsub 56 0 0 0, .vmul 56 0 0 0, .vfma 56 0 0 0, .vfms 56 0 0 0, .vmin 56 0 0 0, .vmax 56 0 0 0,
      .vabs 56 0 0, .vneg 56 0 0, .vand 56 0 0 0, .vor 56 0 0 0, .vxor 56 0 0 0, .vshl 56 0 0 0, .vshr 56 0 0 0, .vsra 56 0 0 0,
      .vadds 56 0 0 0, .vsubs 56 0 0 0, .vmulh 56 0 0 0, .vdot4 56 0 0 0, .vsel 56 0 0 0, .vmov 56 0 0, .vcvt 56 0 0 0,
      .vabsd 56 0 0 0, .vclamp 56 0 0 0], i.wf = false) ∧
    (∀ i ∈ [Instr.vbcast 56 0, .vaddx 56 0 0, .vmulx 56 0 0, .vfmax 56 0 0, .vimm 56 0, .vidx 56 0, .vperm 56 0 0, .vrot 56 0 0,
      .xcl 56 0 0, .xred 56 0 0, .vred 56 0, .vredmax 56 0, .vins 56 0 0, .vtag 56 0 0, .vpop 56 0, .fexp2 56 0, .flog2 56 0,
      .frcp 56 0, .frsqrt 56 0, .fsqrt 56 0, .fsin 56 0, .fcos 56 0, .ftanh 56 0, .fsigm 56 0, .fgelu 56 0, .fsilu 56 0,
      .fdiv 56 0 0], i.wf = false) ∧
    (∀ i ∈ [Instr.vld 56 0 0, .vst 56 0 0, .rmg 56 0 0, .vsld 56 0, .vsst 56 0, .vfill 56 0 0, .hld 56 0 0 false, .hst 56 0 0 false,
      .hvadd 56 0 0 false, .hvmax 56 0 0 false, .vchk 56 0, .vchk 0 56], i.wf = false) := by decide

theorem test_wf_masks_tags_formats :
    (Instr.vcmpeq 8 0 0 0).wf = false ∧ (Instr.vcmplt 8 0 0 0).wf = false ∧ (Instr.vcmple 8 0 0 0).wf = false ∧
    (Instr.mand 8 0 0).wf = false ∧ (Instr.mor 0 8 0).wf = false ∧ (Instr.mand 0 0 8).wf = false ∧ (Instr.mnot 8 0).wf = false ∧
    (Instr.mnot 0 8).wf = false ∧ (Instr.mpop 0 8).wf = false ∧ (Instr.vcvt 0 0 11 0).wf = false ∧ (Instr.xred 0 0 3).wf = false ∧
    (Instr.vtag 0 0 9).wf = false ∧ (Instr.vtag 0 0 14).wf = false ∧ (Instr.vtag 0 0 15).wf = true ∧
    (Instr.cascadeExtension 13 0 0 0 false false).wf = false ∧ (Instr.cascadeExtension 0 0 1 0 false false).wf = false ∧
    (Instr.cascadeExtension 0 11 0 0 false true).wf = false := by decide

theorem test_wf_queues_engines_units :
    (Instr.vpop 0 4).wf = false ∧ (Instr.qst 4 0 0).wf = false ∧ (Instr.hacas 63 0 0 false false).wf = false ∧
    (Instr.mmul 0 1 false false false 0).wf = false ∧ (Instr.mtile 0 1 false false false 0).wf = false ∧
    (Instr.mstat false 0 68).wf = false ∧ (Instr.mstat false 0 127).wf = false ∧ (Instr.mstat false 0 128).wf = true ∧
    (Instr.sbind 8).wf = false ∧ (Instr.sfree 8).wf = false ∧ (Instr.wfwd 0).wf = false ∧ (Instr.wfwd 8).wf = false ∧
    (Instr.wst 0).wf = false ∧ (Instr.wst 8).wf = false ∧ (Instr.osub 64).wf = false ∧ (Instr.evsig 63).wf = false ∧
    (Instr.evsigB 16).wf = false := by decide

theorem test_wf_system_words :
    (Instr.mfsr 0 8).wf = false ∧ (Instr.mfsr 0 0x14).wf = false ∧ (Instr.mtsr 0 5).wf = false ∧ (Instr.mtsr 0 7).wf = false ∧
    (Instr.wpset 0 63).wf = false := by decide

/-- R28, R29: class 15, a value past the last assigned one, and a field marked zero. -/
theorem test_decode_rejects :
    decodeWord 0x78000000 = .error .reservedClass ∧ decodeWord 0x02700000 = .error .unassignedOpcode ∧
    decodeWord 0x01857A01 = .error .reservedField ∧ decodeWord 0x175C0001 = .error .reservedField := by
  and_intros <;> rfl

/-! ### Small states -/

/-- A package at work: core 0 runs a task of partition 1 at word 0 of its text. -/
def base : State :=
  { State.reset with
    clock := 100 * 16 + 4, power := .ready
    core := { state := .running, task := some {}, text := [0, 0, 0], gend := 1 } }

/-- The same with system core 768. -/
def sysBase : State :=
  { State.reset with clock := 100 * 16 + 4, power := .ready, core := { id := 768, state := .running, text := [0], gend := 1, sstat := 1 } }

def withX (s : State) (l : List (Nat × Word)) : State :=
  s.onCore fun c => { c with arch := { c.arch with x := l.foldl (fun v p => v.setIfInBounds p.1 p.2) c.arch.x } }

def withStg (s : State) (l : List (Nat × Word)) : State :=
  s.onCore fun c => { c with arch := { c.arch with stg := l.foldl (fun v p => v.setIfInBounds p.1 p.2) c.arch.stg } }

def withV (s : State) (l : List (Nat × VReg)) : State :=
  s.onCore fun c => { c with arch := { c.arch with v := l.foldl (fun v p => v.setIfInBounds p.1 p.2) c.arch.v } }

/-- What x-register d reads once the instruction's result has landed. -/
def xAfter (i : Instr) (s : State) (lat : Nat) (d : XReg) : Option Word :=
  match exec i s with
  | .next t => some ((t.landed (s.cycle + lat)).getX d)
  | _ => none

/-- What FLAGS reads then. -/
def flagsAfter (i : Instr) (s : State) (lat : Nat) : Option FlagSet :=
  match exec i s with
  | .next t => some (t.landed (s.cycle + lat)).flags
  | _ => none

/-- Element k of width w of v-register d then. -/
def elemAfter (i : Instr) (s : State) (lat : Nat) (d : VCode) (w k : Nat) : Option Nat :=
  match exec i s with
  | .next t => some (elem w ((t.landed (s.cycle + lat)).getV d).data k)
  | _ => none

/-- The cause of the fault that the instruction takes. -/
def causeOf (i : Instr) (s : State) : Option (BitVec 8) :=
  match exec i s with
  | .next t => t.core.raised.map (·.cause)
  | _ => none

/-! ### Values by hand from the rules -/

/-- R50: modulo 2^64, and the latency: nothing is read a cycle early. -/
theorem test_add_wraps :
    xAfter (.add 3 1 2 false false) (withX base [(1, 0xFFFFFFFFFFFFFFFF), (2, 2)]) 1 3 = some 1 ∧
    xAfter (.mul 3 1 2 false false) (withX base [(1, 0x8000000000000001), (2, 2), (3, 9)]) 2 3 = some 9 := by decide +kernel
theorem test_sra_keeps_the_sign :
    xAfter (.sra 3 1 2 false false) (withX base [(1, 0xFFFFFFFFFFFFFFF8), (2, 65)]) 1 3 = some 0xFFFFFFFFFFFFFFFC := by decide +kernel
theorem test_mulh_signed :
    xAfter (.mulh 3 1 2 false false) (withX base [(1, 0xFFFFFFFFFFFFFFFF), (2, 1)]) 3 3 = some 0xFFFFFFFFFFFFFFFF ∧
    xAfter (.mulhn 3 1 2 false false) (withX base [(1, 0xFFFFFFFFFFFFFFFF), (2, 2)]) 3 3 = some 1 := by decide +kernel
theorem test_rol_and_counts :
    xAfter (.rol 3 1 2 false false) (withX base [(1, 0x8000000000000001), (2, 1)]) 1 3 = some 3 ∧
    xAfter (.clz 3 1 false) (withX base [(1, 1)]) 1 3 = some 63 ∧ xAfter (.ctz 3 1 false) base 1 3 = some 64 ∧
    xAfter (.popc 3 1 false) (withX base [(1, 0xF0F)]) 1 3 = some 8 := by decide +kernel
theorem test_bit_fields :
    xAfter (.bext 3 1 2 false false) (withX base [(1, 0xABCD), (2, 0x704)]) 1 3 = some 0xBC ∧
    xAfter (.bins 3 1 2 false false) (withX base [(1, 0x12), (2, 0x704), (3, 0xFFFF)]) 1 3 = some 0xF12F ∧
    xAfter (.sext 3 1 2 false false) (withX base [(1, 0x80), (2, 7)]) 1 3 = some 0xFFFFFFFFFFFFFF80 := by decide +kernel
theorem test_x0_discards : xAfter (.addi 0 0 7) base 1 0 = some 0 := by decide +kernel
/-- R52: 1.5 + 2.5 = 4 in FP32; 2^23 as an integer. -/
theorem test_fadd :
    xAfter (.fadd 3 1 2 false false) (withX base [(1, 0x3FC00000), (2, 0x40200000)]) 3 3 = some 0x40800000 ∧
    xAfter (.fcvti 3 1 false) (withX base [(1, 0xC0200000)]) 3 3 = some 0xFFFFFFFFFFFFFFFE ∧
    flagsAfter (.fcvti 3 1 false) (withX base [(1, 0x7FC00000)]) 3 = some flagCN := by decide +kernel
theorem test_immediates :
    xAfter (.addi 3 1 0x3FF) (withX base [(1, 1)]) 1 3 = some 0 ∧ xAfter (.andi 3 1 0x3FF) (withX base [(1, 0xFFFF)]) 1 3 = some 0x3FF ∧
    xAfter (.lis 3 0x8000) base 1 3 = some 0xFFFFFFFFFFFF8000 ∧ xAfter (.lih 3 0x1234) (withX base [(3, 0xABCD)]) 1 3 = some 0xABCD1234 := by
  decide +kernel
/-- R94, R97: 1.0 + 2.0 = 3.0 in every FP32 position, and domain S with H is cause 0x05. -/
theorem test_vadd :
    elemAfter (.vadd 3 1 2 0) (withV base [(1, ⟨0x3F800000, 0, true⟩), (2, ⟨0x40000000, 0, true⟩)]) 3 3 32 0 = some 0x40400000 ∧
    causeOf (.vadd 3 1 2 0) (withV base [(1, ⟨0, 0, true⟩), (2, ⟨0, 8, true⟩)]) = some 0x05 := by decide +kernel
theorem test_vimm : elemAfter (.vimm 3 0xFFF) base 1 3 32 127 = some 0xBF800000 := by decide +kernel
theorem test_vext_and_vins :
    xAfter (.vext 4 1 2) (withX (withV base [(1, ⟨0x1234567800000000, 0, true⟩)]) [(2, 1)]) 2 4 = some 0x12345678 ∧
    elemAfter (.vins 1 2 3) (withX base [(2, 0x9ABCDEF0), (3, 2)]) 2 1 32 2 = some 0x9ABCDEF0 := by decide +kernel
theorem test_special_functions :
    elemAfter (.fexp2 3 1) (withV base [(1, ⟨0x40000000, 0, true⟩)]) 8 3 32 0 = some 0x40800000 := by decide +kernel
theorem test_row_out_of_window : causeOf (.vld 3 1 0) (withX base [(1, 8192 * 512)]) = some 0x0A := by decide +kernel
theorem test_trap_causes :
    causeOf (.trap 5) base = some 0x13 ∧ causeOf (.brk 5) base = some 0x12 ∧ causeOf .eret base = some 0x03 ∧
    causeOf (.chk 1 2) (withX base [(1, 1)]) = some 0x15 ∧ causeOf (.vpop 3 0) base = some 0x07 := by decide +kernel
/-- R339: a fault on a system core goes to SVEC with IE in PIE. -/
theorem test_system_trap :
    (match exec (.sysc 9) (sysBase.onCore fun c => { c with svec := 64 }) with
      | .next t => (t.core.arch.pc, t.core.scause, t.core.sinfo, t.core.sstat)
      | _ => (0, 0, 0, 0)) = (64, 0x13, 0x10009, 2) := by decide +kernel
theorem test_eret :
    (match exec .eret (sysBase.onCore fun c => { c with sepc := 8, sstat := 2 }) with
      | .next t => (t.core.taken, t.core.sstat)
      | _ => (none, 0)) = (some 8, 3) := by decide +kernel
/-- `addi x1, x0, 7` placed where the next step fetches, from reset (R53, R31). -/
theorem test_fetch_word :
    decodeTableWord 32 0x08010007 = some (.addi 1 0 7) ∧
    (match step (State.reset.withFetchWord 32 0x08010007) with
      | .next t => (t.landed (t.cycle + 1)).getX 1
      | _ => 0) = 7 := by
  refine ⟨rfl, by decide +kernel⟩

/-! ### The hypotheses of the statements are met -/

def withFmt (s : State) (w : Word) : State := s.onCore fun c => { c with arch := { c.arch with vfmt := w } }

/-- A zero divisor; quotients of 0, 1, 8, 9 and 64 significant bits. -/
theorem test_meets_DivideWords :
    let q (x y : Int) : Int := x.tdiv y
    let bits (z : Int) (n : Nat) : Prop := z.natAbs < 2 ^ n ∧ ∀ j, j < n → 2 ^ j ≤ z.natAbs
    let s := withX base [(1, 0x8000000000000000), (2, 0xFFFFFFFFFFFFFFFF), (3, 511)]
    s.getX 0 = 0 ∧ s.getX 2 ≠ 0 ∧ (s.getX 1).toInt.tdiv (s.getX 2).toInt = 2 ^ 63 ∧ bits (2 ^ 63) 64 ∧
    bits (q 1 2) 0 ∧ bits (q (-3) 2) 1 ∧ bits (q 255 (-1)) 8 ∧ bits (q (s.getX 3).toInt 1) 9 ∧
    (s.getX 1).toNat / (s.getX 2).toNat < 2 ^ 0 ∧ (s.getX 2).toNat / (s.getX 3).toNat < 2 ^ 56 ∧
    ∀ j, j < 56 → 2 ^ j ≤ (s.getX 2).toNat / (s.getX 3).toNat := by decide +kernel

/-- Conversions: a NaN, both infinities, the largest value below 2^63 and 2^63 itself. -/
theorem test_meets_ScalarFloatWords :
    FF.f32.read false 0x7FC00000 = .nan ∧ FF.f32.read false 0x7F800000 = .inf false ∧ FF.f32.read false 0xFF800000 = .inf true ∧
    (match FF.f32.read false 0x5EFFFFFF with | .fin _ m e => decide (0 ≤ e) && decide (m * 2 ^ e.toNat < 2 ^ 63) | _ => false) = true ∧
    (match FF.f32.read false 0x5F000000 with | .fin _ m e => decide (0 ≤ e) && decide (m * 2 ^ e.toNat = 2 ^ 63) | _ => false) = true ∧
    (match FF.f32.read false 0x3FC00000 with | .fin _ m e => decide (e < 0) && decide (m % 2 ^ (-e).toNat ≠ 0) | _ => false) = true := by
  decide +kernel

theorem test_meets_ControlRegisterWords : base.core.isSys = false ∧ sysBase.core.isSys = true := by decide +kernel

theorem test_meets_StagingAndSetWords :
    vfmtOk ((withX base [(1, 0x7F10)]).getX 1 ||| 10) = true ∧ mfmtOk ((withX base [(1, 0x600)]).getX 1 ||| 6) = true ∧
    base.core.isSys = false ∧ (4 : BitVec 3).toNat < 5 := by decide +kernel

/-- Branches taken and not taken, address bits 00, 10 and 11, and a loop exit just past the group, a count of 0, three and four entries. -/
theorem test_meets_ControlTransfers :
    let s := withX base [(1, 8), (2, 0xA), (3, 3), (4, 0xFFFFFFFFFFFFFFFF)]
    let loops (n : Nat) : State := s.onCore fun c => { c with arch := { c.arch with loops := List.replicate n ⟨1, 9, 2⟩ } }
    let exit_ (o : BitVec 17) : Int := s.core.gstart + s.core.wpos + o.toInt
    (s.getX 1 = s.getX 1 ∧ s.getX 1 ≠ s.getX 2 ∧ (s.getX 4).toInt < (s.getX 1).toInt ∧ (s.getX 4).toInt ≤ (s.getX 4).toInt ∧
      (s.getX 1).toNat < (s.getX 4).toNat ∧ (s.getX 4).toNat ≤ (s.getX 4).toNat ∧ s.getX 0 = 0 ∧ s.getX 1 ≠ 0) ∧
    (s.getX 1).toNat % 4 ≠ 3 ∧ (s.getX 2).toNat % 4 = 2 ∧ (s.getX 3).toNat % 4 = 3 ∧
    exit_ 1 ≤ s.core.gend ∧ (s.core.gend : Int) < exit_ 2 ∧ (s.core.gend : Int) < exit_ 0xFFFF ∧
    (loops 3).core.arch.loops.length < 4 ∧ 4 ≤ (loops 4).core.arch.loops.length := by decide +kernel

/-- Every lane word, plain and under a mask, in FP32 or, where FP32 has no such operation, INT32 and INT8. -/
theorem test_meets_LaneWordResults :
    ∀ m ∈ [(0 : BitVec 2), 1, 3], ∀ p ∈ laneWords 55 1 2 m, ∃ s ∈ [base, withFmt base 5, withFmt base 9],
      let o := s.read3 1 p.2.2 p.2.1.two
      s.core.isSys = false ∧ p.1.wf = true ∧ laneOk s.ef p.2.1 = true ∧
      laneTag p.2.1 o.a.tag o.b.tag (s.getV 55).tag = some tagS ∧
      domainBad s.ef (m != 0) (opList 1 p.2.2 55 o p.2.1.two p.2.1.readsD (s.getV 55)) (s.getV 55).tag = false ∧
      o.a.err = none ∧ o.b.err = none := by decide +kernel

/-- vdot4 in an 8-bit format, vsel, vcvt to a wider and a narrower format, the compares. -/
theorem test_meets_MoreLaneResults :
    let s := withFmt base 9
    let o := s.read3 1 2 true
    s.core.isSys = false ∧ o.a.err = none ∧ o.b.err = none ∧ (Instr.vdot4 55 1 2 1).wf = true ∧ s.ef.width = 8 ∧
    laneTag .fma o.a.tag o.b.tag (s.getV 55).tag = some tagS ∧
    domainBad s.ef true (opList 1 2 55 o true true (s.getV 55)) (s.getV 55).tag = false ∧
    combine .nonlinear o.a.tag o.b.tag = some tagS ∧ (Instr.vsel 55 1 2 1).wf = true ∧
    (∀ b ∈ [(0 : XReg), 10, 0x32], (efOf (b.toNat % 16)).isSome = true ∧ (base.readSrc 1).1.err = none ∧
      (Instr.vcvt 55 1 b 1).wf = true ∧ unaryTag .nonlinear (base.readSrc 1).1.tag = some tagS ∧
      domainBad base.ef true [(1, (base.readSrc 1).1.tag)] (base.getV 55).tag = false) ∧
    ∀ i ∈ [Instr.vcmpeq 7 1 2 0, .vcmplt 7 1 2 0, .vcmple 7 1 2 0], i.wf = true := by decide +kernel

theorem test_meets_ScalarOperandWords :
    let v := (base.readSrc 1).1
    base.core.isSys = false ∧ v.err = none ∧ hFormatBad base.ef v.tag = false ∧ hFormatBad base.ef (base.getV 55).tag = false ∧
    (∀ i ∈ [Instr.vbcast 55 1, .vimm 55 1, .vidx 55 1, .vaddx 55 1 2, .vmulx 55 1 2, .vfmax 55 1 2], i.wf = true) ∧
    (∀ op ∈ [LaneOp.add, .mul], (combine (laneKind op) v.tag tagC).isSome = true) ∧
    (laneTag .fma v.tag tagC (base.getV 55).tag).isSome = true := by decide +kernel

theorem test_meets_MovementWords :
    let v := (base.readSrc 1).1
    base.core.isSys = false ∧ v.err = none ∧ hFormatBad base.ef v.tag = false ∧ Tag.isH v.tag = false ∧
    ((base.readSrc 1).2.readSrc 2).1.err = none ∧ Tag.isH ((base.readSrc 1).2.readSrc 2).1.tag = false ∧
    (Instr.vperm 55 1 2).wf = true ∧ (Instr.vrot 55 1 2).wf = true ∧ (Instr.xcl 55 1 2).wf = true := by decide +kernel

theorem test_meets_ReductionWords :
    let v := (base.readSrc 1).1
    base.core.isSys = false ∧ v.err = none ∧ Tag.isX v.tag = false ∧ Tag.isH v.tag = false ∧ hFormatBad base.ef v.tag = false ∧
    (Instr.vred 55 1).wf = true ∧ (Instr.vredmax 55 1).wf = true ∧ ∀ b ∈ [(0 : XReg), 1, 2], (Instr.xred 55 1 b).wf = true := by
  decide +kernel

theorem test_meets_ElementTagMaskWords :
    base.core.isSys = false ∧ (base.readSrc 1).1.err = none ∧ hFormatBad base.ef (base.readSrc 1).1.tag = false ∧
    Tag.isH (base.getV 55).tag = false ∧ Tag.isX (base.getV 55).tag = false ∧
    ∀ i ∈ [Instr.vext 1 1 2, .vtagx 1 1, .vtag 55 1 15, .vins 55 1 2, .mand 7 0 7, .mor 7 0 7, .mnot 7 7, .mpop 1 7], i.wf = true := by
  decide +kernel

/-- A full queue with a held row, an empty queue; a class-4 word after a vector word and without one. -/
theorem test_meets_PopsAndCascades :
    let s := base.onCore fun c => { c with arch := { c.arch with rq := c.arch.rq.set 3 (List.replicate 64 {}), hold := c.arch.hold.set 3 (some {}) } }
    let t := match exec (.vadd 3 1 2 1) base with | .next t => t | _ => base
    let v := t.core.vout.getD { d := 0, t := 0, tag := 0, mask := 0, merge := false, old := {}, lat := 0, flags := 0, count := 0 }
    let t0 := t.onCore fun k => { k with pend := k.pend.take (k.pend.length - v.ops), vout := none }
    s.core.isSys = false ∧ (Instr.vpop 55 3).wf = true ∧ s.core.arch.rq.toList.getD 3 [] ≠ [] ∧
    s.core.arch.hold.toList.getD 3 none ≠ none ∧ base.core.arch.rq.toList.getD 0 [] = [] ∧
    (Instr.cascadeExtension 1 12 2 0 false false).wf = true ∧ base.core.vout = none ∧ t.core.isSys = false ∧ t.core.vout.isSome = true ∧
    (match t0.stage v 1 2 false with
      | .ok x => (match x.2.stage x.1 12 0 false with | .ok _ => true | .error _ => false)
      | .error _ => false) = true := by decide +kernel

theorem test_meets_SpecialFunctionResults :
    sfuFmt base.ef = some .f32 ∧ sfuFmt (withFmt base 1).ef = some .f16 ∧ sfuFmt (withFmt base 2).ef = some .bf16 ∧ base.core.isSys = false ∧
    (base.readSrc 1).1.err = none ∧ Tag.isX (base.readSrc 1).1.tag = false ∧ Tag.isH (base.readSrc 1).1.tag = false ∧
    (∀ i ∈ [Instr.fexp2 55 1, .flog2 55 1, .frcp 55 1, .frsqrt 55 1, .fsqrt 55 1, .fsin 55 1, .fcos 55 1, .ftanh 55 1, .fsigm 55 1,
      .fgelu 55 1, .fsilu 55 1, .fdiv 55 1 2], i.wf = true) ∧
    (base.read3 1 2 true).a.err = none ∧ (base.read3 1 2 true).b.err = none ∧
    combine .nonlinear (base.read3 1 2 true).a.tag (base.read3 1 2 true).b.tag = some tagS := by decide +kernel

/-- The first and the last row of the window and the first past it, an address between rows; spill memory, carve-out and past both. -/
theorem test_meets_RowAndSpillWords :
    let s := (withX base [(1, 8191 * 512), (2, 8191 * 512 + 1), (3, 8192 * 512), (4, 4097)]).onCore fun c =>
      { c with task := some { carve := 2 }, arch := { c.arch with rq := c.arch.rq.set 3 [{}] } }
    let row (a : XReg) (o : BitVec 10) : Nat := (BitVec.ofInt 64 ((s.getX a).toInt + o.toInt * 512)).toNat / 512
    s.core.isSys = false ∧ row 1 0 < s.core.tk.rows ∧ row 0 0 < s.core.tk.rows ∧ s.core.tk.rows ≤ row 3 0 ∧ s.core.tk.rows ≤ row 0 0x3FF ∧
    (s.getX 1).toNat % 512 = 0 ∧ (s.getX 4).toNat % 512 ≠ 0 ∧ row 4 0 + 1 < s.core.tk.rows ∧
    (s.popQueue 3).isSome = true ∧ (s.getX 0).toNat / 512 + 1023 < s.core.tk.rows ∧ (s.getX 1).toNat / 512 + 0 < s.core.tk.rows ∧
    s.core.tk.rows ≤ (s.getX 1).toNat / 512 + 1 ∧
    (∀ i ∈ [Instr.vld 55 1 0, .rmg 55 1 0, .vst 55 1 0, .rtagw 63 1 0, .qst 3 1 0, .vfill 55 1 0, .vsld 55 0, .vsst 55 0], i.wf = true) ∧
    (4095 < 4096 ∧ 4096 < 4096 + 64 * s.core.tk.carve ∧ 64 + s.core.tk.carve ≤ 66 ∧ 65 < 64 + s.core.tk.carve) ∧
    s.core.arch.ovfptr = 0 := by decide +kernel

/-- Row r of the window holds a row. -/
def withRows (s : State) (l : List (Nat × Row)) : State := s.onCore fun c => { c with rows := l }

/-- The largest tile (128 rows, 7 levels) and the smallest at the end of the window, a valid tile of each size, and a bias row. -/
theorem test_meets_WaveletStarts :
    let full := withStg base [(50, 128), (48, (8192 - 128) * 512), (49, 0)]
    let last := withStg base [(50, 2), (48, 0), (49, (8192 - 3) * 512)]
    let tile : Row := ⟨header 2 1 1 2 1, tagX⟩
    let s := withStg (withRows base [(8190, tile), (5, tile), (7, { tag := tagC })]) [(48, 8190 * 512), (49, 8190 * 512)]
    let b := withStg s [(48, 7 * 512), (49, 5 * 512)]
    base.core.isSys = false ∧ base.ef.isFp = true ∧ 16 ≤ base.ef.width ∧
    (Instr.wfwd 7).wf = true ∧ (Instr.wst 7).wf = true ∧ (Instr.wfwd 1).wf = true ∧ tileOk 128 7 = true ∧ tileOk 2 1 = true ∧
    (full.core.arch.stg.toList.getD 48 0).toNat / 512 + 128 ≤ full.core.tk.rows ∧
    (last.core.arch.stg.toList.getD 49 0).toNat / 512 + 3 ≤ last.core.tk.rows ∧
    8190 < s.core.tk.rows ∧ hdrValid (windowRow s 8190) = true ∧ hdrNpos (windowRow s 8190).data = 2 ∧
    (let h := (windowRow s 8190).data; 8190 + 1 + hdrCnt h ≤ s.core.tk.rows ∧ 8190 + hdrNpos h ≤ s.core.tk.rows ∧
      8190 + (hdrCnt h + 1) ≤ s.core.tk.rows ∧ 5 + (hdrNpos h + 1) ≤ s.core.tk.rows) ∧
    hdrValid (windowRow b 5) = true ∧ 7 < b.core.tk.rows ∧ (windowRow b 7).tag = tagC ∧
    5 + 1 + hdrNpos (windowRow b 5).data / 2 ^ hdrLev (windowRow b 5).data ≤ b.core.tk.rows := by decide +kernel

theorem test_meets_WaveletResults :
    let s := withX base [(1, 8191 * 512), (2, 8192 * 512)]
    let w : WCmd := { kind := .wfwd, s := 0, T := 8, src := 0, dst := 4, n := 2, L := 1, k := 2, pres := 0, vfmt := 0,
                      wth := Vector.replicate 8 0, got := [(0, {}), (1, {})] }
    let t := base.onCore fun c => { c with wave := some w }
    s.core.isSys = false ∧ (Instr.wcnt 1 3).wf = true ∧ (s.getX 1).toNat / 512 < s.core.tk.rows ∧
    s.core.tk.rows ≤ (s.getX 2).toNat / 512 ∧ (t.coreOf 0).wave = some w ∧ (t.coreOf 0).id = 0 ∧ (w.result.1.map (·.1)).Nodup := by
  decide +kernel

/-- A span that ends at the bank's last row; images of 64 and 68 rows that take the last granules. -/
theorem test_meets_MatrixCommands :
    let s := withStg base [(39, 0x7F80), (38, 8128 * 512)]
    let full (n : Nat) : State := s.onCore fun c =>
      { c with arch := { c.arch with mfmt := 0x444, slots := c.arch.slots.set 0 { state := .ready, gran := n } } }
    s.core.isSys = false ∧ s.core.merr = none ∧ (s.core.arch.stg.toList.getD 39 0).toNat < 2 ^ 15 ∧ 128 + 128 ≤ 256 ∧
    mfBf s.core.arch.mfmt ≤ 6 ∧ 64 ≤ s.core.granFree + (s.core.slot 63).gran ∧ 8128 + 64 ≤ s.core.tk.rows ∧
    (Instr.mwld 63).wf = true ∧ (Instr.mwstr 63).wf = true ∧
    mfBf (full 1980).core.arch.mfmt = 4 ∧ 68 = (full 1980).core.granFree + ((full 1980).core.slot 63).gran := by decide +kernel

/-- One pass of one row and sixteen of 128, on a ready slot and a loading one, plain and under .c. -/
theorem test_meets_MatrixMultiply :
    let tile : Row := ⟨header 2 1 1 2 1, tagX⟩
    let slots (n : Nat) (s : State) : State := s.onCore fun c => { c with arch := { c.arch with
      slots := (List.range n).foldl (fun v j => v.setIfInBounds (j + 48) ({ state := if j = 0 then .loading else .ready } : WSlot)) c.arch.slots } }
    let wide := slots 16 (withStg base [(33, 0x0000800000800F7F), (32, 0)])
    let coef := slots 1 (withStg (withRows base [(8190, tile)]) [(33, 0xFF00 * 2 ^ 32), (32, 8190 * 512)])
    let far := slots 1 (withStg base [(33, 0x003F007F), (37, 3), (32, 0)])
    (∀ s ∈ [wide, coef, far], s.core.isSys = false ∧ s.core.merr = none ∧ mxReserved (s.core.arch.stg.toList.getD 33 0) = false ∧
      (pairOf s.core.arch.mfmt).isSome = true ∧ mfAf s.core.arch.mfmt ≤ 1 ∧
      ((s.core.slot 48).state = .loading) ∧ imageRows (mfBf s.core.arch.mfmt) ≤ s.core.granFree + (s.core.slot 48).gran) ∧
    (∀ j, j < 15 → (wide.core.slot (49 + j)).state = .ready ∧ (wide.core.slot (49 + j)).bfmt.toNat = mfBf wide.core.arch.mfmt) ∧
    (Instr.mmul 3 3 true true true 48).wf = true ∧ (Instr.mtile 0 0 false false false 48).wf = true ∧
    (let x := (wide.core.arch.stg.toList.getD 33 0).toNat
     x / 2 ^ 8 % 16 + 1 = 16 ∧ x % 128 + 1 = 128 ∧ x / 2 ^ 40 % 256 + 128 ≤ 256 ∧ ∀ j, j < 16 → 0 + j * (x / 2 ^ 16 % 2 ^ 16) + 128 ≤ wide.core.tk.rows) ∧
    (let x := (coef.core.arch.stg.toList.getD 33 0).toNat
     x / 2 ^ 8 % 16 = 0 ∧ 8190 < coef.core.tk.rows ∧ hdrValid (windowRow coef 8190) = true ∧
     x / 2 ^ 40 % 256 + hdrCnt (windowRow coef 8190).data ≤ 256 ∧ 8191 + hdrCnt (windowRow coef 8190).data ≤ coef.core.tk.rows) ∧
    (let x := (far.core.arch.stg.toList.getD 33 0).toNat
     x / 2 ^ 8 % 16 = 0 ∧ (far.core.arch.stg.toList.getD 37 0).toNat < 2 ^ 16 ∧
     ∀ j, j ≤ 3 → 0 + j * (x / 2 ^ 16 % 2 ^ 16) + 128 ≤ far.core.tk.rows) := by decide +kernel

def mulCmd : MCmd :=
  { seq := 7, kind := .mul, start := 80, mrows := 1, bank := 0, accRow := 0, push := some 2, sigma := 0, left := 1 }

theorem test_meets_MatrixStatusAndEvents :
    let s := base.onCore fun c => { c with mcmds := [mulCmd] }
    let h := base.onCore fun c => { c with arch := { c.arch with hold := c.arch.hold.set 2 (some {}) } }
    let w : WLoad := { seq := 1, slot := 63, issue := 0, stream := false, rows := 64, mfmt := 0 }
    let l := base.onCore fun c => { c with wloads := [w] }
    let q : MTile := { seq := 7, next := 3, total := 4, sigma := 100, slot := 5, mfmt := 0, hnd := 0, n0 := 0, k0 := 0 }
    let m := base.onCore fun c => { c with mtile := some q, arch := { c.arch with slots := c.arch.slots.set 6 { state := .ready } } }
    (∀ n ∈ [0, 63, 64, 67, 128], (base.core.mstatValue n).isSome = true) ∧ base.core.isSys = false ∧ base.core.merr = none ∧
    (Instr.mstat false 1 128).wf = true ∧ (Instr.mstat true 1 67).wf = true ∧ base.core.mcmds = [] ∧ base.core.wloads = [] ∧
    s.core.mcmds ≠ [] ∧ (s.coreOf 0).id = 0 ∧ s.core.mcmds.find? (fun m => m.seq = 7) = some mulCmd ∧ mulCmd.kind = .mul ∧
    mulCmd.push = some 2 ∧ s.core.held = false ∧ (s.core.arch.rq.toList.getD 2 []).length < 64 ∧
    h.core.arch.hold.toList.getD 2 none = some {} ∧ (h.core.arch.rq.toList.getD 2 []).length < 64 ∧
    l.core.wloads.find? (fun w => w.slot = 63) = some w ∧ w.stream = false ∧ l.core.mtile = none ∧
    m.core.mtile = some q ∧ q.sigma ≤ m.cycle ∧ m.core.state = .running ∧ (m.core.slot (q.slot + q.next % 2)).state = .ready ∧
    q.next + 1 = q.total := by decide +kernel

/-- An object of partition 1 in slot 5: 16,384 FP32 elements at 0x200000, its tables at 0x100000 and 0x110000; HOME as given. -/
def objDesc (fmt rank : Nat) : Desc :=
  (((((((((0 : Desc).set 0 2 1).set 2 6 1).set 28 8 0xFF).set 36 4 fmt).set 40 3 rank).set 51 3 7).set 64 32 16384).set 384 52
    (2 ^ 46 + 0x100000)).set 448 48 65536

def handle5 : Word := 0x0000000500000FF0

/-- Partition 1's object of slot 5 on one page, written under its key. -/
def objBase (fmt home : Nat) : State :=
  withX { base with
    descs := [(5, objDesc fmt 1)], keys := [(1, .live)], phys := [(0, { en := true })]
    parts := [{ k := 1, root := 1 }]
    mem := [(0x100000, 0x01), (0x100002, 0x11), (0x110000, BitVec.ofNat 8 (0x87 + 8 * home)), (0x110002, 0x20)]
    lineKey := [(0x4000, 2), (0x4400, 2)] ++ (List.range 64).map (fun i => (0x8000 + i, 2)) ++ [(0x83FF, 2)] }
    [(1, handle5), (2, 0), (3, 16383), (4, 16384)]

def isOk {ε α : Type} (e : Except ε α) : Bool := match e with | .ok _ => true | .error _ => false

/-- The first element of an object on pages that no cache may hold, read, stored to and taken by an atomic. -/
theorem test_meets_HandleLoads_Stores_Atomics :
    let s := objBase 0 1
    let x : Sector := ⟨2 ^ 46 + 0x200000, 1, false⟩
    let t (o : Op8) : Option Target := match s.resolve8 (s.getX 1) 2 o with | .ok t => some t | .error _ => none
    s.core.isSys = false ∧ hHome (s.getX 1) = s.pkg ∧ Tag.isH (s.getV 0).tag = false ∧ Tag.isX (s.getV 0).tag = false ∧
    ((t { need := 1, run := true }).map (·.span.length)) = some 8 ∧
    (∀ o ∈ [({ need := 1 } : Op8), { need := 2, write := true }, { need := 4, write := true, atomic := true },
        { need := 4, write := true, atomic := true, fpOnly := true }], (t o).map (·.span) = some [.ok x true]) ∧
    isOk (s.resolve8 (s.getX 1) 2 { need := 2, run := true, write := true }) = true ∧
    isOk (s.resolve8 (s.getX 1) 2 { need := 4, run := true, write := true, atomic := true, vec := true }) = true ∧
    s.sectorOk x = true ∧ s.refusedAt s.core.id x = false ∧ paSpace x.pa ≠ 2 ∧ x.comp = false ∧ x.home = 1 ∧
    s.migrated x.line = (x.line, false) ∧ s.sharers (hKey (s.getX 1)) 0 = [] ∧
    (∀ p ∈ s.parts, p.undo.st ≠ .opened ∧ p.undo.st ≠ .rolling) ∧ (s.part? (paKey x.pa)).isSome = true ∧
    (∀ i ∈ [Instr.hld 0 1 2 false, .hlds 5 1 2 false, .hst 0 1 2 false, .hsts 5 1 2 false, .hacas 5 1 2 true false,
      .hvadd 0 1 2 false, .hvmax 0 1 2 false], i.wf = true) ∧
    ∀ p ∈ atomicWords, (p.1 5 1 2 false false).wf = true := by decide +kernel

/-- The last element; the sector in the L1, and a tag that a store may not carry. -/
theorem test_meets_HandleLoads_L1 :
    let x : Sector := ⟨2 ^ 46 + 0x20FFC0, 0, false⟩
    let s := (withV (objBase 0 0) [(9, ⟨0, 9, true⟩)]).onCore fun c => { c with l1 := [⟨x.line, 0, 0⟩] }
    let s := { s with phys := [(0, { en := true }), (31, { en := true })] }
    ((match s.resolve8 (s.getX 1) 3 { need := 1 } with | .ok t => some t.span | .error _ => none) = some [.ok x true]) ∧
    s.sectorOk x = true ∧ s.refusedAt s.core.id x = false ∧ paSpace x.pa ≠ 2 ∧ x.home ≠ 1 ∧ s.migrated x.line = (x.line, false) ∧
    s.l1Hit s.core.id x.line = some 0 ∧ (Tag.isH (s.getV 9).tag || Tag.isX (s.getV 9).tag) = true := by decide +kernel

/-- Each of the cases of R189 in turn: a wrong generation, no grant, rights past the object's, a right that the handle lacks, a
coefficient layout, an atomic on 4-bit elements, an index of 16,384. hinfo and hpf on a live object; an atomic that arrives. -/
theorem test_meets_HandleFaultsAndQueries :
    let s := objBase 0 1
    let d := objDesc 0 1
    let live (s : State) (h : Word) : Prop := hLow h = 0 ∧ s.members.contains s.pkg = true ∧ (s.desc h).state ≠ 0 ∧ (s.desc h).state ≠ 3 ∧
      (s.desc h).gen = hGen h
    let other : State := s.onCore fun c => { c with task := some { part := 2 } }
    let narrow : State := { s with descs := [(5, d.set 28 8 0x0F)] }
    let coef : State := { s with descs := [(5, d.set 43 2 2)] }
    (∀ p ∈ handleWords 5 0 1 2 false false, p.1.wf = true) ∧
    live s handle5 ∧ ¬ live s (handle5 + 0x1000) ∧ live other handle5 ∧ other.core.tk.part ≠ (other.desc handle5).part ∧
    other.grantOf (hKey handle5) 2 = none ∧ live narrow handle5 ∧ (hRights handle5).testBit 7 = true ∧ (narrow.desc handle5).rights.testBit 7 = false ∧
    live s 0x0000000500000010 ∧ (hRights 0x0000000500000010).testBit 1 = false ∧ (coef.desc handle5).layout = 2 ∧
    fmtWidth 13 = 4 ∧ (s.desc handle5).dims.getD 0 0 ≤ (s.tuple 4 1).getD 0 0 ∧ (2 : XReg).toNat + 1 ≤ 64 ∧
    s.violation (s.core.requester s.pkg .core) handle5 none = none ∧ (Instr.hinfo 1 1 2 false).wf = true ∧
    (Instr.hpf 1 2 false).wf = true ∧ isOk (s.resolve8 handle5 4 { need := 1, run := true }) = false ∧
    s.sectorOk ⟨(2 ^ 46 + 0x200004) / 64 * 64, 0, false⟩ = true ∧ s.refusedAt 0 ⟨2 ^ 46 + 0x200000, 0, false⟩ = false := by decide +kernel

/-- A coefficient object of partition 1 in slot 6: two tiles of 128 positions and 128 elements, the second past EXTENT. -/
def coefDesc : Desc := (((((objDesc 0 2).set 43 2 2).set 45 3 0).set 48 3 1).set 64 32 256).set 96 32 128

def handle6 : Word := 0x0000000600000FF0

def chanBase : State :=
  let s := objBase 0 1
  withStg { s with descs := [(5, objDesc 0 1), (6, coefDesc)], phys := (List.range 32).map fun n => (n, { en := true }) }
    [(0, handle5), (7, 8191 * 512), (10, 1), (16, handle5), (23, 8191 * 512), (27, 1)]

/-- One run of one element to the window's last row; a coefficient tile, past EXTENT, to its last 129; a handle that names nothing. -/
theorem test_meets_ChannelWords :
    let s := withStg chanBase [(23, 8191 * 512), (24, 0)]
    let m := withStg s [(23, handle5)]
    let c := withStg s [(0, handle6), (1, 128), (7, 8063 * 512), (16, handle6), (17, 128), (23, 8063 * 512)]
    let bad := withStg s [(0, handle5 + 0x1000)]
    let H := handle5
    let fe := s.core.staged 0
    let cp := s.core.staged 1
    let fp := patternAt fe 8 (baseOf fe (s.desc H))
    let cpp := patternAt cp 9 (baseOf cp (s.desc H))
    s.core.isSys = false ∧ feReserved fe = false ∧ cpReserved cp = false ∧ (s.known H).isSome = true ∧ fp.fmtOk (s.desc H) = true ∧
    cpp.fmtOk (s.desc H) = true ∧ 8191 + fp.runs ≤ s.core.tk.rows ∧ 8191 + cpp.runs ≤ s.core.tk.rows ∧ hHome H = s.pkg ∧
    s.resolvePat s.core .fetch [walkReq s s.core H false (originOf fe (s.desc H).rank) fp] = none ∧
    s.resolvePat s.core .copy [walkReq s s.core H true (originOf cp (s.desc H).rank) cpp] = none ∧
    (bad.resolvePat bad.core .fetch [walkReq bad bad.core (H + 0x1000) false [] fp]).isSome = true ∧
    8063 + ((c.desc handle6).npos + 1) ≤ c.core.tk.rows ∧
    c.resolvePat c.core .fetch [tileReq c c.core handle6 false (originOf (c.core.staged 0) 2)] = none ∧
    c.resolvePat c.core .copy [tileReq c c.core handle6 true (originOf (c.core.staged 1) 2)] = none ∧
    (m.core.staged 1)[0] = H ∧ (m.core.staged 1)[7] = H ∧ fmtWidth 0 ≠ 4 ∧
    m.resolvePat m.core .copy [walkReq m m.core H true (originOf (m.core.staged 1) 1) cpp,
      walkReq m m.core H false (coordsOf (m.desc H).dims (vget (m.core.staged 1) 8 0).toNat) (patternAt (m.core.staged 1) 9 0)] = none ∧
    (∀ i ∈ [Instr.fget 15 false, .fget 15 true, .fpref 15, .fcancel 15, .cput 15 false, .cput 15 true, .cmov 15, .cdrain 15 true true 1,
      .cdrain 15 false false 1, .cstat 15 true 1], i.wf = true) ∧
    (s.core.chan true 15).err = false ∧ ((s.core.modChan true 15 fun q => { q with err := true }).chan true 15).err = true := by decide +kernel

def boundStream (s : State) : VStream := { bound := true, stg := s.core.staged 0, total := 1 }

/-- A bound stream with a vector to come, a full one, a finished one, a free one, and one whose next run is past EXTENT. -/
theorem test_meets_StreamWords :
    let s := chanBase
    let r := s.core.staged 0
    let p := patternAt r 8 (baseOf r (s.desc handle5))
    let st := boundStream s
    let out : VStream := { st with stg := st.stg.set 1 16384 }
    let rb := (p.run (s.desc handle5) 0).getD { data := [], scale := [], sup := [] }
    s.core.isSys = false ∧ s.l2Holds 0 = false ∧ (Instr.sbind 7).wf = true ∧ (Instr.sfree 7).wf = true ∧ feReserved r = false ∧ (vget r 13 0).toNat < 2 ^ 9 ∧
    chainOk (vget r 13 0) p.n0 = true ∧ p.fmtOk (s.desc handle5) = true ∧ (s.desc handle5).fmt = fieldN (vget r 13 0) 0 4 ∧
    s.resolvePat s.core .fetch [walkReq s s.core handle5 false (originOf r 1) p] = none ∧
    st.buf.length < 4 ∧ st.next < st.total ∧ st.err = none ∧ (p.run (s.desc handle5) 0).isSome = true ∧
    (∀ n ∈ sectorsOf rb.all, s.locate handle5 (s.desc handle5) none (64 * n) ≠ .missing) ∧
    isOk (s.readSectors 0 handle5 (s.desc handle5) none (sectorsOf rb.all)).1 = true ∧
    (patternAt out.stg 8 (baseOf out.stg (s.desc handle5))).run (s.desc handle5) 0 = none := by decide +kernel

def aCmd (s : State) (k : ChanKind) (e : Nat) (started : Bool) : ChanCmd :=
  { kind := k, seq := 3, stg := s.core.staged e, started, total := 1 }

theorem test_meets_ChannelEvents :
    let s := withStg chanBase [(24, 0)]
    let with_ (copy : Bool) (q : ChanCmd) : Core := s.core.modChan copy 15 fun x => { x with queue := [q] }
    let f := aCmd s .fget 0
    let c := aCmd s .cput 1
    let d := s.desc handle5
    let rb := ((patternAt (f true).stg 8 (baseOf (f true).stg d)).run d 0).getD { data := [], scale := [], sup := [] }
    let wb := ((patternAt (c true).stg 9 (baseOf (c true).stg d)).run d 0).getD { data := [], scale := [], sup := [] }
    s.l2Holds 0 = false ∧ ((with_ false (f false)).chan false 15).queue.find? (fun q => !q.started) = some (f false) ∧ (f false).again = false ∧
    ((with_ true (c false)).chan true 15).queue = [c false] ∧
    ((with_ false (f true)).chan false 15).queue.find? (fun q => q.seq = 3) = some (f true) ∧ (f true).runs.contains 0 = false ∧
    ((patternAt (f true).stg 8 (baseOf (f true).stg d)).run d 0).isSome = true ∧
    (∀ n ∈ sectorsOf rb.all, s.locate handle5 d none (64 * n) ≠ .missing) ∧
    isOk (s.readSectors 0 handle5 d none (sectorsOf rb.all)).1 = true ∧ s.core.fills = [] ∧
    ({ f true with runs := [0] } : ChanCmd).runs.length = (f true).total ∧
    ((c true).fail 0x0A).err = some 0x0A ∧ (c true).err = none ∧ (c true).waits s s.core = false ∧
    (patternAt (c true).stg 9 (baseOf (c true).stg d)).runs = 1 ∧ 0 < wb.data.length ∧ s.core.pinOf handle5 = none ∧ d.watch = false ∧
    Tag.isH (s.core.row 8191).tag = false ∧ Tag.isX (s.core.row 8191).tag = false := by decide +kernel

/-- A row to core 767 of this package, the last rows of the window and one too many, a core that is none, a package that is no member. -/
theorem test_meets_LandingSends :
    let s (x t : Word) : State := withStg base [(16 + 14, t), (16 + 15, x), (23, 8191 * 512)]
    let t : Word := 767
    let q : ChanCmd := { kind := .clz, seq := 3, stg := (s 0 t).core.staged 1, total := 1 }
    let run (q : ChanCmd) : Core := base.core.modChan true 15 fun x => { x with queue := [q] }
    base.core.isSys = false ∧ (Instr.clzCopy 15).wf = true ∧ t.toNat < 2 ^ 44 ∧ t.toNat / 2 ^ 19 % 2 ^ 10 = 0 ∧
    (0 : Word).toNat < 2 ^ 29 ∧ 8191 + 1 ≤ base.core.tk.rows ∧ base.core.tk.rows < 8191 + ((1 : Word).toNat % 2 ^ 13 + 1) ∧
    base.members.contains (t.toNat / 2 ^ 10 % 512) = true ∧ t.toNat % 1024 < 768 ∧ 768 ≤ (768 : Word).toNat % 1024 ∧
    base.members.contains ((0x400 : Word).toNat / 2 ^ 10 % 512) = false ∧
    ((run q).chan true 15).queue.find? (fun q => !q.started) = some q ∧ t.toNat / 2 ^ 10 % 512 = base.pkg ∧
    ((run { q with started := true, runs := [0] }).chan true 15).queue.length = 1 ∧
    ((run { q with started := true }).chan true 15).queue.find? (fun q => q.kind == .clz && q.started) = some { q with started := true } ∧
    0 + 65536 ≤ ({ base with clock := 65536 * 16 } : State).cycle ∧ q.runs.length < q.total := by decide +kernel

def zoneBase (z : ZState) (b : BState) : State :=
  withStg (base.onCore fun c => { c with
    task := some { z := 16 }
    pairs := c.pairs.set 15 { zone := z, bar := b, gen := 9, base := 100, nrows := 2, expect := 1, deadline := 100,
                              slots := (Vector.replicate 8 {}).set 7 { state := .reserved, pkg := 0, core := 5, slen := 1, miss := 1 } } })
    [(68, 8191 * 512), (69, 0x10000), (70, 1), (66, 5), (71, 15), (72, 15 * 2 ^ 29 + 7 * 2 ^ 33 + 9 * 2 ^ 36)]

/-- Pair 15 of 16 held, with one row at the end of the window, closed and open; a pair not held; targets that are and are not. -/
theorem test_meets_LandingWords :
    let s := zoneBase .closed .idle
    let o := zoneBase .opened .armed
    let sy (i : Nat) : Nat := (s.core.arch.stg.toList.getD (64 + i) 0).toNat
    s.core.isSys = false ∧ sy 5 < 2 ^ 32 ∧ sy 5 / 2 ^ 13 % 8 = 0 ∧ sy 5 / 2 ^ 16 ≠ 0 ∧ sy 6 < 2 ^ 32 ∧ sy 6 ≠ 0 ∧
    (15 : BitVec 4).toNat < s.core.tk.z ∧ ¬ (0 : BitVec 4).toNat < base.core.tk.z ∧ sy 4 / 512 + (sy 5 % 2 ^ 13 + 1) ≤ s.core.tk.rows ∧
    (vget s.core.pairs 15 {}).zone = .closed ∧ (vget o.core.pairs 15 {}).zone ≠ .closed ∧ (s.getX 0).toNat = 0 ∧
    (∀ i ∈ [Instr.lzopen 15, .lzclose 15, .lzclr 15, .barinit 15, .lzstat 15 1 0, .barstat 15 1, .lzres 1], i.wf = true) ∧
    sy 2 < 2 ^ 19 ∧ sy 7 < 2 ^ 26 ∧ sy 7 / 16 % 2 ^ 12 = 0 ∧ s.members.contains (sy 2 / 2 ^ 10) = true ∧ sy 2 % 2 ^ 10 < 768 ∧
    sy 2 / 2 ^ 10 = s.pkg ∧ ({ s with pkg := 1, members := [0, 1] } : State).members.contains 0 = true ∧
    s.members.contains (0x400 / 2 ^ 10) = false ∧ (vget s.core.pairs 15 {}).bar ≠ .armed ∧ (vget o.core.pairs 15 {}).bar = .armed ∧
    (vget (zoneBase .closed .armed).core.pairs 15 {}).zone = .closed := by decide +kernel

/-- A row that completes the zone, one already seen, stale rows, a faulted zone; requests with room, without room, and refused. -/
theorem test_meets_LandingArrivals :
    let s := zoneBase .opened .armed
    let c := s.coreOf 0
    let p := vget c.pairs 15 {}
    let slot := vget p.slots 7 {}
    let from5 : State := { s with parked := [{ id := 5, task := some {} }] }
    let full : Pair := { p with slots := Vector.replicate 8 { state := .released } }
    c.task.isSome = true ∧ 15 < c.tk.z ∧ (vget (zoneBase .closed .idle).core.pairs 15 {}).zone = .closed ∧ p.zone = .opened ∧
    p.bar = .armed ∧ p.gen = 9 ∧ (8 : BitVec 8) ≠ p.gen ∧ (vget (zoneBase .faulted .timedout).core.pairs 15 {}).zone = .faulted ∧
    slot.state = .reserved ∧ slot.pkg = 0 ∧ slot.core = 5 ∧ 0 < slot.slen ∧ slot.miss.getLsbD 0 = true ∧ p.arrived + 1 = p.expect ∧
    ({ p with expect := 2 } : Pair).arrived + 1 ≠ 2 ∧ ({ slot with miss := 0 } : LSlot).miss.getLsbD 0 = false ∧
    (s.coreOf 1).task = none ∧ s.partOf 6 ≠ some c.tk.part ∧ from5.partOf 5 = some c.tk.part ∧ s.savedFrom 6 c.tk.part = false ∧
    (let a := (s.coreOf 6).saveArea
     ({ s with saves := [(a, ⟨0, 0, { from5.coreOf 5 with id := 6 }⟩)] } : State).savedFrom 6 c.tk.part = true) ∧
    (vget p.slots 0 {}).state = .free ∧ p.alloc + 2 ≤ p.nrows ∧ p.nrows < p.alloc + 3 ∧
    (∀ i, i < 8 → (vget full.slots i {}).state ≠ .free) ∧ 0x7FFFF < 2 ^ 19 := by decide +kernel

/-- An arrival that completes the barrier, one that does not, a stale one; rows on their way; a deadline met; a release. -/
theorem test_meets_BarrierEvents :
    let s := zoneBase .opened .armed
    let s5 : State := { s with parked := [{ id := 5, task := some {}, asking := some 0 }] }
    let p := vget (s.coreOf 0).pairs 15 {}
    let rel : Word := 15 * 2 ^ 29 + 7 * 2 ^ 33 + 9 * 2 ^ 36
    let busy : State := { s5 with agenda := [(2000, .landingRowArrival 0 { fromPkg := 0, fromCore := 5, fromCh := 0, cmd := 0, zone := 0, slot := 0, off := 0, gen := 0, data := 0, tag := 0 })] }
    s5.rowsOnWay s5.pkg 5 = false ∧ s5.releaseWaits 5 = false ∧ (s5.coreOf 0).task.isSome = true ∧ 15 < (s5.coreOf 0).tk.z ∧
    s5.partOf 5 = some (s5.coreOf 0).tk.part ∧ s5.partOf 6 ≠ some (s5.coreOf 0).tk.part ∧ p.bar = .armed ∧ p.gen = 9 ∧
    p.arrived + 1 = p.expect ∧ ({ p with expect := 3 } : Pair).arrived + 1 ≠ 3 ∧ busy.rowsOnWay busy.pkg 5 = true ∧
    p.deadline = s5.cycle ∧ rel.toNat / 2 ^ 29 % 16 = 15 ∧ rel.toNat / 2 ^ 33 % 8 = 7 ∧ p.gen.toNat = rel.toNat / 2 ^ 36 % 256 ∧
    (vget p.slots 7 {}).state = .reserved ∧ (vget p.slots 7 {}).core = 5 ∧ (s5.coreOf 5).asking.isSome = true := by decide +kernel

/-- opub, over, osub, opin and ounpin on object 5: below and at the last version, pins that fit and do not. -/
theorem test_meets_VersionWords :
    let s := withStg { objBase 0 1 with kept := [{ slot := 5, ver := 0 }] } [(64, handle5)]
    let last := withStg { s with descs := [(5, (objDesc 0 1).set 256 32 (2 ^ 32 - 1))] } [(65, 0xFFFFFFFF)]
    let past := withStg s [(65, 0x100000000)]
    let next := withStg s [(65, 1)]
    let held : State := { s.onCore fun c => { c with pins := [⟨0, 5, 0, 0⟩] } with pinned := [(0, 5, 0)] }
    let d := s.desc handle5
    let fits (s : State) (v : Nat) : Prop := let u := s.unpin 5
      u.core.pins.length < 16 ∧ v ≤ (u.desc handle5).vcur ∧ (v = (u.desc handle5).vcur ∨ v ∈ u.pinnedVers 5) ∧
        (v ∈ u.pinnedVers 5 ∨ (u.pinnedVers 5).length < 2)
    s.core.isSys = false ∧ s.core.accepted = none ∧ hHome handle5 = s.pkg ∧
    (∀ n ∈ [1, 8, 16], s.violation (s.core.requester s.pkg .core) handle5 (some n) = none) ∧
    s.core.writeErr (hKey handle5) = none ∧ d.shaxis = 7 ∧ d.vcur < 2 ^ 32 - 1 ∧ (last.desc handle5).vcur = 2 ^ 32 - 1 ∧
    (s.core.arch.stg.toList.getD 65 0).toNat ≤ d.vcur ∧ d.vcur < (next.core.arch.stg.toList.getD 65 0).toNat ∧
    (last.core.arch.stg.toList.getD 65 0).toNat < 2 ^ 32 ∧ 2 ^ 32 ≤ (past.core.arch.stg.toList.getD 65 0).toNat ∧
    (Instr.osub 63).wf = true ∧ fits s 0 ∧ fits held 0 ∧ ¬ fits s 1 ∧ (∀ p ∈ s.core.pins, p.home * 2 ^ 23 + p.slot ≠ 5) ∧
    (∃ p ∈ held.core.pins, p.home * 2 ^ 23 + p.slot = 5) := by decide +kernel

def aReplay : Replay :=
  { part := 1, rid := 0, replay := 0, graph := 0x0000000700000000, genNo := 1, gen := Vector.replicate 64 0, cores := [0], fb := false,
    infl := 1, nodes := [.waiting] }

/-- Accepted requests, good and bad; signals with a replay; a barrier and a slot of core 5, and targets that are none. -/
theorem test_meets_SignalWords :
    let s : State := { zoneBase .opened .armed with replays := [aReplay] }
    let five : Core :=
      { id := 5, task := some { z := 16 }
        pairs := s.core.pairs.set 15 { gen := 9, slots := (Vector.replicate 8 {}).set 7 { state := .reserved } } }
    let arms := withStg { s with core := { s.core with asking := some 0x68A00040 }, parked := [five] }
      [(67, 9), (72, 5 + 15 * 2 ^ 29 + 7 * 2 ^ 33 + 9 * 2 ^ 36)]
    let sy (i : Nat) : Nat := (arms.core.arch.stg.toList.getD (64 + i) 0).toNat
    s.core.isSys = false ∧ (∀ i ∈ [Instr.opub, .over, .opin, .ounpin, .lzrel, .osub 0, .evsig 64, .evsigB 15], i.wf = true) ∧
    s.core.accepted = none ∧ (s.replay? s.core.tk.rid s.core.tk.replay).isSome = true ∧ (Instr.evsig 255).wf = true ∧
    sy 2 < 2 ^ 19 ∧ sy 3 < 2 ^ 8 ∧ sy 2 / 2 ^ 10 = arms.pkg ∧ arms.members.contains arms.pkg = true ∧ sy 2 % 2 ^ 10 < 768 ∧
    (arms.coreOf (sy 2 % 2 ^ 10)).task.isSome = true ∧ 15 < (arms.coreOf 5).tk.z ∧ arms.partOf 0 = some (arms.coreOf 5).tk.part ∧
    ¬ (15 < base.core.tk.z) ∧ sy 8 / 2 ^ 10 % 2 ^ 9 = arms.pkg ∧ sy 8 % 2 ^ 10 = 5 ∧ sy 8 / 2 ^ 29 % 16 = 15 ∧ sy 8 / 2 ^ 33 % 8 = 7 ∧
    (vget (vget (arms.coreOf 5).pairs 15 {}).slots 7 {}).state = .reserved ∧ (vget (arms.coreOf 5).pairs 15 {}).gen.toNat = sy 8 / 2 ^ 36 % 256 ∧
    s.members.contains (0x400 / 2 ^ 10 % 2 ^ 9) = false ∧ 768 ≤ 768 % 2 ^ 10 ∧
    (match decodeWord 0x68A00040 with | .ok (_, .evsig e) => decide (e = 64) | _ => false) = true ∧ arms.releaseWaits arms.core.id = false ∧
    arms.core.asking.isSome = true ∧ (55 : VCode).toNat < 56 := by decide +kernel

def graphBase : State :=
  { base with
    replays := [aReplay], parts := [{ k := 1, root := 1 }], keys := [(1, .live)], descs := [(7, objDesc 0 1)], lineKey := [(0x4000, 2)]
    regions := [{ rid := 1, part := 1, parent := none, inh := 0, coreset := 3 }]
    graphs := [{ handle := 0x0000000700000800, rid := 1, part := 1, image := [1, 0, 0, 0, 1, 0, 0, 0] }] }

def aPacket : List Word := [0x0000000700000800, 0, 0, 1, 63, 5, 0, 0, 0, 0, 0, 0, 0, 0, 0, 0]

theorem test_meets_TaskWords :
    let s := graphBase
    let inputs (l : List (Nat × BitVec 1024)) : State := s.onCore fun c => { c with task := some { phases := 2, inputs := l } }
    let idle (s : State) (k : Nat) : Bool :=
      let n := (mget s.core.tk.inputs (8 + k)).getD 0
      (recKind n == 2 && (vget s.core.pairs (recRow n) {}).bar == .idle) ||
        (recKind n == 3 && !recForeign n && decide (recRow n < 64) && (vget s.core.events (recRow n) {}).st == .idle)
    (s.core.isSys = false ∧ (Instr.gkick 1).wf = true ∧ 0 < s.core.tk.rows ∧
      s.core.tk.rows ≤ ((withStg s [(73, 8192 * 512)]).core.arch.stg.toList.getD 73 0).toNat / 512 ∧ s.core.merr = none ∧
      (inputs []).core.phase + 1 < (inputs []).core.tk.phases ∧ (∀ k, k < 8 → idle (inputs []) k = false) ∧
      idle (inputs [(15, 2)]) 7 = true ∧ (∀ k, k < 7 → idle (inputs [(15, 2)]) k = false) ∧ idle (inputs [(8, 3)]) 0 = true ∧
      s.core.tk.phases ≤ s.core.phase + 1) ∧
    pktOk [] = false ∧ pktOk aPacket = true ∧ s.violation ⟨1, .host, 1023, s.pkg⟩ (aPacket.getD 0 0) (some 128) = none ∧
    (s.graphs.find? (fun g => hKey g.handle = hKey (aPacket.getD 0 0) && hGen g.handle = hGen (aPacket.getD 0 0) && g.part = 1)).isSome = true ∧
    ({ s with regions := [] } : State).region? 1 = none ∧ (s.region? 1).map (·.st) = some 1 ∧ s.effCores 1 ≠ [] ∧
    (∀ i, i < imgNodes [1, 0, 0, 0, 1, 0, 0, 0] → nodeRows [1, 0, 0, 0, 1, 0, 0, 0] i + nodeCarve [1, 0, 0, 0, 1, 0, 0, 0] i ≤ s.effRowcap 1 ∧
      nodeZ [1, 0, 0, 0, 1, 0, 0, 0] i ≤ s.effLzcap 1) ∧
    (s.replays.filter fun r => r.part = 1 && r.inFlight).length < 4 ∧ (∀ r ∈ s.replays, r.rid = 1 → r.replay = 0 → r.inFlight = false) ∧
    pktNtab aPacket = 0 ∧ (applyPatches (imgDefaults [1, 0, 0, 0, 1, 0, 0, 0]) [(63, 5)]).isSome = true ∧
    1 ≤ imgNodes [1, 0, 0, 0, 1, 0, 0, 0] ∧
    ({ s with core := { s.core with task := some { rid := 1 } } } : State).isIn 1 1 = true := by decide +kernel

theorem test_meets_Dispatch :
    let r : Replay := { aReplay with rid := 1, graph := 0x0000000700000800 }
    let s : State := { graphBase with replays := [r] }
    let x : TaskRec := { rid := 1, replay := 0, node := 0, tile := 0, core := 3 }
    let t : State := { s with tasks := [x] }
    let dep (ev : List (Nat × EvState)) : State := { s with
      replays := [{ r with events := ev }]
      graphs := s.graphs.map fun g => { g with
        image := g.image ++ List.replicate 168 0 ++ [16, 0, 0, 0, 1] ++ List.replicate 75 0 ++ [2, 0, 0, 0, 0, 0, 0, 0, 64] } }
    let done (s : State) : Option Bool := (s.replays.head?.bind fun r => s.nodeReady r 0)
    s.replay? 1 0 = some r ∧ r.nodes[0]? = some .waiting ∧ s.nodeReady r 0 = some true ∧
    ((t.coreOf 3).free = true ∧ (t.candidates 3) = [x] ∧ (t.pickRegion (t.coreOf 3) (t.candidates 3)).map (·.1) = some 1 ∧
      firstTask t.replays ((t.candidates 3).filter fun t => t.rid = 1) = some x) ∧
    (∃ y ∈ t.candidates 3, y.rid = 1) ∧ (∀ y ∈ s.candidates 3, y.rid ≠ 1) ∧
    done (dep []) = none ∧ done (dep [(64, .abandoned)]) = some false ∧ done (dep [(64, .fired)]) = some true := by decide +kernel

/-- A tile input of one FP32 element from parameter 0 to the window's row 8191; one whose handle names nothing; phases ready and not. -/
theorem test_meets_PhaseStarts :
    let rec_ : BitVec 1024 := BitVec.ofNat 1024 (1 + 8 + 8191 * 2 ^ 10)
    let s := (objBase 0 1).onCore fun c => { c with
      task := some { inputs := [(0, rec_), (7, 1 + 63 * 16)], params := (Vector.replicate 64 0).set 0 handle5, isreg := 63 }, fetching := true }
    let c := s.coreOf 0
    let d := s.desc handle5
    let org := inputOrigin rec_ c.tk.tc d.rank
    let cs := org.map fun (i : Int) => (BitVec.ofInt 64 i).toNat
    let p : Pattern := { base := wrap64 (linOf d.dims cs), n0 := recN0 rec_, ns := [recRows rec_, 1, 1, 1],
                         strs := [1, (if d.rank = 1 then (recN0 rec_ : Int) else (inner d.dims 0 : Int)), 0, 0, 0] }
    let wide : BitVec 1024 := rec_ + BitVec.ofNat 1024 (2 ^ 33)
    let rb := (p.run d 0).getD { data := [], scale := [], sup := [] }
    let ready := base.onCore fun c => { c with task := some { isreg := 63 }, waiting := true, fetching := true }
    base.core.task ≠ none ∧ base.core.fetching = false ∧ c.task ≠ none ∧ c.fetching = true ∧ c.inputsIn.contains 0 = false ∧
    c.input 0 = rec_ ∧ recKind rec_ = 1 ∧ vget c.tk.params (recSlot rec_) 0 = handle5 ∧ recKind (c.input 7) = 1 ∧
    (s.violation (c.requester s.pkg .fetch) (vget c.tk.params (recSlot (c.input 7)) 0) (some 1)).isSome = true ∧
    s.violation (c.requester s.pkg .fetch) handle5 (some 1) = none ∧ hHome handle5 = s.pkg ∧ d.layout ≠ 2 ∧ recCoef rec_ = false ∧
    s.l2Holds 0 = false ∧ s.known handle5 = some d ∧ ({ p with n0 := 2 ^ 40 } : Pattern).fmtOk d = false ∧
    c.tk.rows < recRow wide + recRows wide ∧ recRow rec_ + s.inputRows handle5 rec_ ≤ c.tk.rows ∧ recRow rec_ + 1 ≤ c.tk.rows ∧
    p.fmtOk d = true ∧ p.crosses d = false ∧ inner cs 0 % d.blk = 0 ∧ recRows rec_ = 1 ∧ (p.run d 0).isSome = true ∧
    (∀ x ∈ p.pieces d, ∀ y ∈ s.span handle5 d none x.1 x.2, y ≠ .missing) ∧
    isOk (s.readSectors 0 handle5 d none (sectorsOf rb.all)).1 = true ∧
    base.phaseReady base.core = false ∧ ready.phaseReady ready.core = true ∧ (∀ n, n < 16 → (ready.core.chan false n).err = false) ∧
    ready.core.inputErr = none ∧ ready.core.pend = [] ∧ ready.core.rowPend = [] ∧ ready.agenda = [] ∧
    (∀ n, n < 8 → recKind (ready.core.input n) ≠ 3) ∧ ready.core.tk.isreg = 63 ∧ base.core.tk.isreg = 0 := by decide +kernel

theorem test_meets_FaultTaking :
    base.core.isSys = false ∧ (0x0A : BitVec 8) ≠ 0x18 ∧ sysBase.core.isSys = true ∧ sysBase.core.sstat.getLsbD 0 = true ∧
    (sysBase.onCore fun c => { c with sstat := 2 }).core.sstat.getLsbD 0 = false ∧
    (∃ x ∈ ({ base with parked := [sysBase.core] } : State).parked, x.isSys = true) := by decide +kernel

theorem test_meets_ServiceWords :
    let s := withV (withX base [(1, 7)]) [(1, ⟨1, 0, true⟩), (2, ⟨0, 1, true⟩), (3, ⟨1 <<< 4095, 0, true⟩), (4, ⟨0, 0, true⟩)]
    let f := s.onCore fun c => { c with arch := { c.arch with flags := 1, vfmt := 0x100 } }
    let on (s : State) : FlagSet := s.core.arch.flags &&& s.core.arch.vfmt.extractLsb' 8 7
    s.core.isSys = false ∧
    (∀ i ∈ [Instr.eret, .wfi, .mfsr 1 0, .mtsr 1 0, .pld 1 1, .pst 1 1, .pord, .hinv 1, .wpset 1 1, .wpclr 1, .trap 0xFFFF, .sysc 0xFFFF,
      .brk 0xFFFF, .chk 1 1, .vchk 1 2, .vchk 55 55, .ident 1], i.wf = true) ∧
    s.core.gend = s.core.gstart + 1 ∧ sysBase.core.isSys = true ∧ sysBase.core.sstat.getLsbD 0 = true ∧
    on s = 0 ∧ on f ≠ 0 ∧ s.getX 1 = s.getX 1 ∧ s.getX 1 ≠ s.getX 0 ∧ 56 ≤ (56 : XReg).toNat ∧
    (∀ i, i < s.visible 8 → elem 8 (s.getV 4).data i = elem 8 (s.getV 2).data i) ∧ (s.getV 4).tag ≠ (s.getV 2).tag ∧
    (∀ i, i < s.visible 8 → elem 8 (s.getV 4).data i = elem 8 (s.getV 5).data i) ∧ (s.getV 4).tag = (s.getV 5).tag ∧
    elem 8 (s.getV 1).data 0 ≠ elem 8 (s.getV 4).data 0 ∧ 511 < s.visible 8 ∧ elem 8 (s.getV 3).data 511 ≠ elem 8 (s.getV 4).data 511 ∧
    (∀ j, j < 511 → elem 8 (s.getV 3).data j = elem 8 (s.getV 4).data j) ∧ s.core.id < 1024 ∧ s.pkg < 512 := by decide +kernel

/-- The system words; physical addresses at the end of memory spaces, past them, between words, of a channel that is off, of CTXA. -/
theorem test_meets_SystemWords :
    let s : State := { sysBase with phys := [(0, { en := true })], descs := [(5, objDesc 0 1)] }
    let s := withX s [(1, handle5), (2, 0x200000), (3, 0x10000000000000), (4, 0x200004), (5, 0x200200), (6, 0x300001000018 + 767 * 0x1000),
      (7, 2 ^ 45 - 2 ^ 44 - 8)]
    let i (m : BitVec 7) : State := s.onCore fun c => { c with sipend := m, sien := 0x7F }
    let x (a : Nat) : Sector := ⟨a / 64 * 64, 1, false⟩
    s.core.isSys = true ∧ (∀ n ∈ [(0 : BitVec 12), 1, 2, 3, 4, 5, 6, 7, 0x10, 0x13], (Instr.mfsr 1 n).wf = true) ∧
    (∀ n ∈ [(0 : BitVec 12), 1, 2, 3, 4, 6, 0x10, 0x13], (Instr.mtsr 1 n).wf = true) ∧ (Instr.hinv 1).wf = true ∧
    s.violation ⟨(s.desc (handle5 &&& ~~~15#64)).part, .core, s.core.id, s.pkg⟩ (handle5 &&& ~~~15#64) none = none ∧
    (Instr.wpset 1 62).wf = true ∧ (Instr.wpclr 1).wf = true ∧ s.core.state = .running ∧ s.core.sstat.getLsbD 0 = true ∧
    (((i 0x41).core.sipend &&& (i 0x41).core.sien.truncate 7).getLsbD 0 = true) ∧
    (((i 0x40).core.sipend &&& (i 0x40).core.sien.truncate 7).getLsbD 6 = true) ∧
    (∀ j, j < 6 → ((i 0x40).core.sipend &&& (i 0x40).core.sien.truncate 7).getLsbD j = false) ∧
    (Instr.pld 1 2).wf = true ∧ (Instr.pst 1 2).wf = true ∧ 2 ^ 52 ≤ (s.getX 3).toNat ∧ (s.getX 4).toNat % 8 ≠ 0 ∧
    (s.getX 2).toNat < 2 ^ 52 ∧ (s.getX 2).toNat % 8 = 0 ∧ paSpace (s.getX 2).toNat < 2 ∧ s.sectorOk (x 0x200000) = true ∧
    s.refusedAt s.core.id (x 0x200000) = false ∧ s.migrated (x 0x200000).line = ((x 0x200000).line, false) ∧ s.sectorOk (x 0x200200) = false ∧ paSpace (s.getX 5).toNat < 2 ∧
    (s.getX 6).toNat = 0x300001000000 + 767 * 0x1000 + 0x18 ∧ (∀ u, s.part? (paKey 0x200000) = some u → u.undo.st ≠ .opened ∧ u.undo.st ≠ .rolling) ∧
    ({ s with faultQ := [3, 4] } : State).faultQ = 3 :: [4] ∧ s.faultQ = [] := by
  and_intros <;> decide +kernel

theorem nothingHeld_of (s : State) (c : Core) (h1 : c.text ≠ []) (h2 : c.pend = []) (h3 : c.rowPend = []) (h4 : c.varOut = 0)
    (h5 : ∀ n < 4, vget c.arch.hold n none = none) (h6 : c.mtile = none ∧ c.wave = none ∧ c.discarding = false) (h7 : ∀ n, n < 16 → (∀ x ∈ (c.chan true n).queue, x.started = true) ∧ ∀ x ∈ (c.chan false n).queue, x.started = true)
    (h8 : ∀ n, n < 8 → (vget c.streams n {}).walking = false) :
    NothingHeld s c :=
  ⟨h1, h2, h3, h4, h5, h6.1, h6.2.1, h6.2.2, fun b n hn => by cases b; exact (h7 n hn).2; exact (h7 n hn).1, fun n hn => .inl (h8 n hn)⟩

def halted (cause : BitVec 8) : State := base.onCore fun c => { c with state := .halted, frec := cause.zeroExtend 512, rpc := 0x40 }

theorem test_meets_NothingHeld : NothingHeld (halted 0x13) ((halted 0x13).coreOf 0) :=
  nothingHeld_of _ _ (by decide +kernel) rfl rfl rfl (by decide +kernel) ⟨rfl, rfl, rfl⟩ (by decide +kernel) (by decide +kernel)

/-- Cores running, ending, halted, stopping and stopped; resume addresses with and without low bits 11; a stopped wavelet command. -/
theorem test_meets_CoreControl :
    let w : WCmd := { kind := .wfwd, s := 0, T := 8, src := 0, dst := 4, n := 2, L := 1, k := 2, pres := 0, vfmt := 0,
                      wth := Vector.replicate 8 0, stop := some 3 }
    let h := (halted 0x0A).coreOf 0
    base.core.state = .running ∧ base.core.ending = false ∧ (base.onCore fun c => { c with ending := true }).core.ending = true ∧
    (State.reset.coreOf 767).state = .idle ∧ ({ h with state := .stopping } : Core).state = .stopping ∧ base.core.state ≠ .stopping ∧
    ¬ (base.core.state = .halted ∨ base.core.state = .stopped) ∧ (h.state = .halted ∨ h.state = .stopped) ∧ h.discarding = false ∧
    h.rpc.toNat % 4 ≠ 3 ∧ ({ h with rpc := 3 } : Core).rpc.toNat % 4 = 3 ∧ h.text ≠ [] ∧ h.pend = [] ∧ h.rowPend = [] ∧ h.mtile = none ∧
    ({ h with wave := some w } : Core).wave = some w ∧ w.stop = some 3 ∧ h.ckptTile = none ∧ h.ckptWave = none ∧ h.ckptLate = [] ∧
    h.wloads = [] ∧ h.varOut = 0 ∧ ({ h with varOut := 1 } : Core).varOut ≠ 0 ∧ h.lzresOut = [] ∧ h.gkickOut = [] ∧ base.agenda = [] := by
  decide +kernel

/-- Lines n0.. of an image, dirty in an L2. -/
def imageL2 (num n0 n : Nat) : List L2Line := (List.range n).map fun i => ⟨n0 + i, Config.imageLine num i, 0, 0, true, 2, 0⟩

theorem imageL2_find (num n0 n i : Nat) (h : i < n) :
    ({ l2 := imageL2 num n0 n } : Die).l2Line (n0 + i) = some ⟨n0 + i, Config.imageLine num i, 0, 0, true, 2, 0⟩ := by
  simp [Die.l2Line, imageL2, List.find?_map]
  exact ⟨h, fun j hj => by omega⟩

/-- A core's image in its save area. -/
def imaged (area : Nat) (im : Image) : State :=
  { State.reset with
    saves := [(area, im)], parts := [{ k := 1, root := 1 }], keys := [(1, .live)]
    dies := State.reset.dies.set 0 { l2 := imageL2 im.num (im.lines area).1 (im.lines area).2 } }

theorem imaged_reads (area : Nat) (im : Image) (hk : (imaged area im).keyLive im.ctx.tk.part = true)
    (ht : (imaged area im).keyTag im.ctx.tk.part = im.tag)
    (hr : (imaged area im).refusedAt im.ctx.id ⟨(im.lines area).1 * 64, 0, false⟩ = false) : (imaged area im).imageReads im area = true := by
  have hp : ∀ i, i < (im.lines area).2 → (imaged area im).peekLine ((im.lines area).1 + i) = Config.imageLine im.num i := by
    intro i hi
    have hd : (imaged area im).dies.toList = { l2 := imageL2 im.num (im.lines area).1 (im.lines area).2 } :: List.replicate 23 {} := rfl
    rw [State.peekLine, hd, List.findSome?_cons, imageL2_find _ _ _ _ hi]
    rfl
  simp only [State.imageReads, hk, ht, hr, BEq.rfl, Bool.not_false, Bool.and_true, List.all_eq_true, List.mem_range, Bool.true_and]
  intro i hi
  rw [hp i hi]; exact BEq.rfl

/-- An image that reads as it was written. -/
theorem test_meets_SaveAndRestore_reads :
    let im : Image := ⟨2, 5, base.core⟩
    (imaged 0 im).imageReads im 0 = true ∧ (imaged 0 im).core.task = none ∧ mget (imaged 0 im).saves 0 = some im :=
  ⟨imaged_reads _ _ (by decide +kernel) (by decide +kernel) (by decide +kernel), rfl, rfl⟩

theorem test_meets_SaveAndRestore :
    let c := base.core
    let im : Image := ⟨2, 5, c⟩
    let s : State := { State.reset with saves := [(0, im)], parts := [{ k := 1, root := 1 }], keys := [(1, .live)] }
    let area := (s.coreOf 0).ctxa.toNat % 2 ^ 46 / 65536 * 65536
    c.state ≠ .stopped ∧ ({ c with state := .stopped } : Core).task ≠ none ∧ c.discarding = false ∧ base.agenda = [] ∧
    (s.coreOf 0).state = .idle ∧ (s.coreOf 0).task = none ∧ mget s.saves area = some im ∧ im.ctx.id = 0 ∧
    mget State.reset.saves area = none ∧ s.keyLive im.ctx.tk.part = true ∧ s.keyTag im.ctx.tk.part = im.tag ∧
    ({ s with keyLoads := [(1, 1)] } : State).imageReads im area = false ∧ c.mtile = none ∧ c.wave = none ∧ (halted 0x0A).core.task ≠ none ∧
    ({ c with discarding := true } : Core).discarding = true := by decide +kernel

theorem test_meets_Recovery :
    let s := halted 0x13
    let fpol (n : BitVec 2) : State := { halted 0x14 with regions := [{ rid := 0, part := 1, parent := none, inh := 0, fpol := n }] }
    let sysc := s.onCore fun c => { c with frec := (0x13 : BitVec 512) ||| (1 <<< 400) }
    base.core.task ≠ none ∧ base.core.state = .running ∧ base.core.recover = none ∧ base.core.tk.lock = false ∧
    (base.onCore fun c => { c with task := some { lock := true } }).core.tk.lock = true ∧
    base.core.discarding = false ∧
    ({ base.core with recover := some { pc := 0, back := .running, cause := 0x17, info := 0, aux := 0, endAt := 0, since := 0 } } : Core).recover.isSome = true ∧
    (halted 0x12).core.frec.toNat % 256 = 0x12 ∧ (halted 0x0B).core.frec.toNat % 256 = 0x0B ∧ (halted 0x12).core.state = .halted ∧
    sysc.core.frec.toNat % 256 = 0x13 ∧ (sysc.core.frec.extractLsb' 384 64 : BitVec 64).getLsbD 16 = true ∧
    (fpol 2).effFpol 0 = 2 ∧ (fpol 1).effFpol 0 = 1 ∧ (fpol 2).core.frec.toNat % 256 = 0x14 ∧ (fpol 1).core.task ≠ none ∧
    (fpol 1).core.discarding = false ∧ (halted 0x0A).core.frec.toNat % 256 ≠ 0x14 := by decide +kernel

/-- Buddies that may merge and that may not (their age, their sizes). -/
theorem test_meets_CacheEvents :
    let e : DirEntry := { base := 0, k := 0, st := .shr, set := 1, used := 0 }
    let f : DirEntry := { e with base := 1 }
    let s (t : Nat) (f : DirEntry) : State := { base with clock := t * 16, dies := base.dies.set 23 { dir := [e, f] } }
    ((s 65536 f).die 23).dir.find? (fun x => x.base = 0) = some e ∧ ((s 65536 f).die 23).dir.find? (fun x => x.base = 1) = some f ∧
    (e.k < 10 ∧ f.k = e.k ∧ f.st = e.st ∧ f.set = e.set ∧ e.st ≠ .mig ∧ e.used + 65536 ≤ (s 65536 f).cycle ∧
      f.used + 65536 ≤ (s 65536 f).cycle) ∧
    ¬ (e.used + 65536 ≤ (s 65535 f).cycle) ∧ ({ f with k := 1 } : DirEntry).k ≠ e.k := by decide +kernel

theorem test_meets_MemoryEvents :
    let line := 2 ^ 40 + 0x8000
    let s := objBase 0 1
    let log (size : Nat) : State := { s with parts := [{ k := 1, root := 1, undo := { st := .opened, size } }] }
    let m : Migration := { page := 5, dest := 2 ^ 30 - 1, next := 1022 }
    let mig (n : Nat) : State := { base with dies := base.dies.set 3 { migs := [{ m with next := n }] } }
    let d (x : Die) : State := { base with dies := base.dies.set 0 x }
    lineKeyId line = 1 ∧ base.keyLive 1 = false ∧ s.keyLive 1 = true ∧ (∀ p ∈ s.parts, p.undo.st ≠ .opened ∧ p.undo.st ≠ .rolling) ∧
    m.held.contains 1022 = false ∧ ({ m with held := [1022] } : Migration).held.contains 1022 = true ∧
    ((log 128).part? 1).map (·.undo.st) = some .opened ∧ 0 + 128 ≤ 128 ∧ 127 < 0 + 128 ∧
    ((mig 1022).die 3).migs.find? (fun m => m.page = 5) = some m ∧ m.next < 1023 ∧ m.dest < 2 ^ 30 ∧
    ((mig 1023).die 3).migs.find? (fun m => m.page = 5) = some { m with next := 1023 } ∧
    (base.coreOf 0).task ≠ none ∧ (base.coreOf 767).task = none ∧ (base.coreOf 767).l1sleep = none ∧
    ({ base with core := { l1sleep := some 0 } } : State).core.l1sleep = some ((base.die 0).rebase.toNat) ∧
    (∀ p ∈ (d { l2way := [] } |>.die 0).l2way, p.2.getLsbD 3 = false) ∧ mget (base.die 0).l2sleep 3 = none ∧
    mget ((d { l2sleep := [(3, 0)] }).die 0).l2sleep 3 = some ((d {}).die 0).rebase.toNat ∧
    mget ((d { l2sleep := [(3, 1)] }).die 0).l2sleep 3 = some 1 ∧
    ((d { kbusy := true }).die 0).kbusy = true ∧ (base.die 0).kkey.toNat = 0 ∧ ((d { kkey := 63 }).die 0).kkey.toNat ≠ 0 ∧
    (∃ d, d < 24 ∧ ∀ n, n < 16 → stackDie n ≠ d) ∧ (∃ n, n < 16 ∧ stackDie n = stackDie 0) ∧ stackDie 0 < 24 := by decide +kernel

/-- Tests that run and end, with nothing and with a broadcast delay held; a start on a channel that is off. Which ports a part has is
free: each port meets one of the two hypotheses. -/
theorem test_meets_ChannelPhys :
    let p : Phy := {}
    p.busy = false ∧ ({ p with busy := true } : Phy).busy = true ∧ p.held = [] ∧ ({ p with held := [(0x300, 5)] } : Phy).held = [(0x300, 5)] ∧
    (1 : Word).getLsbD 0 = true ∧ p.en = false ∧ (0x11 : Word).toNat / 16 % 4 < 2 ∧ 2 ≤ (0x21 : Word).toNat / 16 % 4 ∧
    (0x20 : Word).getLsbD 0 = false := by decide +kernel

theorem test_meets_PackageEvents :
    (∀ n, n < 72 → Config.partPorts.getLsbD n = true ∨ (72 ≤ n ∨ Config.partPorts.getLsbD n = false)) ∧
    (let c : Core := { id := 0, relOut := [(3, 7, [71])] }
     let s : State := { State.reset with core := c, ports := [(71, { st := .up, peer := 3 }), (70, { st := .up, peer := 3 })] }
     c ∈ s.cores ∧ (s.port 71).st = .up ∧
      ({ s with ports := mput s.ports 71 { s.port 71 with st := .down } } : State).livePaths ≠ []) ∧
    (State.reset.port 71).st ≠ .training ∧ ({ st := .training } : Port).st = .training ∧ ({ st := .up } : Port).st = .up ∧
    (State.reset.port 0).st ≠ .up ∧ 23 < 24 ∧ State.reset.power = .cold ∧ base.power ≠ .cold ∧ base.power ≠ .off ∧
    (let s : State := { State.reset with power := .booting }; s.power = .booting ∧ s.bstep ≠ 8) := by
  refine ⟨fun n _ => ?_, by decide +kernel, by decide +kernel, rfl, rfl, by decide +kernel, by decide, rfl, by decide +kernel, by decide +kernel,
    by decide +kernel⟩
  cases Config.partPorts.getLsbD n <;> simp

/-- A read and a write of the object's first bytes, one that violates, duplicates and strangers. -/
theorem test_meets_OutsideAccess :
    let s := objBase 0 1
    let a : OuterAccess := { part := 1, kind := .fabric, pkg := 0, core := 1023, handle := handle5, offset := 60, write := some [1, 2, 3, 4], len := 4 }
    let q : Requester := ⟨1, .host, 1023, 0⟩
    let d := s.desc handle5
    let x : Sector := ⟨2 ^ 46 + 0x200000, 1, false⟩
    (s.violation q (handle5 + 0x1000) (some 2)).isSome = true ∧ s.violation q handle5 (some 2) = none ∧ s.violation q handle5 (some 1) = none ∧
    hHome handle5 = s.pkg ∧ a.offset + a.len ≤ d.extent ∧ 0 < a.len ∧ d.replicated = false ∧ d.watch = false ∧
    (a.offset + a.len - 1) / 64 = a.offset / 64 ∧ s.locate handle5 d none 0 = .ok x true ∧ s.poolShort handle5 [0] = none ∧
    s.sectorOk x = true ∧ paSpace x.pa ≠ 2 ∧ x.home ≠ 2 ∧ s.migrated x.line = (x.line, false) ∧
    (let mine (m : Nat × Nat × Nat) : Bool := decide (m.1 = 0) && decide (m.2.1 = 9)
     s.marks.countP mine = 0 ∧ s.marks.countP mine + 1 < 2 ∧ 1 ≤ ({ s with marks := [(0, 9, 3)] } : State).marks.countP mine ∧ (0, 9, 3) ∉ s.marks) ∧
    (0, 7) ∈ ({ s with seen := [(0, 7)] } : State).seen ∧ (0, 7) ∉ s.seen ∧ 1 ∉ s.members ∧ 0 ∈ s.members := by decide +kernel

/-- A package whose windows hold arguments; partition 1 lives. -/
def hostBase (win : Nat) (args : List (Nat × Word)) : State :=
  { objBase 0 1 with
    windows := [(win, { args := args.foldl (fun v p => v.setIfInBounds p.1 p.2) (Vector.replicate 16 0) })]
    regions := [{ rid := 1, part := 1, parent := none, inh := 0, coreset := 3 }], nextRid := 2, graphs := [], replays := [] }

def accepts (s : State) (win n : Nat) (sys part : Bool) : Bool :=
  decide (win < 64) && (win == 0 || (s.part? win).isSome) && s.power == .ready && (s.window win).st != 1 &&
    (if win = 0 then sys else part) && ((List.range 16).all fun i => decide (i < n) || vget (s.window win).args i 0 == 0)

theorem accepts_of {s : State} {win n : Nat} {sys part : Bool} (h : accepts s win n sys part = true) : Accepts s win n sys part := by
  simp only [accepts, Bool.and_eq_true, decide_eq_true_eq, Bool.or_eq_true, beq_iff_eq, bne_iff_ne, List.all_eq_true, List.mem_range] at h
  obtain ⟨⟨⟨⟨⟨h1, h2⟩, h3⟩, h4⟩, h5⟩, h6⟩ := h
  exact ⟨h1, fun hw => h2.resolve_left hw, h3, h4, h5, fun i hn hi => (h6 i hi).resolve_left (by omega)⟩

theorem test_meets_Doorbells :
    let s := hostBase 1 [(15, 5)]
    let st (n : BitVec 2) : State := { s with windows := [(1, { st := n })] }
    (s.part? 1).isSome = true ∧ s.power ≠ .cold ∧ s.power ≠ .off ∧ s.links.1 = true ∧ s.links.2 = true ∧
    ({ s with links := (false, true) } : State).links.1 ≠ true ∧ ((st 1).window 1).st = 1 ∧ (s.window 1).st ≠ 1 ∧
    ({ s with power := .booting } : State).power ≠ .ready ∧ s.power = .ready ∧ vget (s.window 1).args 15 0 ≠ 0 ∧ 0x15 < (0x16 : BitVec 8).toNat := by
  decide +kernel

/-- R348, R350: ARG1 of window 1 is written over IOW while the window is IDLE. R300: a write of 8 bytes into a kick page is code 7. -/
theorem test_window_writes :
    let s := hostBase 1 []
    (match Sys2Proof.Machine.exec (.hostWrite (.window .iow 1 0x48 [5, 1, 0, 0, 0, 0, 0, 0])) s with
      | .next t => t.windowRead 1 0x48 | _ => 0) = 0x105 ∧
    (match Sys2Proof.Machine.exec (.hostWrite (.window .ioe 1 0x1000 [5, 1, 0, 0, 0, 0, 0, 0])) s with
      | .next t => (t.agenda.map (·.2)).contains (.kick 1 .ioe []) | _ => false) = true := by decide +kernel

theorem test_meets_MetersAndQueries :
    Accepts (hostBase 0 []) 0 0 true true ∧ Accepts (hostBase 1 []) 1 0 true true ∧ Accepts (hostBase 0 [(0, 1), (1, 13), (2, 1)]) 0 3 true false ∧
    Accepts (hostBase 1 []) 1 0 false true ∧ Accepts (hostBase 1 [(1, 61)]) 1 2 false true ∧ Accepts (hostBase 1 [(1, 60)]) 1 2 false true ∧
    ((hostBase 0 []).part? 1).isSome = true ∧ (hostBase 0 []).part? 63 = none ∧ (hostBase 0 []).pkg < 512 ∧
    ({ count := Vector.replicate 14 2, quota := Vector.replicate 14 0 } : Meters).met 13 = false ∧ 1 ≤ vget (Vector.replicate 14 2) 13 0 := by
  refine ⟨accepts_of ?_, accepts_of ?_, accepts_of ?_, accepts_of ?_, accepts_of ?_, accepts_of ?_, ?_, ?_, ?_, ?_, ?_⟩ <;> decide +kernel

theorem test_meets_PartitionsAndKeys :
    let mk (k : Word) : State := hostBase 0 [(0, k), (1, 0xF0), (13, 0xFF), (14, 0x3FFF), (15, 0x24)]
    let one (k : Word) : State := hostBase 0 [(0, k), (1, 0)]
    let two (l : List Session) : State := { hostBase 0 [(0, 1), (1, 3)] with sessions := l, keys := [] }
    (∀ k ∈ [(0 : Word), 1, 2, 63, 64], Accepts (mk k) 0 16 true false ∧ Accepts (one k) 0 1 true false) ∧ Accepts (two []) 0 2 true false ∧
    ((mk 1).part? 1).isSome = true ∧ (mk 63).part? 63 = none ∧ (mk 63).argCores 0 ≠ 0 ∧
    (mk 63).overlaps ((mk 63).argCores 0) 0xFF ((mk 63).argMsc 0) = false ∧ (mk 63).overlaps 1 0xFF ((mk 63).argMsc 0) = true ∧
    ((one 1).part? 1).map (·.k) = some 1 ∧ mget (one 1).keys 1 = some .live ∧ mget (two []).keys 1 ≠ some .live ∧
    (∃ x ∈ (two [{ id := 3, staged := [(1, 0)] }]).sessions, x.id = 3 ∧ mget x.staged 1 ≠ none) ∧ base.power ≠ .cold ∧ base.power ≠ .off ∧
    base.links = (true, true) := by
  refine ⟨?_, accepts_of (by decide +kernel), ?_⟩
  · intro k hk
    simp only [List.mem_cons, List.not_mem_nil, or_false] at hk
    obtain rfl | rfl | rfl | rfl | rfl := hk <;> exact ⟨accepts_of (by decide +kernel), accepts_of (by decide +kernel)⟩
  · decide +kernel

/-- A one-element FP32 object; arguments that break a field; objects held, pinned and shared; a region that is not the partition's. -/
theorem test_meets_ObjectCommands :
    let mk (a : Word) : State := hostBase 1 [(0, a + 0x0038010FF0000000), (1, 1), (4, 65536)]
    let one := hostBase 1 [(0, handle5)]
    let sh (r : Word) (n : Nat) : State := { hostBase 1 [(0, handle5), (1, 2), (2, r)] with
      parts := [{ k := 1, root := 1 }, { k := 2, root := 2 }], grants := (List.range n).map fun i => ⟨5, 10 + i, 1⟩ }
    let two (rid : Word) : State := hostBase 1 [(0, handle5), (1, rid)]
    let q : Requester := ⟨1, .host, 1023, 0⟩
    Accepts (mk 0) 1 8 false true ∧ Accepts one 1 1 false true ∧ Accepts (sh 1 7) 1 3 false true ∧ Accepts (two 1) 1 2 false true ∧
    (mk 1).argsBad 1 = true ∧ (mk 0).argsBad 1 = false ∧ ((mk 0).argDesc 1).wellMade = true ∧
    ((mk 0x6000000000).argDesc 1).wellMade = true ∧ (mk 0xE000000000).argsBad 1 = false ∧ ((mk 0xE000000000).argDesc 1).wellMade = false ∧
    mget (mk 0).keys 1 = some .live ∧ mget ({ mk 0 with keys := [] } : State).keys 1 ≠ some .live ∧ (mk 0).freeSlot = some 0 ∧
    one.violation q handle5 (some 0) = none ∧ (one.violation q (handle5 + 0x1000) (some 0)).isSome = true ∧ hHome handle5 = one.pkg ∧
    (one.desc handle5).part = 1 ∧ hRights handle5 = (one.desc handle5).rights ∧ (one.desc handle5).f 436 2 = 0 ∧
    ((objDesc 0 1).set 436 2 1).f 436 2 ≠ 0 ∧ lacks 1 (hRights handle5) = false ∧ lacks 0x100 (hRights handle5) = false ∧
    ((sh 1 7).part? 2).isSome = true ∧ one.part? 2 = none ∧ (sh 1 7).violation q handle5 (some 32) = none ∧
    8 ≤ ((sh 1 8).grants.filter fun g => decide (g.slot = 5) && decide (g.target ≠ 2)).length ∧
    ((sh 1 7).grants.filter fun g => decide (g.slot = 5) && decide (g.target ≠ 2)).length < 8 ∧
    (two 1).regions.find? (fun r => r.rid = 1 && r.part = 1) ≠ none ∧ (∀ r ∈ (two 2).regions, ¬ (r.rid = 2 ∧ r.part = 1)) ∧
    (two 1).violation q handle5 (some 128) = none ∧ (two 1).graphs = [] := by
  refine ⟨?_, ?_, ?_, ?_, ?_⟩
  all_goals first
    | exact accepts_of (by decide +kernel)
    | decide +kernel

/-- The object of slot 5 as a graph image, its window at the work of GRAPH_LOAD. -/
def graphCells (l : List Host.Cell) : State :=
  let s : State := { hostBase 1 [(0, handle5), (1, 1)] with
    phys := (List.range 32).map fun n => (n, { en := true }), mem := (objBase 0 1).mem ++ l }
  { (s.modWindow 1 fun w => { w with st := 1, opc := 0x0C, start := s.cycle, work := 0 }).sysPend 3 with
    graphs := s.graphs.filter fun g => !(decide (g.part = 1) && decide (hKey g.handle = 5)) }

/-- One node whose code is the object itself, with its inputs in zeros. -/
def goodGraph : State :=
  graphCells [(0x200000, 1), (0x200004, 1), (0x200080, 0xF0), (0x200081, 0x0F), (0x200084, 5), (0x2000A8, 2)]

def image : List (BitVec 8) :=
  [1, 0, 0, 0, 1, 0, 0, 0] ++ List.replicate 120 0 ++ [0xF0, 0x0F, 0, 0, 5, 0, 0, 0] ++ List.replicate 32 0 ++ [2] ++ List.replicate 1111 0

/-- An image with a reserved bit set. -/
def badGraph : State := graphCells [(0x200000, 1), (0x200002, 1)]

def badImage : List (BitVec 8) := [1, 0, 1] ++ List.replicate 1021 0

theorem test_meets_ObjectCommands_image : (goodGraph.wholeImage handle5).1 = some image := by decide +kernel

theorem test_meets_ObjectCommands_bad_image : (badGraph.wholeImage handle5).1 = some badImage := by decide +kernel

theorem test_meets_ObjectCommands_ok : imageOk image (goodGraph.wholeImage handle5).2.nposOf = true := by decide +kernel

theorem test_meets_ObjectCommands_not_ok : imageOk badImage (badGraph.wholeImage handle5).2.nposOf = false := by decide +kernel

theorem test_meets_ObjectCommands_code : (let u := (goodGraph.wholeImage handle5).2
    u.violation ⟨1, .host, 1023, u.pkg⟩ (nodeCode image 0) (some 128)) = none := by decide +kernel

theorem test_meets_RegionCommands :
    let s (l : List (Nat × Word)) : State := hostBase 1 l
    let r : Region := { rid := 1, part := 1, parent := none, inh := 0, coreset := 3 }
    let undo (u : Undo) : State := { s [(0, 65536)] with parts := [{ k := 1, root := 1, undo := u }] }
    let w : Window := { st := 1, opc := 0x0D }
    let held : TaskRec := { rid := 1, replay := 0, node := 0, tile := 0, core := 0, st := .held }
    let join (a b c : Word) : State := hostBase 0 [(0, a), (1, b), (2, c)]
    Accepts (s [(0, 1), (1, 1), (2, 5)]) 1 3 false true ∧ Accepts (s [(0, 1)]) 1 1 false true ∧ Accepts (s []) 1 0 false true ∧
    Accepts (undo {}) 1 1 false true ∧ Accepts (join 511 1 255) 0 3 true false ∧ Accepts (hostBase 0 []) 0 0 true false ∧
    (s []).regions.find? (fun r => r.rid = 1 && r.part = 1) = some r ∧ (s []).region? 1 = some r ∧ r.st = 1 ∧
    (∀ r ∈ (s []).regions, ¬ (r.rid = 0 ∧ r.part = 1)) ∧ 1 < (2 : Word).toNat ∧ (s []).quotaHolds 1 1 = false ∧
    (∃ x ∈ ({ s [] with tasks := [held] } : State).tasks, x.st = .held ∧ (s []).isIn x.rid 1 = true) ∧ (s []).tasks = [] ∧
    (s []).core.state = .running ∧ (s []).core.ending = false ∧
    w.st = 1 ∧ w.opc = 0x0D ∧ ¬ (((s []).window 1).st = 1 ∧ ((s []).window 1).opc = 0x0D) ∧
    ((undo {}).part? 1).isSome = true ∧ 65536 % 65536 = 0 ∧ 1 % 65536 ≠ 0 ∧ ({ st := .rolling } : Undo).st = .rolling ∧ ({} : Undo).st ≠ .rolling ∧
    2 ^ 24 < 2 ^ 24 + 65536 / 65536 ∧ (2 ^ 24 - 1) + 65536 / 65536 ≤ 2 ^ 24 ∧ (s []).partBusy 1 = true ∧
    (hostBase 1 [] |>.onCore fun c => { c with task := none }).partBusy 1 = false ∧
    511 < (512 : Word).toNat ∧ 255 < (256 : Word).toNat ∧ 511 ∉ (join 511 1 255).members ∧ (join 511 1 255).pkg ≠ 511 ∧
    1 ∈ ({ join 1 0 0 with members := [0, 1] } : State).members := by
  refine ⟨?_, ?_, ?_, ?_, ?_, ?_, ?_⟩
  all_goals first
    | exact accepts_of (by decide +kernel)
    | decide +kernel

/-- An interval with one line logged, its entry intact in the log. -/
def loggedBase : State :=
  let s : State := { hostBase 1 [] with
    parts := [{ k := 1, root := 1, undo := { st := .opened, size := 65536, used := 128, base := 0x10000, log := [(2 ^ 40 + 5, 0, 0)] } }] }
  s.onCore fun c => { c with task := none }

def logged : State :=
  (loggedBase.putSector 1024 1 (BitVec.ofNat 512 ((2 ^ 40 + 5) * 64))).putSector 1025 1 (loggedBase.storedAs (2 ^ 40 + 5) 0 0)

theorem test_meets_RegionCommands_rollback :
    ∃ p, logged.part? 1 = some p ∧ Accepts logged 1 0 false true ∧ logged.partBusy 1 = false ∧ p.undo.st = .opened ∧
      (p.undo.log.map fun e => lineSector e.1).Nodup ∧ p.undo.log.length = p.undo.used / 128 ∧
      p.undo.base = 64 * 1024 ∧ p.undo.log = [(2 ^ 40 + 5, 0, 0)] ∧ (logged.plainSector 1024).toNat % 2 ^ 64 / 64 = 2 ^ 40 + 5 ∧
      logged.plainSector 1025 = logged.storedAs (2 ^ 40 + 5) 0 0 ∧ lineSector (2 ^ 40 + 5) ≠ 1024 ∧ lineSector (2 ^ 40 + 5) ≠ 1025 ∧
      ∀ d, d < 24 → (logged.die d).l2 = [] ∧ (logged.die d).msc = [] := by
  have put (s : State) (sec line : Nat) (d : Mask) (hk : s.keyTag (lineKeyId line) = 1) :
      (s.putSector sec 1 d).plainSector line = if lineSector line = sec then d else s.plainSector line := hk ▸ plainSector_putSector s sec line d
  have hk (l : Nat) (h : lineKeyId l = 0) : loggedBase.keyTag (lineKeyId l) = 1 := by rw [h]; decide +kernel
  have h0 : logged.plainSector 1024 = BitVec.ofNat 512 ((2 ^ 40 + 5) * 64) := by
    rw [logged, put (loggedBase.putSector ..) _ _ _ (hk 1024 (by decide)), if_neg (by decide), put _ _ _ _ (hk 1024 (by decide)), if_pos (by decide)]
  have h1 : logged.plainSector 1025 = logged.storedAs (2 ^ 40 + 5) 0 0 := by
    rw [logged, put (loggedBase.putSector ..) _ _ _ (hk 1025 (by decide)), if_pos (by decide)]
    simp only [State.storedAs, State.keyOf, State.putSector]
  exact ⟨_, rfl, accepts_of (by decide +kernel), by decide +kernel, rfl, by decide +kernel, by decide +kernel, rfl, rfl,
    by rw [h0]; decide +kernel, h1, by decide +kernel, by decide +kernel, by decide +kernel⟩

/-- `add x3, x1, x2`, alone in its group, at the point of issue; a word that faults; and the second word of a longer text. -/
theorem test_meets_StepRunsDecodedWord :
    let s (w : IWord) (pc : Word) : State := base.onCore fun c => { c with text := [w, w], arch := { c.arch with pc := pc } }
    let s1 (s : State) (g : Nat) : State := { s with core := { s.core with tried := s.cycle + 1, gstart := g, gend := g + 1, wpos := 0 } }
    let w : IWord := 0x0000C108
    let ok (s : State) (g : Nat) (w : IWord) : Bool :=
      s.power != .off && (agendaNext s.clock s.agenda).isNone && s.clock % 16 == ptIssue && s.readyCores == [s.core.id] &&
      !(s.core.isSys && s.core.sstat.getLsbD 0 && s.core.pending != 0) && !s.core.wfi && s.core.startErr.isNone && s.core.ovf.isNone && s.core.recover.isNone &&
      indexOf s.core.arch.pc.toNat == some g && s.core.text[g]? == some w && groupOk [wordClass w] && wordClass w != 4 &&
      ((s1 s g).look none w).cause.isNone && !(s1 s g).operandsWait [(s1 s g).look none w] &&
      !(s1 s g).queuesWait [(s1 s g).look none w] && ((s1 s g).toResolve [(s1 s g).look none w]).isNone &&
      ((s1 s g).toAccept [(s1 s g).look none w]).isNone
    ok (s w 0) 0 w = true ∧ ok (s w 1) 1 w = true ∧ decodeWord w = .ok (false, .add 3 1 2 false false) ∧
    ok (s 0x70000005 0) 0 0x70000005 = true ∧ causeOf (.trap 5) base = some 0x13 := by
  refine ⟨by decide +kernel, by decide +kernel, rfl, by decide +kernel, by decide +kernel⟩

/-- Steps that change memory's form at all: a store to an object's first byte, on a memory in canonical form. -/
theorem test_meets_StepsKeepMemoryForm :
    Memory.wf (objBase 0 1).mem = true ∧ (match step (objBase 0 1) with | .next _ => true | _ => false) = true := by decide +kernel

theorem test_meets_DecodeEncodes : decodeWord 0x8A413FC0 = .ok (true, .lis 1 0x3FC0) := rfl

/-- A stage that passes and one that acts; vectors in order. -/
theorem test_meets_PopsAndCascades_pass :
    let t := match exec (.vadd 3 1 2 1) base with | .next t => t | _ => base
    let v := t.core.vout.getD { d := 0, t := 0, tag := 0, mask := 0, merge := false, old := {}, lat := 0, flags := 0, count := 0 }
    let t0 := t.onCore fun k => { k with pend := k.pend.take (k.pend.length - v.ops), vout := none }
    stageOp 0 = none ∧ (Instr.cascadeExtension 0 1 0 1 false true).wf = true ∧ t.core.vout.isSome = true ∧
    (match t0.stage v 0 0 false with
      | .ok x => (match x.2.stage x.1 1 1 true with | .ok _ => true | .error _ => false)
      | .error _ => false) = true ∧
    (∀ p ∈ stageOps, stageOp (BitVec.ofNat 5 p.1) = some p.2) := by decide +kernel

/-- The overflow object of 2 MiB on eleven pages: the first slots past spill memory and carve-out, one past its extent, a dead handle. -/
def ovfBase : State :=
  let d : Desc := ((objDesc 0 1).set 448 48 0x200000).set 64 32 0x80000
  let s : State := { objBase 0 1 with
    descs := [(5, d)]
    phys := (List.range 32).map fun n => (n, { en := true })
    mem := [(0x100000, 0x01), (0x100002, 0x11)] ++ (List.range 11).flatMap fun i =>
      [(0x110000 + 8 * i, (0x8F : BitVec 8)), (0x110002 + 8 * i, BitVec.ofNat 8 (0x20 + i))] }
  s.onCore fun c => { c with arch := { c.arch with ovfptr := handle5 } }

theorem test_meets_RowAndSpillWords_overflow :
    let s := ovfBase
    let c := s.core
    let D := s.desc handle5
    let q := c.requester s.pkg .spill
    let sp (l : List (Nat × Nat)) : List Served := l.flatMap fun p => s.span handle5 D none p.1 p.2
    let one := [(64 * 4096, 64)]
    let two := [(8 * (0x80000 + 64), 8), (8 * (0x90000 + 512 * 64), 4096)]
    let key (y : Served) : Nat := match y with | .ok x _ => lineSector x.line | _ => 0
    let bad := ovfBase.onCore fun c => { c with arch := { c.arch with ovfptr := handle5 + 0x1000 } }
    c.isSys = false ∧ c.arch.ovfptr = handle5 ∧ handle5 ≠ 0 ∧ hHome handle5 = s.pkg ∧ c.tk.carve = 0 ∧ c.pinOf handle5 = none ∧
    isOk (s.resolveOvf handle5 false 4096 one) = true ∧ isOk (s.resolveOvf handle5 true 4096 one) = true ∧
    isOk (s.resolveOvf handle5 false 0x10040 two) = true ∧ isOk (s.resolveOvf handle5 true 0x10040 two) = true ∧
    ((sp one).map key).Nodup ∧ ((sp two).map key).Nodup ∧
    ((sp one ++ sp two).all fun y => match y with
      | .ok x we => we && x.home == 1 && !x.comp && paSpace x.pa != 2 && s.sectorOk x && !s.refusedAt c.id x &&
        s.migrated x.line == (x.line, false)
      | _ => false) = true ∧
    s.violation q handle5 (some 1) = none ∧ s.violation q handle5 (some 2) = none ∧
    8 * D.extent < 8 * (0x90000 + 512 * 0xFFFF) + 4096 ∧ (s.violation q (handle5 + 0x1000) (some 2)).isSome = true ∧
    bad.core.arch.ovfptr = handle5 + 0x1000 ∧ (∀ i ∈ [Instr.sld 55 4096, .sst 55 4096, .vsld 55 64, .vsst 55 64], i.wf = true) ∧
    c.tk.rows ≤ 8191 + 1 := by decide +kernel

/-- A tile of each kind with its smallest size; a mask whose kept rows are those stored. -/
theorem test_meets_WaveletResults_values :
    let w (k : WKind) : WCmd := { kind := k, s := 0, T := 8, src := 0, dst := 4, n := 2, L := 1, k := 2, pres := 3, vfmt := 0,
                                  wth := Vector.replicate 8 0, got := [(0, {}), (1, {})] }
    tileOk 2 1 = true ∧ tileOk 128 7 = true ∧
    (∀ k ∈ [WKind.wfwd, .wst, .wstc, .wexp, .winv, .wbias], (w k).kind = k ∧ tileOk (w k).n (w k).L = true ∧
      (w k).k = rank (fun j => (w k).pres.getLsbD j) (w k).n) := by decide +kernel

/-- A row of each timing enters the array: plain and under the sequencer, at the first pass and later. -/
theorem test_meets_MatrixMultiply_rows :
    let m : MCmd := { mulCmd with mrows := 128, passes := 16, left := 128 }
    let t : MCmd := { m with tile := true, sigma := 300, pass := 15 }
    (∀ c ∈ [m, t], ({ base.core with mcmds := [c] } : Core).mcmds = [c] ∧ c.kind = .mul ∧ c.left ≠ 0 ∧ (pairOf c.mfmt).isSome = true ∧
      15 < c.passes ∧ 127 < c.mrows ∧ c.mrows ≤ 128) ∧
    m.tile = false ∧ t.tile = true ∧ 0 < t.sigma ∧ t.pass = 15 ∧ t.sigma + 127 = 427 := by decide +kernel

theorem test_meets_MatrixStatusAndEvents_more :
    let dr : MCmd := { mulCmd with kind := .drain }
    let z : MCmd := { mulCmd with kind := .zero, push := none }
    let s (m : MCmd) : State := base.onCore fun c => { c with mcmds := [m] }
    let q : MTile := { seq := 7, next := 0, total := 2, sigma := 100, slot := 63, mfmt := 0, hnd := 0, n0 := 0, k0 := 0 }
    let m (st : SlotState) : State := base.onCore fun c => { c with mtile := some q, arch := { c.arch with slots := c.arch.slots.set 63 { state := st } } }
    (s dr).core.mcmds.find? (fun m => m.seq = 7) = some dr ∧ dr.kind = .drain ∧ dr.push = some 2 ∧ dr.flags = [] ∧ (s dr).core.held = false ∧
    (s z).core.mcmds = [z] ∧ z.kind = .zero ∧ z.start + 1 ≤ 100 ∧
    (∀ st ∈ [SlotState.ready, .failed], (m st).core.mtile = some q ∧ q.sigma ≤ (m st).cycle ∧ (m st).core.state = .running ∧
      ((m st).core.slot (q.slot + q.next % 2)).state = st) ∧ q.next + 1 < q.total ∧ (classB q.mfmt).isSome = true ∧
    (m .ready).core.granShort ((q.slot + (q.next + 1) % 2) % 64) (imageRows (mfBf q.mfmt)) = false := by decide +kernel

/-- A die whose L2 holds new requests after a rebase. -/
def holding (s : State) : State := { s with dies := s.dies.set 0 { s.die 0 with holdTo := s.cycle + 65 } }

theorem test_meets_HandleFaultsAndQueries_more :
    let s := objBase 0 1
    let q : AtomicReq := { core := 0, addr := 0x200004 + 2 ^ 46, width := 32, fmt := 0, op := .add, operand := 1, newVal := 0, ret := true, dest := 5, home := 1 }
    let x : Sector := ⟨q.addr / 64 * 64, q.home, false⟩
    s.l2Holds s.core.id = false ∧ (holding s).l2Holds 0 = true ∧ s.leaving = [] ∧ s.sectorOk x = true ∧ s.refusedAt q.core x = false ∧
    s.migrated x.line = (x.line, false) := by decide +kernel

/-- A fetch whose last row is yet to come, the others written or spoiled; commands that start after their issue, one at a read point. -/
theorem test_meets_ChannelEvents_more :
    let s := withStg chanBase [(24, 0)]
    let q : ChanCmd := { kind := .fget, seq := 3, stg := s.core.staged 0, started := true, total := 3, runs := [0], spoiled := [1] }
    let clz : ChanCmd := { kind := .clz, seq := 3, issue := 99, stg := s.core.staged 1, total := 1 }
    let c := s.core.modChan true 15 fun x => { x with queue := [clz] }
    s.leaving = [] ∧ q.runs.contains 2 = false ∧ q.spoiled.contains 2 = false ∧ q.done = false ∧ q.issue < s.cycle ∧
    ({ q with runs := [2, 0] } : ChanCmd).runs.length + q.spoiled.length = q.total ∧ clz.issue < s.cycle ∧
    ({ s with clock := 100 * 16 + ptRead } : State).clock % 16 = ptRead ∧
    (c.chan true 15).queue.find? (fun q => !q.started) = some clz ∧ (∀ y ∈ (c.chan true 15).queue, y.kind = .clz → y.started = false) := by
  decide +kernel

/-- A reservation whose time-out stands once in the agenda. -/
theorem test_meets_LandingArrivals_more :
    let q : ResReq := { fromPkg := 0, fromCore := 5, part := 0, zone := 15, slen := 2, pkg := 0, core := 0, dest := some 9 }
    let late : Instr := .lzresTimeout 5 9 15 0
    let s : State := { zoneBase .opened .armed with agenda := [(9000 * 16 + ptEnd, late)] }
    q.fromPkg = s.pkg ∧ (9000 * 16 + ptEnd, late) ∈ s.agenda ∧ (∀ e ∈ s.agenda, e.2 = late → e.1 = 9000 * 16 + ptEnd) ∧
    late = .lzresTimeout q.fromCore 9 q.zone (q.core % 2 ^ 10 + q.pkg % 2 ^ 9 * 2 ^ 10) ∧ s.core.task.isSome = true := by decide +kernel

/-- A release that waits for a leased copy. -/
theorem test_meets_BarrierEvents_waits :
    let s := objBase 0 0
    let t := s.onCore fun c => { c with l1 := [⟨2 ^ 40 + 0x8000, 1, 5⟩], relWait := [(0, 2 ^ 40 + 0x8000, 5)], asking := some 0x68A00040 }
    t.releaseWaits 0 = true ∧ t.core.accepted = none ∧ s.releaseWaits 0 = false := by decide +kernel

theorem test_meets_SaveAndRestore_more :
    let im : Image := ⟨2, 5, { base.core with objRows := 128, task := some { base := 128, rows := 64 }, rows := [(130, {})] }⟩
    let s : State := { State.reset with saves := [(0, im)], parts := [{ k := 1, root := 1 }], keys := [(1, .live)] }
    s.l2Holds 0 = false ∧ s.leaving = [] ∧ s.rowsFit im.ctx.tk 0 = true ∧ s.rowsFit { im.ctx.tk with rows := 8192, carve := 1 } 0 = false ∧
    im.ctx.tk.base = im.ctx.objRows ∧ (∀ p ∈ im.ctx.rows, p.1 < im.ctx.tk.base + im.ctx.tk.rows ∨ 8192 - im.ctx.tk.carve ≤ p.1) ∧
    base.core.imageBytes / 256 < 2 ^ 20 := by decide +kernel

theorem test_meets_Recovery_more :
    (halted 0x12).unserved (halted 0x12).core = false ∧ (halted 0x13).unserved (halted 0x13).core = false := by decide +kernel

/-- Tests of each mode, one with a broadcast delay held by the boot. -/
theorem test_meets_ChannelPhys_more :
    let p : Phy := { busy := true, patctl := 0x10 }
    p.patMode = 1 ∧ ({} : Phy).patMode ≠ 1 ∧ p.held = [] ∧
    ({ p with held := [(1023, 0x300010000000 + 511 * 0x1000 + 0x300, 5)] } : Phy).held = [(1023, 0x300010000000 + 511 * 0x1000 + 0x300, 5)] := by
  decide +kernel

theorem test_meets_PackageEvents_more :
    base.clock % 32 ≠ 0 ∧ ({ base with clock := 64 } : State).clock % 32 = 0 ∧ base.via = [] ∧
    ({ base with outbox := [(3, { src := 0, srcCore := 0, seq := 7, body := .done 0 0 })] } : State).outbox ≠ [] := by decide +kernel

theorem test_meets_OutsideAccess_more :
    let s := objBase 0 1
    let x : Sector := ⟨2 ^ 46 + 0x200000, 1, false⟩
    let t := s.onCore fun c => { c with l1 := [⟨2 ^ 40 + 0x8000, 1, 5⟩] }
    let p : Packet := { src := 3, srcCore := 0, seq := 7, body := .marker 0 9 1 1 true }
    x.comp = false ∧ (∀ k, k < 24 → (s.die k).l2Line x.line = none ∧ (s.die k).mscLine x.line = none) ∧ s.staleCopies = [] ∧
    t.staleCopies ≠ [] ∧ s.relStale = [] ∧ (p.src, p.seq) ∉ s.seen ∧ s.linkUp .iow = true ∧
    ({ s with links := (false, true) } : State).linkUp .iow = false := by decide +kernel

theorem test_meets_MemoryEvents_more :
    (objBase 0 1).ctlOn (2 ^ 40 + 0x8000) = true ∧ base.ctlOn 0 = false ∧ (objBase 0 1).ctlOn (64 * 1024) = true ∧
    sysBase.heldBy sysBase.core.id = none := by decide +kernel

theorem test_meets_ObjectCommands_busy :
    let s := hostBase 1 []
    let t := s.onCore fun c => { c with wloads := [{ seq := 1, slot := 0, issue := 0, stream := true, rows := 64, mfmt := 0, hnd := handle5 }] }
    s.objectBusy 5 = false ∧ t.objectBusy 5 = true := by decide +kernel

theorem test_meets_PartitionsAndKeys_more :
    let s : State := { hostBase 0 [(0, 1), (1, 3)] with sessions := [{ id := 3, staged := [(1, 7)] }], keys := [] }
    (∀ x ∈ s.sessions, x.id = 3 → ∀ b, mget x.staged 1 = some b → b = 7) ∧ base.power ≠ .cold ∧
    base.part? 1 = none ∧ (s.part? 1).isSome = true := by
  refine ⟨?_, by decide +kernel⟩
  intro x hx _ b hb
  obtain rfl := List.mem_singleton.mp hx
  exact (Option.some.inj hb).symm

theorem test_meets_Doorbells_more :
    Accepts (hostBase 1 []) 1 0 true true ∧ Accepts (hostBase 0 [(0, 1), (1, 14)]) 0 3 true false ∧ 13 < (14 : Word).toNat ∧
    ((hostBase 0 [(0, 1), (1, 14)]).part? 1).isSome = true ∧ (hostBase 1 []).pkg < 512 := by
  refine ⟨accepts_of ?_, accepts_of ?_, ?_, ?_, ?_⟩ <;> decide +kernel

/-- Addresses of the scratchpad space with a key id and past its cores. -/
theorem test_meets_SystemWords_more :
    2 ≤ (2 ^ 45 + 2 ^ 46) / 2 ^ 44 % 4 ∧ (2 ^ 45 + 2 ^ 46) / 2 ^ 46 % 64 ≠ 0 ∧ (2 ^ 45 + 768 * 2 ^ 22) / 2 ^ 44 % 4 = 2 ∧
    768 ≤ (2 ^ 45 + 768 * 2 ^ 22) % 2 ^ 44 / 2 ^ 22 := by decide

/-- Appendix C.3 of FIPS 197: AES-256 of 00112233..FF under the key 00010203..1F. -/
theorem test_aes256 :
    aesEncrypt (aesKeys (List.range 32)) ((List.range 16).map (· * 0x11)) =
      [0x8E, 0xA2, 0xB7, 0xCA, 0x51, 0x67, 0x45, 0xBF, 0xEA, 0xFC, 0x49, 0x90, 0x4B, 0x49, 0x60, 0x89] ∧
    aesDecrypt (aesKeys (List.range 32)) [0x8E, 0xA2, 0xB7, 0xCA, 0x51, 0x67, 0x45, 0xBF, 0xEA, 0xFC, 0x49, 0x90, 0x4B, 0x49, 0x60, 0x89] =
      (List.range 16).map (· * 0x11) := by decide +kernel

end Sys2Proof.Tests
end

section
/-! PROOFS. A result for x0 is discarded when it lands (R11). -/

namespace Sys2Proof.Machine

open Sys2Proof

theorem setX_zero (a : Arch) (w : Word) : a.setX 0 w = a := if_pos rfl

theorem getX_zero (a : Arch) : a.getX 0 = 0 := if_pos rfl

theorem land_x_zero (c : Core) (w : Word) : c.land (.x 0 w) = c := by
  rw [Core.land, setX_zero]

/-- Whenever the registers are read, they are as if nothing had been written to x0. -/
theorem landed_writeX_zero (s : State) (w : Word) (lat n : Nat) : (s.writeX 0 w lat).landed n = s.landed n := by
  rcases Nat.lt_or_ge n (s.cycle + lat) with early | due
  · exact landed_pushResult_early s lat _ n early
  · simp only [State.writeX, State.landed, Core.landDue_eq, State.pushResult_core, Core.afterWrites, List.filter_append,
      List.filter_cons, List.filter_nil, due, decide_true, Dest.isRaise, Bool.not_false, ↓reduceIte, Bool.false_eq_true,
      List.append_nil, List.foldl_append, List.foldl_cons, List.foldl_nil, Core.land_all_pend, land_x_zero]

/-- Settles O2: `add` to x0 puts a result on its way that no later read sees. -/
theorem zeroRegister : Obligations.ZeroRegister := by
  unfold Obligations.ZeroRegister
  refine ⟨fun a w => ⟨setX_zero a w, getX_zero a⟩, fun s e f => ?_⟩
  refine ⟨s.writeX 0 (s.getX 0 + s.getX 0) 1, rfl, rfl, fun n r => ?_⟩
  rw [landed_writeX_zero]
  exact ⟨rfl, rfl⟩

end Sys2Proof.Machine
end

section
/-! PROOFS. The handle unit on objects of this package: which violation an access meets (R189), and where its resolution
stops (R194). -/

namespace Sys2Proof.Machine

open Sys2Proof

/-! ### Handles homed here -/

theorem elsewhere_of_home {s : State} {h : Word} (home : hHome h = s.pkg) : s.elsewhere h = false := by
  simp [State.elsewhere, home]

theorem learn_of_home {s : State} {h : Word} (home : hHome h = s.pkg) : s.learn h = s := by
  simp [State.learn, elsewhere_of_home home]

theorem renew_of_home {s : State} {h : Word} (home : hHome h = s.pkg) : s.renew h = s := by
  simp [State.renew, elsewhere_of_home home]

/-- The conditions under which a handle homed here names a live object, which case 1 of R189 denies. -/
theorem deadHandle_eq_false_iff {s : State} {h : Word} (home : hHome h = s.pkg) :
    s.deadHandle h = false ↔
      hLow h = 0 ∧ s.members.contains s.pkg = true ∧ (s.desc h).state ≠ 0 ∧ (s.desc h).state ≠ 3 ∧ (s.desc h).gen = hGen h := by
  simp [State.deadHandle, home, and_assoc]

/-! ### Rights (R189) -/

/-- `lacks` compares the eight rights of a handle or an object one by one. -/
theorem lacks_eq_false_iff (a b : Nat) : lacks a b = false ↔ ∀ j, j < 8 → a.testBit j = true → b.testBit j = true := by
  have hb (j : Nat) : (a &&& (255 - b % 256)).testBit j = (a.testBit j && (decide (j < 8) && !b.testBit j)) := by
    rw [Nat.testBit_and, show 255 - b % 256 = 2 ^ 8 - (b % 2 ^ 8 + 1) by omega,
      Nat.testBit_two_pow_sub_succ (Nat.mod_lt _ (by decide)), Nat.testBit_mod_two_pow]
    by_cases hj : j < 8 <;> simp [hj]
  have hz : lacks a b = false ↔ ∀ j, (a &&& (255 - b % 256)).testBit j = false := by
    rw [lacks, bne_eq_false_iff_eq]
    exact ⟨fun e j => by rw [e, Nat.zero_testBit], Nat.zero_of_testBit_eq_false⟩
  rw [hz]
  refine forall_congr' fun j => ?_
  rw [hb]
  by_cases hj : j < 8 <;> cases a.testBit j <;> cases b.testBit j <;> simp [hj]

theorem lacks_all (a : Nat) : lacks a 255 = false := by simp [lacks]

section
variable {s : State} {q : Requester} {h : Word}

theorem violation_of_dead (dead : s.deadHandle h = true) (need : Option Nat) : s.violation q h need = some (0x08, q.part) := by
  simp [State.violation, dead]

theorem violation_of_no_grant (live : s.deadHandle h = false) (other : q.part ≠ (s.desc h).part)
    (ungranted : s.grantOf (hKey h) q.part = none) (need : Option Nat) : s.violation q h need = some (0x08, (s.desc h).part) := by
  simp [State.violation, live, other, ungranted]

/-- The owner needs no grant. -/
theorem violation_of_owner (live : s.deadHandle h = false) (mine : q.part = (s.desc h).part) : s.violation q h none = none := by
  simp [State.violation, live, mine]

/-- What remains of R189 for the owner: the handle's rights fit the object's and cover what is needed. -/
theorem violation_of_owner_need (live : s.deadHandle h = false) (mine : q.part = (s.desc h).part) (n : Nat) :
    s.violation q h (some n) =
      if lacks (hRights h) (s.desc h).rights then some (0x08, (s.desc h).part)
      else if lacks n (hRights h) then some (0x09, (s.desc h).part) else none := by
  simp [State.violation, live, mine, lacks_all]

end

/-! ### Resolution, fault by fault -/

section
variable {s : State} {q : Requester} {pin : Option Nat} {info h : Word} {cs : List Nat} {bad : Bool} {o : Op8}

theorem resolveAt_illegal (hb : bad = true) (ok : s.violation q h none = none) :
    s.resolveAt q pin info h cs bad o = .error { raise := ⟨0x01, info, 0⟩ } := by
  simp [State.resolveAt, hb, ok]

theorem resolveAt_violation (hb : bad = false ∨ (s.violation q h none).isSome = true) {c : BitVec 8} {owner : Nat}
    (hv : s.violation q h (some o.need) = some (c, owner)) :
    s.resolveAt q pin info h cs bad o = .error { raise := ⟨c, h, 0⟩, log := some owner } := by
  have hn : (bad && (s.violation q h none).isNone) = false := by
    rcases hb with hb | hb
    · simp [hb]
    · simp [Option.isNone_eq_false_iff.mpr hb]
  simp [State.resolveAt, hn, hv]

theorem resolveAt_coefficient (hb : bad = false) (ok : s.violation q h (some o.need) = none) (coef : (s.desc h).layout = 2) :
    s.resolveAt q pin info h cs bad o = .error { raise := ⟨0x05, 0, h⟩ } := by
  simp [State.resolveAt, hb, ok, coef]

theorem resolveAt_format (hb : bad = false) (ok : s.violation q h (some o.need) = none) (plain : (s.desc h).layout ≠ 2)
    (fmt : o.fmtOk (s.desc h).fmt = false) : s.resolveAt q pin info h cs bad o = .error { raise := ⟨0x01, info, 0⟩ } := by
  simp [State.resolveAt, hb, ok, plain, fmt]

theorem resolveAt_outside (hb : bad = false) (ok : s.violation q h (some o.need) = none) (plain : (s.desc h).layout ≠ 2)
    (fmt : o.fmtOk (s.desc h).fmt = true) (out : ((cs.zip (s.desc h).dims).any fun p => decide (p.2 ≤ p.1)) = true) :
    s.resolveAt q pin info h cs bad o = .error { raise := ⟨0x0A, h, BitVec.ofNat 64 ((s.desc h).bitOf cs / 8)⟩ } := by
  simp only [State.resolveAt, hb, ok, plain, fmt, out, Bool.false_and, Bool.not_true, Bool.false_eq_true, ↓reduceIte]

end

/-- A coordinate past its dimension, in a tuple as long as the rank. -/
theorem tuple_outside {s : State} {i : XReg} {d : Desc}
    (out : ∃ k, k < d.rank ∧ d.dims.getD k 0 ≤ (s.tuple i d.rank).getD k 0) :
    (((s.tuple i d.rank).zip d.dims).any fun p => decide (p.2 ≤ p.1)) = true := by
  obtain ⟨k, hk, hle⟩ := out
  have hc : k < (s.tuple i d.rank).length := by simpa [State.tuple] using hk
  have hd : k < d.dims.length := by simpa [Desc.dims] using hk
  rw [List.getD_eq_getElem _ _ hc, List.getD_eq_getElem _ _ hd] at hle
  refine List.any_eq_true.mpr ⟨((s.tuple i d.rank)[k], d.dims[k]), List.mem_iff_getElem.mpr ⟨k, ?_, ?_⟩, decide_eq_true hle⟩
  · rw [List.length_zip]; omega
  · exact List.getElem_zip

end Sys2Proof.Machine
end

section
/-! PROOFS. The words of class 8: each passes its handle to resolution, and takes the fault that stops it (R192..R198, R200). -/

namespace Sys2Proof.Machine

open Sys2Proof

theorem with8_error {s : State} {h : Word} {i : XReg} {o : Op8} {f : HFault} (home : hHome h = s.pkg)
    (err : s.resolve8 h i o = .error f) (k : Target → State → State) :
    s.with8 h i o k = s.handleFault h (s.tuple i (s.desc h).rank) f := by
  simp [State.with8, learn_of_home home, err]

/-- A vector source in the spatial domain passes operand read (R194). -/
theorem vectorOut_spatial {s : State} {v : VCode} (hH : Tag.isH (s.getV v).tag = false) (hX : Tag.isX (s.getV v).tag = false)
    (h i : XReg) (k : Vec → State) : s.vectorOut v h i k = k (s.getV v).data := by
  simp [State.vectorOut, hH, hX]

theorem vectorOut_with8 {s : State} {v : VCode} (hH : Tag.isH (s.getV v).tag = false) (hX : Tag.isX (s.getV v).tag = false)
    {r i : XReg} {f : Vec → State} {h : Word} {o : Op8} (access : ∃ k, f (s.getV v).data = s.with8 h i o k) :
    ∃ k, s.vectorOut v r i f = s.with8 h i o k := by
  rw [vectorOut_spatial hH hX]; exact access

/-! What each operation of a handle word asks of the object (R194). -/
section
variable (s : State) (h : Word) (i : XReg)

theorem loadRun_with8 (d : VCode) : ∃ k, s.loadRun d h i = s.with8 h i { need := 1, run := true } k := by
  unfold State.loadRun; exact ⟨_, rfl⟩

theorem loadElem_with8 (d : XReg) : ∃ k, s.loadElem d h i = s.with8 h i { need := 1 } k := by
  unfold State.loadElem; exact ⟨_, rfl⟩

theorem storeBits_with8 (run : Bool) (v : Nat) :
    ∃ k, s.storeBits h i run v = s.with8 h i { need := 2, run := run, write := true } k := by
  unfold State.storeBits; exact ⟨_, rfl⟩

theorem atomicElem_with8 (code : Nat) (op : AtomicOp) (fp : Bool) (d : XReg) (nr : Bool) :
    ∃ k, s.atomicElem code op fp d h i nr = s.with8 h i { need := 4, write := true, atomic := true, fpOnly := fp } k := by
  unfold State.atomicElem; extract_lets; exact ⟨_, rfl⟩

theorem atomicRun_with8 (mx : Bool) (v : Vec) :
    ∃ k, s.atomicRun mx h i v = s.with8 h i { need := 4, run := true, write := true, atomic := true, vec := true } k := by
  unfold State.atomicRun; exact ⟨_, rfl⟩

end

section
variable {s : State} (sys : s.core.isSys = false)
include sys

theorem exec_with8 {w : Instr} {f : State → State} (run : exec w s = s.computeWord w f) (wf : w.wf = true) {h : Word} {i : XReg}
    {o : Op8} (access : ∃ k, f s = s.with8 h i o k) : ∃ k, exec w s = .next (s.with8 h i o k) := by
  obtain ⟨k, hk⟩ := access
  exact ⟨k, by rw [run, State.computeWord_next _ _ _ sys wf, hk]⟩

theorem exec_atomicWord (d h i : XReg) (nr e : Bool) :
    ∀ p ∈ atomicWords, (p.1 d h i nr e).wf = true → ∃ k, exec (p.1 d h i nr e) s =
      .next (s.with8 (s.getX h) i { need := 4, write := true, atomic := true, fpOnly := p.2.1 } k) := by
  simp only [atomicWords, List.forall_mem_cons, List.not_mem_nil, false_imp_iff, implies_true, and_true]
  refine ⟨?_, ?_, ?_, ?_, ?_, ?_, ?_, ?_, ?_, ?_, ?_, ?_⟩ <;>
    exact fun wf => exec_with8 sys (f := fun s => s.atomicElem _ _ _ d (s.getX h) i nr) rfl wf (atomicElem_with8 ..)

/-- Every word of class 8 on one object is an access that asks of it what R194 lists. -/
theorem exec_handleWord {v : VCode} (hH : Tag.isH (s.getV v).tag = false) (hX : Tag.isX (s.getV v).tag = false)
    (d h i : XReg) (nr e : Bool) :
    ∀ p ∈ handleWords d v h i nr e, p.1.wf = true → ∃ k, exec p.1 s = .next (s.with8 (s.getX h) i p.2 k) := by
  simp only [handleWords, List.forall_mem_append, List.forall_mem_cons, List.forall_mem_map, List.not_mem_nil, false_imp_iff,
    implies_true, and_true]
  refine ⟨⟨fun wf => ?hld, fun wf => ?hlds, fun wf => ?hst, fun wf => ?hsts, fun wf => ?hacas, fun wf => ?hvadd, fun wf => ?hvmax⟩,
    exec_atomicWord sys d h i nr e⟩
  case hld => exact exec_with8 sys (f := fun s => s.loadRun v (s.getX h) i) rfl wf (loadRun_with8 ..)
  case hlds => exact exec_with8 sys (f := fun s => s.loadElem d (s.getX h) i) rfl wf (loadElem_with8 ..)
  case hst =>
    exact exec_with8 sys (f := fun s => s.vectorOut v h i fun x => s.storeBits (s.getX h) i true x.toNat) rfl wf
      (vectorOut_with8 hH hX (storeBits_with8 ..))
  case hsts => exact exec_with8 sys (f := fun s => s.storeBits (s.getX h) i false (s.getX d).toNat) rfl wf (storeBits_with8 ..)
  case hacas => exact exec_with8 sys (f := fun s => s.atomicElem 14 .cas false d (s.getX h) i nr) rfl wf (atomicElem_with8 ..)
  case hvadd =>
    exact exec_with8 sys (f := fun s => s.vectorOut v h i fun x => s.atomicRun false (s.getX h) i x) rfl wf
      (vectorOut_with8 hH hX (atomicRun_with8 ..))
  case hvmax =>
    exact exec_with8 sys (f := fun s => s.vectorOut v h i fun x => s.atomicRun true (s.getX h) i x) rfl wf
      (vectorOut_with8 hH hX (atomicRun_with8 ..))

/-- A handle word on an object of this package takes the fault that stops its access. -/
theorem exec_handleWord_error {v : VCode} (hH : Tag.isH (s.getV v).tag = false) (hX : Tag.isX (s.getV v).tag = false)
    {d h i : XReg} {nr e : Bool} {p : Instr × Op8} (mem : p ∈ handleWords d v h i nr e) (wf : p.1.wf = true)
    (home : hHome (s.getX h) = s.pkg) {f : HFault} (err : s.resolve8 (s.getX h) i p.2 = .error f) :
    exec p.1 s = .next (s.handleFault (s.getX h) (s.tuple i (s.desc (s.getX h)).rank) f) := by
  obtain ⟨k, hk⟩ := exec_handleWord sys hH hX d h i nr e p mem wf
  rw [hk, with8_error home err]

end

/-! ### `hinfo` (R200) -/

/-- The value log alone learns that a producer has issued (R326). -/
theorem logIssue_frame (c : Core) (reg cyc : Nat) :
    c.logIssue reg cyc = { c with valueLog := (c.logIssue reg cyc).valueLog } := by
  unfold Core.logIssue; split <;> rfl

/-- A variable-latency scalar result empties its register and is scheduled, and nothing else changes. -/
theorem produceX_arrives (s : State) (d : XReg) (v : Word) (due : Nat) : ArrivesX s (s.produceX d v due) d v due := by
  have logged := logIssue_frame s.core d.toNat s.cycle
  unfold ArrivesX State.produceX State.onCore
  beta_reduce
  generalize s.core.logIssue d.toNat s.cycle = c at logged ⊢
  rw [logged]
  rfl

theorem objInfo_of_home {s : State} {h : Word} (home : hHome h = s.pkg)
    (ok : s.violation (s.core.requester s.pkg .core) h none = none) (d : XReg) (sel : Word) :
    s.objInfo d h sel = ({ s with fresh := s.fresh + 1 } : State).produceX d (infoWord (s.desc h) sel.toNat)
      (s.cycle + 1 + Config.delay .load s.fresh) := by
  simp [State.objInfo, learn_of_home home, renew_of_home home, ok, State.draw]

theorem infoWord_stored (d : Desc) {sel : Nat} (h : sel < 5 ∨ sel = 7) : infoWord d sel = d.extractLsb' (64 * sel) 64 := by
  rw [infoWord, if_neg (by omega), if_pos h]
  refine BitVec.eq_of_toNat_eq ?_
  rw [BitVec.extractLsb'_toNat, BitVec.toNat_ofNat, Desc.f, Nat.mod_mod, Nat.shiftRight_eq_div_pow]

theorem infoWord_zero (d : Desc) {sel : Nat} (h : sel = 6 ∨ 7 < sel) : infoWord d sel = 0 := by
  rw [infoWord, if_neg (by omega), if_neg (by omega)]

/-- SHMAP is returned with its rights replaced by READ alone (R200). -/
theorem infoWord_shmap (d : Desc) (mapped : d.shmap ≠ 0) {j : Nat} (hj : j < 64) (field : ¬ (4 ≤ j ∧ j < 12)) :
    (infoWord d 5).getLsbD j = d.shmap.testBit j := by
  have masked : (0xFF0#64).getLsbD j = false := by revert j; decide
  have read : (0x10 : Word).getLsbD j = false := by revert j; decide
  rw [infoWord, if_pos rfl, if_neg mapped, BitVec.getLsbD_or, BitVec.getLsbD_and, BitVec.getLsbD_not, BitVec.getLsbD_ofNat,
    masked, read]
  simp [hj]

end Sys2Proof.Machine
end

section
/-! PROOFS. A prefetch moves memory below the handle unit (R196), and an atomic whose sector is served returns an old value (R285). -/

namespace Sys2Proof.Machine

open Sys2Proof

/-! ### Prefetches -/

/-- A read of sectors that this package serves leaves what it knows of other packages alone. -/
theorem below_readServed_here (s : State) (c : Nat) (l1 : Bool) (k : Nat) (own : Bool) (l : List Served)
    (here : ∀ y ∈ l, ∃ x we, y = .ok x we) : Below s (s.readServed c l1 k own l).2 := by
  induction l generalizing s with
  | nil => exact .refl s
  | cons y t ih =>
    obtain ⟨x, we, rfl⟩ := here y (List.mem_cons_self ..)
    have hx := below_readSector s c x l1 k
    unfold State.readServed
    rcases hr : s.readSector c x l1 k with ⟨_ | m, s1⟩
    · simpa [hr] using hx
    · have ht := ih s1 fun y hy => here y (List.mem_cons_of_mem _ hy)
      rw [hr] at hx
      rcases hrest : s1.readServed c l1 k own t with ⟨e | b, s2⟩ <;> rw [hrest] at ht <;>
        simpa only [hr, hrest] using hx.trans ht

theorem below_readBits_here (s : State) (c : Nat) (l1 : Bool) (l : List Served) (b n : Nat) (own : Bool)
    (here : ∀ y ∈ l, ∃ x we, y = .ok x we) : Below s (s.readBits c l1 l b n own).2 := by
  have read := fun k => below_readServed_here s c l1 k own l here
  unfold State.readBits
  split
  · rename_i he; exact Below.of_eq (read _) he
  · exact read _

theorem prefetch_of_error {s : State} {h : Word} {i : XReg} {f : HFault}
    (err : s.resolve8 h i { need := 1, run := true } = .error f) : s.prefetch h i = s := by
  simp [State.prefetch, err]

/-- What a prefetch can do: it is dropped, or kept back by an L2 that takes no requests (R272), or it reads sectors of this package. -/
theorem prefetch_cases (s : State) (h : Word) (i : XReg) :
    s.prefetch h i = s ∨
    (s.l2Holds s.core.id = true ∧ ∃ more, s.prefetch h i = { s with pfHeld := s.pfHeld ++ more }) ∨
    (s.l2Holds s.core.id = false ∧ ∃ l b n, (∀ y ∈ l, ∃ x we, y = Served.ok x we) ∧
      s.prefetch h i = (s.readBits s.core.id true l b n).2) := by
  unfold State.prefetch
  split
  · exact .inl rfl
  · rename_i t _
    split
    · rename_i here
      split
      · rename_i held
        exact .inr (.inl ⟨held, _, rfl⟩)
      · rename_i takes
        refine .inr (.inr ⟨by simpa using takes, t.span, t.bit, t.n, fun y hy => ?_, rfl⟩)
        have hy := List.all_eq_true.mp here y hy
        cases y with
        | ok x we => exact ⟨x, we, rfl⟩
        | missing => cases hy
        | remote => cases hy
    · exact .inl rfl

theorem prefetch_moves {s : State} (takes : s.l2Holds s.core.id = false) (h : Word) (i : XReg) :
    MemoryMoves s (s.prefetch h i) := by
  obtain dropped | ⟨held, -⟩ | ⟨-, l, b, n, here, read⟩ := prefetch_cases s h i
  · rw [dropped]; exact .refl s
  · rw [takes] at held; cases held
  · rw [read]; exact (below_readBits_here s _ _ l b n _ here).moves

theorem prefetch_held {s : State} (held : s.l2Holds s.core.id = true) (h : Word) (i : XReg) :
    ∃ more, s.prefetch h i = { s with pfHeld := s.pfHeld ++ more } := by
  obtain dropped | ⟨-, kept⟩ | ⟨takes, -⟩ := prefetch_cases s h i
  · exact ⟨[], by rw [dropped, List.append_nil]⟩
  · exact kept
  · rw [takes] at held; cases held

/-! ### Atomics at their place -/

theorem Below.ctlOn_eq {s t : State} (h : Below s t) (line : Nat) : t.ctlOn line = s.ctlOn line := by
  rw [h.moves.1]; rfl

theorem Below.cycle_eq {s t : State} (h : Below s t) : t.cycle = s.cycle := by
  rw [h.moves.1]; rfl

/-- The controller, or the MSC, gives a line that is not compressed wherever its channel is on (R370). -/
theorem takeLine_served {s : State} {line : Nat} (on : s.ctlOn line = true) (who : Option Nat) :
    ∃ data dirty t, s.takeLine line false who = (some data, dirty, t) := by
  unfold State.takeLine
  extract_lets home
  split
  · exact ⟨_, _, _, rfl⟩
  · exact ⟨s.plainSector line, false, s.meterLine line false who, by simp [State.ctlSector, on]⟩

/-- Where a line's channel is on, an L2 holds the line, or passes it on without keeping it (R282). -/
theorem haveL2_served {s : State} {line : Nat} (on : s.ctlOn line = true) (d cls : Nat) (own pin : Bool) (who : Option Nat) :
    ∃ l t, s.haveL2 d line cls false own pin who = (some l, t) := by
  unfold State.haveL2
  extract_lets s0 held s1
  have h0 : Below s s0 := by
    show Below s (match (s.die d).l2Line line with | some l => s.wakeWay d l.way | none => s)
    split
    · exact below_wakeWay ..
    · exact .refl s
  have h1 : Below s s1 :=
    h0.trans (below_ite _ (below_ite _ (.refl s0) (below_dirOwn ..)) (below_ite _ (.refl s0) (below_dirRead ..)))
  obtain ⟨data, dirty, t, taken⟩ := takeLine_served ((h1.ctlOn_eq line).trans on) who
  clear_value s1
  rw [taken]
  split
  · exact ⟨_, _, rfl⟩
  · dsimp only
    split <;> exact ⟨_, _, rfl⟩

theorem forwarded_still {s : State} {line : Nat} (still : s.migrated line = (line, false)) : s.forwarded line = (line, s) := by
  simp [State.forwarded, still]

/-- An atomic on a sector that is served everywhere finds an old value at each of the five places of R285. -/
theorem atomicSector_served {s : State} {c : Nat} {x : Sector} (ok : s.sectorOk x = true) (allowed : s.refusedAt c x = false)
    (still : s.migrated x.line = (x.line, false)) (ret : Bool) (f : Mask → Mask) :
    ∃ m t, s.atomicSector c x ret f = (some m, t) := by
  obtain ⟨addr, on⟩ : s.addrOk x = true ∧ s.ctlOn x.line = true := by simpa [State.sectorOk] using ok
  unfold State.atomicSector
  rw [if_neg (by simp [State.reachOk, addr, on, allowed]), forwarded_still still]
  split
  case isTrue pad => exact ⟨_, _, rfl⟩
  dsimp -zeta only
  extract_lets s1 home old s2 atL2 s3 old3
  have moved : Below s s2 := (below_modL1 ..).trans (below_dirUse ..)
  have atL2_served (d : Nat) : ∃ m t, atL2 d s2 = (some m, t) := by
    obtain ⟨⟨l, held⟩, t, filled⟩ := haveL2_served ((moved.ctlOn_eq x.line).trans on) d (classOf false false x.line) true
      (x.home == 2) (some c)
    simp only [atL2, filled]
    exact ⟨_, _, rfl⟩
  clear_value atL2 s2
  split
  case isTrue stored => exact ⟨_, _, rfl⟩
  split
  case h_1 d _ => exact atL2_served d
  split
  case h_1 m _ =>
    split
    case isTrue atMsc => exact ⟨_, _, rfl⟩
    case isFalse => exact atL2_served home
  case h_2 =>
    split
    case isTrue => exact atL2_served home
    case isFalse atCtl => exact ⟨_, _, rfl⟩

theorem performAtomic_served {s : State} {c : Nat} {x : Sector} (ok : s.sectorOk x = true) (allowed : s.refusedAt c x = false)
    (still : s.migrated x.line = (x.line, false)) (op : AtomicOp) (w fmt bit v new : Nat) (ret : Bool) :
    ∃ old t, s.performAtomic c x op w fmt bit v new ret = (.ok old, t) ∧ Below s t := by
  obtain ⟨m, t, done⟩ := atomicSector_served ok allowed still ret (atomicOnSector op w fmt bit v new)
  refine ⟨m.toNat / 2 ^ bit % 2 ^ w, t, by rw [State.performAtomic, done], ?_⟩
  have moved := below_atomicSector s c x ret (atomicOnSector op w fmt bit v new)
  rw [done] at moved
  exact moved

end Sys2Proof.Machine
end

section
/-! PROOFS. Where a handle stops an access; hinfo, hpf and forwarded atomics (R189..R202, R272, R285). -/

namespace Sys2Proof.Machine

open Sys2Proof

/-- An atomic needs elements of a byte or more (R194). -/
theorem fmtOk_atomic_nibble {o : Op8} {fmt : Nat} (ha : o.atomic = true) (hw : fmtWidth fmt = 4) : o.fmtOk fmt = false := by
  simp [Op8.fmtOk, ha, hw]

theorem fmtOk_of_not_atomic {o : Op8} (ha : o.atomic = false) (fmt : Nat) : o.fmtOk fmt = true := by
  simp [Op8.fmtOk, ha]

section
variable {s : State} {h : Word} {i : XReg} {o : Op8}

theorem resolve8_dead (dead : s.deadHandle h = true) :
    s.resolve8 h i o = .error { raise := ⟨0x08, h, 0⟩, log := some s.core.tk.part } :=
  resolveAt_violation (.inr (by rw [violation_of_dead dead]; rfl)) (violation_of_dead dead _)

theorem resolve8_no_grant (live : s.deadHandle h = false) (other : s.core.tk.part ≠ (s.desc h).part)
    (ungranted : s.grantOf (hKey h) s.core.tk.part = none) :
    s.resolve8 h i o = .error { raise := ⟨0x08, h, 0⟩, log := some (s.desc h).part } :=
  have refused := violation_of_no_grant (q := s.core.requester s.pkg .core) live other ungranted
  resolveAt_violation (.inr (by rw [refused]; rfl)) (refused _)

section
variable (live : s.deadHandle h = false) (mine : s.core.tk.part = (s.desc h).part)
include live mine

theorem resolve8_tuple_over (past : 64 < i.toNat + (s.desc h).rank) :
    s.resolve8 h i o = .error { raise := ⟨0x01, s.wordInfo, 0⟩ } :=
  resolveAt_illegal (decide_eq_true past) (violation_of_owner (q := s.core.requester s.pkg .core) live mine)

theorem violation_of_rights (current : lacks (hRights h) (s.desc h).rights = false) (right : lacks o.need (hRights h) = false) :
    s.violation (s.core.requester s.pkg .core) h (some o.need) = none := by
  rw [violation_of_owner_need (q := s.core.requester s.pkg .core) live mine, if_neg (by simp [current]), if_neg (by simp [right])]

variable (fits : i.toNat + (s.desc h).rank ≤ 64)
include fits

theorem resolve8_stale_rights (stale : lacks (hRights h) (s.desc h).rights = true) :
    s.resolve8 h i o = .error { raise := ⟨0x08, h, 0⟩, log := some (s.desc h).part } :=
  resolveAt_violation (.inl (decide_eq_false (by omega)))
    (by rw [violation_of_owner_need (q := s.core.requester s.pkg .core) live mine, if_pos stale])

theorem resolve8_missing_right (current : lacks (hRights h) (s.desc h).rights = false)
    (missing : lacks o.need (hRights h) = true) :
    s.resolve8 h i o = .error { raise := ⟨0x09, h, 0⟩, log := some (s.desc h).part } :=
  resolveAt_violation (.inl (decide_eq_false (by omega))) (by
    rw [violation_of_owner_need (q := s.core.requester s.pkg .core) live mine, if_neg (by simp [current]), if_pos missing])

variable (current : lacks (hRights h) (s.desc h).rights = false) (right : lacks o.need (hRights h) = false)
include current right

theorem resolve8_coefficient (coef : (s.desc h).layout = 2) : s.resolve8 h i o = .error { raise := ⟨0x05, 0, h⟩ } :=
  resolveAt_coefficient (decide_eq_false (by omega)) (violation_of_rights live mine current right) coef

variable (plain : (s.desc h).layout ≠ 2)
include plain

theorem resolve8_format (fmt : o.fmtOk (s.desc h).fmt = false) : s.resolve8 h i o = .error { raise := ⟨0x01, s.wordInfo, 0⟩ } :=
  resolveAt_format (decide_eq_false (by omega)) (violation_of_rights live mine current right) plain fmt

theorem resolve8_outside (fmt : o.fmtOk (s.desc h).fmt = true)
    (out : ∃ k, k < (s.desc h).rank ∧ (s.desc h).dims.getD k 0 ≤ (s.tuple i (s.desc h).rank).getD k 0) :
    s.resolve8 h i o = .error { raise :=
      ⟨0x0A, h, BitVec.ofNat 64 ((s.desc h).bitOf (s.tuple i (s.desc h).rank) / 8)⟩ } :=
  resolveAt_outside (decide_eq_false (by omega)) (violation_of_rights live mine current right) plain fmt (tuple_outside out)

end
end

section
variable {s : State} (sys : s.core.isSys = false)
include sys

theorem exec_hinfo {d h x : XReg} {e : Bool} (wf : (Instr.hinfo d h x e).wf = true) (home : hHome (s.getX h) = s.pkg)
    (ok : s.violation (s.core.requester s.pkg .core) (s.getX h) none = none) :
    exec (.hinfo d h x e) s = .next (({ s with fresh := s.fresh + 1 } : State).produceX d
      (infoWord (s.desc (s.getX h)) (s.getX x).toNat) (s.cycle + 1 + Config.delay .load s.fresh)) := by
  rw [← objInfo_of_home home ok]
  exact State.computeWord_next s _ (fun s => s.objInfo d (s.getX h) (s.getX x)) sys wf

theorem exec_hpf {h i : XReg} {e : Bool} (wf : (Instr.hpf h i e).wf = true) :
    exec (.hpf h i e) s = .next (s.prefetch (s.getX h) i) :=
  State.computeWord_next s _ (fun s => s.prefetch (s.getX h) i) sys wf

end

/-- The sector of an atomic that arrives from elsewhere. -/
def arrivalSector (q : AtomicReq) : Sector := ⟨q.addr / 64 * 64, q.home, false⟩

/-- An atomic that arrives and is served has its old value sent where one is asked for (R285). -/
theorem exec_atomicPerformed {s : State} {q : AtomicReq} (ok : s.sectorOk (arrivalSector q) = true)
    (allowed : s.refusedAt q.core (arrivalSector q) = false)
    (still : s.migrated (arrivalSector q).line = ((arrivalSector q).line, false)) :
    ∃ m was, MemoryMoves s m ∧ exec (.atomicPerformed q) s =
      .next (if q.ret then m.sched (s.cycle + 1) ptLand (.valueArrives q.core (.x q.dest was)) else m) := by
  obtain ⟨old, m, done, moved⟩ := performAtomic_served ok allowed still q.op q.width q.fmt (q.addr % 64 * 8)
    (q.operand.toNat % 2 ^ q.width) (q.newVal.toNat % 2 ^ q.width) q.ret
  refine ⟨m, elemWord q.fmt q.width old, moved.moves, ?_⟩
  show execAtomicPerformed q s = _
  unfold execAtomicPerformed State.event
  unfold arrivalSector at done
  simp only [done, moved.cycle_eq]

/-- Settles O27: resolution takes its checks in the order of R194, and every word of class 8 takes the fault that it answers. -/
theorem handleFaultsAndQueries : Obligations.HandleFaultsAndQueries := by
  unfold Obligations.HandleFaultsAndQueries
  refine ⟨?faults, ?hinfo, ?hpf, ?arrivals⟩
  case faults =>
    intro s d v h i nr e sys H D cs home hH hX
    refine ⟨fun p mem wf f err => exec_handleWord_error sys hH hX mem wf home err, fun o => ?_⟩
    intro stops live subset mine
    have alive : live ↔ s.deadHandle H = false := (deadHandle_eq_false_iff home).symm
    have rights (a b : Nat) : subset a b ↔ lacks a b = false := (lacks_eq_false_iff a b).symm
    have absent (a b : Nat) : ¬ subset a b ↔ lacks a b = true := by rw [rights, Bool.not_eq_false]
    refine ⟨fun dead => ?_, fun l other ungranted => ?_, fun l m past => ?_, fun l m fits _ stale => ?_,
      fun l m fits _ current missing => ?_, fun l m fits _ current right => ⟨fun coef => ?_, fun plain ha hw => ?_,
        fun plain ha out => ?_⟩⟩
    · exact resolve8_dead (by rw [alive] at dead; simpa using dead)
    · exact resolve8_no_grant (alive.mp l) other ungranted
    · exact resolve8_tuple_over (alive.mp l) m past
    · exact resolve8_stale_rights (alive.mp l) m fits ((absent _ _).mp stale)
    · exact resolve8_missing_right (alive.mp l) m fits ((rights _ _).mp current) ((absent _ _).mp missing)
    · exact resolve8_coefficient (alive.mp l) m fits ((rights _ _).mp current) ((rights _ _).mp right) coef
    · exact resolve8_format (alive.mp l) m fits ((rights _ _).mp current) ((rights _ _).mp right) plain
        (fmtOk_atomic_nibble ha hw)
    · exact resolve8_outside (alive.mp l) m fits ((rights _ _).mp current) ((rights _ _).mp right) plain
        (fmtOk_of_not_atomic ha _) out
  case hinfo =>
    intro s d h x e sys wf H sel ok home
    refine ⟨_, exec_hinfo sys wf home ok, _, infoWord (s.desc H) sel, by omega, infoWord_stored _, infoWord_zero _,
      fun is5 j hj field mapped => ?_, produceX_arrives ..⟩
    rw [is5]
    exact infoWord_shmap _ mapped hj field
  case hpf =>
    intro s h i e sys wf
    refine ⟨fun f err => ?_, fun takes => ?_, fun held => ?_⟩
    · rw [exec_hpf sys wf, prefetch_of_error err]
    · exact ⟨_, exec_hpf sys wf, prefetch_moves takes _ _⟩
    · obtain ⟨more, kept⟩ := prefetch_held held (s.getX h) i
      exact ⟨_, exec_hpf sys wf, ⟨more, by rw [kept]⟩, by rw [kept]⟩
  case arrivals =>
    intro s q _ x ok allowed still
    obtain ⟨m, was, moved, done⟩ := exec_atomicPerformed (q := q) ok allowed still
    refine ⟨fun quiet => ⟨m, by rw [done, quiet]; rfl, moved⟩, fun ret => ?_⟩
    exact ⟨_, by rw [done, ret]; rfl, m, was, moved, rfl⟩

end Sys2Proof.Machine
end

section
/-! PROOFS. Words as numbers: shifts, sums and products of words, bit counts and bit fields (R50), immediates (R53). -/

namespace Sys2Proof.Machine

open Sys2Proof

/-! ### Arithmetic modulo 2^64 -/

theorem ofNat_mul_two_pow (x : Word) (n : Nat) : BitVec.ofNat 64 (x.toNat * 2 ^ n) = x <<< n := by
  apply BitVec.eq_of_toNat_eq
  simp [BitVec.toNat_shiftLeft, Nat.shiftLeft_eq]

theorem ofNat_div_two_pow (x : Word) (n : Nat) : BitVec.ofNat 64 (x.toNat / 2 ^ n) = x >>> n := by
  apply BitVec.eq_of_toNat_eq
  rw [BitVec.toNat_ofNat, BitVec.toNat_ushiftRight, Nat.shiftRight_eq_div_pow, Nat.mod_eq_of_lt]
  exact Nat.lt_of_le_of_lt (Nat.div_le_self ..) x.isLt

theorem ofInt_div_two_pow (x : Word) (n : Nat) : BitVec.ofInt 64 (x.toInt / 2 ^ n) = x.sshiftRight n := by
  rw [BitVec.sshiftRight, Int.shiftRight_eq_div_pow]; norm_cast

theorem ofInt_add_toInt (x y : Word) : BitVec.ofInt 64 (x.toInt + y.toInt) = x + y := by
  rw [BitVec.ofInt_add, BitVec.ofInt_toInt, BitVec.ofInt_toInt]

theorem ofInt_sub_toInt (x y : Word) : BitVec.ofInt 64 (x.toInt - y.toInt) = x - y := by
  rw [Int.sub_eq_add_neg, BitVec.ofInt_add, BitVec.ofInt_neg, BitVec.ofInt_toInt, BitVec.ofInt_toInt, BitVec.sub_eq_add_neg]

theorem ofNat_add_toNat (x y : Word) : BitVec.ofNat 64 (x.toNat + y.toNat) = x + y := by
  simp [BitVec.ofNat_add]

theorem ofNat_mul_toNat (x y : Word) : BitVec.ofNat 64 (x.toNat * y.toNat) = x * y := by
  simp [BitVec.ofNat_mul]

theorem mulHigh_eq (x y : Word) : mulHigh x y = BitVec.ofInt 64 (x.toInt * y.toInt / 2 ^ 64) := by
  rw [mulHigh, Int.natCast_pow]; rfl

theorem rotateLeft_shCount (x y : Word) :
    x.rotateLeft (shCount y) = x <<< (y.toNat % 64) ||| x >>> (64 - y.toNat % 64) := by
  rw [BitVec.rotateLeft_def, shCount, Nat.mod_mod]

/-! ### Comparisons -/

/-- Where the values at equal keys are the same, which of the two is taken there does not matter. -/
theorem ite_lt_eq_ite_le {α β : Type} [LinearOrder β] {m n : β} {a b : α} (same : m = n → b = a) :
    (if m < n then a else b) = if m ≤ n then a else b := by
  rcases lt_trichotomy m n with lt | eq | gt
  · rw [if_pos lt, if_pos lt.le]
  · rw [if_neg eq.not_lt, if_pos eq.le, same eq]
  · rw [if_neg gt.not_gt, if_neg gt.not_ge]

section
variable (x y : Word)

theorem ite_slt {α : Type} (a b : α) : (if x.slt y then a else b) = if x.toInt < y.toInt then a else b := by
  simp only [BitVec.slt_iff_toInt_lt]

theorem min_signed : (if x.slt y then x else y) = if x.toInt ≤ y.toInt then x else y :=
  (ite_slt ..).trans (ite_lt_eq_ite_le fun eq => (BitVec.eq_of_toInt_eq eq).symm)

theorem max_signed : (if x.slt y then y else x) = if x.toInt ≤ y.toInt then y else x :=
  (ite_slt ..).trans (ite_lt_eq_ite_le BitVec.eq_of_toInt_eq)

theorem min_unsigned : (if x < y then x else y) = if x.toNat ≤ y.toNat then x else y :=
  ite_lt_eq_ite_le (m := x.toNat) fun eq => (BitVec.eq_of_toNat_eq eq).symm

theorem max_unsigned : (if x < y then y else x) = if x.toNat ≤ y.toNat then y else x :=
  ite_lt_eq_ite_le (m := x.toNat) BitVec.eq_of_toNat_eq

theorem bool64_slt : bool64 (x.slt y) = if x.toInt < y.toInt then 1 else 0 := ite_slt ..

theorem bool64_ult : bool64 (x.ult y) = if x.toNat < y.toNat then 1 else 0 := by
  simp only [bool64, BitVec.ult, decide_eq_true_eq]

theorem bool64_beq : bool64 (x == y) = if x = y then 1 else 0 := by
  simp only [bool64, beq_iff_eq]

end

/-! ### Bit counts -/

theorem countLeading_spec (x : Word) : ∃ n : Nat, n ≤ 64 ∧ (∀ i, 64 ≤ i + n → i < 64 → x.getLsbD i = false) ∧
    (n < 64 → x.getLsbD (63 - n) = true) ∧ countLeading x = BitVec.ofNat 64 n := by
  by_cases zero : x = 0
  · exact ⟨64, le_rfl, fun i _ _ => by simp [zero], fun h => absurd h (lt_irrefl _), by simp [countLeading, zero]⟩
  · have pos : x.toNat ≠ 0 := fun h => zero (BitVec.eq_of_toNat_eq h)
    have top : x.toNat.log2 < 64 := (Nat.log2_lt pos).mpr x.isLt
    refine ⟨63 - x.toNat.log2, by omega, fun i past _ => ?_, fun _ => ?_, if_neg zero⟩
    · exact Nat.testBit_lt_two_pow ((Nat.log2_lt pos).mp (by omega))
    · rw [show 63 - (63 - x.toNat.log2) = x.toNat.log2 by omega]
      exact Nat.testBit_log2 pos

theorem countTrailing_spec (x : Word) : ∃ n : Nat, n ≤ 64 ∧ (∀ i, i < n → x.getLsbD i = false) ∧
    (n < 64 → x.getLsbD n = true) ∧ countTrailing x = BitVec.ofNat 64 n := by
  cases found : (List.range 64).find? x.getLsbD with
  | none =>
    refine ⟨64, le_rfl, fun i hi => ?_, fun h => absurd h (lt_irrefl _), by rw [countTrailing, found]; rfl⟩
    simpa using List.find?_eq_none.mp found i (List.mem_range.mpr hi)
  | some n =>
    obtain ⟨one, mem, below⟩ := List.find?_range_eq_some.mp found
    refine ⟨n, (List.mem_range.mp mem).le, fun i hi => ?_, fun _ => one, by rw [countTrailing, found]; rfl⟩
    simpa using below i hi

theorem length_filter_eq_sum {α : Type} (p : α → Bool) (l : List α) : (l.filter p).length = (l.map fun a => (p a).toNat).sum := by
  induction l with
  | nil => rfl
  | cons a l ih => cases h : p a <;> simp [h, ih, Nat.add_comm]

theorem countOnes_eq (x : Word) :
    countOnes x = BitVec.ofNat 64 ((List.range 64).map fun i => (x.getLsbD i).toNat).sum := by
  rw [countOnes, length_filter_eq_sum]

/-! ### Bit fields -/

theorem getLsbD_signExtendFrom (x : Word) {n i : Nat} (hn : n < 64) (hi : i < 64) :
    (signExtendFrom x n).getLsbD i = x.getLsbD (min i n) := by
  rw [signExtendFrom, BitVec.getLsbD_sshiftRight, decide_eq_false (by omega), Bool.not_false, Bool.true_and]
  by_cases inside : i ≤ n
  · rw [if_pos (by omega), BitVec.getLsbD_shiftLeft, min_eq_left inside, show 63 - n + i - (63 - n) = i by omega]
    simp; omega
  · rw [BitVec.msb_eq_getLsbD_last, if_neg (by omega), BitVec.getLsbD_shiftLeft, min_eq_right (by omega),
      show 64 - 1 - (63 - n) = n by omega]
    simp

theorem getLsbD_onesLow (w i : Nat) : (onesLow w).getLsbD i = (decide (i < 64) && decide (i < w)) := by
  rw [onesLow, BitVec.getLsbD_ofNat, Nat.testBit_two_pow_sub_one]

theorem getLsbD_bitExtract (x y : Word) {i : Nat} (hi : i < 64) :
    (bitExtract x y).getLsbD i = (decide (i < fieldWidth y) && x.getLsbD (shCount y + i)) := by
  rw [bitExtract, BitVec.getLsbD_and, BitVec.getLsbD_ushiftRight, getLsbD_onesLow, decide_eq_true hi, Bool.true_and, Bool.and_comm]

theorem getLsbD_bitInsert (old x y : Word) {i : Nat} (hi : i < 64) :
    (bitInsert old x y).getLsbD i =
      if shCount y ≤ i ∧ i < shCount y + fieldWidth y then x.getLsbD (i - shCount y) else old.getLsbD i := by
  have mask : (onesLow (fieldWidth y) <<< shCount y).getLsbD i = decide (shCount y ≤ i ∧ i < shCount y + fieldWidth y) := by
    rw [BitVec.getLsbD_shiftLeft, getLsbD_onesLow, Bool.eq_iff_iff]; simp; omega
  simp only [bitInsert, BitVec.getLsbD_or, BitVec.getLsbD_and, BitVec.getLsbD_not, BitVec.getLsbD_shiftLeft x, mask, hi]
  split
  next inside => simp [inside]
  next outside => simp [outside]

/-! ### Immediates -/

theorem ofNat_toNat_zeroExtend {n : Nat} (i : BitVec n) : BitVec.ofNat 64 i.toNat = i.zeroExtend 64 := BitVec.ofNat_toNat ..

theorem toInt_sext64 {n : Nat} (i : BitVec n) (h : n ≤ 64) : (sext64 i).toInt = i.toInt := BitVec.toInt_signExtend_of_le h

/-- `lih` moves its old value up and fills the 16 bits below (R53). -/
theorem shiftLeft_or_zeroExtend (x : Word) (j : BitVec 16) :
    x <<< 16 ||| j.zeroExtend 64 = BitVec.ofNat 64 (x.toNat * 2 ^ 16 + j.toNat) := by
  rw [BitVec.ofNat_add, ofNat_mul_two_pow, ofNat_toNat_zeroExtend, BitVec.add_eq_or_of_and_eq_zero]
  apply BitVec.eq_of_getLsbD_eq
  intro i hi
  by_cases low : i < 16
  · simp [low]
  · have above : j.getLsbD i = false := BitVec.getLsbD_of_ge j i (by omega)
    simp [above]

end Sys2Proof.Machine
end

section
/-! PROOFS. Scalar results of words: a write after its latency, with the flags that rise with it (R31, R37, R46). -/

namespace Sys2Proof.Machine

open Sys2Proof

section
variable {i : Instr} {s : State} {d : XReg} {v w : Word} {lat : Nat}

theorem givesX_of_writeX (run : exec i s = .next (s.writeX d w lat)) (value : w = v) : GivesX i s d v lat := by
  subst value
  exact ⟨_, run, writeX_result ..⟩

theorem givesX_of_raise {f g : FlagSet} (run : exec i s = .next ((s.writeX d w lat).raiseFlags g lat)) (value : (w, g) = (v, f)) :
    GivesX i s d v lat f := by
  cases value
  exact ⟨_, run, writeX_raise_result ..⟩

end

end Sys2Proof.Machine
end

section
/-! PROOFS. Integer words and immediates (R50, R53). -/

namespace Sys2Proof.Machine

open Sys2Proof

/-- Settles O3: every word writes its value after its latency, and the value is the one that R50 gives. -/
theorem integerWords : Obligations.IntegerWords := by
  unfold Obligations.IntegerWords
  refine ⟨fun s d a b e f => ?arithmetic, fun s d a b e f => ?bits⟩
  case arithmetic =>
    extract_lets x y sh
    refine ⟨?add, ?sub, ?and, ?or, ?xor, ?andn, ?shl, ?shr, ?sra, ?rol, ?mul, ?mulh, ?mulhn, ?min, ?max, ?minn, ?maxn, ?slt, ?sltn, ?seq⟩
    case add => exact givesX_of_writeX rfl (ofNat_add_toNat x y).symm
    case sub => exact givesX_of_writeX rfl (ofInt_sub_toInt x y).symm
    case and => exact givesX_of_writeX rfl rfl
    case or => exact givesX_of_writeX rfl rfl
    case xor => exact givesX_of_writeX rfl rfl
    case andn => exact givesX_of_writeX rfl rfl
    case shl => exact givesX_of_writeX rfl (ofNat_mul_two_pow x sh).symm
    case shr => exact givesX_of_writeX rfl (ofNat_div_two_pow x sh).symm
    case sra => exact givesX_of_writeX rfl (ofInt_div_two_pow x sh).symm
    case rol => exact givesX_of_writeX rfl (rotateLeft_shCount x y)
    case mul => exact givesX_of_writeX rfl (ofNat_mul_toNat x y).symm
    case mulh => exact givesX_of_writeX rfl (mulHigh_eq x y)
    case mulhn => exact givesX_of_writeX rfl rfl
    case min => exact givesX_of_writeX rfl (min_signed x y)
    case max => exact givesX_of_writeX rfl (max_signed x y)
    case minn => exact givesX_of_writeX rfl (min_unsigned x y)
    case maxn => exact givesX_of_writeX rfl (max_unsigned x y)
    case slt => exact givesX_of_writeX rfl (bool64_slt x y)
    case sltn => exact givesX_of_writeX rfl (bool64_ult x y)
    case seq => exact givesX_of_writeX rfl (bool64_beq x y)
  case bits =>
    extract_lets x y lo w
    refine ⟨?clz, ?ctz, ?popc, ?sext, ?bext, ?bins⟩
    case clz =>
      obtain ⟨n, most, zeros, one, count⟩ := countLeading_spec x
      exact ⟨n, most, zeros, one, givesX_of_writeX rfl count⟩
    case ctz =>
      obtain ⟨n, most, zeros, one, count⟩ := countTrailing_spec x
      exact ⟨n, most, zeros, one, givesX_of_writeX rfl count⟩
    case popc => exact givesX_of_writeX rfl (countOnes_eq x)
    case sext => exact ⟨_, fun i hi => getLsbD_signExtendFrom x (Nat.mod_lt _ (by decide)) hi, givesX_of_writeX rfl rfl⟩
    case bext => exact ⟨_, fun i hi => getLsbD_bitExtract x y hi, givesX_of_writeX rfl rfl⟩
    case bins => exact ⟨_, fun i hi => getLsbD_bitInsert (s.getX d) x y hi, givesX_of_writeX rfl rfl⟩

/-- Settles O6: every immediate word writes the value that R53 gives in the next cycle. -/
theorem immediateWords : Obligations.ImmediateWords := by
  unfold Obligations.ImmediateWords
  intro s d a n i j
  extract_lets x
  have unsigned := ofNat_toNat_zeroExtend i
  refine ⟨?addi, ?andi, ?ori, ?xori, ?shli, ?shri, ?srai, ?slti, ?sltni, ?lis, ?lih⟩
  case addi => exact givesX_of_writeX rfl (by rw [← ofInt_add_toInt, toInt_sext64 i (by decide)])
  case andi => exact givesX_of_writeX rfl (by rw [unsigned])
  case ori => exact givesX_of_writeX rfl (by rw [unsigned])
  case xori => exact givesX_of_writeX rfl (by rw [unsigned])
  case shli => exact givesX_of_writeX rfl (ofNat_mul_two_pow x n.toNat).symm
  case shri => exact givesX_of_writeX rfl (ofNat_div_two_pow x n.toNat).symm
  case srai => exact givesX_of_writeX rfl (ofInt_div_two_pow x n.toNat).symm
  case slti => exact givesX_of_writeX rfl (by rw [bool64_slt, toInt_sext64 i (by decide)])
  case sltni => exact givesX_of_writeX rfl (by rw [bool64_ult, BitVec.toNat_setWidth_of_le (by decide)])
  case lis => exact givesX_of_writeX rfl rfl
  case lih => exact givesX_of_writeX rfl (shiftLeft_or_zeroExtend (s.getX d) j)

end Sys2Proof.Machine
end

section
/-! PROOFS. Scalar FP32 (R52): results of the model's one rounding, and the conversion to INT64. -/

namespace Sys2Proof.Machine

open Sys2Proof

theorem givesX_of_fpWord {i : Instr} {s : State} {d : XReg} {r : Nat × FlagSet} (run : exec i s = .next (s.fpWord d r)) :
    GivesX i s d (BitVec.ofNat 64 r.1) 3 r.2 := givesX_of_raise run rfl

/-- The INT64 to which a magnitude of 2^63 or more saturates (R52). -/
theorem cvtInt64_inf (neg : Bool) :
    cvtInt64 (.inf neg) = (if neg then BitVec.ofInt 64 (-2 ^ 63) else BitVec.ofInt 64 (2 ^ 63 - 1), flagIS) := by
  cases neg <;> rfl

/-- Rounding toward zero to a multiple of 1 keeps the digits above the point, and is exact where those below are 0. -/
theorem shiftRound_truncates (m : Nat) (e : Int) :
    shiftRound true m e false 0 =
      (if 0 ≤ e then m * 2 ^ e.toNat else m / 2 ^ (-e).toNat, !(decide (0 ≤ e) || decide (m % 2 ^ (-e).toNat = 0))) := by
  by_cases whole : 0 ≤ e
  · simp [shiftRound, whole]
  · simp [shiftRound, whole]

section
variable {m : Nat} {e : Int} {n : Nat} {inexact : Bool} (neg : Bool) (truncated : shiftRound true m e false 0 = (n, inexact))
include truncated

theorem cvtInt64_fits (small : n < 2 ^ 63) :
    cvtInt64 (.fin neg m e) = (BitVec.ofInt 64 (if neg then -(n : Int) else n), if inexact then flagNX else 0) := by
  simp only [cvtInt64, truncated, if_neg (Nat.not_le.mpr small)]

theorem cvtInt64_saturates (large : 2 ^ 63 ≤ n) : cvtInt64 (.fin neg m e) = cvtInt64 (.inf neg) := by
  simp only [cvtInt64, truncated, if_pos large]

end

/-- Settles O5: every FP32 word is one rounding of the model's with its flags, and `fcvti` truncates the value that it reads. -/
theorem scalarFloatWords : Obligations.ScalarFloatWords := by
  unfold Obligations.ScalarFloatWords
  intro s d a b e f
  extract_lets r x y gives
  have fcvti {v : FV} {w : Word} {g : FlagSet} (read : FF.f32.read r.ftz x = v) (value : cvtInt64 v = (w, g)) :
      GivesX (.fcvti d a e) s d w 3 g := by
    subst read
    exact givesX_of_raise rfl value
  refine ⟨?fadd, ?fsub, ?fmul, ?fmin, ?fmax, ?icvtf, ?nan, ?inf, ?fin⟩
  case fadd => exact givesX_of_fpWord rfl
  case fsub => exact givesX_of_fpWord rfl
  case fmul => exact givesX_of_fpWord rfl
  case fmin => exact givesX_of_fpWord rfl
  case fmax => exact givesX_of_fpWord rfl
  case icvtf => exact givesX_of_fpWord rfl
  case nan => exact fun read => fcvti read rfl
  case inf => exact fun neg read => fcvti read (cvtInt64_inf neg)
  case fin =>
    intro neg m x2 read
    extract_lets n exact_
    have truncated : shiftRound true m x2 false 0 = (n, !exact_) := shiftRound_truncates m x2
    refine ⟨fun small => fcvti read ?_, fun large => fcvti read ?_⟩
    · rw [cvtInt64_fits neg truncated small]; cases exact_ <;> rfl
    · rw [cvtInt64_saturates neg truncated large, cvtInt64_inf]

end Sys2Proof.Machine
end

section
/-! PROOFS. The divide family (R51): how many significant bits a quotient has, and when its word delivers. -/

namespace Sys2Proof.Machine

open Sys2Proof

/-- The latency of R51 from the least number of bits that hold the quotient. -/
theorem divLatency_of_bits {n bits : Nat} (fits : n < 2 ^ bits) (least : ∀ j, j < bits → 2 ^ j ≤ n) :
    divLatency n = 12 + 4 * (max 1 ((bits + 7) / 8) - 1) := by
  have size : (if n = 0 then 0 else n.log2 + 1) = bits := by
    split
    next zero =>
      by_contra some
      have := least 0 (by omega)
      omega
    next pos =>
      have up : n.log2 < bits := (Nat.log2_lt pos).mpr fits
      by_contra more
      have := (Nat.log2_lt pos).mp (Nat.lt_succ_self _)
      have := least (n.log2 + 1) (by omega)
      omega
  rw [divLatency, size]

theorem logIssue_pend (c : Core) (l : List Pend) (reg cyc : Nat) :
    (Core.logIssue { c with pend := l } reg cyc).valueLog = (c.logIssue reg cyc).valueLog := by
  unfold Core.logIssue; split <;> rfl

/-- A divide word empties its destination and has its value delivered, with DZ where the divisor is 0. -/
theorem divWord_result (s : State) (d : XReg) (b w : Word) (lat : Nat) :
    DivResult s (s.divWord d b w lat) d (b = 0) w lat := by
  have arrives := produceX_arrives (s.raiseFlags (if b = 0 then flagDZ else 0) lat) d w (s.cycle + lat)
  unfold DivResult State.divWord
  by_cases zero : b = 0
  · rw [arrives, if_pos zero, decide_eq_true zero, State.raiseFlags, if_neg (by decide)]
    simp only [State.pushResult_core, logIssue_pend]
    rfl
  · rw [arrives, if_neg zero, decide_eq_false zero, State.raiseFlags, if_pos rfl, if_neg Bool.false_ne_true, List.append_nil]

theorem completes_divWord {i : Instr} {s : State} {d : XReg} {y w v : Word} {l lat : Nat} {dz : Bool}
    (run : exec i s = .next (s.divWord d y w l)) (zero : decide (y = 0) = dz) (value : w = v) (time : l = lat) :
    Completes i s (DivResult s · d dz v lat) := by
  subst value time zero
  exact ⟨_, run, divWord_result s d y w l⟩

/-- Settles O4: a zero divisor, a signed and an unsigned quotient, each with its remainder. -/
theorem divideWords : Obligations.DivideWords := by
  unfold Obligations.DivideWords
  intro s d a b e f
  extract_lets x y
  refine ⟨fun zero => ?zero, fun divides q bits quot ⟨fits, least⟩ => ?signed, fun divides bits ⟨fits, least⟩ => ?unsigned⟩
  case zero =>
    have dz : decide (y = 0) = true := decide_eq_true zero
    refine ⟨?div, ?divn, ?rem, ?remn⟩
    case div => exact completes_divWord rfl dz (if_pos zero) (if_pos zero)
    case divn => exact completes_divWord rfl dz (if_pos zero) (if_pos zero)
    case rem => exact completes_divWord rfl dz (if_pos zero) (if_pos zero)
    case remn => exact completes_divWord rfl dz (if_pos zero) (if_pos zero)
  case signed =>
    subst quot
    have noDz : decide (y = 0) = false := decide_eq_false divides
    have time : divLatS x y = 12 + 4 * (max 1 ((bits + 7) / 8) - 1) := (if_neg divides).trans (divLatency_of_bits fits least)
    refine ⟨completes_divWord rfl noDz (if_neg divides) time, completes_divWord rfl noDz ?_ time⟩
    rw [← Int.tmod_def]
    exact if_neg divides
  case unsigned =>
    have noDz : decide (y = 0) = false := decide_eq_false divides
    have time : divLatN x y = 12 + 4 * (max 1 ((bits + 7) / 8) - 1) := (if_neg divides).trans (divLatency_of_bits fits least)
    exact ⟨completes_divWord rfl noDz (if_neg divides) time, completes_divWord rfl noDz (if_neg divides) time⟩

end Sys2Proof.Machine
end

section
/-! PROOFS. Control registers (R42, R43, R46, R47, R50, R417): writes of FLAGS and OVFPTR that land in the next cycle, and reads
of every register as it stands at issue. -/

namespace Sys2Proof.Machine

open Sys2Proof

/-! ### Writes that land with no raise of FLAGS beside them -/

/-- No raise of FLAGS is on its way by a cycle. -/
def State.Quiet (s : State) (n : Nat) : Prop := ∀ p ∈ s.core.pend, p.dest.isRaise = true → n < p.due

theorem afterWrites_pushResult {s : State} {lat n : Nat} {d : Dest} (plain : d.isRaise = false) (due : s.cycle + lat ≤ n) :
    ∃ l, (s.pushResult lat d).core.afterWrites n = { (s.core.afterWrites n).land d with pend := l } := by
  refine ⟨s.core.pend ++ [⟨s.cycle + lat, d⟩], ?_⟩
  simp only [Core.afterWrites, State.pushResult_core, List.filter_append, List.filter_cons, List.filter_nil, due, decide_true,
    plain, Bool.not_false, ↓reduceIte, List.foldl_append, List.foldl_cons, List.foldl_nil, Core.land_all_pend, Core.land_pend]

section
variable {s : State} {n : Nat} (quiet : s.Quiet n)
include quiet

theorem landed_of_quiet : s.landed n = (s.core.afterWrites n).arch := by
  have none_due : (s.core.pend.filter fun p => p.due ≤ n).filter (fun p => p.dest.isRaise) = [] := by
    simp only [List.filter_filter, List.filter_eq_nil_iff, Bool.and_eq_true, decide_eq_true_eq, not_and, not_le]
    exact fun p mem raise => quiet p mem raise
  rw [State.landed, Core.landDue_eq, none_due]
  rfl

theorem quiet_pushResult {lat : Nat} {d : Dest} (plain : d.isRaise = false) : (s.pushResult lat d).Quiet n := by
  intro p mem raise
  rcases List.mem_append.mp mem with old | new
  · exact quiet p old raise
  · rw [List.mem_singleton.mp new, plain] at raise
    cases raise

theorem landed_pushResult_of_quiet {lat : Nat} {d : Dest} {f : Arch → Arch} (here : n = s.cycle + lat) (plain : d.isRaise = false)
    (lands : ∀ c : Core, (c.land d).arch = f c.arch) : (s.pushResult lat d).landed n = f (s.landed n) := by
  obtain ⟨l, writes⟩ := afterWrites_pushResult (s := s) (n := n) plain here.ge
  rw [landed_of_quiet (quiet_pushResult quiet plain), writes, landed_of_quiet quiet]
  exact lands _

end

section
variable {s : State} {lat : Nat} {d d' : Dest} {f g : Arch → Arch} (plain : d.isRaise = false)
  (lands : ∀ c : Core, (c.land d).arch = f c.arch)
include plain lands

theorem controlResult_pushResult : ControlResult s (s.pushResult lat d) lat f :=
  ⟨rfl, fun n early => landed_pushResult_early s lat d n early, fun quiet => landed_pushResult_of_quiet quiet rfl plain lands⟩

/-- Two writes of one word land in their order. -/
theorem controlResult_pushResult₂ (plain' : d'.isRaise = false) (lands' : ∀ c : Core, (c.land d').arch = g c.arch) :
    ControlResult s ((s.pushResult lat d).pushResult lat d') lat fun r => g (f r) := by
  refine ⟨rfl, fun n early => ?_, fun quiet => ?_⟩
  · exact (landed_pushResult_early (s.pushResult lat d) lat d' n early).trans (landed_pushResult_early s lat d n early)
  · rw [landed_pushResult_of_quiet (quiet_pushResult quiet plain) rfl plain' lands', landed_pushResult_of_quiet quiet rfl plain lands]

end

/-! ### FLAGS -/

theorem landed_flagsOr (s : State) (f : FlagSet) (lat : Nat) :
    (s.pushResult lat (.flagsOr f)).landed (s.cycle + lat) =
      { s.landed (s.cycle + lat) with flags := (s.landed (s.cycle + lat)).flags ||| f } := by
  obtain ⟨c, raised, before, after⟩ := landed_pushResult s lat (.flagsOr f) rfl
  rw [before, after]
  simp only [Core.land, BitVec.or_assoc, BitVec.or_comm f]

/-- `fset` sets bits of FLAGS together with its scalar result (R50). -/
theorem writeX_flagsOr_result (s : State) (d : XReg) (v : Word) (lat : Nat) (f : FlagSet) :
    ScalarResult s ((s.writeX d v lat).pushResult lat (.flagsOr f)) d v lat f := by
  obtain ⟨-, value, flags, others, rest, early⟩ := writeX_result s d v lat
  have set := landed_flagsOr (s.writeX d v lat) f lat
  rw [show (s.writeX d v lat).cycle = s.cycle from rfl] at set
  refine ⟨rfl, ?_, ?_, fun r other => ?_, ?_, fun n hn => ?_⟩
  · rw [set]; exact value
  · rw [set]; exact (congrArg (· ||| f) flags).trans (congrArg (· ||| f) (BitVec.or_zero ..))
  · rw [set]; exact others r other
  · rw [set]; exact rest
  · exact (landed_pushResult_early (s.writeX d v lat) lat _ n hn).trans (early n hn)

theorem setX_flags (r : Arch) (d : XReg) (v : Word) : (r.setX d v).flags = r.flags := by
  unfold Arch.setX; split <;> rfl

/-- `fclr` clears bits of FLAGS as its scalar result lands (R50). -/
theorem writeX_flagsClr_result (s : State) (d : XReg) (v : Word) (lat : Nat) (f : FlagSet) :
    ControlResult s ((s.writeX d v lat).pushResult lat (.flagsClr f)) lat
      fun r => { r.setX d v with flags := r.flags &&& ~~~f } := by
  have both := controlResult_pushResult₂ (s := s) (lat := lat) (d := .x d v) (f := fun r => r.setX d v) (d' := .flagsClr f)
    (g := fun r => { r with flags := r.flags &&& ~~~f }) rfl (fun _ => rfl) rfl (fun _ => rfl)
  simp only [setX_flags] at both
  exact both

theorem exec_mtcr_flags (s : State) (a : XReg) :
    exec (.mtcr a 0x10) s = .next (s.pushResult 1 (.flagsSet ((s.getX a).truncate 7))) := rfl

theorem exec_mtcr_ovfptr {s : State} (compute : s.core.isSys = false) (a : XReg) :
    exec (.mtcr a 0x24) s = .next (s.pushResult 1 (.ovfptr (s.getX a))) := by
  rw [show exec (.mtcr a 0x24) s = execMtcr a 0x24 s from rfl, execMtcr, State.word_next _ _ _ rfl, if_neg (by decide), if_neg (by simp [compute])]

/-! ### Reads -/

theorem crAssigned_lt {n : Nat} (assigned : crAssigned n = true) : n < 2 ^ 10 := by
  simp [crAssigned] at assigned
  omega

section
variable {s : State} {d : XReg} {n : Nat} (assigned : crAssigned n = true)
include assigned

theorem exec_mfcr (present : s.core.isSys = false ∨ sysCr n = true) :
    exec (.mfcr d (BitVec.ofNat 10 n)) s = .next ((s.writeX d (s.readCr n) 1).logTime n (s.readCr n)) := by
  have number : (BitVec.ofNat 10 n).toNat = n := Nat.mod_eq_of_lt (crAssigned_lt assigned)
  have wf : (Instr.mfcr d (BitVec.ofNat 10 n)).wf = true := (congrArg crAssigned number).trans assigned
  rw [show exec (.mfcr d (BitVec.ofNat 10 n)) s = execMfcr d (BitVec.ofNat 10 n) s from rfl, execMfcr, State.word_next s _ _ wf,
    number, if_neg]
  rcases present with compute | both
  · simp [compute]
  · simp [both]

/-- A read of a register that is no clock. -/
theorem givesX_mfcr (present : s.core.isSys = false ∨ sysCr n = true) (untimed : n ≠ 0x22 ∧ n ≠ 0x23) {v : Word}
    (value : s.readCr n = v) : GivesX (.mfcr d (BitVec.ofNat 10 n)) s d v 1 := by
  refine givesX_of_writeX ?_ value
  rw [exec_mfcr assigned present, State.logTime, if_neg (by simp [untimed])]

/-- A read of a clock is logged as well, outside a re-run (R327). -/
theorem completes_mfcr_clock (compute : s.core.isSys = false) (clock : n = 0x22 ∨ n = 0x23) (live : s.core.recover = none) {v : Nat}
    (value : s.readCr n = BitVec.ofNat 64 v) :
    Completes (.mfcr d (BitVec.ofNat 10 n)) s fun t =>
      let entry : LogVal := { reg := 0, issue := s.cycle, value := some ((BitVec.ofNat 64 v).zeroExtend 4096, 0, 1) }
      t = { s with core := { s.core with
        pend := s.core.pend ++ [⟨s.cycle + 1, .x d (BitVec.ofNat 64 v)⟩], valueLog := s.core.valueLog ++ [entry] } } := by
  have logged : (s.writeX d (s.readCr n) 1).core.recover = none := live
  refine ⟨_, exec_mfcr assigned (.inl compute), ?_⟩
  rw [State.logTime, if_pos ⟨clock, by rw [logged]; rfl⟩, value]
  rfl

end

theorem readCr_wth (s : State) (k : Fin 8) : s.readCr (8 + k) = s.core.arch.wth[k].zeroExtend 64 := by
  fin_cases k <;> rfl

theorem readCr_tc (s : State) (k : Fin 3) : s.readCr (0x18 + k) = BitVec.ofNat 64 s.core.tk.tc[k] := by
  fin_cases k <;> rfl

theorem readCr_param (s : State) (k : Fin 64) : s.readCr (0x40 + k) = s.core.tk.params[k] := by
  have past {n : Nat} (hn : n < 0x40) : 0x40 + k.val ≠ n := by omega
  have above {m n : Nat} (hn : n < 0x40) : ¬ (m ≤ 0x40 + k.val ∧ 0x40 + k.val ≤ n) := by omega
  simp [State.readCr, past, above, vget]

theorem readCr_loopCount (s : State) :
    s.readCr 0x2B = BitVec.ofNat 64 (s.core.arch.loops.head?.elim 0 (·.count)) := by
  show (match s.core.arch.loops with | e :: _ => BitVec.ofNat 64 e.count | [] => 0) = _
  cases s.core.arch.loops <;> rfl

/-- Settles O7: FLAGS and OVFPTR are written in the next cycle, and each register reads as it stands at issue. -/
theorem controlRegisterWords : Obligations.ControlRegisterWords := by
  unfold Obligations.ControlRegisterWords
  refine ⟨fun s d a e => ⟨?fset, ?fclr, ?flags, fun compute => ?ovfptr⟩, fun s d => ⟨fun compute => ?compute, fun sys => ?system⟩⟩
  case fset => exact ⟨_, rfl, writeX_flagsOr_result ..⟩
  case fclr => exact ⟨_, rfl, writeX_flagsClr_result ..⟩
  case flags => exact ⟨_, exec_mtcr_flags s a, controlResult_pushResult rfl fun _ => rfl⟩
  case ovfptr => exact ⟨_, exec_mtcr_ovfptr compute a, controlResult_pushResult rfl fun _ => rfl⟩
  case compute =>
    have reads (n : Nat) {v : Word} (assigned : crAssigned n = true) (untimed : n ≠ 0x22 ∧ n ≠ 0x23) (value : s.readCr n = v) :
        GivesX (.mfcr d (BitVec.ofNat 10 n)) s d v 1 := givesX_mfcr assigned (.inl compute) untimed value
    refine ⟨reads 0 rfl (by decide) rfl, reads 1 rfl (by decide) rfl, fun k => ?wth, reads 0x10 rfl (by decide) rfl, fun k => ?tc,
      reads 0x1C rfl (by decide) rfl, reads 0x1D rfl (by decide) rfl, reads 0x20 rfl (by decide) rfl, reads 0x21 rfl (by decide) rfl,
      reads 0x24 rfl (by decide) rfl, fun busy err view => ?viewed, fun live => ?unviewed, reads 0x2A rfl (by decide) rfl,
      reads 0x2B rfl (by decide) (readCr_loopCount s), fun k => ?param, fun live n clock => ?clock⟩
    case wth => exact reads _ (by simp [crAssigned]; omega) (by omega) (readCr_wth s k)
    case tc => exact reads _ (by simp [crAssigned]; omega) (by omega) (readCr_tc s k)
    case param => exact reads _ (by simp [crAssigned]; omega) (by omega) (readCr_param s k)
    case viewed =>
      have seen : s.core.seen s.cycle = (busy, err) := by rw [Core.seen, view]; rfl
      exact ⟨reads 0x28 rfl (by decide) (congrArg Prod.fst seen), reads 0x29 rfl (by decide) (congrArg Prod.snd seen)⟩
    case unviewed =>
      have seen : s.core.seen s.cycle = (s.core.chbusy s.cycle, s.core.cherr) := by rw [Core.seen, live]; rfl
      exact ⟨reads 0x28 rfl (by decide) (congrArg Prod.fst seen), reads 0x29 rfl (by decide) (congrArg Prod.snd seen)⟩
    case clock =>
      simp only [List.mem_cons, List.not_mem_nil, or_false] at clock
      rcases clock with rfl | rfl
      · exact completes_mfcr_clock rfl compute (.inl rfl) live rfl
      · exact completes_mfcr_clock rfl compute (.inr rfl) live rfl
  case system =>
    exact ⟨givesX_mfcr (n := 0) rfl (.inr rfl) (by decide) rfl, givesX_mfcr (n := 0x10) rfl (.inr rfl) (by decide) rfl,
      givesX_mfcr (n := 0x21) rfl (.inr rfl) (by decide) rfl⟩

end Sys2Proof.Machine
end

section
/-! PROOFS. Phase, task-end and checkpoint words, and `gkick` (R59..R61, R307, R313). -/

namespace Sys2Proof.Machine

open Sys2Proof

/-- A sync register is a staging register of engine 4 (R48). -/
theorem sy_eq_getD (s : State) (i : Nat) : s.sy i = s.core.arch.stg.toList.getD (64 + i) 0 := by
  simp [State.sy, Arch.getStg, vget, List.getD_eq_getElem?_getD]

theorem awaitX_eq (s : State) (d : XReg) : s.awaitX d = s.onCore fun c => waitingX c d s.cycle := by
  have logged := logIssue_frame s.core d.toNat s.cycle
  unfold State.awaitX State.onCore waitingX
  beta_reduce
  generalize s.core.logIssue d.toNat s.cycle = c at logged ⊢
  rw [logged]

/-- Input k of the next phase waits for a barrier or a task event that is idle: nothing can make it ready (R59). -/
def Core.idleInput (c : Core) (k : Nat) : Bool :=
  let r : BitVec 1024 := (mget c.tk.inputs (8 * (c.phase + 1) + k)).getD 0
  (recKind r = 2 && (c.pair (recRow r)).bar == .idle) ||
  (recKind r = 3 && !recForeign r && decide (recRow r < 64) && (vget c.events (recRow r) {}).st == .idle)

section
variable {s : State} (compute : s.core.isSys = false)
include compute

theorem exec_ckpt : exec .ckpt s = .next (s.onCore fun c => { c with ckptDue := true }) :=
  State.computeWord_next s .ckpt (fun s => s.onCore fun c => { c with ckptDue := true }) compute rfl

section
variable {d : XReg} (wf : (Instr.gkick d).wf = true)
include wf

/-- From a row of the window, `gkick` empties its destination and sends the packet, after a free time, to the launch unit. -/
theorem exec_gkick_inside (inside : rowNum (s.sy 9) < s.core.tk.rows) :
    exec (.gkick d) s = .next ((s.onCore fun c => { waitingX c d s.cycle with gkickOut := c.gkickOut ++ [d] }).schedFree .kick 1 ptPush
      (.kick s.core.tk.part (.core s.core.id s.core.tk.rid (some d))
        ((List.range 16).map fun i => getWordAt (s.core.row (rowNum (s.sy 9))).data i))) := by
  rw [show exec (.gkick d) s = execGkick d s from rfl, execGkick, State.computeWord_next s (.gkick d) _ compute wf, State.withRow,
    if_pos inside, awaitX_eq]
  rfl

theorem exec_gkick_outside (outside : s.core.tk.rows ≤ rowNum (s.sy 9)) :
    exec (.gkick d) s = .next (s.fault 0x0A 0 (BitVec.ofNat 64 (rowNum (s.sy 9)))) := by
  rw [show exec (.gkick d) s = execGkick d s from rfl, execGkick, State.computeWord_next s (.gkick d) _ compute wf, State.withRow,
    if_neg (Nat.not_lt.mpr outside)]

end

variable (joined : s.core.merr = none)
include joined

theorem exec_tend : exec .tend s = .next (s.onCore fun c => { c with ending := true }) := by
  rw [show exec .tend s = execTend s from rfl, execTend, State.computeWord_next s .tend _ compute rfl, State.engineError, joined]

theorem exec_phase_last (last : s.core.tk.phases ≤ s.core.phase + 1) : exec .phase s = .next s.illegal := by
  rw [show exec .phase s = execPhase s from rfl, execPhase, State.computeWord_next s .phase _ compute rfl, State.engineError, joined]
  exact congrArg _ (if_pos last)

theorem exec_phase_next (more : s.core.phase + 1 < s.core.tk.phases) :
    exec .phase s = .next (match (List.range 8).find? s.core.idleInput with
      | some k => s.fault 0x10 (BitVec.ofNat 64 (recRow ((mget s.core.tk.inputs (8 * (s.core.phase + 1) + k)).getD 0)))
      | none => s.onCore fun c => { c with waiting := true }) := by
  rw [show exec .phase s = execPhase s from rfl, execPhase, State.computeWord_next s .phase _ compute rfl, State.engineError, joined]
  refine congrArg _ ((if_neg (Nat.not_le.mpr more)).trans ?_)
  rfl

end

end Sys2Proof.Machine
end

section
/-! PROOFS. Kicks (R300..R303, R313): the status word, the checks of a packet in their order, and the replay of one accepted. -/

namespace Sys2Proof.Machine

open Sys2Proof

/-! ### The status word -/

/-- The state once the status word of a kick stands in the partition's kick page (R303). -/
def State.answerKick (s : State) (part rid code : Nat) (p : List Word) : State :=
  s.modWindow part fun x =>
    { x with kick := kickWord rid (if p.length = 16 then pktReplay p else 0) (s.flights part).length code }

theorem answerKick_status (s : State) (part rid code : Nat) (p : List Word) :
    ((mget (s.answerKick part rid code p).windows part).getD {}).kick =
      kickWord rid (if p.length = 16 then pktReplay p else 0) (s.flights part).length code := by
  rw [State.answerKick, State.modWindow_windows, mget_mput, if_pos rfl]; rfl

theorem exec_kick (part : Nat) (src : KickSource) (p : List Word) (s : State) : exec (.kick part src p) s = execKick part src p s := rfl

theorem schedFree_agenda (s : State) (k : Config.Delay) (least pt : Nat) (i : Instr) :
    (s.schedFree k least pt i).agenda = agendaPut s.agenda ((s.cycle + least + Config.delay k s.fresh) * 16 + pt) i := rfl

section
variable {s u : State} {part rid code : Nat} {p : List Word}

theorem exec_kick_host {src : KickSource} (host : src ∈ [KickSource.iow, .ioe])
    (taken : s.takeKick part none p = (code, rid, u)) : exec (.kick part src p) s = .next (u.answerKick part rid code p) := by
  rw [exec_kick]
  unfold execKick State.event
  simp only [List.mem_cons, List.not_mem_nil, or_false] at host
  rcases host with iow | ioe
  · simp only [iow, taken]; rfl
  · simp only [ioe, taken]; rfl

/-- The status word of a `gkick` is sent to its register as well, after a free time. -/
theorem exec_kick_core {k own : Nat} {d : XReg} (taken : s.takeKick part (some own) p = (code, rid, u)) :
    exec (.kick part (.core k own (some d)) p) s = .next ((u.answerKick part rid code p).schedFree .kick 1 ptLand
      (.valueArrives k (.x d ((mget (u.answerKick part rid code p).windows part).getD {}).kick))) := by
  rw [exec_kick, answerKick_status]
  unfold execKick State.event
  simp only [taken]
  rfl

end

/-! ### Places in flight -/

/-- With fewer than four in flight, the place taken is held by none of them. -/
theorem freePlace_notMem {l : List Nat} (few : l.length < 4) : freePlace l ∉ l := by
  cases found : (List.range 4).find? fun i => !l.contains i with
  | some i =>
    have free := List.find?_some found
    rw [freePlace, found]
    simpa using free
  | none =>
    have all : List.range 4 ⊆ l := fun i mem => by simpa using List.find?_eq_none.mp found i mem
    have := (List.nodup_range.subperm all).length_le
    rw [List.length_range] at this
    omega

/-- A replay that takes a free place of its partition puts none out of flight, and is one more in flight. -/
theorem length_flights_place {s u : State} {part place : Nat} {r : Replay}
    (placed : u.replays = (s.replays.filter fun x => !(x.part = part && x.place = place)) ++ [r])
    (free : place ∉ s.flights part) (mine : r.part = part) (live : r.inFlight = true) :
    (u.flights part).length = (s.flights part).length + 1 := by
  have kept : (s.replays.filter fun x => !(x.part = part && x.place = place)).filter (fun x => x.part = part && x.inFlight) =
      s.replays.filter fun x => x.part = part && x.inFlight := by
    rw [List.filter_filter]
    refine List.filter_congr fun x mem => ?_
    have other : x.part = part → x.inFlight = true → x.place ≠ place := fun own live here =>
      free (List.mem_map.mpr ⟨x, List.mem_filter.mpr ⟨mem, by simp [own, live]⟩, here⟩)
    by_cases own : x.part = part <;> cases going : x.inFlight <;> simp_all
  rw [State.flights, State.flights, List.length_map, List.length_map, placed, List.filter_append, kept, List.length_append]
  simp [mine, live]

/-! ### Dependences of a new replay -/

/-- What a check of handles may change: what is known of objects homed elsewhere, and the violation logs. -/
def Checked (s t : State) : Prop := t = { s with far := t.far, fresh := t.fresh, vlogs := t.vlogs }

theorem Checked.trans {s t u : State} (h : Checked s t) (k : Checked t u) : Checked s u := by
  unfold Checked at *; rw [k, h]

theorem checked_learn (s : State) (h : Word) : Checked s (s.learn h) := by
  unfold Checked State.learn; split <;> rfl

theorem checked_logViolation (s : State) (owner : Nat) (q : Requester) (cause : BitVec 8) (h : Word) (cs : List Nat)
    (shown : Option Word) : Checked s (s.logViolation owner q cause h cs shown) := by
  unfold Checked State.logViolation; split <;> rfl

/-- The arming of dependences sets those alone of the replay. -/
theorem armDeps_changes (s : State) (r : Replay) (image : List (BitVec 8)) :
    Checked s (s.armDeps r image).1 ∧ (s.armDeps r image).2 = { r with deps := (s.armDeps r image).2.deps } := by
  unfold State.armDeps
  refine List.foldlRecOn (motive := fun st : State × Replay => Checked s st.1 ∧ st.2 = { r with deps := st.2.deps })
    _ _ ⟨rfl, rfl⟩ fun st armed p _ => ?_
  obtain ⟨checked, deps⟩ := armed
  have learned := checked.trans (checked_learn st.1 (vget r.gen (nodeDep image p.1 p.2).2.1 0))
  dsimp only
  split
  next => exact ⟨learned.trans (checked_logViolation ..), by rw [deps]⟩
  next => exact ⟨learned, by rw [deps]⟩

/-! ### The launch unit's decision (R302) -/

/-- The replay of an accepted kick, its dependences not yet armed. -/
def State.kickReplay (s : State) (part : Nat) (p : List Word) (g : Graph) (gen : Vector Word 64) : Replay :=
  { part, rid := g.rid, replay := pktReplay p, graph := g.handle, genNo := (g.kicks + 1) % 2 ^ 32, gen, cores := s.effCores g.rid,
    fb := pktFb p, infl := (s.flights part).length + 1, place := freePlace (s.flights part)
    nodes := List.replicate (imgNodes g.image) .waiting }

/-- The state once a kick is accepted: the replay is in flight, and the graph has its new latest generation. -/
def State.acceptKick (s : State) (part : Nat) (p : List Word) (g : Graph) (gen : Vector Word 64) : State :=
  let (u, r) := s.armDeps (s.kickReplay part p g gen) g.image
  { u with
    graphs := u.graphs.map fun x => if x.handle = g.handle && x.part = part then { x with latest := some gen, kicks := x.kicks + 1 } else x
    replays := (u.replays.filter fun x => !(x.part = part && x.place = freePlace (s.flights part))) ++ [r] }

section
variable (s : State) (part : Nat) (p : List Word) (g : Graph) (gen : Vector Word 64)

theorem acceptKick_frame : s.acceptKick part p g gen = { s with
    far := (s.acceptKick part p g gen).far, fresh := (s.acceptKick part p g gen).fresh, vlogs := (s.acceptKick part p g gen).vlogs
    graphs := (s.acceptKick part p g gen).graphs, replays := (s.acceptKick part p g gen).replays } := by
  have checked := (armDeps_changes s (s.kickReplay part p g gen) g.image).1
  unfold State.acceptKick
  rw [Checked] at checked
  dsimp only
  rw [checked]

theorem acceptKick_graphs : (s.acceptKick part p g gen).graphs =
    s.graphs.map fun x => if x.handle = g.handle ∧ x.part = part then { x with latest := some gen, kicks := x.kicks + 1 } else x := by
  have checked := (armDeps_changes s (s.kickReplay part p g gen) g.image).1
  have same : (s.armDeps (s.kickReplay part p g gen) g.image).1.graphs = s.graphs := by rw [checked]
  simp only [State.acceptKick, same, Bool.and_eq_true, decide_eq_true_eq]

theorem acceptKick_replays : ∃ deps, (s.acceptKick part p g gen).replays =
    (s.replays.filter fun x => !(x.part = part && x.place = freePlace (s.flights part))) ++
      [{ s.kickReplay part p g gen with deps }] := by
  obtain ⟨checked, armed⟩ := armDeps_changes s (s.kickReplay part p g gen) g.image
  have same : (s.armDeps (s.kickReplay part p g gen) g.image).1.replays = s.replays := by rw [checked]
  exact ⟨_, by rw [← armed, ← same]; rfl⟩

/-- The replay of an accepted kick (R302), as the last in the list. -/
theorem acceptKick_last : ∃ r, (s.acceptKick part p g gen).replays.getLast? = some r ∧ r.part = part ∧ r.rid = g.rid ∧
    r.replay = pktReplay p ∧ r.graph = g.handle ∧ r.gen = gen ∧ r.genNo = (g.kicks + 1) % 2 ^ 32 ∧ r.cores = s.effCores g.rid ∧
    r.nodes = List.replicate (imgNodes g.image) .waiting ∧ r.st = .running ∧ r.fb = pktFb p := by
  obtain ⟨deps, placed⟩ := acceptKick_replays s part p g gen
  refine ⟨{ s.kickReplay part p g gen with deps }, by rw [placed, List.getLast?_concat], ?_⟩
  simp only [State.kickReplay, and_self]

theorem acceptKick_flights (few : (s.flights part).length < 4) (nodes : 1 ≤ imgNodes g.image) :
    ((s.acceptKick part p g gen).flights part).length = (s.flights part).length + 1 := by
  obtain ⟨deps, placed⟩ := acceptKick_replays s part p g gen
  refine length_flights_place placed (freePlace_notMem few) rfl ?_
  have some_node : imgNodes g.image ≠ 0 := by omega
  simp [Replay.inFlight, State.kickReplay, some_node]

end

theorem takeKick_malformed {p : List Word} (bad : pktOk p = false) (s : State) (part : Nat) (from_ : Option Nat) :
    s.takeKick part from_ p = (7, 0, s) := by
  rw [State.takeKick, if_pos (by simp [bad])]

theorem launchCheck_of_home {s : State} {part : Nat} {h : Word} {need : Nat} (home : hHome h = s.pkg)
    (allowed : s.violation ⟨part, .host, 1023, s.pkg⟩ h (some need) = none) : s.launchCheck part h need = (true, s) := by
  simp [State.launchCheck, learn_of_home home, allowed]

section
variable {s : State} {part : Nat} {from_ : Option Nat} {p : List Word} {g : Graph} (ok : pktOk p = true)
  (home : hHome (pktWord p 0) = s.pkg) (allowed : s.violation ⟨part, .host, 1023, s.pkg⟩ (pktWord p 0) (some 128) = none)
  (loaded : (s.graphs.find? fun g => hKey g.handle = hKey (pktWord p 0) && hGen g.handle = hGen (pktWord p 0) && g.part = part) = some g)
  (inside : ∀ own, from_ = some own → s.isIn g.rid own = true)
include ok home allowed loaded inside

theorem takeKick_stopped (stopped : (s.region? g.rid).map (·.st) ≠ some 1) : s.takeKick part from_ p = (6, g.rid, s) := by
  unfold State.takeKick
  simp only [ok, Bool.not_true, Bool.false_eq_true, ↓reduceIte, launchCheck_of_home home allowed, loaded]
  rw [if_neg ?_, if_pos stopped]
  cases from_ with
  | none => exact Bool.false_ne_true
  | some own => simp [inside own rfl]

theorem takeKick_accepted {gen : Vector Word 64} (running : (s.region? g.rid).map (·.st) = some 1) (cores : s.effCores g.rid ≠ [])
    (fits : ∀ i, i < imgNodes g.image →
      nodeRows g.image i + nodeCarve g.image i ≤ s.effRowcap g.rid ∧ nodeZ g.image i ≤ s.effLzcap g.rid)
    (few : (s.flights part).length < 4)
    (unused : ∀ r ∈ s.replays, r.rid = g.rid → r.replay = pktReplay p → r.inFlight = false) (noTable : pktNtab p = 0)
    (patched : applyPatches (g.latest.getD (imgDefaults g.image))
      ((List.range (pktNinl p)).map fun k => ((pktWord p (4 + 2 * k)).toNat, pktWord p (5 + 2 * k))) = some gen) :
    s.takeKick part from_ p = (0, g.rid, s.acceptKick part p g gen) := by
  unfold State.takeKick
  simp only [ok, Bool.not_true, Bool.false_eq_true, ↓reduceIte, launchCheck_of_home home allowed, loaded]
  rw [if_neg ?own, if_neg (not_not.mpr running), if_neg (by simpa using cores), if_neg ?fits, if_neg (by omega), if_neg ?unused]
  case own =>
    cases from_ with
    | none => exact Bool.false_ne_true
    | some own => simp [inside own rfl]
  case fits =>
    simp only [Bool.not_eq_true, List.any_eq_false, List.mem_range, Bool.or_eq_true, decide_eq_true_eq, not_or, not_lt]
    exact fits
  case unused =>
    simp only [Bool.not_eq_true, List.any_eq_false, Bool.and_eq_true, decide_eq_true_eq, not_and]
    exact fun r mem token => by simpa using unused r mem token.1 token.2
  simp only [State.patches, if_pos noTable, Option.bind_some, patched]
  rfl

end

theorem pktOk_length {p : List Word} (ok : pktOk p = true) : p.length = 16 := by
  simp only [pktOk, Bool.and_eq_true, decide_eq_true_eq] at ok
  tauto

theorem pktReplay_eq (p : List Word) : pktReplay p = (p.getD 1 0).toNat % 2 ^ 16 := by
  rw [pktReplay, fieldN, pow_zero, Nat.div_one]; rfl

theorem kickWord_eq {rid replay infl code : Nat} (small : code < 256) :
    kickWord rid replay infl code = BitVec.ofNat 64 (rid % 2 ^ 16 * 2 ^ 48 + replay % 2 ^ 16 * 2 ^ 32 + infl % 2 ^ 8 * 2 ^ 8 + code) := by
  rw [kickWord, Nat.mod_eq_of_lt small]; rfl

section
variable (s : State) (part : Nat) (p : List Word) (g : Graph) (gen : Vector Word 64)

theorem answerKick_acceptKick_frame :
    let t := (s.acceptKick part p g gen).answerKick part g.rid 0 p
    t = { s with
      windows := t.windows, replays := t.replays, graphs := t.graphs, vlogs := t.vlogs, far := t.far, fresh := t.fresh } := by
  have frame := acceptKick_frame s part p g gen
  generalize s.acceptKick part p g gen = u at frame ⊢
  rw [frame]
  rfl

theorem answerKick_acceptKick_agenda : ((s.acceptKick part p g gen).answerKick part g.rid 0 p).agenda = s.agenda := by
  rw [answerKick_acceptKick_frame]

theorem answerKick_acceptKick_cycle : ((s.acceptKick part p g gen).answerKick part g.rid 0 p).cycle = s.cycle := by
  rw [answerKick_acceptKick_frame]; rfl

end

/-- Settles O37: the words hand their work to the units that end phases, tasks and groups, and a kick is decided in the order of R302. -/
theorem taskWords : Obligations.TaskWords := by
  unfold Obligations.TaskWords
  refine ⟨fun s compute => ?words, fun s part p => ?kicks⟩
  case words =>
    extract_lets c row next idle
    have row_eq : rowNum (s.sy 9) = row := by rw [sy_eq_getD]; rfl
    have idle_iff (k : Nat) : c.idleInput k = true ↔ idle k := by
      simp only [Core.idleInput, Core.pair, idle, next, Bool.or_eq_true, Bool.and_eq_true, decide_eq_true_eq, beq_iff_eq,
        Bool.not_eq_true', and_assoc]
    refine ⟨fun d wf => ⟨fun inside => ?inside, fun outside => ?outside⟩, ⟨_, exec_ckpt compute, rfl⟩, fun joined =>
      ⟨fun more busy => ?waits, fun more k hk first before => ?stuck, fun last => exec_phase_last compute joined last,
        ⟨_, exec_tend compute joined, rfl⟩⟩⟩
    case inside =>
      refine ⟨_, exec_gkick_inside compute wf (row_eq ▸ inside), s.cycle + 1 + Config.delay .kick s.fresh, by omega, ?_⟩
      rw [row_eq]
      rfl
    case outside => rw [exec_gkick_outside compute wf (row_eq ▸ outside), row_eq]
    case waits =>
      have none_idle : (List.range 8).find? c.idleInput = none :=
        List.find?_eq_none.mpr fun k mem => by rw [idle_iff]; exact busy k (List.mem_range.mp mem)
      exact ⟨_, exec_phase_next compute joined more, by rw [none_idle]⟩
    case stuck =>
      have found : (List.range 8).find? c.idleInput = some k :=
        List.find?_range_eq_some.mpr ⟨(idle_iff k).mpr first, List.mem_range.mpr hk, fun j hj => by
          simpa [← idle_iff] using before j hj⟩
      rw [exec_phase_next compute joined more, found]
  case kicks =>
    extract_lets status flights runs hosts replay
    have replay_eq : (if p.length = 16 then pktReplay p else 0) = replay := by rw [pktReplay_eq]
    have flights_eq : (s.flights part).length = flights := List.length_map ..
    have answered (u : State) (rid code : Nat) (small : code < 256) :
        status (u.answerKick part rid code p) rid replay (u.flights part).length code :=
      (answerKick_status u part rid code p).trans (by rw [replay_eq, kickWord_eq small])
    rw [← flights_eq]
    refine ⟨fun bad src host => ?malformed, fun ok home g allowed loaded => ⟨fun stopped src host => ?stopped, ?accepted⟩⟩
    case malformed => exact ⟨_, exec_kick_host host (takeKick_malformed bad s part none), answered s 0 7 (by decide), rfl⟩
    case stopped =>
      have taken := takeKick_stopped (from_ := none) ok home allowed loaded (fun _ h => nomatch h) stopped
      exact ⟨_, exec_kick_host host taken, answered s g.rid 6 (by decide), rfl⟩
    case accepted =>
      intro patches gen running cores fits few unused noTable inline_ patched nodes
      extract_lets accepted
      have token : pktReplay p = replay := by rw [← replay_eq, if_pos (pktOk_length ok)]
      subst inline_
      rw [← token] at unused
      have accepts : accepted ((s.acceptKick part p g gen).answerKick part g.rid 0 p) := by
        obtain ⟨r, last, part_, rid, sameToken, graph, gen_, number, cores_, nodes_, st, fb⟩ := acceptKick_last s part p g gen
        refine ⟨r, last, part_, rid, sameToken.trans token, graph, gen_, number, cores_, nodes_, st, fb,
          acceptKick_graphs s part p g gen, ?_⟩
        rw [← acceptKick_flights s part p g gen few nodes]
        exact answered _ g.rid 0 (by decide)
      refine ⟨fun src host => ?host, fun k own d inside => ?core⟩
      case host =>
        have taken := takeKick_accepted (from_ := none) ok home allowed loaded (fun _ h => nomatch h) running cores fits few unused
          noTable patched
        exact ⟨_, exec_kick_host host taken, accepts, answerKick_acceptKick_frame s part p g gen⟩
      case core =>
        have taken := takeKick_accepted (from_ := some own) ok home allowed loaded (fun _ h => Option.some.inj h ▸ inside) running cores
          fits few unused noTable patched
        refine ⟨_, exec_kick_core taken, accepts, s.cycle + 1 + Config.delay .kick (s.acceptKick part p g gen).fresh, by omega, ?_⟩
        rw [schedFree_agenda, answerKick_acceptKick_agenda, answerKick_acceptKick_cycle]
        rfl

end Sys2Proof.Machine
end

section
/-! PROOFS. Vector sources and results: what reading sources leaves, and a result with the flags that rise with it (R32, R46, R92). -/

namespace Sys2Proof.Machine

open Sys2Proof

/-! ### What lands -/

theorem flagSet_or_zero (f : FlagSet) : f ||| 0 = f := BitVec.or_zero

theorem flagSet_zero_or (f : FlagSet) : 0 ||| f = f := BitVec.zero_or

section
variable (c : Core) (x : Vector VStream 8) (o : Option VecOut)

theorem Core.logRow_front (w : RowWriter) (p : Nat) :
    Core.logRow { c with streams := x, vout := o } w p = { Core.logRow c w p with streams := x, vout := o } := by
  by_cases logged : (c.rowLog.any fun e => e.row = p && e.interval = c.interval) = true
  · rw [Core.logRow, Core.logRow, if_pos logged, if_pos logged]
  · rw [Core.logRow, Core.logRow, if_neg logged, if_neg logged]; rfl

theorem Core.writeRow_front (w : RowWriter) (p : Nat) (r : Row) :
    Core.writeRow { c with streams := x, vout := o } w p r = { Core.writeRow c w p r with streams := x, vout := o } := by
  rw [Core.writeRow, Core.logRow_front]; rfl

/-- Landing looks neither at the streams nor at the result that a class-4 word may take further. -/
theorem Core.land_front (d : Dest) :
    Core.land { c with streams := x, vout := o } d = { Core.land c d with streams := x, vout := o } := by
  cases d with
  | carveX o w => exact Core.writeRow_front ..
  | carveV n r => exact Core.writeRow_front ..
  | _ => rfl

theorem Core.land_all_front (l : List Pend) :
    l.foldl (fun c p => c.land p.dest) { c with streams := x, vout := o } =
      { l.foldl (fun c p => c.land p.dest) c with streams := x, vout := o } := by
  induction l generalizing c with
  | nil => rfl
  | cons p l ih => simp only [List.foldl_cons, Core.land_front, ih]

theorem Core.landDue_front (n : Nat) : (Core.landDue { c with streams := x, vout := o } n).arch = (c.landDue n).arch := by
  simp only [Core.landDue, Core.land_all_front]

end

/-- A raise of flags stands in FLAGS whenever the registers are read once it is due (R46). -/
theorem landed_raiseFlags_due (s : State) (f : FlagSet) {lat n : Nat} (due : s.cycle + lat ≤ n) :
    (s.raiseFlags f lat).landed n = { s.landed n with flags := (s.landed n).flags ||| f } := by
  by_cases none_ : f = 0
  · simp [State.raiseFlags, none_]
  · simp only [State.raiseFlags, if_neg none_, State.landed, Core.landDue_eq, State.pushResult_core, Core.afterWrites, List.filter_append,
      List.filter_cons, List.filter_nil, due, decide_true, ↓reduceIte, Dest.isRaise, Bool.not_true, Bool.false_eq_true,
      List.append_nil, Core.land_all_pend, List.foldl_append, List.foldl_cons, List.foldl_nil]
    rfl

/-! ### Sources read -/

/-- `t` is `s` once a word has read its sources: streams may have advanced, and the flags of the pops stand in FLAGS from this cycle
on (R92); every other register, and every result on its way, is as before. -/
structure Reads (s t : State) (f : FlagSet) : Prop where
  frame : t = { s with
    core := { s.core with pend := t.core.pend, streams := t.core.streams }
    agenda := t.agenda, fresh := t.fresh }
  lands : ∀ n, s.cycle ≤ n → t.landed n = { s.landed n with flags := (s.landed n).flags ||| f }

theorem Reads.cycle_eq {s t : State} {f : FlagSet} (h : Reads s t f) : t.cycle = s.cycle := by rw [h.frame]; rfl

theorem Reads.refl (s : State) : Reads s s 0 := ⟨rfl, fun n _ => by rw [flagSet_or_zero]⟩

theorem Reads.trans {s t u : State} {f g : FlagSet} (h : Reads s t f) (k : Reads t u g) : Reads s u (f ||| g) := by
  refine ⟨by rw [k.frame, h.frame], fun n now => ?_⟩
  rw [k.lands n (h.cycle_eq ▸ now), h.lands n now]
  simp only [BitVec.or_assoc]

theorem Reads.raise {s t : State} {f : FlagSet} (h : Reads s t f) (g : FlagSet) : Reads s (t.raiseFlags g 0) (f ||| g) := by
  refine h.trans ⟨?_, fun n now => landed_raiseFlags_due t g now⟩
  rw [raiseFlags_frame t g 0]

theorem readSrc_reads (s : State) (r : VCode) : Reads s (s.readSrc r).2 0 := by
  have popped (x : Vector VStream 8) (a : List (Nat × Instr)) (n : Nat) :
      Reads s { s with core := { s.core with streams := x }, agenda := a, fresh := n } 0 := by
    refine ⟨rfl, fun n _ => ?_⟩
    rw [flagSet_or_zero]
    exact Core.landDue_front s.core x s.core.vout n
  unfold State.readSrc
  split
  · exact .refl s
  · extract_lets n st
    split
    next v st' _ =>
    extract_lets s'
    split
    · exact popped ..
    · exact popped _ s.agenda s.fresh

theorem readSrc_of_eq {s s' : State} {r : VCode} {v : VIn} (e : s.readSrc r = (v, s')) : Reads s s' 0 := by
  have h := readSrc_reads s r
  rwa [e] at h

theorem read3_reads (s : State) (a b : VCode) (two : Bool) : Reads s (s.read3 a b two).s 0 := by
  unfold State.read3
  split
  next va s1 first =>
  split
  · split
    next vb s2 second => exact (readSrc_of_eq first).trans (readSrc_of_eq second)
  · exact readSrc_of_eq first

/-- The sources of a word of two operands, with the flags of their pops raised. -/
theorem read3_raise (s : State) (a b : VCode) (f : FlagSet) : Reads s ((s.read3 a b true).s.raiseFlags f 0) f := by
  have reads := (read3_reads s a b true).raise f
  rwa [flagSet_zero_or] at reads

/-- The source of a word of one operand, with the flags of its pop raised. -/
theorem readSrc_raise {s s' : State} {r : VCode} {v : VIn} (e : s.readSrc r = (v, s')) (f : FlagSet) :
    Reads s (s'.raiseFlags f 0) f := by
  have reads := (readSrc_of_eq e).raise f
  rwa [flagSet_zero_or] at reads

theorem Reads.visible_eq {s t : State} {f : FlagSet} (h : Reads s t f) (w : Nat) : t.visible w = s.visible w := by
  rw [h.frame]; rfl

theorem firstErr_none {a b : VIn} (ha : a.err = none) (hb : b.err = none) : VIn.firstErr [a, b] = none := by
  simp [VIn.firstErr, ha, hb]

/-! ### Vector results -/

section
variable {s t u : State} {d : VCode} {v : Vec} {g : Tag} {lat : Nat} {f h : FlagSet}

theorem VectorResult.cycle_eq (r : VectorResult s t d v g lat f) : t.cycle = s.cycle := by rw [r.frame]; rfl

/-- A result of a word that has read its sources. -/
theorem VectorResult.of_reads (first : Reads s t h) (r : VectorResult t u d v g lat f) : VectorResult s u d v g lat (h ||| f) := by
  have lands := first.lands (s.cycle + lat) (by omega)
  obtain ⟨frame, value, flags, others, rest⟩ := r
  rw [first.cycle_eq, lands] at value flags others rest
  refine ⟨by rw [frame, first.frame], value, ?_, others, ?_⟩
  · rw [flags, BitVec.or_assoc]
  · exact congrArg (fun a : Arch => { a with flags := (s.landed (s.cycle + lat)).flags }) rest

theorem VectorResult.raise (r : VectorResult s t d v g lat f) (h : FlagSet) :
    VectorResult s (t.raiseFlags h lat) d v g lat (f ||| h) := by
  have lands := landed_raiseFlags t h lat
  rw [r.cycle_eq] at lands
  obtain ⟨frame, value, flags, others, rest⟩ := r
  refine ⟨?_, ?_, ?_, ?_, ?_⟩
  · rw [raiseFlags_frame t h lat, frame]
  · rw [lands]; exact value
  · rw [lands, ← BitVec.or_assoc, ← flags]
  · rw [lands]; exact others
  · rw [lands]; exact rest

/-- Metering a word's work schedules a report and touches nothing else (R356). -/
theorem meter_frame (s : State) (i n : Nat) : s.meter i n = { s with agenda := (s.meter i n).agenda } := by
  unfold State.meter
  split
  · rfl
  · split <;> rfl

theorem VectorResult.meter (r : VectorResult s t d v g lat f) (i n : Nat) : VectorResult s (t.meter i n) d v g lat f := by
  obtain ⟨frame, value, flags, others, rest⟩ := r
  rw [meter_frame]
  exact ⟨by rw [frame], value, flags, others, rest⟩

end

/-- A word that has read its sources writes a vector with the flags that rise with it, and meters its work. -/
theorem givesV_of_writeV {i : Instr} {s t : State} {d : VCode} {v : Vec} {g : Tag} {w lat k n : Nat} {x : Nat → Nat}
    {pops f : FlagSet} (run : exec i s = .next (((t.writeV d v g lat).raiseFlags f lat).meter k n)) (first : Reads s t pops)
    (value : ∀ k, k < 4096 / w → elem w v k = x k % 2 ^ w) : GivesV i s d w x g lat (pops ||| f) := by
  refine ⟨_, run, v, ?_, value⟩
  have r := ((writeV_result t d v g lat).raise f).meter k n
  rw [flagSet_zero_or] at r
  exact r.of_reads first

end Sys2Proof.Machine
end

section
/-! PROOFS. Results position by position: a vector packed from its positions, and the flags that its visible positions raise (R88, R91). -/

namespace Sys2Proof.Machine

open Sys2Proof

/-- The position's bits lie inside the vector. -/
theorem position_fits {w k : Nat} (inside : k < 4096 / w) : w * (k + 1) ≤ 4096 :=
  (Nat.mul_le_mul_left w inside).trans (Nat.mul_div_le 4096 w)

/-- A vector packed from a function of the position has it at every position. -/
theorem elem_ofElems_range (w : Nat) (f : Nat → Nat) {k : Nat} (inside : k < 4096 / w) :
    elem w (ofElems w ((List.range (4096 / w)).map f)) k = f k % 2 ^ w := by
  rw [elem_ofElems w _ k (position_fits inside)]
  simp [List.getD_eq_getElem?_getD, inside]

theorem visible_le (s : State) (w : Nat) : s.visible w ≤ 4096 / w := by
  unfold State.visible
  split
  · exact Nat.div_le_div_right (by decide)
  · exact le_rfl

theorem zip_elems (w : Nat) (v u : Vec) :
    (elems w v).zip (elems w u) = (List.range (4096 / w)).map fun k => (elem w v k, elem w u k) :=
  List.zip_map' ..

theorem range_zip_map {α : Type} {vis n : Nat} (inside : vis ≤ n) (f : Nat → α) :
    (List.range vis).zip ((List.range n).map f) = (List.range vis).map fun k => (k, f k) := by
  refine List.ext_getElem ?_ fun k _ _ => ?_
  · simpa using inside
  · simp

/-- The flags of the positions that a mask and the visible vector select. -/
theorem orFlags_range {vis n : Nat} (m : Mask) (inside : vis ≤ n) (f : Nat → Nat × FlagSet) :
    orFlags m vis ((List.range n).map f) = raisedBy vis fun k => if m.getLsbD k then (f k).2 else 0 := by
  unfold orFlags raisedBy
  rw [range_zip_map inside, List.foldl_map]
  refine List.foldl_ext _ _ _ fun acc k _ => ?_
  by_cases on : m.getLsbD k = true
  · simp only [on, ↓reduceIte]
  · simp only [on, ↓reduceIte, flagSet_or_zero, Bool.false_eq_true]

theorem raisedBy_congr {n : Nat} {f g : Nat → FlagSet} (same : ∀ k, k < n → f k = g k) : raisedBy n f = raisedBy n g := by
  unfold raisedBy
  refine List.foldl_ext _ _ _ fun acc k inside => ?_
  rw [same k (List.mem_range.mp inside)]

/-- The flags of the visible positions, with no mask. -/
theorem orFlags_allOnes {vis n : Nat} (inside : vis ≤ n) (few : vis ≤ 512) (f : Nat → Nat × FlagSet) :
    orFlags (BitVec.allOnes 512) vis ((List.range n).map f) = raisedBy vis fun k => (f k).2 := by
  rw [orFlags_range _ inside]
  refine raisedBy_congr fun k seen => ?_
  rw [BitVec.getLsbD_allOnes, decide_eq_true (Nat.lt_of_lt_of_le seen few), if_pos rfl]

/-- The flags of the first positions of a list, one after the other. -/
theorem foldl_take_flags {vis n : Nat} (inside : vis ≤ n) (f : Nat → Nat × FlagSet) :
    ((((List.range n).map f).take vis).map (·.2)).foldl (· ||| ·) 0 = raisedBy vis fun k => (f k).2 := by
  rw [← List.map_take, List.take_range, Nat.min_eq_left inside, List.map_map, List.foldl_map]
  rfl

end Sys2Proof.Machine
end

section
/-! PROOFS. The special functions (R85..R87, R114): every position widened, put through the function and narrowed once. -/

namespace Sys2Proof.Machine

open Sys2Proof

theorem sfuFmt_width {e : EFmt} {f : FF} (accepted : sfuFmt e = some f) : 8 ≤ f.width := by
  cases f <;> decide

/-- A tag that is neither H nor X passes a nonlinear operation (R94). -/
theorem unaryTag_plain {t : Tag} (plain : Tag.isX t = false) (spatial : Tag.isH t = false) : unaryTag .nonlinear t = some t := by
  simp [unaryTag, plain, spatial]

theorem visible_le_512 (s : State) {w : Nat} (wide : 8 ≤ w) : s.visible w ≤ 512 :=
  (visible_le s w).trans (Nat.div_le_div_left wide (by decide))

/-- A special-function result written after a word has read its sources. -/
theorem givesV_of_sfuResult {i : Instr} {s t : State} {d : VCode} {w lat : Nat} {tag : Tag} {pops : FlagSet} {f : Nat → Nat × FlagSet}
    (run : exec i s = .next (t.sfuResult d w ((List.range (4096 / w)).map f) tag lat)) (first : Reads s t pops) (wide : 8 ≤ w)
    (same : t.visible w = s.visible w) :
    GivesV i s d w (fun k => (f k).1) tag lat (pops ||| raisedBy (s.visible w) fun k => (f k).2) := by
  rw [State.sfuResult, orFlags_allOnes (visible_le t w) (visible_le_512 t wide), same, List.map_map] at run
  exact givesV_of_writeV run first fun k inside => elem_ofElems_range w _ inside

section
variable {s : State} (compute : s.core.isSys = false) {f : FF} (accepted : sfuFmt s.ef = some f)
include compute accepted

/-- A class-6 word of one operand. -/
theorem givesV_sfuWord {i : Instr} {fn : RMode → Nat → Nat × FlagSet} {d a : VCode}
    (meaning : exec i s = s.computeWord i fun s => s.sfuWord fn d a) (wf : i.wf = true) {va : VIn} {s' : State}
    (read : s.readSrc a = (va, s')) (ok : va.err = none) (plain : Tag.isX va.tag = false) (spatial : Tag.isH va.tag = false) :
    let at_ (k : Nat) : Nat × FlagSet := Sfu.narrow f s.rmode (fn s.rmode (Sfu.widen f s.rmode.ftz (elem f.width va.data k)))
    GivesV i s d f.width (fun k => (at_ k).1) va.tag 8 (va.flags ||| raisedBy (s.visible f.width) fun k => (at_ k).2) := by
  have run := State.computeWord_next s i (fun s => s.sfuWord fn d a) compute wf
  have reads := readSrc_raise read va.flags
  refine givesV_of_sfuResult ?_ reads (sfuFmt_width accepted) (reads.visible_eq _)
  rw [meaning, run]
  simp only [State.sfuWord, accepted, read, unaryTag_plain plain spatial, ok, elems, List.map_map]
  rfl

end

/-- Settles O17: one lemma serves every word of one operand, and `fdiv` reads two. -/
theorem specialFunctionResults : Obligations.SpecialFunctionResults := by
  unfold Obligations.SpecialFunctionResults
  intro s d a b f compute accepted
  extract_lets r on o at_
  refine ⟨fun va s' read ok plain spatial => ?unary, fun tag => ?fdiv⟩
  case unary =>
    simp only [List.forall_mem_cons, List.not_mem_nil, false_imp_iff, implies_true, and_true]
    have word {i : Instr} {fn : RMode → Nat → Nat × FlagSet} (meaning : exec i s = s.computeWord i fun s => s.sfuWord fn d a)
        (wf : i.wf = true) := givesV_sfuWord compute accepted meaning wf read ok plain spatial
    exact ⟨word rfl, word rfl, word rfl, word rfl, word rfl, word rfl, word rfl, word rfl, word rfl, word rfl, word rfl⟩
  case fdiv =>
    intro okA okB combined wf
    have run := State.computeWord_next s (.fdiv d a b) (fun s => s.sfuDiv d a b) compute wf
    have reads := read3_raise s a b (o.a.flags ||| o.b.flags)
    refine givesV_of_sfuResult ?_ reads (sfuFmt_width accepted) (reads.visible_eq _)
    rw [show exec (.fdiv d a b) s = s.computeWord (.fdiv d a b) fun s => s.sfuDiv d a b from rfl, run]
    simp only [State.sfuDiv, accepted, o, combined, firstErr_none okA okB, zip_elems, List.map_map]
    rfl

end Sys2Proof.Machine
end

section
/-! PROOFS. Masked, open and mask results: fields under a mask (R91, R98, R100), the result left to a class-4 word (R103), and the
bits of a compare (R99). -/

namespace Sys2Proof.Machine

open Sys2Proof

/-- A word whose fields are computed where the mask selects them and kept elsewhere, with the flags of those computed and visible. -/
theorem givesV_of_masked {i : Instr} {s t : State} {d : VCode} {w lat k n : Nat} {tag : Tag} {pops : FlagSet} {on : Nat → Bool}
    {x : Nat → Nat × FlagSet} {old : Nat → Nat} {r : List (Nat × FlagSet)}
    (run : exec i s = .next (((t.writeV d (ofElems w (r.map (·.1))) tag lat).raiseFlags
      (((r.take (s.visible w)).map (·.2)).foldl (· ||| ·) 0) lat).meter k n))
    (fields : r = (List.range (4096 / w)).map fun k => if on k then x k else (old k, 0)) (first : Reads s t pops) :
    GivesV i s d w (fun k => if on k then (x k).1 else old k) tag lat
      (pops ||| raisedBy (s.visible w) fun k => if on k then (x k).2 else 0) := by
  subst fields
  rw [foldl_take_flags (visible_le s w), List.map_map] at run
  simp only [apply_ite Prod.snd] at run
  refine givesV_of_writeV run first fun k inside => ?_
  rw [elem_ofElems_range w _ inside, Function.comp_apply, apply_ite Prod.fst]

/-- Under a merge the tag is the plain combination with the old destination's (R91). -/
theorem mergedTag_eq (m : BitVec 2) (tag old : Tag) :
    (if (m != 0) = true then plainTag tag old else tag) = if m = 0 then tag else plainTag tag old := by
  by_cases none_ : m = 0 <;> simp [none_]

/-! ### Open results -/

theorem raiseFlags_core (s : State) (f : FlagSet) (lat : Nat) : ∃ l : List Pend,
    s.raiseFlags f lat = { s with core := { s.core with pend := s.core.pend ++ l } } := by
  unfold State.raiseFlags
  split
  · exact ⟨[], by rw [List.append_nil]⟩
  · exact ⟨_, rfl⟩

/-- What a vector word adds: its results on their way, and the open result that counts them. -/
theorem vecResult_core (s : State) (v : VecOut) (w : Nat) : ∃ l : List Pend,
    s.vecResult v w = { s with core := { s.core with pend := s.core.pend ++ l, vout := some { v with ops := l.length } } } := by
  unfold State.vecResult
  extract_lets d tag n t
  obtain ⟨l, raised⟩ : ∃ l, t = _ := raiseFlags_core (s.writeV v.d d tag v.lat) v.flags v.lat
  refine ⟨⟨s.cycle + v.lat, .v v.d d tag⟩ :: l, ?_⟩
  have counted : (s.core.pend ++ [(⟨s.cycle + v.lat, .v v.d d tag⟩ : Pend)] ++ l).length - n = l.length + 1 := by
    simp only [List.length_append, List.length_cons, List.length_nil, n]
    omega
  rw [raised, List.length_cons, ← counted, List.append_cons s.core.pend _ l]
  rfl

/-- The merged result of a vector word lands with its flags (R91, R103). -/
theorem vecResult_result (s : State) (v : VecOut) (w : Nat) :
    VectorResult s (s.vecResult v w) v.d (if v.merge then mergeVec w v.mask v.t v.old.data else v.t)
      (if v.merge then plainTag v.tag v.old.tag else v.tag) v.lat v.flags := by
  unfold State.vecResult
  extract_lets d tag n t
  have r : VectorResult s t v.d d tag v.lat (0 ||| v.flags) := (writeV_result s v.d d tag v.lat).raise v.flags
  clear_value t
  rw [flagSet_zero_or] at r
  obtain ⟨frame, value, flags, others, rest⟩ := r
  have same (o : Core → Option VecOut) (n : Nat) : (t.onCore fun c => { c with vout := o c }).landed n = t.landed n :=
    Core.landDue_front t.core t.core.streams (o t.core) n
  refine ⟨?_, ?_, ?_, ?_, ?_⟩
  · rw [frame]; rfl
  · rw [same]; exact value
  · rw [same]; exact flags
  · rw [same]; exact others
  · rw [same]; exact rest

/-- The open result withdrawn, what lands is as before the word. -/
theorem vecResult_withdrawn (s : State) (v : VecOut) (w i k : Nat) : ∃ o,
    ((s.vecResult v w).meter i k).core.vout = some o ∧ o = { v with ops := o.ops } ∧
    ∀ n, (((s.vecResult v w).meter i k).onCore fun c => { c with pend := c.pend.take (c.pend.length - o.ops) }).landed n =
      s.landed n := by
  obtain ⟨l, core⟩ := vecResult_core s v w
  refine ⟨{ v with ops := l.length }, ?_, rfl, fun n => ?_⟩
  · rw [meter_frame, core]
  · rw [meter_frame, core, State.landed, State.onCore_core]
    simp only [List.length_append, Nat.add_sub_cancel, List.take_left]
    exact Core.landDue_front s.core s.core.streams _ n

/-- A word that merges nothing and leaves its result open. -/
theorem givesOpen_of_vecResult {i : Instr} {s t : State} {v : VecOut} {w k n : Nat} {x : Nat → Nat} {pops : FlagSet}
    (run : exec i s = .next ((t.vecResult v w).meter k n)) (first : Reads s t pops) (unmerged : v.merge = false)
    (value : ∀ k, k < 4096 / w → elem w v.t k = x k % 2 ^ w) :
    GivesOpen i s { d := v.d, w, t := x, tag := v.tag, lat := v.lat, flags := v.flags, mask := v.mask } pops := by
  refine ⟨_, run, ?_, v.t, ?_, value⟩
  · obtain ⟨o, stands, fields, withdrawn⟩ := vecResult_withdrawn t v w k n
    refine ⟨o, stands, ?_⟩
    rw [fields]
    refine ⟨rfl, rfl, rfl, rfl, rfl, unmerged, (by intro _ h; cases h), value, fun n now => ?_⟩
    rw [← first.lands n now]
    exact withdrawn n
  · have r := (vecResult_result t v w).meter k n
    rw [unmerged] at r
    exact r.of_reads first

/-! ### Mask results -/

theorem getM_setM (a : Arch) (r q : BitVec 3) (m : Mask) :
    (a.setM r m).getM q = if q = r ∧ r ≠ 0 then m else a.getM q := by
  by_cases zero : r = 0
  · simp [Arch.setM, zero]
  · rw [Arch.setM, if_neg zero]
    by_cases same : q = r
    · subst same
      rw [if_pos ⟨rfl, zero⟩, Arch.getM, if_neg zero]
      exact Vector.getElem_set_self ..
    · have other : r.toNat ≠ q.toNat := fun e => same (BitVec.eq_of_toNat_eq e.symm)
      rw [if_neg (fun e => same e.1)]
      simp only [Arch.getM]
      split
      · rfl
      · exact Vector.getElem_set_ne _ _ other

theorem maskOf_getLsbD (l : List Bool) {k : Nat} (inside : k < 512) : (maskOf l).getLsbD k = l.getD k false := by
  have digit := packNat_digit 1 (l.map fun b => if b then 1 else 0) k
  rw [Nat.one_mul, Nat.pow_one] at digit
  rw [maskOf, BitVec.getLsbD_ofNat, Nat.testBit_eq_decide_div_mod_eq, digit]
  by_cases listed : k < l.length
  · cases bit : l[k] <;> simp [List.getD_eq_getElem?_getD, listed, bit, inside]
  · simp [List.getD_eq_getElem?_getD, listed, inside]

/-- A mask from a function of the visible positions: past them its bits are 0. -/
theorem maskOf_range (vis : Nat) (f : Nat → Bool) {k : Nat} (inside : k < 512) :
    (maskOf ((List.range vis).map f)).getLsbD k = (decide (k < vis) && f k) := by
  rw [maskOf_getLsbD _ inside]
  by_cases seen : k < vis <;> simp [List.getD_eq_getElem?_getD, seen]

/-- A mask written after a word has read its sources. -/
theorem completes_writeM {i : Instr} {s t : State} {d : BitVec 3} {m : Mask} {lat k n : Nat} {f : Nat → Bool} {pops : FlagSet}
    (run : exec i s = .next ((t.writeM d m lat).meter k n)) (first : Reads s t pops) (bits : ∀ k, k < 512 → m.getLsbD k = f k) :
    Completes i s fun t => MaskResult s t d f lat pops := by
  refine ⟨_, run, ?_⟩
  obtain ⟨c, raised, before, after⟩ := landed_pushResult t lat (.m d m) rfl
  rw [first.cycle_eq] at before after
  rw [first.lands _ (by omega)] at before
  have base : (s.landed (s.cycle + lat)).getM = c.arch.getM := (congrArg Arch.getM before :)
  have lands : ((t.writeM d m lat).meter k n).landed (s.cycle + lat) =
      { (c.land (.m d m)).arch with flags := (c.land (.m d m)).arch.flags ||| raised } := by
    rw [meter_frame]; exact after
  have reads (r : BitVec 3) : (((t.writeM d m lat).meter k n).landed (s.cycle + lat)).getM r = (c.arch.setM d m).getM r := by
    rw [lands]; rfl
  refine ⟨?_, fun real k inside => ?_, fun r other => ?_, ?_⟩
  · rw [meter_frame, first.frame]; rfl
  · rw [reads, getM_setM, if_pos ⟨rfl, real⟩, bits k inside]
  · rw [reads, getM_setM, if_neg (fun e => other e.1), base]
  · rw [before, lands]
    have kept : (s.landed (s.cycle + lat)).m = c.arch.m := (congrArg Arch.m before :)
    rw [kept]
    simp only [Core.land, Arch.setM]
    split <;> rfl

end Sys2Proof.Machine
end

section
/-! PROOFS. Dot products, selection, conversion and compares (R98..R100). -/

namespace Sys2Proof.Machine

open Sys2Proof

theorem elems_quad (v : Vec) {l : Nat} (inside : l < 128) :
    ((elems 8 v).drop (4 * l)).take 4 = (List.range 4).map fun j => elem 8 v (4 * l + j) := by
  refine List.ext_getElem ?_ fun j _ _ => ?_
  · simp [elems]; omega
  · simp [elems]

section
variable {s : State} (compute : s.core.isSys = false) {d a b : XReg} {m : BitVec 2} {tag : Tag}
include compute

section
variable {o : Ops3} (read : s.read3 a b true = o) (okA : o.a.err = none) (okB : o.b.err = none)
include read okA okB

/-- A compare: its bits are those of the visible positions (R90, R99). -/
theorem completes_cmpWord {i : Instr} {f : EFmt → Bool → Nat → Nat → Bool}
    (meaning : exec i s = s.computeWord i fun s => s.cmpWord f d a b m) (wf : i.wf = true)
    (combined : combine .nonlinear o.a.tag o.b.tag = some tag) :
    Completes i s fun t => MaskResult s t (d.truncate 3) (fun k => decide (k < s.visible s.ef.width) &&
        if (s.maskOf3 m).getLsbD k then f s.ef s.rmode.ftz (elem s.ef.width o.a.data k) (elem s.ef.width o.b.data k)
        else (s.getM (d.truncate 3)).getLsbD k)
      2 (o.a.flags ||| o.b.flags) := by
  subst read
  have run := State.computeWord_next s i (fun s => s.cmpWord f d a b m) compute wf
  rw [← meaning] at run
  simp only [State.cmpWord, combined, firstErr_none okA okB, zip_elems, range_zip_map (visible_le s s.ef.width), List.map_map] at run
  exact completes_writeM run (read3_raise ..) fun k inside => maskOf_range _ _ inside

/-- `vsel` leaves its selection open, merging nothing (R99). -/
theorem givesOpen_vsel (wf : (Instr.vsel d a b m).wf = true) (combined : combine .nonlinear o.a.tag o.b.tag = some tag) :
    GivesOpen (.vsel d a b m) s
      { d, w := s.ef.width, tag, lat := 2, flags := 0
        t := fun k => if (s.maskOf3 m).getLsbD k then elem s.ef.width o.a.data k else elem s.ef.width o.b.data k }
      (o.a.flags ||| o.b.flags) := by
  subst read
  have run : exec (.vsel d a b m) s = _ := State.computeWord_next s _ (fun s => s.selWord d a b m) compute wf
  simp only [State.selWord, combined, firstErr_none okA okB] at run
  refine givesOpen_of_vecResult run (read3_raise ..) rfl fun k inside => ?_
  simp only [mergeVec, mergeElems, zip_elems]
  rw [show (elems s.ef.width (s.read3 a b true).a.data).length = 4096 / s.ef.width by simp [elems],
    range_zip_map le_rfl, List.map_map, elem_ofElems_range _ _ inside]
  rfl

/-- `vdot4`: one 32-bit lane from four products and the old lane (R98). -/
theorem givesV_vdot4 (wf : (Instr.vdot4 d a b m).wf = true) (bytes : s.ef.width = 8)
    (combined : laneTag .fma o.a.tag o.b.tag (s.getV d).tag = some tag)
    (spatial : domainBad s.ef (m != 0) (opList a b d o true true (s.getV d)) (s.getV d).tag = false) :
    let quad (v : Vec) (l : Nat) : List Nat := (List.range 4).map fun j => elem 8 v (4 * l + j)
    let dot (l : Nat) : Nat × FlagSet := dotLane s.ef s.rmode (quad o.a.data l) (quad o.b.data l) (elem 32 (s.getV d).data l)
    GivesV (.vdot4 d a b m) s d 32 (fun l => if (s.maskOf3 m).getLsbD (4 * l) then (dot l).1 else elem 32 (s.getV d).data l)
      (if m = 0 then tag else plainTag tag (s.getV d).tag) 3
      (o.a.flags ||| o.b.flags ||| raisedBy (s.visible 32) fun l => if (s.maskOf3 m).getLsbD (4 * l) then (dot l).2 else 0) := by
  intro quad dot
  subst read
  have run : exec (.vdot4 d a b m) s = _ := State.computeWord_next s _ (fun s => s.dot4 d a b m) compute wf
  simp only [State.dot4, bytes, bne_self_eq_false, Bool.false_eq_true, ↓reduceIte, combined, spatial, firstErr_none okA okB,
    mergedTag_eq] at run
  refine givesV_of_masked run (List.map_congr_left fun l listed => ?_) (read3_raise ..)
  rw [elems_quad _ (List.mem_range.mp listed), elems_quad _ (List.mem_range.mp listed)]

end

/-- `vcvt`: one field of the wider width from the source element at its start (R100). -/
theorem givesV_vcvt {g : EFmt} {va : VIn} {s' : State} (code : efOf (b.toNat % 16) = some g) (read : s.readSrc a = (va, s'))
    (ok : va.err = none) (wf : (Instr.vcvt d a b m).wf = true) (unary : unaryTag .nonlinear va.tag = some tag)
    (spatial : domainBad s.ef (m != 0) [(a.toNat, va.tag)] (s.getV d).tag = false) :
    let w := max s.ef.width g.width
    let mode : RMode := { ftz := s.rmode.ftz, rz := b.getLsbD 4, sat := b.getLsbD 5 }
    let at_ (k : Nat) : Nat × FlagSet := convert s.ef g mode (elem s.ef.width va.data (k * (w / s.ef.width)))
    let on (k : Nat) : Bool := (s.maskOf3 m).getLsbD (k * (w / s.ef.width))
    GivesV (.vcvt d a b m) s d w (fun k => if on k then (at_ k).1 else elem w (s.getV d).data k)
      (if m = 0 then tag else plainTag tag (s.getV d).tag) 3
      (va.flags ||| raisedBy (s.visible w) fun k => if on k then (at_ k).2 else 0) := by
  intro w mode at_ on
  have run : exec (.vcvt d a b m) s = _ := State.computeWord_next s _ (fun s => s.cvtWord d a b m) compute wf
  simp only [State.cvtWord, code, read, unary, spatial, Bool.false_eq_true, ↓reduceIte, ok, mergedTag_eq] at run
  exact givesV_of_masked run rfl (readSrc_raise read _)

end

/-- Settles O11: each word reads its sources and writes what its fields compute under the mask. -/
theorem moreLaneResults : Obligations.MoreLaneResults := by
  unfold Obligations.MoreLaneResults
  refine ⟨fun s d a b m tag => ?words, fun s d a b m tag => ?compares⟩
  case words =>
    extract_lets e o old mask quad dot
    intro compute okA okB
    refine ⟨fun wf bytes combined spatial => ?vdot4, fun wf combined => ?vsel, fun g va s' code read ok wf unary spatial => ?vcvt⟩
    case vdot4 => exact givesV_vdot4 compute rfl okA okB wf bytes combined spatial
    case vsel => exact givesOpen_vsel compute rfl okA okB wf combined
    case vcvt => exact givesV_vcvt compute code read ok wf unary spatial
  case compares =>
    extract_lets e o at_
    intro compute okA okB combined
    simp only [List.forall_mem_cons, List.not_mem_nil, false_imp_iff, implies_true, and_true]
    have word {i : Instr} {f : EFmt → Bool → Nat → Nat → Bool} (meaning : exec i s = s.computeWord i fun s => s.cmpWord f d a b m)
        (wf : i.wf = true) := completes_cmpWord compute rfl okA okB meaning wf combined
    exact ⟨word rfl, word rfl, word rfl⟩

end Sys2Proof.Machine
end

section
/-! PROOFS. Rounding (R67) looks at a value and not at how its significand and exponent share it; the rounded sum of a group of
products (R82, R83). -/

namespace Sys2Proof.Machine

open Sys2Proof

/-! ### One value, several exponents -/

theorem log2_mul_two_pow {m : Nat} (nonzero : m ≠ 0) (k : Nat) : (m * 2 ^ k).log2 = m.log2 + k := by
  induction k with
  | zero => simp
  | succ k ih =>
    rw [Nat.pow_succ, ← Nat.mul_assoc, Nat.mul_comm _ 2, Nat.log2_two_mul (Nat.mul_ne_zero nonzero (Nat.two_pow_pos k).ne'), ih]
    rfl

/-- A significand shifted up by the places that its exponent goes down is the same value to rounding. -/
theorem shiftRound_scale (rz : Bool) (m k : Nat) (e q : Int) :
    shiftRound rz (m * 2 ^ k) (e - k) false q = shiftRound rz m e false q := by
  rcases Int.lt_or_le e q with below | above
  · obtain ⟨j, rfl⟩ : ∃ j : Nat, q = e + (j + 1 : Nat) := ⟨(q - e - 1).toNat, by omega⟩
    have short : (e + (j + 1 : Nat) - e).toNat = j + 1 := by omega
    have long : (e + (j + 1 : Nat) - (e - k)).toNat = j + 1 + k := by omega
    have up : 0 < 2 ^ k := Nat.two_pow_pos k
    rw [shiftRound, shiftRound, if_neg (by omega), if_neg (by omega), short, long]
    have quotient : m * 2 ^ k / 2 ^ (j + 1 + k) = m / 2 ^ (j + 1) := by rw [Nat.pow_add, Nat.mul_div_mul_right _ _ up]
    have rest : m * 2 ^ k % 2 ^ (j + 1 + k) = m % 2 ^ (j + 1) * 2 ^ k := by rw [Nat.pow_add, Nat.mul_mod_mul_right]
    have half : 2 ^ (j + 1 + k - 1) = 2 ^ (j + 1 - 1) * 2 ^ k := by rw [← Nat.pow_add]; congr 1; omega
    simp only [quotient, rest, half, Nat.mul_lt_mul_right up, Nat.mul_left_inj up.ne', ne_eq, Nat.mul_eq_zero, up.ne', or_false]
  · rcases Int.lt_or_le (e - k) q with between | all
    · obtain ⟨j, i, rfl, rfl⟩ : ∃ j i : Nat, e = q + i ∧ k = i + (j + 1) :=
        ⟨(q - (e - k) - 1).toNat, (e - q).toNat, by omega, by omega⟩
      have cut : (q - (q + i - (i + (j + 1) : Nat))).toNat = j + 1 := by omega
      have kept : (q + i - q).toNat = i := by omega
      rw [shiftRound, shiftRound, if_neg (by omega), if_pos (by omega), cut, kept, Nat.pow_add, ← Nat.mul_assoc]
      have half : 0 ≠ 2 ^ j := (Nat.two_pow_pos j).ne
      simp [half, Nat.mul_div_cancel _ (Nat.two_pow_pos (j + 1))]
    · have split : (e - q).toNat = k + (e - k - q).toNat := by omega
      rw [shiftRound, shiftRound, if_pos all, if_pos above, split, Nat.pow_add, Nat.mul_assoc]

/-- Rounding depends on the value alone (R67). -/
theorem round_scale (f : FF) (r : RMode) (s : Bool) (m k : Nat) (e : Int) :
    f.round r s (m * 2 ^ k) (e - k) false = f.round r s m e false := by
  by_cases zero : m = 0
  · simp [FF.round, zero]
  · have place : e - k + ((m * 2 ^ k).log2 : Int) - f.fw = e + (m.log2 : Int) - f.fw := by
      rw [log2_mul_two_pow zero]; omega
    have nonzero : m * 2 ^ k ≠ 0 := Nat.mul_ne_zero zero (Nat.two_pow_pos k).ne'
    simp only [FF.round, if_neg zero, if_neg nonzero, place, shiftRound_scale]

/-! ### The sum of a group -/

/-- The group sum of the first n products. -/
def groupOf (p : Nat → FV × FlagSet) (n : Nat) : GSum := (List.range n).foldl (fun g k => g.push (p k)) {}

/-- The exact sum of finite products at an exponent that none exceeds. -/
def exactAt (s : Nat → Bool) (m : Nat → Nat) (e : Nat → Int) (E : Int) (n : Nat) : Int :=
  ((List.range n).map fun k => (if s k then -1 else 1) * (m k * 2 ^ (e k - E).toNat : Int)).sum

section
variable {p : Nat → FV × FlagSet}

theorem groupOf_succ (n : Nat) : groupOf p (n + 1) = (groupOf p n).push (p n) := by
  rw [groupOf, List.range_succ, List.foldl_append]; rfl

/-- What a push leaves of the marks for NaN and infinities. -/
theorem push_marks (g : GSum) (x : FV × FlagSet) :
    (g.push x).nan = (g.nan || decide (x.1 = .nan)) ∧ (g.push x).pinf = (g.pinf || decide (x.1 = .inf false)) ∧
      (g.push x).ninf = (g.ninf || decide (x.1 = .inf true)) := by
  obtain ⟨v, f⟩ := x
  cases v with
  | nan => simp [GSum.push]
  | inf s => cases s <;> simp [GSum.push]
  | fin s m e => by_cases zero : m = 0 <;> simp [GSum.push, zero]

theorem groupOf_marks (n : Nat) :
    ((groupOf p n).nan = true ↔ ∃ k, k < n ∧ (p k).1 = .nan) ∧
    ((groupOf p n).pinf = true ↔ ∃ k, k < n ∧ (p k).1 = .inf false) ∧
    ((groupOf p n).ninf = true ↔ ∃ k, k < n ∧ (p k).1 = .inf true) := by
  induction n with
  | zero => simp [groupOf]
  | succ n ih =>
    obtain ⟨nan, pinf, ninf⟩ := ih
    obtain ⟨nan', pinf', ninf'⟩ := push_marks (groupOf p n) (p n)
    rw [groupOf_succ, nan', pinf', ninf']
    simp only [Bool.or_eq_true, decide_eq_true_eq, nan, pinf, ninf, Nat.exists_lt_succ_right, and_self]

theorem push_zero {g : GSum} {x : FV × FlagSet} {s : Bool} {e : Int} (zero : x.1 = .fin s 0 e) :
    g.push x = { g with allNegZero := g.allNegZero && s } := by
  simp [GSum.push, zero]

theorem push_fin {g : GSum} {x : FV × FlagSet} {s : Bool} {m : Nat} {e : Int} {q : Int} (value : x.1 = .fin s m e) (nonzero : m ≠ 0)
    (place : q = if g.sum = 0 then e else if e ≤ g.exp then e else g.exp) :
    g.push x = { g with
      sum := g.sum * (2 ^ (g.exp - q).toNat : Nat) + (if s then -((m * 2 ^ (e - q).toNat : Nat) : Int) else (m * 2 ^ (e - q).toNat : Nat))
      exp := q, allNegZero := false } := by
  simp only [GSum.push, value, if_neg nonzero, place]

section
variable {s : Nat → Bool} {m : Nat → Nat} {e : Nat → Int} {E : Int}

/-- The sum of finite products, kept at whatever exponent the last push left (R82). -/
theorem groupOf_exact (n : Nat) (finite : ∀ k, k < n → (p k).1 = .fin (s k) (m k) (e k) ∧ E ≤ e k) :
    (groupOf p n).sum * 2 ^ ((groupOf p n).exp - E).toNat = exactAt s m e E n ∧
    ((groupOf p n).sum ≠ 0 → E ≤ (groupOf p n).exp) ∧
    (groupOf p n).allNegZero = (List.range n).all fun k => s k && decide (m k = 0) := by
  induction n with
  | zero => simp [groupOf, exactAt]
  | succ n ih =>
    obtain ⟨exact_, bound, zeros⟩ := ih fun k hk => finite k (by omega)
    obtain ⟨last, low⟩ := finite n (by omega)
    have next : exactAt s m e E (n + 1) = exactAt s m e E n + (if s n then -1 else 1) * (m n * 2 ^ (e n - E).toNat : Int) :=
      List.sum_range_succ ..
    rw [groupOf_succ, next, ← exact_, List.range_succ, List.all_append, ← zeros]
    generalize groupOf p n = g at bound
    by_cases zero : m n = 0
    · rw [zero] at last
      rw [push_zero last, zero]
      exact ⟨by simp, bound, by simp [zero]⟩
    · obtain ⟨q, place⟩ : ∃ q, q = if g.sum = 0 then e n else if e n ≤ g.exp then e n else g.exp := ⟨_, rfl⟩
      have under : E ≤ q ∧ q ≤ e n ∧ (g.sum ≠ 0 → q ≤ g.exp) := by
        by_cases none_ : g.sum = 0
        · simp [place, none_, low]
        · have := bound none_
          rw [place, if_neg none_]
          split <;> omega
      rw [push_fin last zero place]
      obtain ⟨lowest, here, before⟩ := under
      have term : (2 : Int) ^ (e n - q).toNat * 2 ^ (q - E).toNat = 2 ^ (e n - E).toNat := by
        rw [← pow_add]; congr 1; omega
      have old : g.sum * 2 ^ (g.exp - q).toNat * 2 ^ (q - E).toNat = g.sum * 2 ^ (g.exp - E).toNat := by
        by_cases none_ : g.sum = 0
        · simp [none_]
        · have := before none_
          rw [mul_assoc, ← pow_add]; congr 2; omega
      refine ⟨?_, fun _ => lowest, by simp [zero]⟩
      rw [add_mul, ← old, ← term]
      push_cast
      split <;> ring

/-- The group's sum, rounded once (R82, R83). -/
theorem groupOf_finish (n : Nat) (finite : ∀ k, k < n → (p k).1 = .fin (s k) (m k) (e k) ∧ E ≤ e k) :
    (exactAt s m e E n ≠ 0 →
      (groupOf p n).finish.1 = (FF.f32.round {} (decide (exactAt s m e E n < 0)) (exactAt s m e E n).natAbs E false).1) ∧
    (exactAt s m e E n = 0 →
      (groupOf p n).finish.1 = FF.f32.signBit ((List.range n).all fun k => s k && decide (m k = 0))) := by
  obtain ⟨exact_, bound, zeros⟩ := groupOf_exact n finite
  obtain ⟨nan, pinf, ninf⟩ := groupOf_marks (p := p) n
  have noNan : (groupOf p n).nan = false := Bool.eq_false_iff.mpr fun h => by
    obtain ⟨k, hk, is⟩ := nan.mp h; rw [(finite k hk).1] at is; cases is
  have noPinf : (groupOf p n).pinf = false := Bool.eq_false_iff.mpr fun h => by
    obtain ⟨k, hk, is⟩ := pinf.mp h; rw [(finite k hk).1] at is; cases is
  have noNinf : (groupOf p n).ninf = false := Bool.eq_false_iff.mpr fun h => by
    obtain ⟨k, hk, is⟩ := ninf.mp h; rw [(finite k hk).1] at is; cases is
  generalize groupOf p n = g at *
  have scale : (0 : Int) < 2 ^ (g.exp - E).toNat := by positivity
  rw [← exact_, ← zeros]
  simp only [GSum.finish, noNan, noPinf, noNinf, Bool.and_self, Bool.or_self, Bool.false_eq_true, ↓reduceIte, ne_eq, mul_eq_zero,
    scale.ne', or_false]
  refine ⟨fun some_ => ?_, fun none_ => by rw [if_pos none_]⟩
  have sign : decide (g.sum * 2 ^ (g.exp - E).toNat < 0) = decide (g.sum < 0) := by
    rw [decide_eq_decide, mul_neg_iff]
    simp [scale, scale.not_gt]
  have size : (g.sum * 2 ^ (g.exp - E).toNat).natAbs = g.sum.natAbs * 2 ^ (g.exp - E).toNat := by
    rw [Int.natAbs_mul]; simp
  have low := bound some_
  have place : E = g.exp - ((g.exp - E).toNat : Nat) := by omega
  have same := round_scale FF.f32 {} (decide (g.sum < 0)) g.sum.natAbs (g.exp - E).toNat g.exp
  rw [← place] at same
  rw [if_neg some_, sign, size, same]
end
end

end Sys2Proof.Machine
end

section
/-! PROOFS. What a pass leaves in a column of an accumulator row (R82..R84). -/

namespace Sys2Proof.Machine

open Sys2Proof

/-- The sum of a group of 32 products (R82, R83). -/
theorem groupSum_groupOf (p : Nat → FV × FlagSet) : GroupSum (fun k => (p k).1) (groupOf p 32).finish.1 := by
  obtain ⟨nan, pinf, ninf⟩ := groupOf_marks (p := p) 32
  refine ⟨fun bad => ?bad, fun s is noNan noOther => ?inf, fun s m e E finite => groupOf_finish 32 finite⟩
  case bad =>
    have marked : ((groupOf p 32).nan || ((groupOf p 32).pinf && (groupOf p 32).ninf)) = true := by
      rw [Bool.or_eq_true, Bool.and_eq_true, nan, pinf, ninf]
      exact bad.imp_right And.symm
    rw [GSum.finish, if_pos marked]
  case inf =>
    have plain : (groupOf p 32).nan = false := Bool.eq_false_iff.mpr fun h => noNan (nan.mp h)
    cases s with
    | false =>
      have up := pinf.mpr is
      have only : (groupOf p 32).ninf = false := Bool.eq_false_iff.mpr fun h => noOther (ninf.mp h)
      simp [GSum.finish, plain, up, only, FF.signBit]
    | true =>
      have down := ninf.mpr is
      have only : (groupOf p 32).pinf = false := Bool.eq_false_iff.mpr fun h => noOther (pinf.mp h)
      simp [GSum.finish, plain, down, only]

/-! ### Results of 32 bits -/

theorem signBit_f32_le (s : Bool) : FF.f32.signBit s ≤ 2 ^ 31 := by cases s <;> decide

theorem maxFin_le_inf (f : FF) : f.maxFin ≤ f.inf := by cases f <;> decide

/-- No rounded magnitude lies above that of an infinity (R64, R68). -/
theorem round_le {f : FF} (infinite : f ≠ .e4m3) (s : Bool) (m : Nat) (e : Int) (st : Bool) :
    (f.round {} s m e st).1 ≤ f.signBit s + f.inf := by
  have top := maxFin_le_inf f
  unfold FF.round
  split
  · exact Nat.le_add_right ..
  · extract_lets qu q
    generalize shiftRound _ m e st q = r
    obtain ⟨n, ix⟩ := r
    dsimp only
    split
    next above => simp [FF.overflowPat, infinite]
    next fits =>
      rw [if_neg (by simp)]
      exact Nat.add_le_add_left ((Nat.le_of_not_lt fits).trans top) _

/-- An FP32 result is a pattern of 32 bits. -/
theorem round_f32_lt (s : Bool) (m : Nat) (e : Int) (st : Bool) : (FF.f32.round {} s m e st).1 < 2 ^ 32 := by
  have least := round_le (f := .f32) (by decide) s m e st
  have sign := signBit_f32_le s
  have top : FF.f32.inf < 2 ^ 31 := by decide
  omega

theorem add_f32_lt (a b : Nat) : (FF.f32.add {} a b).1 < 2 ^ 32 := by
  have sign := signBit_f32_le
  have top : FF.f32.inf < 2 ^ 31 := by decide
  have canon : FF.f32.canon < 2 ^ 32 := by decide
  simp only [FF.add, FF.finish]
  generalize ((FF.f32.read _ a).add (FF.f32.read _ b)).1 = v
  cases v with
  | nan => exact canon
  | inf s =>
    have := sign s
    simp only [FF.roundV, reduceCtorEq, ↓reduceIte]
    omega
  | fin s m e => exact round_f32_lt ..

/-! ### Columns -/

theorem zipIdx_map_range {α : Type} (f : Nat → α) (n : Nat) :
    ((List.range n).map f).zipIdx = (List.range n).map fun k => (f k, k) :=
  List.ext_getElem (by simp) fun k _ _ => by simp

theorem foldl_add_sum (f : Nat → Int) (l : List Nat) (a : Int) : l.foldl (fun s k => s + f k) a = a + (l.map f).sum := by
  induction l generalizing a with
  | nil => simp
  | cons k l ih => rw [List.foldl_cons, ih, List.map_cons, List.sum_cons, add_assoc]

section
variable (m : Word) (cls : WClass) (slot : WSlot)

/-- The products of a column's group. -/
def columnProduct (row : Vec) (n g k : Nat) : FV × FlagSet :=
  ((aValues m cls row).getD (32 * g + k) .nan).mul (bValue m cls slot (32 * g + k) n)

theorem aValues_length (row : Vec) : (aValues m cls row).length = cls.depth := by simp [aValues]

theorem aInts_length (row : Vec) : (aInts m cls row).length = cls.depth := by simp [aInts]

/-- A group's 32 elements of the A row. -/
theorem aValues_group (row : Vec) {g : Nat} (inside : g < cls.depth / 32) :
    ((aValues m cls row).drop (32 * g)).take 32 = (List.range 32).map fun k => (aValues m cls row).getD (32 * g + k) .nan := by
  have length := aValues_length m cls row
  refine List.ext_getElem ?_ fun k _ listed => ?_
  · simp only [List.length_take, List.length_drop, length, List.length_map, List.length_range]; omega
  · have : k < 32 := by simpa using listed
    simp [List.getD_eq_getElem?_getD, length, show 32 * g + k < cls.depth by omega]

/-- The accumulator of a column after its first groups (R82). -/
def accAfter (row : Vec) (n old g : Nat) : Nat :=
  (List.range g).foldl (fun acc g => (FF.f32.add {} acc (groupOf (columnProduct m cls slot row n g) 32).finish.1).1) old

/-- A group's step on the accumulator and the flags so far (R82, R83). -/
def columnStep (row : Vec) (n : Nat) (st : Nat × FlagSet) (g : Nat) : Nat × FlagSet :=
  let sum := (groupOf (columnProduct m cls slot row n g) 32).finish
  let r := accAdd st.1 sum.1
  (r.1, st.2 ||| sum.2 ||| r.2)

theorem accFp_eq_steps (row : Vec) (n old : Nat) : accFp m cls slot (aValues m cls row) n old =
    (List.range (cls.depth / 32)).foldl (columnStep m cls slot row n) (old, 0) := by
  refine List.foldl_ext _ _ _ fun st g listed => ?_
  rw [aValues_group m cls row (List.mem_range.mp listed), zipIdx_map_range, List.foldl_map]
  rfl

theorem accFp_eq (row : Vec) (n old : Nat) :
    (accFp m cls slot (aValues m cls row) n old).1 = accAfter m cls slot row n old (cls.depth / 32) := by
  rw [accFp_eq_steps]
  exact (List.foldl_hom Prod.fst fun _ _ => rfl).symm

/-- A column of a pass with an FP32 accumulator (R82..R84). -/
theorem accumulates_fp (real : cls.isInt = false) (row : Vec) (n old : Nat) :
    Accumulates m cls slot row n old ((accFp m cls slot (aValues m cls row) n old).1 % 2 ^ 32) := by
  refine ⟨fun whole => absurd whole (by simp [real]), fun _ => ⟨accAfter m cls slot row n old,
    fun g => (groupOf (columnProduct m cls slot row n g) 32).finish.1, rfl, ?_, fun g _ => ⟨groupSum_groupOf _, ?_⟩⟩⟩
  · obtain ⟨g, depth⟩ : ∃ g, cls.depth / 32 = g + 1 := ⟨cls.depth / 32 - 1, by cases cls <;> rfl⟩
    rw [accFp_eq, depth, accAfter, List.range_succ, List.foldl_append]
    exact Nat.mod_eq_of_lt (add_f32_lt ..)
  · rw [accAfter, List.range_succ, List.foldl_append]
    rfl

theorem accInt_eq (row : Vec) (n old : Nat) :
    (accInt m cls slot (aInts m cls row) n old : Int) =
      ((old : Int) + ((List.range cls.depth).map fun k => (aInts m cls row).getD k 0 * bInt m cls slot k n).sum) % 2 ^ 32 := by
  have listed : aInts m cls row = (List.range cls.depth).map fun k => (aInts m cls row).getD k 0 := by
    refine List.ext_getElem (by simp [aInts_length]) fun k inside _ => ?_
    simp [List.getD_eq_getElem?_getD, inside]
  rw [accInt, listed, zipIdx_map_range, List.foldl_map, foldl_add_sum, patOfInt, ← listed]
  exact Int.toNat_of_nonneg (Int.emod_nonneg _ (by decide))

/-- A column of a pass with an INT32 accumulator (R84). -/
theorem accumulates_int (whole : cls.isInt = true) (row : Vec) (n old : Nat) :
    Accumulates m cls slot row n old (accInt m cls slot (aInts m cls row) n old % 2 ^ 32) := by
  refine ⟨fun _ => ?_, fun real => absurd whole (by simp [real])⟩
  rw [Int.natCast_mod, accInt_eq]
  exact Int.emod_emod_of_dvd _ (dvd_refl _)

/-- A pass over an A row accumulates in every column (R82..R84). -/
theorem accumulates_accRow (row acc : Vec) {n : Nat} (inside : n < 128) :
    Accumulates m cls slot row n (elem 32 acc n) (elem 32 (accRow m cls slot row acc).1 n) := by
  unfold accRow
  by_cases whole : cls.isInt = true
  · rw [if_pos whole, elem_ofElems_range 32 _ inside]
    exact accumulates_int m cls slot whole row n _
  · rw [if_neg whole]
    dsimp only
    rw [List.map_map, elem_ofElems_range 32 _ inside]
    exact accumulates_fp m cls slot (Bool.eq_false_iff.mpr whole) row n _

end

end Sys2Proof.Machine
end

section
/-! PROOFS. One A row of a pass enters the array (R155, R163, R165, R169): the accumulator row that it leaves, and the cycle in
which it is read. -/

namespace Sys2Proof.Machine

open Sys2Proof

/-! ### Tags (R155) -/

section
variable {coef : Bool} {htag a : Tag}

/-- An A row of a tag that the pass does not take spoils the accumulator row. -/
theorem accTag_bad (bad : Tag.isX a = true ∨ (Tag.isH a = true ∧ ¬ (coef = true ∧ a = htag))) (old : Option Tag) :
    accTag coef htag old a = tagX := by
  have refused : (if Tag.isX a then false else if Tag.isH a then coef && a == htag else true) = false := by
    rcases bad with x | ⟨h, other⟩
    · rw [if_pos x]
    · rw [if_pos h]
      split
      · rfl
      · simpa using other
  simp only [accTag]
  rw [refused]
  rfl

theorem accTag_good (good : ¬ (Tag.isX a = true ∨ (Tag.isH a = true ∧ ¬ (coef = true ∧ a = htag)))) (old : Option Tag) :
    accTag coef htag old a = old.elim a fun t => if t = a then t else tagX := by
  obtain ⟨noX, taken⟩ := not_or.mp good
  have accepted : (if Tag.isX a then false else if Tag.isH a then coef && a == htag else true) = true := by
    rw [if_neg noX]
    split
    next h => simpa [h] using taken
    next => rfl
  simp only [accTag]
  rw [accepted]
  cases old <;> rfl

end

/-! ### The row read in a cycle -/

section
variable {m : MCmd} {cyc p k : Nat} (mul : m.kind = .mul) (row : k < m.mrows)
include mul row

/-- Pass p of an `mmul` reads its rows from 128 × p + 2 cycles after the issue on (R163). -/
theorem rowAt_mmul (plain : m.tile = false) (pass : p < m.passes) (few : m.mrows ≤ 128) (here : cyc = m.start + 2 + 128 * p + k) :
    m.rowAt cyc = some (p, k) := by
  have offset : cyc - m.start - 2 = 128 * p + k := by omega
  have passOf : (128 * p + k) / 128 = p := by omega
  have rowOf : (128 * p + k) % 128 = k := by omega
  rw [MCmd.rowAt, if_neg (by simp [mul]), if_neg (by simp [plain]), if_neg (by omega)]
  simp only [offset, passOf, rowOf, pass, row, and_self, ↓reduceIte]

/-- A pass of an `mtile` reads its rows from the cycle of its start on (R169). -/
theorem rowAt_mtile (tiled : m.tile = true) (started : 0 < m.sigma) (pass : m.pass = p) (here : cyc = m.sigma + k) :
    m.rowAt cyc = some (p, k) := by
  rw [MCmd.rowAt, if_neg (by simp [mul]), if_pos tiled, if_pos (by omega), pass, here, Nat.add_sub_cancel_left]

end

/-! ### The accumulator row -/

/-- The accumulator row that row k of pass p starts from: none at the first pass under z (R165). -/
def MCmd.oldRow (m : MCmd) (a : Arch) (p k : Nat) : Option Row :=
  if p = 0 ∧ m.z = true then none else accGet a m.bank (m.accRow + k)

/-- What one A row of a pass leaves in its accumulator row, and the flags that it raises (R155, R163). -/
def MCmd.newRow (m : MCmd) (cls : WClass) (slot : WSlot) (a : Row) (old : Option Row) : Row × FlagSet :=
  let r := Machine.accRow m.mfmt cls slot a.data (match old with | some r => r.data | none => 0)
  (⟨r.1, accTag m.coef m.htag (old.map (·.tag)) a.tag⟩, r.2)

/-- The command once row k of pass p has entered: the flags so far, and the result after the last pass. -/
def MCmd.entered (m : MCmd) (p k : Nat) (r : Row × FlagSet) : MCmd :=
  { m with
    flags := mput m.flags k ((mget m.flags k).getD 0 ||| r.2)
    outs := if p + 1 = m.passes then m.outs ++ [(k, r.1)] else m.outs }

section
variable {c : Core} {m : MCmd} {cls : WClass}

theorem mulRow_eq (pair : pairOf m.mfmt = some cls) (p k : Nat) :
    c.mulRow m p k =
      let r := m.newRow cls (c.slot (m.slot + if m.tile then p % 2 else p))
        (c.row (m.abase + (if m.coef then 1 else 0) + p * m.stride + k)) (m.oldRow c.arch p k)
      { c with
        arch := accPut c.arch m.bank (m.accRow + k) r.1
        mcmds := c.mcmds.map fun n => if n.seq = m.seq then m.entered p k r else n } := by
  have slot : (if m.tile = true then m.slot + p % 2 else m.slot + p) = m.slot + if m.tile then p % 2 else p := by split <;> rfl
  unfold Core.mulRow
  rw [pair]
  dsimp only
  rw [slot]
  rfl

/-- With one multiplication in flight, the engine's read point takes its row and completes nothing. -/
theorem matrixTick_one {cyc p k : Nat} (only : c.mcmds = [m]) (mul : m.kind = .mul) (left : m.left ≠ 0)
    (pair : pairOf m.mfmt = some cls) (read : m.rowAt cyc = some (p, k)) : ∃ wl,
    c.matrixTick cyc =
      let r := m.newRow cls (c.slot (m.slot + if m.tile then p % 2 else p))
        (c.row (m.abase + (if m.coef then 1 else 0) + p * m.stride + k)) (m.oldRow c.arch p k)
      { c with arch := accPut c.arch m.bank (m.accRow + k) r.1, mcmds := [m.entered p k r], wloads := wl } := by
  refine ⟨(c.mulRow m p k).wloads.map fun w =>
    if !w.stream ∧ w.issue + 1 ≤ cyc ∧ cyc < w.issue + 1 + w.rows then
      { w with got := mput w.got (cyc - w.issue - 1) ((c.mulRow m p k).row (w.src + (cyc - w.issue - 1))).data } else w, ?_⟩
  unfold Core.matrixTick
  simp only [only, List.foldl_cons, List.foldl_nil, read, mulRow_eq pair, List.map_cons, List.map_nil, ↓reduceIte, MCmd.entered, mul,
    reduceCtorEq, false_and, List.filter_cons, List.filter_nil, left, ne_eq, not_false_eq_true, decide_true]

end

end Sys2Proof.Machine
end

section
/-! PROOFS. The words `mmul` and `mtile` at issue (R161, R163, R164, R169): the checks that they pass, the command that joins those in
flight, and the weight load of a first pass. -/

namespace Sys2Proof.Machine

open Sys2Proof

/-! ### The checks at issue -/

/-- A staging register of an engine in the flat list of all of them (R48). -/
theorem getStg_eq_getD (a : Arch) (e i : Nat) : a.getStg e i = a.stg.toList.getD (e * 16 + i) 0 := by
  simp [Arch.getStg, vget, List.getD_eq_getElem?_getD]

/-- No named slot stops a multiplication that finds each of them loading, or ready in its B format (R164). -/
theorem slotFault_none {s : State} {bf : Nat} {slots : List Nat}
    (usable : ∀ i ∈ slots, (s.core.slot i).state = .loading ∨ ((s.core.slot i).state = .ready ∧ (s.core.slot i).bfmt.toNat = bf)) :
    s.slotFault bf slots = none := by
  have held : (slots.any fun i => (s.core.slot i).state == .empty ||
      ((s.core.slot i).state == .ready && (s.core.slot i).bfmt.toNat != bf)) = false := by
    refine List.any_eq_false.mpr fun i listed => ?_
    rcases usable i listed with loading | ⟨ready, format⟩
    · simp [loading]
    · simp [ready, format]
  rw [State.slotFault, if_neg (by simp [held]), List.findSome?_eq_none_iff]
  intro i listed
  refine if_neg fun failed => ?_
  rcases usable i listed with loading | ⟨ready, -⟩
  · rw [failed] at loading; cases loading
  · rw [failed] at ready; cases ready

/-- Every A row of every pass is inside the window. -/
theorem firstRowOut_none {r stride passes m rows : Nat} (some_ : 0 < passes)
    (inside : ∀ j, j < passes → r + j * stride + m ≤ rows) : firstRowOut r stride passes m rows = none := by
  have first := inside 0 some_
  have last := inside (passes - 1) (by omega)
  rw [Nat.zero_mul, Nat.add_zero] at first
  rw [firstRowOut, if_pos ⟨first, .inr last⟩]

section
variable {s : State} {c : Bool}

/-- The checks that `mmul` and `mtile` share pass: M rows, and the header's tag under `.c` (R164). -/
theorem mulChecks_pass {passes : Nat} {k : Nat → Tag → State}
    (some_ : 0 < passes) :
    let x := s.core.arch.stg.toList.getD 33 0
    let base := (s.core.arch.stg.toList.getD 32 0).toNat / 512
    let m := if c then hdrCnt (windowRow s base).data else x.toNat % 128 + 1
    let a := if c then base + 1 else base
    (c = true → base < s.core.tk.rows ∧ hdrValid (windowRow s base) = true) → mxAccRow x + m ≤ 256 →
    (∀ j, j < passes → a + j * mxStride x + m ≤ s.core.tk.rows) →
    s.mulChecks c passes k = k m (if c then BitVec.ofNat 4 (hdrTag (windowRow s base).data) else 0) := by
  intro x base m a header span inside
  have rowsIn := firstRowOut_none some_ inside
  have spanIn : ¬ 256 < mxAccRow x + m := by omega
  have goesOn (t : Tag) : (match firstRowOut a (mxStride x) passes m s.core.tk.rows with
      | some row => s.fault 0x0A 0 (BitVec.ofNat 64 row)
      | none => k m t) = k m t := by rw [rowsIn]
  unfold State.mulChecks
  rw [getStg_eq_getD, getStg_eq_getD]
  cases c with
  | false => exact (if_neg spanIn).trans (goesOn 0)
  | true =>
    obtain ⟨window, valid⟩ := header rfl
    exact (if_pos window).trans ((if_pos valid).trans ((if_neg spanIn).trans (goesOn _)))

theorem exec_matrixWord {i : Instr} {k : State → State} (meaning : exec i s = s.matrixWord i k) (compute : s.core.isSys = false)
    (wf : i.wf = true) (noError : s.core.merr = none) : exec i s = .next (k s) := by
  rw [meaning, State.matrixWord, State.computeWord_next s i _ compute wf, State.engineError, noError]

end

/-! ### Final rows -/

/-- The final rows of a command are scheduled one a cycle, and nothing else changes (R163). -/
theorem schedPushes_spec (s : State) (core seq first n : Nat) :
    s.schedPushes core seq first n = { s with agenda := (s.schedPushes core seq first n).agenda } ∧
    ∀ e, e ∈ (s.schedPushes core seq first n).agenda ↔
      e ∈ s.agenda ∨ ∃ k, k < n ∧ e = ((first + k) * 16 + ptPush, .resultRowPush core seq k) := by
  induction n with
  | zero => exact ⟨rfl, fun e => by simp [State.schedPushes]⟩
  | succ n ih =>
    obtain ⟨frame, members⟩ := ih
    have next : s.schedPushes core seq first (n + 1) =
        (s.schedPushes core seq first n).sched (first + n) ptPush (.resultRowPush core seq n) := by
      rw [State.schedPushes, List.range_succ, List.foldl_append]; rfl
    refine ⟨by rw [next, frame]; rfl, fun e => ?_⟩
    rw [next, State.sched_agenda, agendaPut_mem, members]
    constructor
    · rintro (last | old | ⟨k, before, is⟩)
      · exact .inr ⟨n, by omega, last⟩
      · exact .inl old
      · exact .inr ⟨k, by omega, is⟩
    · rintro (old | ⟨k, before, is⟩)
      · exact .inr (.inl old)
      · rcases Nat.lt_succ_iff_lt_or_eq.mp before with earlier | rfl
        · exact .inr (.inr ⟨k, earlier, is⟩)
        · exact .inl is

/-- A command joins those in flight with its final rows scheduled. -/
theorem commandJoins_schedPushes (s : State) (m : MCmd) (first rows : Nat) (number : m.seq = s.core.seq) :
    CommandJoins s ((s.onCore fun c => { c with mcmds := c.mcmds ++ [m], seq := s.core.seq + 1 }).schedPushes s.core.id s.core.seq
      first rows) m first rows := by
  obtain ⟨frame, members⟩ := schedPushes_spec
    (s.onCore fun c => { c with mcmds := c.mcmds ++ [m], seq := s.core.seq + 1 }) s.core.id s.core.seq first rows
  refine ⟨by rw [frame]; rfl, fun e => ?_⟩
  rw [members, number]
  rfl

/-! ### Weight loads -/

theorem slot_modSlot_same (c : Core) (i : Nat) (f : WSlot → WSlot) : (c.modSlot i f).slot i = f (c.slot i) := by
  have inside : i % 64 < 64 := Nat.mod_lt _ (by decide)
  simp [Core.modSlot, Core.slot, vget, vset, inside]

/-- A load that starts drops the completion of the one that it replaces (R167). -/
theorem startLoad_agenda (s : State) (w : WLoad) :
    (s.startLoad w).agenda = s.agenda.filter fun e => e.2 ≠ .weightLoadComplete s.core.id w.slot := by
  unfold State.startLoad
  rw [State.onCore_agenda, State.unsched_agenda]
  refine List.filter_congr fun e _ => ?_
  split
  next core slot is =>
    rw [is, Bool.eq_iff_iff]
    simp
  next other =>
    have kept : e.2 ≠ .weightLoadComplete s.core.id w.slot := fun is => other _ _ is
    simp [kept]

theorem startLoad_slot (s : State) (w : WLoad) : ((s.startLoad w).core.slot w.slot).state = .loading := by
  have same := slot_modSlot_same s.core w.slot fun sl =>
    { sl with state := .loading, bfmt := BitVec.ofNat 4 (mfBf w.mfmt), cause := 0, gran := w.rows }
  exact congrArg WSlot.state same

/-- The descriptor fetch of a handle homed elsewhere is all that resolving one may leave (R193). -/
theorem learn_eq (s : State) (h : Word) : ∃ far fresh, s.learn h = { s with far := far, fresh := fresh } := by
  unfold State.learn
  split
  · exact ⟨_, _, rfl⟩
  · exact ⟨s.far, s.fresh, rfl⟩

/-- With granules enough, a stream load starts and completes after a free time (R168). -/
theorem streamInto_starts {s : State} {slot n0 k0 : Nat} {mf h : Word} {ver : Option Nat} {cmd : Bool}
    (room : s.core.granShort (slot % 64) (imageRows (mfBf mf)) = false) : ∃ far fresh, ∃ w : WLoad, w.slot = slot % 64 ∧
    s.streamInto slot mf h n0 k0 ver cmd =
      (({ s with far := far, fresh := fresh } : State).startLoad w).schedFree .weight 1 ptPush
        (.weightLoadComplete s.core.id (slot % 64)) := by
  obtain ⟨far, fresh, learnt⟩ := learn_eq s h
  refine ⟨far, fresh, { seq := s.core.seq, slot := slot % 64, issue := s.cycle, stream := true, rows := imageRows (mfBf mf), hnd := h,
                        n0, k0, mfmt := mf, ver, cmd }, rfl, ?_⟩
  unfold State.streamInto
  rw [learnt]
  exact if_neg (by simp [room])

end Sys2Proof.Machine
end

section
/-! PROOFS. `mmul` and `mtile` join the commands in flight, and what their rows hold (R82, R155, R161..R169). -/

namespace Sys2Proof.Machine

open Sys2Proof

/-- The command that a multiplication adds to those in flight, from the staging registers as they stand (R161). -/
def State.mulCommand (s : State) (b q : BitVec 2) (c p z : Bool) (slot passes m : Nat) (t : Tag) (tile : Bool) : MCmd :=
  let x := s.core.arch.stg.toList.getD 33 0
  { seq := s.core.seq, kind := .mul, tile, start := s.cycle, abase := (s.core.arch.stg.toList.getD 32 0).toNat / 512
    stride := mxStride x, mrows := m, passes, bank := b.toNat, accRow := mxAccRow x, slot, z, push := if p then some q else none
    coef := c, htag := t, mfmt := s.core.arch.mfmt, addr := BitVec.ofNat 64 (addrOf (s.core.gstart + s.core.wpos)), sigma := 0
    left := m }

/-- The sequencer of an `mtile` before its first pass, from the staging registers as they stand (R169). -/
def State.firstPass (s : State) (slot total : Nat) : MTile :=
  let h := s.core.arch.stg.toList.getD 34 0
  { seq := s.core.seq, next := 0, total, sigma := s.cycle + 2, slot, mfmt := s.core.arch.mfmt, hnd := h
    n0 := (s.core.arch.stg.toList.getD 35 0).toNat, k0 := (s.core.arch.stg.toList.getD 36 0).toNat, ver := s.core.pinOf h }

/-- The state once an `mtile` has joined, before its first weight tile is asked for. -/
def State.tileJoined (s : State) (m : MCmd) (t : MTile) : State :=
  s.onCore fun c => { c with mcmds := c.mcmds ++ [m], seq := s.core.seq + 1, mtile := some t }

theorem schedFree_core (s : State) (k : Config.Delay) (least pt : Nat) (i : Instr) : (s.schedFree k least pt i).core = s.core := rfl

/-- The first weight tile of an `mtile` is asked for: its slot is LOADING, and the load completes after a free time (R168, R169). -/
theorem tileJoined_streamInto {s : State} (m : MCmd) (t : MTile) {slot n0 k0 : Nat} (named : slot < 64) {mf h : Word}
    {ver : Option Nat} {cmd : Bool} (room : s.core.granShort slot (imageRows (mfBf mf)) = false) :
    let r := (s.tileJoined m t).streamInto slot mf h n0 k0 ver cmd
    r.core.mcmds = s.core.mcmds ++ [m] ∧ r.core.mtile = some t ∧ (r.core.slot slot).state = .loading ∧
    (∃ done, s.cycle < done ∧ r.agenda = agendaPut (s.agenda.filter fun e => e.2 ≠ .weightLoadComplete s.core.id slot)
      (done * 16 + ptPush) (.weightLoadComplete s.core.id slot)) ∧
    r = { s with
      core := { s.core with
        arch := { s.core.arch with slots := r.core.arch.slots }, mcmds := r.core.mcmds, mtile := r.core.mtile
        wloads := r.core.wloads, seq := r.core.seq }
      agenda := r.agenda, fresh := r.fresh, far := r.far } := by
  have here : slot % 64 = slot := Nat.mod_eq_of_lt named
  have fits : (s.tileJoined m t).core.granShort (slot % 64) (imageRows (mfBf mf)) = false := by rw [here]; exact room
  obtain ⟨far, fresh, w, into_, starts⟩ := streamInto_starts (n0 := n0) (k0 := k0) (h := h) (ver := ver) (cmd := cmd) fits
  intro r
  have is : r = _ := starts
  clear_value r
  rw [here] at is into_
  subst is into_
  refine ⟨rfl, rfl, ?_, ⟨s.cycle + 1 + Config.delay .weight fresh, by omega, ?_⟩, rfl⟩
  · rw [schedFree_core]
    exact startLoad_slot ..
  · rw [schedFree_agenda, startLoad_agenda]
    rfl

section
variable {s : State} {b q : BitVec 2} {c p z : Bool} {slot m : Nat} {t : Tag}

/-- `mmul` past its checks (R163, R164). -/
theorem matMul_eq (legal : mxReserved (s.core.arch.stg.toList.getD 33 0) = false) (pair : (pairOf s.core.arch.mfmt).isSome = true)
    (narrow : c = true → mfAf s.core.arch.mfmt ≤ 1) {passes : Nat} (count : passes = mxNpass (s.core.arch.stg.toList.getD 33 0) + 1)
    (slots : s.slotFault (mfBf s.core.arch.mfmt) ((List.range passes).map fun j => slot + j) = none)
    (checks : ∀ k, s.mulChecks c passes k = k m t) :
    s.matMul b q c p z slot =
      (s.onCore fun k => { k with mcmds := k.mcmds ++ [s.mulCommand b q c p z slot passes m t false], seq := s.core.seq + 1 }).schedPushes
        s.core.id s.core.seq (s.cycle + 20 + 128 * (passes - 1)) m := by
  subst count
  have accepted : ¬ (mxReserved (s.core.arch.stg.toList.getD 33 0) = true ∨ (pairOf s.core.arch.mfmt).isNone = true ∨
      (c = true ∧ 1 < mfAf s.core.arch.mfmt)) := by
    rintro (r | n | ⟨coef, wide⟩)
    · rw [legal] at r; cases r
    · rw [Option.isNone_iff_eq_none] at n; rw [n] at pair; cases pair
    · have := narrow coef; omega
  unfold State.matMul
  simp only [getStg_eq_getD, Nat.reduceMul, Nat.reduceAdd, if_neg accepted, slots, checks]
  rfl

/-- `mtile` past its checks: its command, its sequencer and the load of its first weight tile (R169). -/
theorem matTile_eq (legal : mxReserved (s.core.arch.stg.toList.getD 33 0) = false)
    (single : mxNpass (s.core.arch.stg.toList.getD 33 0) = 0) (tiles : (s.core.arch.stg.toList.getD 37 0).toNat < 2 ^ 16)
    (pair : (pairOf s.core.arch.mfmt).isSome = true) (narrow : c = true → mfAf s.core.arch.mfmt ≤ 1)
    (checks : ∀ k, s.mulChecks c ((s.core.arch.stg.toList.getD 37 0).toNat + 1) k = k m t)
    (room : s.core.granShort slot (imageRows (mfBf s.core.arch.mfmt)) = false) :
    s.matTile b q c p z slot =
      (s.tileJoined (s.mulCommand b q c p z slot ((s.core.arch.stg.toList.getD 37 0).toNat + 1) m t true)
        (s.firstPass slot ((s.core.arch.stg.toList.getD 37 0).toNat + 1))).streamInto
        slot s.core.arch.mfmt (s.core.arch.stg.toList.getD 34 0) (s.core.arch.stg.toList.getD 35 0).toNat
        (s.core.arch.stg.toList.getD 36 0).toNat (s.core.pinOf (s.core.arch.stg.toList.getD 34 0)) false := by
  have accepted : ¬ (mxReserved (s.core.arch.stg.toList.getD 33 0) = true ∨ mxNpass (s.core.arch.stg.toList.getD 33 0) ≠ 0 ∨
      (s.core.arch.stg.toList.getD 37 0).toNat / 2 ^ 16 ≠ 0 ∨ (pairOf s.core.arch.mfmt).isNone = true ∨
      (c = true ∧ 1 < mfAf s.core.arch.mfmt)) := by
    rintro (r | several | more | n | ⟨coef, wide⟩)
    · rw [legal] at r; cases r
    · exact several single
    · exact more (Nat.div_eq_of_lt tiles)
    · rw [Option.isNone_iff_eq_none] at n; rw [n] at pair; cases pair
    · have := narrow coef; omega
  unfold State.matTile
  simp only [getStg_eq_getD, Nat.reduceMul, Nat.reduceAdd, if_neg accepted, Nat.mod_eq_of_lt tiles, checks, room, Bool.false_eq_true,
    ↓reduceIte]
  rfl

end

/-- What a row's entry leaves in each column (R82..R84). -/
theorem newRow_accumulates (m : MCmd) (cls : WClass) (slot : WSlot) (a : Row) (old : Option Row) {n : Nat} (inside : n < 128) :
    Accumulates m.mfmt cls slot a.data n (old.elim 0 fun o => elem 32 o.data n) (elem 32 (m.newRow cls slot a old).1.data n) := by
  cases old with
  | none =>
    have zero : elem 32 (0 : Vec) n = 0 := by
      simp only [elem, BitVec.ofNat_eq_ofNat, BitVec.toNat_zero, Nat.zero_div, Nat.zero_mod]
    have entered := accumulates_accRow m.mfmt cls slot a.data 0 inside
    rwa [zero] at entered
  | some o => exact accumulates_accRow m.mfmt cls slot a.data o.data inside

/-- The tag that it leaves (R155). -/
theorem newRow_tag (m : MCmd) (cls : WClass) (slot : WSlot) (a : Row) (old : Option Row) :
    let bad : Prop := Tag.isX a.tag = true ∨ (Tag.isH a.tag = true ∧ ¬ (m.coef = true ∧ a.tag = m.htag))
    (bad → (m.newRow cls slot a old).1.tag = tagX) ∧
    (¬ bad → (old = none → (m.newRow cls slot a old).1.tag = a.tag) ∧
      ∀ o, old = some o → (m.newRow cls slot a old).1.tag = if o.tag = a.tag then a.tag else tagX) := by
  refine ⟨fun bad => accTag_bad bad _, fun good => ⟨fun none_ => ?_, fun o is => ?_⟩⟩
  · subst none_
    exact accTag_good good none
  · subst is
    refine (accTag_good good (some o.tag)).trans ?_
    show (if o.tag = a.tag then o.tag else tagX) = _
    split
    next same => exact same
    next => rfl

/-- Settles O22: the checks at issue pass and the command joins, the first weight tile loads, and a row that enters changes its own
accumulator row alone. -/
theorem matrixMultiply : Obligations.MatrixMultiply := by
  unfold Obligations.MatrixMultiply
  refine ⟨fun s b q c p z sl => ?mmul, fun s b q c p z sl => ?mtile, fun c m cls cyc p k => ?row⟩
  case mmul =>
    extract_lets mf x base passes stride acc rows a
    intro compute wf noError legal pair narrow usable header span inside
    have slots : s.slotFault (mfBf mf) ((List.range passes).map fun j => sl.toNat + j) = none := by
      refine slotFault_none fun i listed => ?_
      obtain ⟨j, named, rfl⟩ := List.mem_map.mp listed
      exact usable j (List.mem_range.mp named)
    refine ⟨_, exec_matrixWord rfl compute wf noError, ?_⟩
    rw [matMul_eq legal pair narrow rfl slots fun k => mulChecks_pass (Nat.succ_pos _) header span inside]
    exact commandJoins_schedPushes s _ _ _ rfl
  case mtile =>
    extract_lets mf x x5 base stride acc rows a
    intro compute wf noError legal single tiles pair narrow header span inside room
    have fits : s.core.granShort sl.toNat (imageRows (mfBf mf)) = false := decide_eq_false (Nat.not_lt.mpr room)
    refine ⟨_, exec_matrixWord rfl compute wf noError, ?_⟩
    rw [matTile_eq legal single tiles pair narrow (fun k => mulChecks_pass (Nat.succ_pos _) header span
      fun j before => inside j (Nat.lt_succ_iff.mp before)) fits]
    obtain ⟨commands, sequencer, loading, load, frame⟩ := tileJoined_streamInto _ _ sl.isLt fits
    exact ⟨⟨_, commands, rfl, rfl, rfl, rfl, rfl, rfl, rfl, rfl, rfl, rfl, rfl, rfl, rfl, rfl⟩, ⟨_, sequencer, rfl, rfl, rfl⟩,
      loading, load, frame⟩
  case row =>
    intro only mul left pair pass row few plain tiled
    extract_lets key a slot old d
    have read : m.rowAt cyc = some (p, k) := by
      cases tile : m.tile with
      | false => exact rowAt_mmul mul row tile pass few (plain tile)
      | true =>
        obtain ⟨started, current, time⟩ := tiled tile
        exact rowAt_mtile mul row tile started current time
    obtain ⟨wl, tick⟩ := matrixTick_one only mul left pair read
    have is : d = _ := tick
    clear_value d
    subst is
    refine ⟨fun j other => ?_, rfl, rfl, (m.newRow cls slot a old).1, ?_, fun n inside => newRow_accumulates m cls slot a old inside,
      newRow_tag m cls slot a old, _, rfl, rfl, rfl⟩
    · exact (mget_mput ..).trans (if_neg other)
    · exact (mget_mput ..).trans (if_pos rfl)

end Sys2Proof.Machine
end

section
/-! PROOFS. Lane operations over whole vectors (R88, R91, R97): the widths of the element formats, lists combined position by position,
and a result that merges under its mask and stays open to a class-4 word (R103). -/

namespace Sys2Proof.Machine

open Sys2Proof

/-! ### Widths and positions -/

theorem efOf_width (n : Nat) : ((efOf n).getD (.fp .f32)).width = 8 ∨ ((efOf n).getD (.fp .f32)).width = 16 ∨
    ((efOf n).getD (.fp .f32)).width = 32 := by
  unfold efOf
  split <;> decide

/-- An element format in force has 8, 16 or 32 bits (R62). -/
theorem ef_width (s : State) : s.ef.width = 8 ∨ s.ef.width = 16 ∨ s.ef.width = 32 := efOf_width _

theorem ef_wide (s : State) : 8 ≤ s.ef.width := by
  have := ef_width s
  omega

/-- The 8 clusters hold every position, each as many as the others (R88). -/
theorem positions_eq (s : State) : 4096 / s.ef.width = 8 * (512 / s.ef.width) := by
  obtain w | w | w := ef_width s <;> rw [w]

theorem cluster_pos (s : State) : 0 < 512 / s.ef.width := by
  obtain w | w | w := ef_width s <;> rw [w] <;> decide

/-- Lists made from one list combine entry by entry. -/
theorem zip3_map {α : Type} (f : Nat → Nat → Nat → Nat × FlagSet) (l : List α) (a b d : α → Nat) :
    zip3 f (l.map a) (l.map b) (l.map d) = l.map fun k => f (a k) (b k) (d k) := by
  induction l with
  | nil => rfl
  | cons k l ih => simp only [List.map_cons, zip3, ih]

theorem zip3_elems (f : Nat → Nat → Nat → Nat × FlagSet) (w : Nat) (a b d : Vec) :
    zip3 f (elems w a) (elems w b) (elems w d) =
      (List.range (4096 / w)).map fun k => f (elem w a k) (elem w b k) (elem w d k) := zip3_map ..

theorem elems_length (w : Nat) (v : Vec) : (elems w v).length = 4096 / w := by simp [elems]

/-- A merged vector has the new element where the mask bit is 1 and the old one elsewhere (R91). -/
theorem elem_mergeVec (w : Nat) (m : Mask) (new old : Vec) {k : Nat} (inside : k < 4096 / w) :
    elem w (mergeVec w m new old) k = if m.getLsbD k = true then elem w new k else elem w old k := by
  rw [mergeVec, mergeElems, zip_elems, elems_length, range_zip_map le_rfl, List.map_map, elem_ofElems_range _ _ inside]
  exact Nat.mod_eq_of_lt (by dsimp only [Function.comp_apply]; split <;> exact elem_lt ..)

/-! ### Open results -/

/-- A vector word's result, merged where it merges, with the unmerged one left open. -/
theorem givesOpen_of_merged {i : Instr} {s t : State} {v : VecOut} {w k n : Nat} {x : Nat → Nat} {pops : FlagSet}
    (run : exec i s = .next ((t.vecResult v w).meter k n)) (first : Reads s t pops)
    (value : ∀ k, k < 4096 / w → elem w v.t k = x k % 2 ^ w) :
    GivesOpen i s { d := v.d, w, t := x, tag := v.tag, lat := v.lat, flags := v.flags, mask := v.mask
                    old := if v.merge = true then some v.old else none } pops := by
  cases merges : v.merge with
  | false => exact givesOpen_of_vecResult run first merges value
  | true =>
    refine ⟨_, run, ?_, mergeVec w v.mask v.t v.old.data, ?_, fun k inside => ?_⟩
    · obtain ⟨o, stands, fields, withdrawn⟩ := vecResult_withdrawn t v w k n
      refine ⟨o, stands, ?_⟩
      rw [fields]
      refine ⟨rfl, rfl, rfl, rfl, rfl, merges, fun u is => Option.some.inj is, value, fun n now => ?_⟩
      rw [← first.lands n now]
      exact withdrawn n
    · have r := (vecResult_result t v w).meter k n
      rw [merges] at r
      exact r.of_reads first
    · rw [elem_mergeVec _ _ _ _ inside, value k inside]
      rfl

theorem laneLat_eq (e : EFmt) (op : LaneOp) : laneLat e op =
    if e.isFp && (op == .add || op == .sub || op == .mul || op == .fma || op == .fms || op == .absd) then 3 else 2 := by
  cases op <;> cases e <;> rfl

/-- The sources of a lane word, with the flags of their pops raised. -/
theorem read3_reads_raise (s : State) (a b : VCode) (two : Bool) (f : FlagSet) : Reads s ((s.read3 a b two).s.raiseFlags f 0) f := by
  have reads := (read3_reads s a b two).raise f
  rwa [flagSet_zero_or] at reads

theorem mergedOld_eq (m : BitVec 2) (old : VReg) : (if (m != 0) = true then some old else none) = if m = 0 then none else some old := by
  by_cases none_ : m = 0 <;> simp [none_]

/-- What each lane word runs. -/
theorem exec_laneWords (d a b : XReg) (m : BitVec 2) (s : State) :
    ∀ p ∈ laneWords d a b m, exec p.1 s = s.computeWord p.1 fun s => s.laneWord p.2.1 d a p.2.2 m := by
  simp only [laneWords, List.forall_mem_cons, List.not_mem_nil, false_imp_iff, implies_true, and_true]
  and_intros <;> rfl

/-- Settles O10: every lane word reads its sources, runs one operation at every position and leaves the result open. -/
theorem laneWordResults : Obligations.LaneWordResults := by
  unfold Obligations.LaneWordResults
  rintro s d a b m ⟨i, op, b'⟩ listed tag
  extract_lets e o
  intro compute wf legal combined spatial okA okB
  have run := State.computeWord_next s i (fun s => s.laneWord op d a b' m) compute wf
  rw [← exec_laneWords d a b m s (i, op, b') listed] at run
  simp only [State.laneWord, legal, Bool.not_true, Bool.false_eq_true, ↓reduceIte, combined, spatial, firstErr_none okA okB, zip3_elems,
    orFlags_range _ (visible_le s s.ef.width), List.map_map, o, e] at run
  have opened := givesOpen_of_merged run (read3_reads_raise ..) fun k inside => elem_ofElems_range _ _ inside
  rw [mergedOld_eq, laneLat_eq] at opened
  exact opened

end Sys2Proof.Machine
end

section
/-! PROOFS. Class-5 words that leave their result open (R105..R107): a scalar operand at every position, and elements moved. -/

namespace Sys2Proof.Machine

open Sys2Proof

/-! ### Results and checks of class 5 -/

theorem Reads.ef_eq {s t : State} {f : FlagSet} (h : Reads s t f) : t.ef = s.ef := by rw [h.frame]; rfl

/-- A class-5 result given position by position, left open with the flags of the visible ones. -/
theorem givesOpen_of_open5 {i : Instr} {s t : State} {d : VCode} {tag : Tag} {lat : Nat} {pops : FlagSet} {f : Nat → Nat × FlagSet}
    (run : exec i s = .next (t.open5 d ((List.range (4096 / s.ef.width)).map f) tag lat)) (first : Reads s t pops) :
    GivesOpen i s { d, w := s.ef.width, t := fun k => (f k).1, tag, lat
                    flags := raisedBy (s.visible s.ef.width) fun k => (f k).2 } pops := by
  simp only [State.open5, first.ef_eq, first.visible_eq, List.map_map,
    orFlags_allOnes (visible_le s s.ef.width) (visible_le_512 s (ef_wide s))] at run
  exact givesOpen_of_vecResult run first rfl fun k inside => elem_ofElems_range _ _ inside

/-- A vector operand of class 5 that passes its checks (R94, R95). -/
theorem with5_passes {s : State} {kind : Tag → Option Tag} {a : VCode} {va : VIn} {tag : Tag} (f : Tag → State)
    (combined : kind va.tag = some tag) (format : hFormatBad s.ef va.tag = false) (ok : va.err = none) :
    s.with5 kind a va f = f tag := by
  simp only [State.with5, combined, format, Bool.false_eq_true, ↓reduceIte, ok]

/-! ### Scalar operands -/

/-- One entry at every position. -/
theorem replicate_eq_range {α : Type} (n : Nat) (x : α) : List.replicate n x = (List.range n).map fun _ => x := by
  rw [List.map_const', List.length_range]

theorem splat_eq_range (w : Nat) (x : Word) : splat w x = (List.range (4096 / w)).map fun _ => x.toNat % 2 ^ w :=
  replicate_eq_range ..

theorem raisedBy_zero (n : Nat) : raisedBy n (fun _ => 0) = 0 := by
  unfold raisedBy
  induction n with
  | zero => rfl
  | succ n ih => rw [List.range_succ, List.foldl_append, ih, List.foldl_cons, List.foldl_nil, flagSet_or_zero]

/-- `vaddx` and `vmulx` (R105). -/
theorem givesOpen_scalarLane {s s' : State} {i : Instr} {op : LaneOp} {d a b : XReg} {va : VIn} {tag : Tag}
    (meaning : exec i s = s.computeWord i fun s => s.scalarLane op d a b) (compute : s.core.isSys = false) (wf : i.wf = true)
    (read : s.readSrc a = (va, s')) (ok : va.err = none) (format : hFormatBad s.ef va.tag = false)
    (combined : combine (laneKind op) va.tag tagC = some tag) :
    let x := (s.getX b).toNat % 2 ^ s.ef.width
    let at_ (k : Nat) : Nat × FlagSet := lane s.ef s.rmode op (elem s.ef.width va.data k) x x
    GivesOpen i s { d, w := s.ef.width, t := fun k => (at_ k).1, tag, lat := 3
                    flags := raisedBy (s.visible s.ef.width) fun k => (at_ k).2 } va.flags := by
  have run := State.computeWord_next s i (fun s => s.scalarLane op d a b) compute wf
  rw [← meaning] at run
  simp only [State.scalarLane, read] at run
  rw [with5_passes _ combined format ok] at run
  simp only [splat_eq_range, elems, zip3_map] at run
  exact givesOpen_of_open5 run (readSrc_raise read _)

/-- `vfmax` (R105): both parts of its tag, and an H tag only where the format has one. -/
theorem givesOpen_vfmax {s s' : State} {d a b : XReg} {va : VIn} {tag : Tag} (compute : s.core.isSys = false)
    (wf : (Instr.vfmax d a b).wf = true) (read : s.readSrc a = (va, s')) (ok : va.err = none) (format : hFormatBad s.ef va.tag = false)
    (combined : laneTag .fma va.tag tagC (s.getV d).tag = some tag) (addend : hFormatBad s.ef (s.getV d).tag = false) :
    let at_ (k : Nat) : Nat × FlagSet :=
      lane s.ef s.rmode .fma (elem s.ef.width va.data k) ((s.getX b).toNat % 2 ^ s.ef.width) (elem s.ef.width (s.getV d).data k)
    GivesOpen (.vfmax d a b) s { d, w := s.ef.width, t := fun k => (at_ k).1, tag, lat := 3
                                 flags := raisedBy (s.visible s.ef.width) fun k => (at_ k).2 } va.flags := by
  have run : exec (.vfmax d a b) s = _ := State.computeWord_next s _ (fun s => s.scalarFma d a b) compute wf
  have spatial : domainBad s.ef false [(a.toNat, va.tag), (d.toNat, (s.getV d).tag)] (s.getV d).tag = false := by
    simp [domainBad, format, addend]
  simp only [State.scalarFma, read, combined, spatial, Bool.false_eq_true, ↓reduceIte, ok, splat_eq_range, elems, zip3_map] at run
  exact givesOpen_of_open5 run (readSrc_raise read _)

/-- Settles O12: each word gives its result position by position and leaves it open. -/
theorem scalarOperandWords : Obligations.ScalarOperandWords := by
  unfold Obligations.ScalarOperandWords
  intro s d a b i compute
  extract_lets e w x flags gives
  refine ⟨fun wf => ?vbcast, fun wf => ?vimm, fun wf => ?vidx,
    fun va s' tag read ok format => ⟨?product, fun wf combined addend => ?vfmax⟩⟩
  case vbcast =>
    have run : exec (.vbcast d b) s = execVbcast d b s := rfl
    rw [execVbcast, State.computeWord_next _ _ _ compute wf, splat_eq_range, List.map_map] at run
    have opened := givesOpen_of_open5 run (.refl s)
    simp only [Function.comp_apply, raisedBy_zero] at opened
    exact opened
  case vimm =>
    have run : exec (.vimm d i) s = execVimm d i s := rfl
    rw [execVimm, State.computeWord_next _ _ _ compute wf, replicate_eq_range] at run
    exact givesOpen_of_open5 run (.refl s)
  case vidx =>
    have run : exec (.vidx d b) s = execVidx d b s := rfl
    rw [execVidx, State.computeWord_next _ _ _ compute wf] at run
    exact givesOpen_of_open5 run (.refl s)
  case product =>
    simp only [List.forall_mem_cons, List.not_mem_nil, false_imp_iff, implies_true, and_true]
    exact ⟨fun wf combined => givesOpen_scalarLane rfl compute wf read ok format combined,
      fun wf combined => givesOpen_scalarLane rfl compute wf read ok format combined⟩
  case vfmax => exact givesOpen_vfmax compute wf read ok format combined addend

end Sys2Proof.Machine
end

section
/-! PROOFS. Movement (R107, R108): elements go to other positions of their cluster, and clusters to other clusters, under the source's
tag. -/

namespace Sys2Proof.Machine

open Sys2Proof

theorem ef_divides (s : State) : s.ef.width ∣ 4096 := by
  obtain w | w | w := ef_width s <;> rw [w] <;> decide

/-- Where the width divides the vector, its list of elements has the element of every position, those past the last being 0. -/
theorem elems_getD_all {w : Nat} (divides : w ∣ 4096) (v : Vec) (k : Nat) : (elems w v).getD k 0 = elem w v k := by
  by_cases inside : k < 4096 / w
  · exact elems_getD w v k inside
  · have past : 4096 ≤ w * k := calc
      4096 = w * (4096 / w) := (Nat.mul_div_cancel' divides).symm
      _ ≤ w * k := Nat.mul_le_mul_left w (Nat.le_of_not_lt inside)
    have none_ : v.toNat < 2 ^ (w * k) := BitVec.toNat_lt_twoPow_of_le past
    rw [elem, Nat.div_eq_of_lt none_, Nat.zero_mod, List.getD_eq_default]
    rw [elems_length]
    exact Nat.le_of_not_lt inside

/-- A vector written with no flags of its own. -/
theorem givesV_of_unflagged {i : Instr} {s t : State} {d : VCode} {v : Vec} {g : Tag} {w lat k n : Nat} {x : Nat → Nat} {pops : FlagSet}
    (run : exec i s = .next ((t.writeV d v g lat).meter k n)) (first : Reads s t pops)
    (value : ∀ k, k < 4096 / w → elem w v k = x k % 2 ^ w) : GivesV i s d w x g lat pops := by
  have given := givesV_of_writeV (f := 0) run first value
  rwa [flagSet_or_zero] at given

theorem unaryTag_movement (t : Tag) : unaryTag .movement t = some t := rfl

/-- A movement: position k receives the source's position `f k`, and the tag stays. -/
theorem givesOpen_moveWord {i : Instr} {s t : State} {d a : VCode} {f : Nat → Nat} {lat : Nat} {va : VIn}
    (run : exec i s = .next (s.moveWord d a f lat va t)) (first : Reads s (t.raiseFlags va.flags 0) va.flags)
    (format : hFormatBad s.ef va.tag = false) (ok : va.err = none) :
    GivesOpen i s { d, w := s.ef.width, t := fun k => elem s.ef.width va.data (f k), tag := va.tag, lat, flags := 0 } va.flags := by
  rw [State.moveWord, with5_passes _ (unaryTag_movement _) format ok] at run
  simp only [elems_getD_all (ef_divides s)] at run
  have opened := givesOpen_of_open5 run first
  simp only [raisedBy_zero] at opened
  exact opened

/-- The cluster that a cluster receives, under delayed lockstep and without it (R90, R108). -/
theorem clusterOf_eq (lock : Bool) (x : Word) (c : Nat) : clusterOf lock x c =
    if lock then c / 4 * 4 + (if x.getLsbD 3 then (c ^^^ (x.toNat % 8)) % 4 else (c + x.toNat % 8) % 4)
    else if x.getLsbD 3 then (c ^^^ (x.toNat % 8)) % 8 else (c + x.toNat % 8) % 8 := by
  cases lock <;> simp only [clusterOf, Bool.false_eq_true, ↓reduceIte, Nat.zero_add, ← apply_ite]

section
variable {s s' : State} {d a b : XReg} {va : VIn} (compute : s.core.isSys = false) (read : s.readSrc a = (va, s')) (ok : va.err = none)
  (format : hFormatBad s.ef va.tag = false)
include compute read ok format

/-- `vperm`: the index operand selects within the cluster (R107). -/
theorem givesOpen_vperm {s'' : State} {vb : VIn} (wf : (Instr.vperm d a b).wf = true) (index : s'.readSrc b = (vb, s''))
    (okB : vb.err = none) (plain : Tag.isH vb.tag = false) :
    let n := 512 / s.ef.width
    GivesOpen (.vperm d a b) s
      { d, w := s.ef.width, t := fun k => elem s.ef.width va.data (k / n * n + elem s.ef.width vb.data k % n), tag := va.tag, lat := 2
        flags := 0 } (va.flags ||| vb.flags) := by
  have run : exec (.vperm d a b) s = _ := State.computeWord_next s _ (fun s => s.permWord d a b) compute wf
  simp only [State.permWord, read, index, format, plain, Bool.false_eq_true, ↓reduceIte, okB, elems_getD_all (ef_divides s)] at run
  have reads := ((readSrc_of_eq read).trans (readSrc_of_eq index)).raise (va.flags ||| vb.flags)
  rw [flagSet_or_zero, flagSet_zero_or] at reads
  exact givesOpen_moveWord run reads format ok

/-- `vrot`: a rotation within the cluster (R107). -/
theorem givesOpen_vrot (wf : (Instr.vrot d a b).wf = true) :
    let n := 512 / s.ef.width
    GivesOpen (.vrot d a b) s
      { d, w := s.ef.width, t := fun k => elem s.ef.width va.data (k / n * n + (k % n + n - (s.getX b).toNat % n) % n), tag := va.tag
        lat := 2, flags := 0 } va.flags := by
  have run : exec (.vrot d a b) s = execVrot d a b s := rfl
  rw [execVrot, State.computeWord_next _ _ _ compute wf] at run
  simp only [read] at run
  exact givesOpen_moveWord run (readSrc_raise read _) format ok

/-- `xcl`: whole clusters (R108), modulo 4 under delayed lockstep (R90). -/
theorem givesV_xcl (wf : (Instr.xcl d a b).wf = true) :
    GivesV (.xcl d a b) s d 512 (fun c => elem 512 va.data (clusterOf s.lock (s.getX b) c)) va.tag 4 va.flags := by
  have run : exec (.xcl d a b) s = execXcl d a b s := rfl
  rw [execXcl, State.computeWord_next _ _ _ compute wf] at run
  simp only [read] at run
  rw [with5_passes _ (unaryTag_movement _) format ok] at run
  simp only [elems_getD_all (show 512 ∣ 4096 by decide)] at run
  exact givesV_of_unflagged run (readSrc_raise read _) fun c inside => elem_ofElems_range 512 _ inside

end

/-- Settles O13: within clusters a result left open, across clusters one written. -/
theorem movementWords : Obligations.MovementWords := by
  unfold Obligations.MovementWords
  intro s d a b va s' w n x compute read ok format
  refine ⟨fun vb s'' wf index okB plain => givesOpen_vperm compute read ok format wf index okB plain,
    fun wf => givesOpen_vrot compute read ok format wf, fun wf => ?xcl⟩
  have given := givesV_xcl compute read ok format wf
  simp only [clusterOf_eq] at given
  exact given

end Sys2Proof.Machine
end

section
/-! PROOFS. Reductions (R109): the pairwise tree over the elements of a cluster, and over the clusters at one position. -/

namespace Sys2Proof.Machine

open Sys2Proof

/-! ### Lists of clusters -/

/-- A run of the entries of a list. -/
theorem take_drop_range {α : Type} (f : Nat → α) {total from_ n : Nat} (inside : from_ + n ≤ total) :
    (((List.range total).map f).drop from_).take n = (List.range n).map fun j => f (from_ + j) := by
  refine List.ext_getElem ?_ fun j _ _ => ?_
  · simp only [List.length_take, List.length_drop, List.length_map, List.length_range]
    omega
  · simp

/-- Blocks of n entries, one after the other: entry k is entry k mod n of block k div n. -/
theorem flatMap_blocks {α : Type} {n : Nat} (some_ : 0 < n) (m : Nat) (f : Nat → Nat → α) :
    ((List.range m).flatMap fun c => (List.range n).map (f c)) = (List.range (m * n)).map fun k => f (k / n) (k % n) := by
  induction m with
  | zero => simp
  | succ m ih =>
    rw [List.range_succ, List.flatMap_append, ih, Nat.succ_mul, List.range_add, List.map_append, List.map_map, List.flatMap_singleton]
    congr 1
    refine List.map_congr_left fun j listed => ?_
    have inside := List.mem_range.mp listed
    simp only [Function.comp_apply, Nat.mul_comm m n, Nat.mul_add_div some_, Nat.mul_add_mod, Nat.div_eq_of_lt inside,
      Nat.mod_eq_of_lt inside, Nat.add_zero]

/-- A first entry before zeros. -/
theorem cons_zeros_eq_range {n : Nat} (some_ : 0 < n) (x : Nat) :
    x :: List.replicate (n - 1) 0 = (List.range n).map fun j => if j = 0 then x else 0 := by
  obtain ⟨n, rfl⟩ := Nat.exists_eq_succ_of_ne_zero (Nat.ne_of_gt some_)
  rw [List.range_succ_eq_map, List.map_cons, List.map_map, replicate_eq_range]
  rfl

/-! ### Words -/

/-- An additive reduction keeps the tag of a source without X, any other that of one without H or X (R94). -/
theorem unaryTagAs_keeps {p : Prop} [Decidable p] {t : Tag} (valid : Tag.isX t = false) (spatial : ¬ p → Tag.isH t = false) :
    State.redWord.unaryTagAs (if p then .additive else .nonlinear) t = some t := by
  by_cases additive : p
  · rw [if_pos additive]
    simp only [State.redWord.unaryTagAs, unaryTag, valid, Bool.false_eq_true, ↓reduceIte]
  · rw [if_neg additive]
    exact unaryTag_plain valid (spatial additive)

section
variable {s s' : State} {d a : XReg} {va : VIn} (compute : s.core.isSys = false) (read : s.readSrc a = (va, s')) (ok : va.err = none)
  (valid : Tag.isX va.tag = false) (format : hFormatBad s.ef va.tag = false)
include compute read ok valid format

/-- `vred` and `vredmax`: one tree per cluster. -/
theorem givesV_redWord {i : Instr} {op : LaneOp} (meaning : exec i s = s.computeWord i fun s => s.redWord op d a) (wf : i.wf = true)
    (spatial : op ≠ .add → Tag.isH va.tag = false) :
    let n := 512 / s.ef.width
    let tree (l : List Nat) : Nat × FlagSet := pairTree (redOp s.ef s.rmode op) (Nat.log2 l.length) l
    let cluster (c : Nat) : List Nat := (List.range n).map fun j => elem s.ef.width va.data (c * n + j)
    GivesV i s d s.ef.width (fun k => if k % n = 0 then (tree (cluster (k / n))).1 else 0) va.tag 5
      (va.flags ||| raisedBy (if s.lock then 4 else 8) fun c => (tree (cluster c)).2) := by
  intro n tree cluster
  have run := State.computeWord_next s i (fun s => s.redWord op d a) compute wf
  rw [← meaning] at run
  simp only [State.redWord, read] at run
  rw [with5_passes _ (unaryTagAs_keeps valid spatial) format ok] at run
  have trees : ((List.range 8).map fun c =>
      pairTree (redOp s.ef s.rmode op) (Nat.log2 n) (((elems s.ef.width va.data).drop (c * n)).take n)) =
      (List.range 8).map fun c => tree (cluster c) := by
    refine List.map_congr_left fun c listed => ?_
    have inside : c * n + n ≤ 4096 / s.ef.width := by
      rw [positions_eq, ← Nat.succ_mul]
      exact Nat.mul_le_mul_right n (List.mem_range.mp listed)
    simp only [tree, cluster, List.length_map, List.length_range]
    rw [elems, take_drop_range _ inside]
  have few : (if s.lock = true then 4 else 8) ≤ 8 := by split <;> decide
  rw [trees, foldl_take_flags few, List.flatMap_map] at run
  simp only [cons_zeros_eq_range (cluster_pos s), flatMap_blocks (cluster_pos s), ← positions_eq] at run
  exact givesV_of_writeV run (readSrc_raise read _) fun k inside => elem_ofElems_range _ _ inside

/-- `xred`: one tree per position of a cluster, over the visible clusters. -/
theorem givesV_xred {b : XReg} {op : LaneOp} (wf : (Instr.xred d a b).wf = true)
    (code : (if b.toNat = 0 then LaneOp.add else if b.toNat = 1 then .max else .min) = op)
    (spatial : op ≠ .add → Tag.isH va.tag = false) :
    let n := 512 / s.ef.width
    let tree (l : List Nat) : Nat × FlagSet := pairTree (redOp s.ef s.rmode op) (Nat.log2 l.length) l
    let across (j : Nat) : List Nat := (List.range (if s.lock then 4 else 8)).map fun c => elem s.ef.width va.data (c * n + j)
    GivesV (.xred d a b) s d s.ef.width (fun k => (tree (across (k % n))).1) va.tag 8
      (va.flags ||| raisedBy n fun j => (tree (across j)).2) := by
  intro n tree across
  have run : exec (.xred d a b) s = _ := State.computeWord_next s _ (fun s => s.xredWord d a b.toNat) compute wf
  have plain (other : ¬ b.toNat = 0) : Tag.isH va.tag = false := spatial (by rw [← code, if_neg other]; split <;> decide)
  simp only [State.xredWord, read] at run
  rw [with5_passes _ (unaryTagAs_keeps valid plain) format ok, code] at run
  have levels : (if s.lock = true then 2 else 3) = Nat.log2 (if s.lock = true then 4 else 8) := by
    cases s.lock <;> decide
  have trees (j : Nat) : pairTree (redOp s.ef s.rmode op) (if s.lock = true then 2 else 3)
      ((List.range (if s.lock = true then 4 else 8)).map fun c => (elems s.ef.width va.data).getD (c * (512 / s.ef.width) + j) 0) =
      tree (across j) := by
    simp only [elems_getD_all (ef_divides s), levels, tree, across, n, List.length_map, List.length_range]
  simp only [trees, List.map_map, flatMap_blocks (cluster_pos s), ← positions_eq, List.foldl_map] at run
  exact givesV_of_writeV run (readSrc_raise read _) fun k inside => elem_ofElems_range _ _ inside

end

/-- Settles O14: one lemma for the trees within clusters, one for those across. -/
theorem reductionWords : Obligations.ReductionWords := by
  unfold Obligations.ReductionWords
  intro s d a b va s'
  extract_lets e w n visC tree cluster across allowed
  intro compute read ok
  refine ⟨?within, ?across⟩
  case within =>
    simp only [List.forall_mem_cons, List.not_mem_nil, false_imp_iff, implies_true, and_true]
    exact ⟨fun wf ⟨valid, spatial, format⟩ => givesV_redWord compute read ok valid format rfl wf spatial,
      fun wf ⟨valid, spatial, format⟩ => givesV_redWord compute read ok valid format rfl wf spatial⟩
  case across =>
    simp only [List.forall_mem_cons, List.not_mem_nil, false_imp_iff, implies_true, and_true]
    have word {op : LaneOp} (code : (if b.toNat = 0 then LaneOp.add else if b.toNat = 1 then .max else .min) = op)
        (wf : (Instr.xred d a b).wf = true) : allowed op → _ := fun ⟨valid, spatial, format⟩ =>
      givesV_xred compute read ok valid format wf code spatial
    exact ⟨fun code => word (by rw [code]; rfl), fun code => word (by rw [code]; rfl), fun code => word (by rw [code]; rfl)⟩

end Sys2Proof.Machine
end

section
/-! PROOFS. Single elements, masks and tags (R90, R95, R110..R112): a scalar read from a vector, one element written, and the mask
operations on the bits that are there. -/

namespace Sys2Proof.Machine

open Sys2Proof

/-! ### Scalars read from vectors -/

/-- A scalar result of a word that has read its sources. -/
theorem readResult_of_reads {s t u : State} {d : XReg} {v : Word} {lat : Nat} {f : FlagSet} (first : Reads s t f)
    (r : ScalarResult t u d v lat) : ReadResult s u d v lat f := by
  have lands := first.lands (s.cycle + lat) (by omega)
  obtain ⟨frame, value, flags, others, rest, -⟩ := r
  rw [first.cycle_eq, lands] at flags others rest
  rw [first.cycle_eq] at value
  refine ⟨by rw [frame, first.frame], value, ?_, others, ?_⟩
  · rw [flags, flagSet_or_zero]
  · exact congrArg (fun a : Arch => { a with flags := (s.landed (s.cycle + lat)).flags }) rest

/-- The integer of a signed pattern: the top bit is the pattern's upper half (R81). -/
theorem intOfPat_signed {w p : Nat} (some_ : 0 < w) (inside : p < 2 ^ w) :
    intOfPat w true p = if 2 * p < 2 ^ w then (p : Int) else p - 2 ^ w := by
  obtain ⟨n, rfl⟩ := Nat.exists_eq_succ_of_ne_zero (Nat.ne_of_gt some_)
  rw [intOfPat, Nat.mod_eq_of_lt inside, Nat.succ_sub_one, Nat.succ_eq_add_one, Nat.pow_succ, Nat.mul_comm 2 p]
  rw [Nat.pow_succ] at inside
  by_cases low : p < 2 ^ n
  · rw [Nat.testBit_lt_two_pow low, if_pos (Nat.mul_lt_mul_of_pos_right low (by decide))]
    rfl
  · have top : p.testBit n = true := by
      rw [Nat.testBit_eq_decide_div_mod_eq, Nat.div_eq_of_lt_le (k := 1) (by omega) (by omega)]
      rfl
    rw [top, Bool.true_and, if_pos rfl, if_neg (by omega)]
    push_cast
    rfl

section
variable {s s' : State} {d a b : XReg} {va : VIn} (compute : s.core.isSys = false) (read : s.readSrc a = (va, s')) (ok : va.err = none)
include compute read ok

/-- `vext`: sign-extended from INT formats, zero-extended from the others (R110). -/
theorem completes_vext (wf : (Instr.vext d a b).wf = true) :
    let w := s.ef.width
    let p := elem w va.data ((s.getX b).toNat % s.visible w)
    let v : Int := if s.ef = .int w true then (if 2 * p < 2 ^ w then (p : Int) else p - 2 ^ w) else p
    Completes (.vext d a b) s fun t => ReadResult s t d (BitVec.ofInt 64 v) 2 va.flags := by
  intro w p v
  have run : exec (.vext d a b) s = execVext d a b s := rfl
  rw [execVext, State.computeWord_next _ _ _ compute wf] at run
  simp only [read, ok] at run
  refine ⟨_, run, ?_⟩
  suffices value : _ = v from value ▸ readResult_of_reads (readSrc_raise read _) (writeX_result ..)
  split
  next w' is =>
    have same : s.ef.width = w' := congrArg EFmt.width is
    rw [← same, intOfPat_signed (Nat.lt_of_lt_of_le (by decide) (ef_wide s)) (elem_lt ..)]
    exact (if_pos (is.trans (congrArg (EFmt.int · true) same.symm))).symm
  next other => exact (if_neg (other w)).symm

/-- `vtagx`: the tag as it stands (R112). -/
theorem completes_vtagx (wf : (Instr.vtagx d a).wf = true) (format : hFormatBad s.ef va.tag = false) :
    Completes (.vtagx d a) s fun t => ReadResult s t d (BitVec.ofNat 64 va.tag.toNat) 1 va.flags := by
  have run : exec (.vtagx d a) s = execVtagx d a s := rfl
  rw [execVtagx, State.computeWord_next _ _ _ compute wf] at run
  simp only [read, format, Bool.false_eq_true, ↓reduceIte, ok] at run
  exact ⟨_, run, BitVec.ofNat_toNat 64 va.tag ▸ readResult_of_reads (readSrc_raise read _) (writeX_result ..)⟩

/-- `vtag`: every bit under another tag (R112). -/
theorem givesV_vtag {g : BitVec 4} (wf : (Instr.vtag d a g).wf = true) :
    GivesV (.vtag d a g) s d s.ef.width (elem s.ef.width va.data) g 1 va.flags := by
  have run : exec (.vtag d a g) s = execVtag d a g s := rfl
  rw [execVtag, State.computeWord_next _ _ _ compute wf] at run
  simp only [read, ok] at run
  exact givesV_of_unflagged run (readSrc_raise read _) fun k _ => (Nat.mod_eq_of_lt (elem_lt ..)).symm

end

/-! ### One element written -/

/-- A vector with one element replaced. -/
theorem elem_ofElems_set {w : Nat} (v : Vec) (i x : Nat) {k : Nat} (inside : k < 4096 / w) :
    elem w (ofElems w ((elems w v).set i (x % 2 ^ w))) k = (if k = i then x else elem w v k) % 2 ^ w := by
  rw [elem_ofElems _ _ _ (position_fits inside), List.getD_eq_getElem?_getD, List.getElem?_set, elems_length]
  by_cases same : k = i
  · subst same
    rw [if_pos rfl, if_pos inside, if_pos rfl, Option.getD_some, Nat.mod_mod]
  · rw [if_neg (Ne.symm same), if_neg same, ← List.getD_eq_getElem?_getD, elems_getD _ _ _ inside]

/-- `vins` (R110). -/
theorem givesV_vins {s : State} {d a b : XReg} (compute : s.core.isSys = false) (wf : (Instr.vins d a b).wf = true)
    (spatial : Tag.isH (s.getV d).tag = false) (valid : Tag.isX (s.getV d).tag = false) :
    GivesV (.vins d a b) s d s.ef.width
      (fun k => if k = (s.getX b).toNat % s.visible s.ef.width then (s.getX a).toNat else elem s.ef.width (s.getV d).data k) tagS 2 0 := by
  have run : exec (.vins d a b) s = execVins d a b s := rfl
  rw [execVins, State.computeWord_next _ _ _ compute wf] at run
  simp only [spatial, valid, Bool.or_false, Bool.false_eq_true, ↓reduceIte] at run
  exact givesV_of_unflagged run (.refl s) fun k inside => elem_ofElems_set _ _ _ inside

/-! ### Masks -/

theorem meter_nothing (s : State) (i : Nat) : s.meter i 0 = s := by
  unfold State.meter
  split <;> rfl

/-- Under delayed lockstep the bits past the visible positions are 0 (R90). -/
theorem shown_getLsbD (s : State) (m : Mask) {k : Nat} (inside : k < 512) :
    (s.shown m).getLsbD k = ((!s.core.tk.lock || decide (k < s.visible s.ef.width)) && m.getLsbD k) := by
  unfold State.shown State.lock
  cases s.core.tk.lock
  · rfl
  · rw [if_pos rfl, BitVec.getLsbD_and, BitVec.getLsbD_ofNat, decide_eq_true inside, Nat.testBit_two_pow_sub_one, Bool.true_and,
      Bool.and_comm]
    rfl

/-- A mask operation: its bits are those of the operands that are there (R111). -/
theorem completes_maskWord {s : State} {i : Instr} {d : XReg} {m : Mask} {f : Nat → Bool}
    (meaning : exec i s = s.computeWord i fun s => s.writeM (d.truncate 3) m 1) (compute : s.core.isSys = false) (wf : i.wf = true)
    (bits : ∀ k, k < 512 → m.getLsbD k = f k) : Completes i s fun t => MaskResult s t (d.truncate 3) f 1 0 := by
  have run := State.computeWord_next s i (fun s => s.writeM (d.truncate 3) m 1) compute wf
  rw [← meaning, ← meter_nothing (s.writeM (d.truncate 3) m 1) 3] at run
  exact completes_writeM run (.refl s) bits

/-- The visible bits of a mask that are 1 (R111). -/
theorem countMask_shown (s : State) (m : Mask) : countMask (s.shown m) (s.visible s.ef.width) =
    ((List.range (s.visible s.ef.width)).map fun k => (m.getLsbD k).toNat).sum := by
  rw [countMask, length_filter_eq_sum]
  refine congrArg List.sum (List.map_congr_left fun k listed => ?_)
  have seen := List.mem_range.mp listed
  rw [shown_getLsbD s m (Nat.lt_of_lt_of_le seen (visible_le_512 s (ef_wide s))), decide_eq_true seen, Bool.or_true, Bool.true_and]

/-- Settles O15: scalars read from a vector, one element written, and masks bit by bit. -/
theorem elementTagMaskWords : Obligations.ElementTagMaskWords := by
  unfold Obligations.ElementTagMaskWords
  intro s d a b g compute w vis seen
  refine ⟨fun va s' read ok => ⟨?vext, ?vtagx, ?vtag⟩, ?vins, ?masks⟩
  case vext => exact completes_vext compute read ok
  case vtagx => exact completes_vtagx compute read ok
  case vtag => exact givesV_vtag compute read ok
  case vins => exact givesV_vins compute
  case masks =>
    intro ma mb
    have shown (r : XReg) {k : Nat} (inside : k < 512) : (s.maskIn r).getLsbD k = (seen k && (s.getM (r.truncate 3)).getLsbD k) :=
      shown_getLsbD s _ inside
    refine ⟨fun wf => ?mand, fun wf => ?mor, fun wf => ?mnot, fun wf => ?mpop⟩
    case mand =>
      refine completes_maskWord rfl compute wf fun k inside => ?_
      rw [BitVec.getLsbD_and, shown a inside, shown b inside]
      cases seen k <;> rfl
    case mor =>
      refine completes_maskWord rfl compute wf fun k inside => ?_
      rw [BitVec.getLsbD_or, shown a inside, shown b inside]
      cases seen k <;> rfl
    case mnot =>
      refine completes_maskWord rfl compute wf fun k inside => ?_
      have there : (s.shown (~~~s.maskIn a)).getLsbD k = (seen k && (~~~s.maskIn a).getLsbD k) := shown_getLsbD s _ inside
      rw [there, BitVec.getLsbD_not, shown a inside, decide_eq_true inside, Bool.true_and]
      cases seen k <;> rfl
    case mpop =>
      have run : exec (.mpop d a) s = execMpop d a s := rfl
      rw [execMpop, State.computeWord_next _ _ _ compute wf, State.maskIn, countMask_shown] at run
      exact ⟨_, run, writeX_result ..⟩

end Sys2Proof.Machine
end

section
/-! PROOFS. Pops and cascades (R101..R103, R113, R159): the oldest row of a result queue, and the stages that take an open vector result
further before its one merge. -/

namespace Sys2Proof.Machine

open Sys2Proof

/-! ### Pops -/

theorem vget_eq_getD {α : Type} {n : Nat} (v : Vector α n) (i : Nat) (d : α) : vget v i d = v.toList.getD i d := by
  rw [vget, List.getD_eq_getElem?_getD, Vector.getElem?_toList]

/-- A row leaves its queue; a held row whose overflow has been raised is on its way into it (R113, R159). -/
theorem popQueue_cons {s : State} {n : Nat} {r : Row} {rest : List Row} (row : s.core.arch.rq.toList.getD n [] = r :: rest) :
    s.popQueue n = some (r, { s with
      core := { s.core with arch := { s.core.arch with rq := s.core.arch.rq.setIfInBounds n rest } }
      agenda := if (s.core.arch.hold.toList.getD n none).isSome ∧ s.core.ovf = none then
        agendaPut s.agenda ((s.cycle + 1) * 16 + ptPush) (.heldRowEntersQueue s.core.id (BitVec.ofNat 2 n)) else s.agenda }) := by
  rw [← vget_eq_getD] at row ⊢
  by_cases held : (vget s.core.arch.hold n none).isSome = true ∧ s.core.ovf = none
  · rw [if_pos held]
    simp only [State.popQueue, row, State.onArch, held.1, held.2, Option.isNone_none, Bool.and_self, ↓reduceIte]
    rfl
  · rw [if_neg held]
    have waits : ((vget s.core.arch.hold n none).isSome && s.core.ovf.isNone) = false :=
      Bool.eq_false_iff.mpr fun both => held (by simpa using both)
    simp only [State.popQueue, row, State.onArch, waits, Bool.false_eq_true, ↓reduceIte]
    rfl

theorem popQueue_nil {s : State} {n : Nat} (empty : s.core.arch.rq.toList.getD n [] = []) : s.popQueue n = none := by
  rw [← vget_eq_getD] at empty
  rw [State.popQueue, empty]

/-! ### Stages -/

theorem elem_zero (w k : Nat) : elem w 0 k = 0 := by
  rw [elem, show (0 : Vec).toNat = 0 from BitVec.toNat_zero, Nat.zero_div, Nat.zero_mod]

theorem Reads.meter {s t : State} {f : FlagSet} (h : Reads s t f) (i n : Nat) : Reads s (t.meter i n) f := by
  rw [meter_frame]
  exact ⟨by rw [h.frame], h.lands⟩

/-- The codes of the stage operations (R102). -/
theorem stageOp_eq_some_iff (c : BitVec 5) (op : LaneOp) : stageOp c = some op ↔ (c.toNat, op) ∈ stageOps := by
  have listed : ∀ c : BitVec 5, ∀ op ∈ stageOp c, (c.toNat, op) ∈ stageOps := by decide
  have named : ∀ c : BitVec 5, ∀ p ∈ stageOps, p.1 = c.toNat → stageOp c = some p.2 := by decide
  exact ⟨listed c op, fun member => named c _ member rfl⟩

/-- A scalar operand stands at every position with tag C (R101). -/
theorem stageSrc_scalar (s : State) (w : Nat) (src : XReg) :
    let o := (s.stageSrc w src true).1
    o.tag = tagC ∧ o.flags = 0 ∧ ∀ k, k < 4096 / w → elem w o.data k = (s.getX src).toNat % 2 ^ w := by
  refine ⟨rfl, rfl, fun k inside => ?_⟩
  rw [State.stageSrc, if_pos rfl, replicate_eq_range, elem_ofElems_range _ _ inside, Nat.mod_mod]

theorem stageSrc_reads (s : State) (w : Nat) (src : XReg) (scalar : Bool) : Reads s (s.stageSrc w src scalar).2 0 := by
  unfold State.stageSrc
  split
  · exact .refl s
  · exact readSrc_reads s src

theorem stageIn_reads (s : State) (op : LaneOp) (src : XReg) (scalar : Bool) : Reads s (s.stageIn op src scalar).2 0 := by
  unfold State.stageIn
  split
  · exact stageSrc_reads ..
  · exact .refl s

/-- An operation of one operand has 0 beside it. -/
theorem stageIn_elem (s : State) (op : LaneOp) (src : XReg) (scalar : Bool) (w k : Nat) :
    elem w (s.stageIn op src scalar).1.data k = if op.two then elem w (s.stageSrc s.ef.width src scalar).1.data k else 0 := by
  rw [State.stageIn]
  cases op.two
  · exact elem_zero w k
  · rfl

theorem stagePops_eq {s : State} {code : BitVec 5} {op : LaneOp} (named : stageOp code = some op) (src : XReg) (scalar : Bool) :
    stagePops s code src scalar = (s.stageIn op src scalar).1.flags := by
  simp only [stagePops, named, State.stageIn]
  cases op.two <;> rfl

theorem stagePops_passes {code : BitVec 5} (passes : stageOp code = none) (s : State) (src : XReg) (scalar : Bool) :
    stagePops s code src scalar = 0 := by
  rw [stagePops, passes]

theorem ok_of_ite_error {ε α : Type} {p : Prop} [Decidable p] {f : ε} {g a : α}
    (ok : (if p then .error f else .ok g : Except ε α) = .ok a) : g = a := by
  split at ok <;> cases ok
  rfl

/-- A stage whose tags combine (R94). -/
theorem stageTag_ok {s : State} {op : LaneOp} {merge : Bool} {t tag : Tag} {src : XReg} {scalar : Bool}
    (ok : stageTag s.ef op merge t src (s.stageIn op src scalar).1 = .ok tag) :
    (if op.two then combine (laneKind op) t (s.stageSrc s.ef.width src scalar).1.tag else unaryTag (laneKind op) t) = some tag := by
  have same : (if op.two then combine (laneKind op) t (s.stageIn op src scalar).1.tag else unaryTag (laneKind op) t) =
      if op.two then combine (laneKind op) t (s.stageSrc s.ef.width src scalar).1.tag else unaryTag (laneKind op) t := by
    rw [State.stageIn]
    cases op.two <;> rfl
  simp only [stageTag, same] at ok
  split at ok
  next => cases ok
  next g found => rw [found, ok_of_ite_error ok]

/-- A code that passes leaves the open result and the state (R102). -/
theorem stage_passes {code : BitVec 5} (passes : stageOp code = none) (s : State) (v : VecOut) (src : XReg) (scalar : Bool) :
    s.stage v code src scalar = .ok (v, s) := by
  rw [State.stage, passes]

/-- What a stage that succeeds has done: its tags combined, it raised the flags of its pop, and every position went through the
operation. -/
theorem stage_ok {s s' : State} {v v' : VecOut} {code : BitVec 5} {op : LaneOp} {src : XReg} {scalar : Bool}
    (named : stageOp code = some op) (ok : s.stage v code src scalar = .ok (v', s')) :
    let o := s.stageIn op src scalar
    let at_ (k : Nat) : Nat × FlagSet :=
      lane s.ef s.rmode op (elem s.ef.width v.t k) (elem s.ef.width o.1.data k) (elem s.ef.width v.t k)
    s' = (o.2.raiseFlags o.1.flags 0).meter 3 v.count ∧ ∃ tag, stageTag s.ef op v.merge v.tag src o.1 = .ok tag ∧
    v' = { v with
      t := ofElems s.ef.width ((List.range (4096 / s.ef.width)).map fun k => (at_ k).1), tag, lat := v.lat + 2
      flags := v.flags ||| raisedBy (s.visible s.ef.width) fun k => if v.mask.getLsbD k then (at_ k).2 else 0 } := by
  simp only [State.stage, named] at ok
  generalize s.stageIn op src scalar = o at ok ⊢
  split at ok
  next => cases ok
  next tag combined =>
    split at ok
    next => cases ok
    next =>
      cases ok
      refine ⟨rfl, tag, combined, ?_⟩
      simp only [zip3_elems, orFlags_range _ (visible_le s s.ef.width), List.map_map]
      rfl

/-- A stage that succeeds gives the result of R102, once it has popped what it reads. -/
theorem stage_gives {s s' : State} {v v' : VecOut} {code : BitVec 5} {src : XReg} {scalar : Bool}
    (ok : s.stage v code src scalar = .ok (v', s')) :
    StageGives s v v' code src scalar ∧ Reads s s' (stagePops s code src scalar) := by
  cases named : stageOp code with
  | none =>
    rw [stage_passes named] at ok
    cases ok
    refine ⟨⟨fun _ => rfl, fun is => is ▸ stageSrc_scalar .., fun op other => ?_⟩, ?_⟩
    · rw [named] at other
      cases other
    · rw [stagePops_passes named]
      exact .refl s
  | some op =>
    obtain ⟨rfl, tag, combined, fields⟩ := stage_ok named ok
    refine ⟨⟨fun other => ?_, fun is => is ▸ stageSrc_scalar .., fun op' other => ?_⟩, ?_⟩
    · rw [named] at other
      cases other
    · obtain rfl : op = op' := Option.some.inj (named.symm.trans other)
      simp only [stageIn_elem] at fields
      subst fields
      exact ⟨fun k inside => elem_ofElems_range _ _ inside, stageTag_ok combined, rfl⟩
    · rw [stagePops_eq named]
      have reads := ((stageIn_reads s op src scalar).raise (s.stageIn op src scalar).1.flags).meter 3 v.count
      rwa [flagSet_zero_or] at reads

/-- A stage keeps where the result goes and how it merges. -/
theorem stageGives_keeps {s : State} {v v' : VecOut} {code : BitVec 5} {src : XReg} {scalar : Bool}
    (gives : StageGives s v v' code src scalar) : v'.d = v.d ∧ v'.merge = v.merge ∧ v'.mask = v.mask ∧ v'.old = v.old := by
  obtain ⟨passes, -, acts⟩ := gives
  cases named : stageOp code with
  | none =>
    rw [passes named]
    exact ⟨rfl, rfl, rfl, rfl⟩
  | some op =>
    obtain ⟨-, -, fields⟩ := acts op named
    rw [fields]
    exact ⟨rfl, rfl, rfl, rfl⟩

/-! ### Cascades -/

/-- The result lands whether or not it stays open (R101). -/
theorem VectorResult.closed {s t : State} {d : VCode} {v : Vec} {g : Tag} {lat : Nat} {f : FlagSet} (r : VectorResult s t d v g lat f) :
    VectorResult s (t.onCore fun k => { k with vout := none }) d v g lat f := by
  have same (n : Nat) : (t.onCore fun k => { k with vout := none }).landed n = t.landed n :=
    Core.landDue_front t.core t.core.streams none n
  obtain ⟨frame, value, flags, others, rest⟩ := r
  refine ⟨?_, ?_, ?_, ?_, ?_⟩
  · rw [frame]; rfl
  · rw [same]; exact value
  · rw [same]; exact flags
  · rw [same]; exact others
  · rw [same]; exact rest

/-- A class-4 word whose stages succeed: the open result withdrawn, both stages, and one merge at the end (R103). -/
theorem cascade_ok {s s1 s2 : State} {p q : BitVec 5} {b c : XReg} {bs cs : Bool} {v v1 v2 : VecOut} (opened : s.core.vout = some v) :
    let s0 := s.onCore fun k => { k with pend := k.pend.take (k.pend.length - v.ops), vout := none }
    s0.stage v p b bs = .ok (v1, s1) → s1.stage v1 q c cs = .ok (v2, s2) →
    s.cascade p q b c bs cs = (s2.vecResult v2 s.ef.width).onCore fun k => { k with vout := none } := by
  intro s0 first second
  rw [State.cascade, opened]
  simp only [s0] at first
  simp only [first, second]
  rfl

/-- Settles O16: a pop takes the oldest row, and a class-4 word runs both stages over the withdrawn result before it merges. -/
theorem popsAndCascades : Obligations.PopsAndCascades := by
  unfold Obligations.PopsAndCascades
  refine ⟨fun s d a compute wf => ?pop,
    fun s p q b c bs cs compute wf => ⟨fun closed => ?illegal, fun v v1 v2 s1 s2 opened => ?cascade⟩⟩
  case pop =>
    intro n
    have run : exec (.vpop d a) s = execVpop d a s := rfl
    rw [execVpop, State.computeWord_next _ _ _ compute wf] at run
    refine ⟨fun r rest row => ?taken, fun empty => ?underflow⟩
    case taken =>
      rw [show s.popQueue (a.toNat % 4) = _ from popQueue_cons row] at run
      exact ⟨_, run, _, (writeV_result ..).meter .., rfl⟩
    case underflow =>
      rw [show s.popQueue (a.toNat % 4) = _ from popQueue_nil empty] at run
      exact run
  case illegal =>
    have run : exec (.cascadeExtension p q b c bs cs) s = _ :=
      State.computeWord_next s _ (fun s => s.cascade p q b c bs cs) compute wf
    rw [State.cascade, closed] at run
    exact run
  case cascade =>
    intro s0 first second
    obtain ⟨givesB, readsB⟩ := stage_gives first
    obtain ⟨givesC, readsC⟩ := stage_gives second
    refine ⟨givesB, givesC, fun passes => ?_, stageOp_eq_some_iff p, ?_⟩
    · rw [stage_passes passes] at first
      exact (congrArg Prod.snd (Except.ok.inj first)).symm
    have run : exec (.cascadeExtension p q b c bs cs) s = _ :=
      State.computeWord_next s _ (fun s => s.cascade p q b c bs cs) compute wf
    rw [cascade_ok opened first second] at run
    obtain ⟨dB, mergeB, maskB, oldB⟩ := stageGives_keeps givesB
    obtain ⟨dC, mergeC, maskC, oldC⟩ := stageGives_keeps givesC
    have result := (vecResult_result s2 v2 s.ef.width).closed.of_reads (readsB.trans readsC)
    rw [dC, dB, mergeC, mergeB, maskC, maskB, oldC, oldB, BitVec.or_comm] at result
    refine ⟨_, run, rfl, _, result, fun k inside => ?_⟩
    cases v.merge
    · rfl
    · rw [if_pos rfl, elem_mergeVec _ _ _ _ inside]
      cases v.mask.getLsbD k <;> rfl

end Sys2Proof.Machine
end

section
/-! PROOFS. Rows of the task's window (R116, R119..R121, R126, R127, R129..R131): the byte address of a row form, rows read at issue, two
rows joined byte by byte, and row writes as they stand at their write point. -/

namespace Sys2Proof.Machine

open Sys2Proof

/-! ### Addresses and the window -/

theorem rowAddr_eq (x : Word) (o : BitVec 10) : rowAddr x o = BitVec.ofInt 64 (x.toInt + o.toInt * 512) := by
  rw [rowAddr, BitVec.shiftLeft_eq_mul_twoPow, BitVec.ofInt_add, BitVec.ofInt_toInt, BitVec.ofInt_mul]
  rfl

theorem withRow_inside {s : State} {n : Nat} (inside : n < s.core.tk.rows) (k : Row → State) : s.withRow n k = k (windowRow s n) :=
  if_pos inside

theorem withRow_outside {s : State} {n : Nat} (outside : s.core.tk.rows ≤ n) (k : Row → State) :
    s.withRow n k = s.fault 0x0A 0 (BitVec.ofNat 64 n) :=
  if_neg (Nat.not_lt.mpr outside)

/-! ### Two rows joined (R127) -/

theorem testBit_elem (w : Nat) (v : Vec) (k b : Nat) : (elem w v k).testBit b = (decide (b < w) && v.getLsbD (w * k + b)) := by
  rw [elem, Nat.testBit_mod_two_pow, Nat.testBit_div_two_pow, BitVec.testBit_toNat, Nat.add_comm]

/-- Byte j of the joined rows lies k bytes further on, in the first row or in the next. -/
theorem elem_mergeRows (a b : Vec) {j k : Nat} (inside : j < 512) (between : k < 512) :
    elem 8 (mergeRows a b k) j = if j + k < 512 then elem 8 a (j + k) else elem 8 b (j + k - 512) := by
  refine Nat.eq_of_testBit_eq fun i => ?_
  rw [apply_ite (Nat.testBit · i), testBit_elem, testBit_elem, testBit_elem, mergeRows, BitVec.getLsbD_or, BitVec.getLsbD_ushiftRight,
    BitVec.getLsbD_shiftLeft]
  by_cases bit : i < 8
  · split
    next first =>
      rw [decide_eq_true (p := 8 * j + i < 4096 - 8 * k) (by omega), show 8 * k + (8 * j + i) = 8 * (j + k) + i by omega]
      simp
    next second =>
      rw [BitVec.getLsbD_of_ge a _ (by omega), decide_eq_false (p := 8 * j + i < 4096 - 8 * k) (by omega),
        show 8 * j + i - (4096 - 8 * k) = 8 * (j + k - 512) + i by omega, decide_eq_true (p := 8 * j + i < 4096) (by omega)]
      simp
  · simp [bit]

/-! ### Row writes -/

/-- A logged row write stands in the rows, the row log and a re-run's signature alone (R326, R327). -/
theorem writeRow_frame (c : Core) (w : RowWriter) (p : Nat) (r : Row) :
    c.writeRow w p r = { c with
      rows := dput {} c.rows p r, rowLog := (c.writeRow w p r).rowLog, recover := (c.writeRow w p r).recover } := by
  have logged : c.logRow w p = { c with rowLog := (c.logRow w p).rowLog } := by
    unfold Core.logRow; split <;> rfl
  unfold Core.writeRow
  rw [logged]
  rfl

theorem physRow_writeRow (c : Core) (w : RowWriter) (p q : Nat) (r : Row) :
    (c.writeRow w p r).physRow q = if q = p then r else c.physRow q := by
  rw [Core.physRow, writeRow_frame]
  exact mget_dput ..

/-- The rows after the core's own writes depend on the rows before them alone. -/
theorem physRow_applyRowWrites (l : List RowWrite) (c d : Core) (same : ∀ q, c.physRow q = d.physRow q) (q : Nat) :
    (l.foldl Core.applyRowWrite c).physRow q = (l.foldl Core.applyRowWrite d).physRow q := by
  induction l generalizing c d with
  | nil => exact same q
  | cons w l ih =>
    refine ih _ _ fun p => ?_
    rw [Core.applyRowWrite, Core.applyRowWrite, physRow_writeRow, physRow_writeRow, same, same]

theorem physRow_applyRows (c : Core) (n q : Nat) :
    (c.applyRows n).physRow q = ((c.rowPend.filter fun w => w.due ≤ n).foldl Core.applyRowWrite c).physRow q := rfl

theorem applyRows_pushed (c : Core) (w : RowWrite) (q : Nat) :
    (({ c with rowPend := c.rowPend ++ [w] } : Core).applyRows w.due).physRow q =
      if q = w.row then ⟨w.data.getD ((c.applyRows w.due).physRow w.row).data, w.tag⟩ else (c.applyRows w.due).physRow q := by
  have due : (c.rowPend ++ [w]).filter (fun x => x.due ≤ w.due) = (c.rowPend.filter fun x => x.due ≤ w.due) ++ [w] := by
    simp [List.filter_append]
  have earlier (p : Nat) := physRow_applyRowWrites (c.rowPend.filter fun x => x.due ≤ w.due)
    { c with rowPend := c.rowPend ++ [w] } c (fun _ => rfl) p
  simp only [physRow_applyRows, due, List.foldl_append, List.foldl_cons, List.foldl_nil, Core.applyRowWrite, physRow_writeRow, earlier]

/-- A row write stands over the earlier ones at its write point; a tag alone joins the data that they leave (R121, R130). -/
theorem pushRow_result (s : State) (delay n : Nat) (data : Option Vec) (tag : Tag) :
    RowResult s (s.pushRow delay n data tag) n
      ⟨data.getD ((s.core.applyRows (s.cycle + delay)).physRow (s.core.tk.base + n)).data, tag⟩ delay :=
  ⟨rfl, applyRows_pushed s.core ⟨s.cycle + delay, s.core.tk.base + n, data, tag⟩⟩

/-- Row writes of one register due in cycles one after the other (R129). -/
theorem foldl_pushRow (s : State) (n first : Nat) (d : VCode) :
    (List.range n).foldl (fun s k => s.pushRow (1 + k) (first + k) (some (s.getV d).data) (s.getV d).tag) s = { s with core := { s.core with
      rowPend := s.core.rowPend ++ (List.range n).map fun k =>
        ⟨s.cycle + 1 + k, s.core.tk.base + (first + k), some (s.getV d).data, (s.getV d).tag⟩ } } := by
  induction n with
  | zero =>
    rw [List.range_zero, List.map_nil, List.append_nil]
    rfl
  | succ n ih =>
    have due : s.cycle + 1 + n = s.cycle + (1 + n) := Nat.add_assoc ..
    rw [List.range_succ, List.foldl_append, ih, List.map_append, List.map_singleton, due, ← List.append_assoc]
    rfl

/-! ### Words on one row: each looks at its row first (R116) -/

section
variable {s : State} {d a : XReg} {o : BitVec 10} (compute : s.core.isSys = false)
include compute

theorem exec_vld (wf : (Instr.vld d a o).wf = true) : exec (.vld d a o) s =
    .next (s.withRow (rowNum (rowAddr (s.getX a) o)) fun r => s.writeV d r.data r.tag 3) :=
  (State.computeWord_next s _ _ compute wf : execVld d a o s = _)

theorem exec_rtagr : exec (.rtagr d a o) s =
    .next (s.withRow (rowNum (rowAddr (s.getX a) o)) fun r => s.writeX d (r.tag.zeroExtend 64) 3) :=
  (State.computeWord_next s _ _ compute rfl : execRtagr d a o s = _)

theorem exec_rmg (wf : (Instr.rmg d a o).wf = true) : exec (.rmg d a o) s =
    let n := rowNum (rowAddr (s.getX a) o)
    let k := (rowAddr (s.getX a) o).toNat % 512
    .next (s.withRow n fun r =>
      if k = 0 then s.writeV d r.data r.tag 2
      else s.withRow (n + 1) fun q => s.writeV d (mergeRows r.data q.data k) (if r.tag = q.tag then r.tag else tagX) 2) :=
  (State.computeWord_next s _ _ compute wf : execRmg d a o s = _)

theorem exec_vst (wf : (Instr.vst d a o).wf = true) : exec (.vst d a o) s =
    let n := rowNum (rowAddr (s.getX a) o)
    .next (s.withRow n fun _ => s.pushRow 1 n (some (s.getV d).data) (s.getV d).tag) :=
  (State.computeWord_next s _ _ compute wf : execVst d a o s = _)

theorem exec_rtagw : exec (.rtagw d a o) s =
    let n := rowNum (rowAddr (s.getX a) o)
    .next (s.withRow n fun _ => s.pushRow 1 n none ((s.getX d).truncate 4)) :=
  (State.computeWord_next s _ _ compute rfl : execRtagw d a o s = _)

theorem exec_qst (wf : (Instr.qst d a o).wf = true) : exec (.qst d a o) s =
    let n := rowNum (rowAddr (s.getX a) o)
    .next (s.withRow n fun _ => match s.popQueue (d.toNat % 4) with
      | none => s.underflow (d.toNat % 4)
      | some (r, u) => u.pushRow 1 n (some r.data) r.tag) :=
  (State.computeWord_next s _ _ compute wf : execQst d a o s = _)

theorem exec_vfill (wf : (Instr.vfill d a o).wf = true) : exec (.vfill d a o) s =
    let first := rowNum (s.getX a)
    .next (if first + o.toNat < s.core.tk.rows then
      (List.range (o.toNat + 1)).foldl (fun s k => s.pushRow (1 + k) (first + k) (some (s.getV d).data) (s.getV d).tag) s
    else s.fault 0x0A 0 (BitVec.ofNat 64 (max first s.core.tk.rows))) :=
  (State.computeWord_next s _ _ compute wf : execVfill d a o s = _)

/-! ### Rows inside the window -/

/-- `rmg` between two rows (R127). -/
theorem givesV_rmg (wf : (Instr.rmg d a o).wf = true) (inside : rowNum (rowAddr (s.getX a) o) < s.core.tk.rows)
    (between : (rowAddr (s.getX a) o).toNat % 512 ≠ 0) (next : rowNum (rowAddr (s.getX a) o) + 1 < s.core.tk.rows) :
    let k := (rowAddr (s.getX a) o).toNat % 512
    let first := windowRow s (rowNum (rowAddr (s.getX a) o))
    let second := windowRow s (rowNum (rowAddr (s.getX a) o) + 1)
    GivesV (.rmg d a o) s d 8 (fun j => if j + k < 512 then elem 8 first.data (j + k) else elem 8 second.data (j + k - 512))
      (if first.tag = second.tag then first.tag else tagX) 2 0 := by
  have run := exec_rmg compute wf
  dsimp only at run
  rw [withRow_inside inside, if_neg between, withRow_inside next] at run
  refine ⟨_, run, _, writeV_result .., fun j position => ?_⟩
  rw [elem_mergeRows _ _ position (Nat.mod_lt _ (by decide))]
  exact (Nat.mod_eq_of_lt (by split <;> exact elem_lt ..)).symm

/-- Words that read the row of their address (R126, R127, R130). -/
theorem rowReads (inside : rowNum (rowAddr (s.getX a) o) < s.core.tk.rows) :
    let n := rowNum (rowAddr (s.getX a) o)
    let k := (rowAddr (s.getX a) o).toNat % 512
    let r := windowRow s n
    ((Instr.vld d a o).wf = true → Completes (.vld d a o) s fun t => VectorResult s t d r.data r.tag 3 0) ∧
    GivesX (.rtagr d a o) s d (BitVec.ofNat 64 r.tag.toNat) 3 ∧
    ((Instr.rmg d a o).wf = true → k = 0 → Completes (.rmg d a o) s fun t => VectorResult s t d r.data r.tag 2 0) ∧
    ((Instr.rmg d a o).wf = true → k ≠ 0 → s.core.tk.rows ≤ n + 1 →
      exec (.rmg d a o) s = .next (s.fault 0x0A 0 (BitVec.ofNat 64 (n + 1)))) := by
  refine ⟨fun wf => ?_, ?_, fun wf aligned => ?_, fun wf between past => ?_⟩
  · exact ⟨_, (exec_vld compute wf).trans (congrArg _ (withRow_inside inside _)), writeV_result ..⟩
  · exact givesX_of_writeX ((exec_rtagr compute).trans (congrArg _ (withRow_inside inside _))) (ofNat_toNat_zeroExtend _).symm
  · exact ⟨_, (exec_rmg compute wf).trans (congrArg _ ((withRow_inside inside _).trans (if_pos aligned))), writeV_result ..⟩
  · exact (exec_rmg compute wf).trans
      (congrArg _ ((withRow_inside inside _).trans ((if_neg between).trans (withRow_outside past _))))

/-- Words that write the row of their address (R126, R130, R131). -/
theorem rowWrites (inside : rowNum (rowAddr (s.getX a) o) < s.core.tk.rows) :
    let n := rowNum (rowAddr (s.getX a) o)
    ((Instr.vst d a o).wf = true → Completes (.vst d a o) s fun t => RowResult s t n ⟨(s.getV d).data, (s.getV d).tag⟩ 1) ∧
    (Completes (.rtagw d a o) s fun t =>
      RowResult s t n ⟨((s.core.applyRows (s.cycle + 1)).physRow (s.core.tk.base + n)).data, (s.getX d).truncate 4⟩ 1) ∧
    (∀ r u, (Instr.qst d a o).wf = true → s.popQueue (d.toNat % 4) = some (r, u) →
      Completes (.qst d a o) s fun t => RowResult u t n r 1) := by
  refine ⟨fun wf => ?_, ?_, fun r u wf popped => ?_⟩
  · exact ⟨_, (exec_vst compute wf).trans (congrArg _ (withRow_inside inside _)), pushRow_result ..⟩
  · exact ⟨_, (exec_rtagw compute).trans (congrArg _ (withRow_inside inside _)), pushRow_result ..⟩
  · have run := (exec_qst compute wf).trans (congrArg _ (withRow_inside inside _))
    rw [popped] at run
    exact ⟨_, run, pushRow_result ..⟩

theorem exec_vfill_inside (wf : (Instr.vfill d a o).wf = true) (inside : rowNum (s.getX a) + o.toNat < s.core.tk.rows) :
    exec (.vfill d a o) s = .next { s with core := { s.core with
      rowPend := s.core.rowPend ++ (List.range (o.toNat + 1)).map fun k =>
        ⟨s.cycle + 1 + k, s.core.tk.base + (rowNum (s.getX a) + k), some (s.getV d).data, (s.getV d).tag⟩ } } :=
  (exec_vfill compute wf).trans (congrArg _ ((if_pos inside).trans (foldl_pushRow ..)))

/-! ### Rows outside the window -/

theorem rowReads_outside (outside : s.core.tk.rows ≤ rowNum (rowAddr (s.getX a) o)) :
    ∀ i ∈ [Instr.vld d a o, .rtagr d a o, .rmg d a o], i.wf = true →
      exec i s = .next (s.fault 0x0A 0 (BitVec.ofNat 64 (rowNum (rowAddr (s.getX a) o)))) := by
  simp only [List.forall_mem_cons, List.not_mem_nil, false_imp_iff, implies_true, and_true]
  exact ⟨fun wf => (exec_vld compute wf).trans (congrArg _ (withRow_outside outside _)),
    fun _ => (exec_rtagr compute).trans (congrArg _ (withRow_outside outside _)),
    fun wf => (exec_rmg compute wf).trans (congrArg _ (withRow_outside outside _))⟩

theorem rowWrites_outside (outside : s.core.tk.rows ≤ rowNum (rowAddr (s.getX a) o)) :
    ∀ i ∈ [Instr.vst d a o, .rtagw d a o, .qst d a o], i.wf = true →
      exec i s = .next (s.fault 0x0A 0 (BitVec.ofNat 64 (rowNum (rowAddr (s.getX a) o)))) := by
  simp only [List.forall_mem_cons, List.not_mem_nil, false_imp_iff, implies_true, and_true]
  exact ⟨fun wf => (exec_vst compute wf).trans (congrArg _ (withRow_outside outside _)),
    fun _ => (exec_rtagw compute).trans (congrArg _ (withRow_outside outside _)),
    fun wf => (exec_qst compute wf).trans (congrArg _ (withRow_outside outside _))⟩

theorem exec_vfill_outside (wf : (Instr.vfill d a o).wf = true) (outside : s.core.tk.rows ≤ rowNum (s.getX a) + o.toNat) :
    exec (.vfill d a o) s = .next (s.fault 0x0A 0 (BitVec.ofNat 64 (max (rowNum (s.getX a)) s.core.tk.rows))) :=
  (exec_vfill compute wf).trans (congrArg _ (if_neg (Nat.not_lt.mpr outside)))

end

end Sys2Proof.Machine
end

section
/-! PROOFS. Spill memory and the task's carve-out (R122, R124, R128): the tier of an offset, and a carve-out row once a store has landed. -/

namespace Sys2Proof.Machine

open Sys2Proof

/-! ### Tiers (R122) -/

section
variable {carve n : Nat}

theorem spillTierX_spill (small : n < 4096) : spillTierX carve n = .spill n := if_pos small

theorem spillTierX_carve (past : 4096 ≤ n) (inside : n < 4096 + 64 * carve) : spillTierX carve n = .carve (n - 4096) := by
  rw [spillTierX, if_neg (Nat.not_lt.mpr past), if_pos inside]

theorem spillTierX_overflow (past : 4096 + 64 * carve ≤ n) : spillTierX carve n = .overflow n := by
  rw [spillTierX, if_neg (by omega), if_neg (by omega)]

theorem spillTierV_spill (small : n < 64) : spillTierV carve n = .spill n := if_pos small

theorem spillTierV_carve (past : 64 ≤ n) (inside : n < 64 + carve) : spillTierV carve n = .carve (carve - 1 - (n - 64)) := by
  rw [spillTierV, if_neg (Nat.not_lt.mpr past), if_pos inside]

theorem spillTierV_overflow (past : 64 + carve ≤ n) : spillTierV carve n = .overflow n := by
  rw [spillTierV, if_neg (by omega), if_neg (by omega)]

end

/-! ### Stores to the carve-out -/

theorem land_task (c : Core) (d : Dest) : (c.land d).task = c.task := by
  cases d with
  | carveX o w => rw [Core.land, writeRow_frame]
  | carveV n r => rw [Core.land, writeRow_frame]
  | _ => rfl

theorem afterWrites_task (c : Core) (n : Nat) : (c.afterWrites n).task = c.task :=
  List.foldlRecOn (motive := fun d : Core => d.task = c.task) _ _ rfl fun _ same p _ => (land_task _ p.dest).trans same

/-- What has landed by the cycle of a result that is no raise, without it and with it: raises of FLAGS come after it either way. -/
theorem landDue_pushResult (s : State) {lat : Nat} {d : Dest} (plain : d.isRaise = false) : ∃ (f : BitVec 7) (l m : List Pend),
    let c := s.core.afterWrites (s.cycle + lat)
    let raised (c : Core) : Arch := { c.arch with flags := c.arch.flags ||| f }
    s.core.landDue (s.cycle + lat) = { c with arch := raised c, pend := l } ∧
    (s.pushResult lat d).core.landDue (s.cycle + lat) = { c.land d with arch := raised (c.land d), pend := m } := by
  obtain ⟨f, raises⟩ := Core.land_raises
    ((s.core.pend.filter fun p => p.due ≤ s.cycle + lat).filter fun p => p.dest.isRaise) fun p mem => (List.mem_filter.mp mem).2
  obtain ⟨l, writes⟩ := afterWrites_pushResult (s := s) plain (Nat.le_refl (s.cycle + lat))
  have same : ((s.pushResult lat d).core.pend.filter fun p => p.due ≤ s.cycle + lat).filter (fun p => p.dest.isRaise) =
      (s.core.pend.filter fun p => p.due ≤ s.cycle + lat).filter fun p => p.dest.isRaise := by
    simp [State.pushResult_core, List.filter_append, plain]
  exact ⟨f, _, _, by rw [Core.landDue_eq, raises], by rw [Core.landDue_eq, same, raises, writes]⟩

/-- A result that writes one carve-out row changes that row alone when it lands, from what it then is (R124). -/
theorem carveLands_pushResult {s : State} {d : Dest} {i : Nat} {f : Row → Row} {P : Row → Row → Prop} (plain : d.isRaise = false)
    (lands : ∀ c : Core, c.land d = c.writeRow .core (c.carveRow i) (f (c.physRow (c.carveRow i)))) (changes : ∀ r, P r (f r)) :
    CarveLands s (s.pushResult 4 d) i P := by
  obtain ⟨flags, l, m, without, landed⟩ := landDue_pushResult s (lat := 4) plain
  have row : (s.core.afterWrites (s.cycle + 4)).carveRow i = 8192 - s.core.tk.carve + i := by
    rw [Core.carveRow, Core.tk, afterWrites_task]
    rfl
  rw [lands, row] at landed
  have before (q : Nat) : (s.core.landDue (s.cycle + 4)).physRow q = (s.core.afterWrites (s.cycle + 4)).physRow q := by
    rw [without]; rfl
  have after (q : Nat) := (congrArg (Core.physRow · q) landed).trans (physRow_writeRow ..)
  refine ⟨?_, fun q other => ?_, ?_⟩
  · rw [before, after, if_pos rfl]
    exact changes _
  · rw [before, after, if_neg other]
  · rw [without, landed, writeRow_frame]

/-- One scalar of a row replaced: the others, and the tag, stay (R122). -/
theorem carveX_lands (s : State) (i : Nat) (x : Word) : CarveLands s (s.pushResult 4 (.carveX i x)) (i / 64) fun old r =>
    r.tag = old.tag ∧ ∀ j, j < 64 → elem 64 r.data j = if j = i % 64 then x.toNat else elem 64 old.data j := by
  refine carveLands_pushResult (f := fun r => { r with data := putWordAt r.data (i % 64) x }) rfl (fun _ => rfl)
    fun r => ⟨rfl, fun j inside => ?_⟩
  have set := elem_ofElems_set (w := 64) r.data (i % 64) x.toNat inside
  rw [Nat.mod_eq_of_lt x.isLt] at set
  refine set.trans (Nat.mod_eq_of_lt ?_)
  split
  · exact x.isLt
  · exact elem_lt ..

theorem carveV_lands (s : State) (i : Nat) (r : Row) : CarveLands s (s.pushResult 4 (.carveV i r)) i fun _ t => t = r :=
  carveLands_pushResult (f := fun _ => r) rfl (fun _ => rfl) fun _ => rfl

/-! ### Spill words, by tier -/

section
variable {s : State} {d : XReg} {o : BitVec 16} (compute : s.core.isSys = false)
include compute

theorem exec_sld : exec (.sld d o) s = .next (s.spillLoadX d o.toNat) :=
  State.computeWord_next s _ (fun s => s.spillLoadX d o.toNat) compute rfl

theorem exec_sst : exec (.sst d o) s = .next (s.spillStoreX d o.toNat) :=
  State.computeWord_next s _ (fun s => s.spillStoreX d o.toNat) compute rfl

theorem exec_vsld (wf : (Instr.vsld d o).wf = true) : exec (.vsld d o) s = .next (s.spillLoadV d o.toNat) :=
  State.computeWord_next s _ (fun s => s.spillLoadV d o.toNat) compute wf

theorem exec_vsst (wf : (Instr.vsst d o).wf = true) : exec (.vsst d o) s = .next (s.spillStoreV d o.toNat) :=
  State.computeWord_next s _ (fun s => s.spillStoreV d o.toNat) compute wf

theorem scalarSpill (small : o.toNat < 4096) :
    GivesX (.sld d o) s d ((mget s.core.arch.spillX o.toNat).getD 0) 1 ∧
    Completes (.sst d o) s fun t => ControlResult s t 1 fun r => { r with spillX := dput 0 r.spillX o.toNat (s.getX d) } := by
  have load := exec_sld (d := d) (o := o) compute
  have store := exec_sst (d := d) (o := o) compute
  simp only [State.spillLoadX, State.spillStoreX, spillTierX_spill small] at load store
  exact ⟨givesX_of_writeX load rfl, _, store, controlResult_pushResult rfl fun _ => rfl⟩

theorem scalarCarve (past : 4096 ≤ o.toNat) (inside : o.toNat < 4096 + 64 * s.core.tk.carve) :
    let i := o.toNat - 4096
    GivesX (.sld d o) s d
      (BitVec.ofNat 64 (elem 64 (s.core.physRow (8192 - s.core.tk.carve + i / 64)).data (i % 64))) 4 ∧
    Completes (.sst d o) s fun t => t = s.pushResult 4 (.carveX i (s.getX d)) ∧ CarveLands s t (i / 64) fun old r =>
      r.tag = old.tag ∧ ∀ j, j < 64 → elem 64 r.data j = if j = i % 64 then (s.getX d).toNat else elem 64 old.data j := by
  have load := exec_sld (d := d) (o := o) compute
  have store := exec_sst (d := d) (o := o) compute
  simp only [State.spillLoadX, State.spillStoreX, spillTierX_carve past inside] at load store
  exact ⟨givesX_of_writeX load rfl, _, store, rfl, carveX_lands ..⟩

theorem vectorSpill_load (wf : (Instr.vsld d o).wf = true) (small : o.toNat < 64) :
    let r := (mget s.core.arch.spillV o.toNat).getD {}
    Completes (.vsld d o) s fun t => VectorResult s t d r.data r.tag 1 0 := by
  have load := exec_vsld compute wf
  simp only [State.spillLoadV, spillTierV_spill small] at load
  exact ⟨_, load, writeV_result ..⟩

theorem vectorSpill_store (wf : (Instr.vsst d o).wf = true) (small : o.toNat < 64) :
    Completes (.vsst d o) s fun t => ControlResult s t 1 fun r =>
      { r with spillV := dput {} r.spillV o.toNat ⟨(s.getV d).data, (s.getV d).tag⟩ } := by
  have store := exec_vsst compute wf
  simp only [State.spillStoreV, spillTierV_spill small] at store
  exact ⟨_, store, controlResult_pushResult rfl fun _ => rfl⟩

section
variable (past : 64 ≤ o.toNat) (inside : o.toNat < 64 + s.core.tk.carve)
include past inside

theorem vectorCarve_load (wf : (Instr.vsld d o).wf = true) :
    let r := s.core.physRow (8192 - s.core.tk.carve + (s.core.tk.carve - 1 - (o.toNat - 64)))
    Completes (.vsld d o) s fun t => VectorResult s t d r.data r.tag 4 0 := by
  have load := exec_vsld compute wf
  simp only [State.spillLoadV, spillTierV_carve past inside] at load
  exact ⟨_, load, writeV_result ..⟩

theorem vectorCarve_store (wf : (Instr.vsst d o).wf = true) :
    let i := s.core.tk.carve - 1 - (o.toNat - 64)
    let r : Row := ⟨(s.getV d).data, (s.getV d).tag⟩
    Completes (.vsst d o) s fun t => t = s.pushResult 4 (.carveV i r) ∧ CarveLands s t i fun _ u => u = r := by
  have store := exec_vsst compute wf
  simp only [State.spillStoreV, spillTierV_carve past inside] at store
  exact ⟨_, store, rfl, carveV_lands ..⟩

end

end

end Sys2Proof.Machine
end

section
/-! PROOFS. Sectors served from stored bytes that no cache holds (HOME 01, R279): what a core reads of them, and writes to them one after
the other. -/

namespace Sys2Proof.Machine

open Sys2Proof

/-! ### Reports of the meters (R356) -/

/-- Nothing but what is scheduled differs, and nothing scheduled is gone. -/
def Reports (s t : State) : Prop := t = { s with agenda := t.agenda } ∧ ∀ e ∈ s.agenda, e ∈ t.agenda

theorem Reports.refl (s : State) : Reports s s := ⟨rfl, fun _ mem => mem⟩

theorem Reports.trans {s t u : State} (h : Reports s t) (k : Reports t u) : Reports s u :=
  ⟨by rw [k.1, h.1], fun e mem => k.2 e (h.2 e mem)⟩

theorem meterLine_reports (s : State) (line : Nat) (write : Bool) (who : Option Nat) : Reports s (s.meterLine line write who) := by
  refine ⟨?_, (below_meterLine s line write who).moves.2.2.2⟩
  unfold State.meterLine
  extract_lets
  split <;> rfl

/-! ### Reads -/

/-- A sector that a core's accesses reach at its controller alone: what `Uncached` says of each sector. -/
def StoredSector (s : State) (x : Sector) : Prop :=
  s.sectorOk x = true ∧ s.refusedAt s.core.id x = false ∧ paSpace x.pa ≠ 2 ∧ x.comp = false ∧ x.home = 1 ∧
    s.migrated x.line = (x.line, false)

theorem Reports.uncached {s t : State} (h : Reports s t) {l : List Served} (stored : Uncached s l) : Uncached t l := by
  rw [h.1]; exact stored

theorem Reports.storedSpan {s t : State} (h : Reports s t) (l : List Served) : storedSpan t l = storedSpan s l := by
  rw [h.1]; rfl

theorem storedSpan_cons (s : State) (x : Sector) (we : Bool) (l : List Served) :
    storedSpan s (.ok x we :: l) = (s.plainSector x.line).toNat + 2 ^ 512 * storedSpan s l := by
  rw [storedSpan, List.map_cons, packNat, Nat.mod_eq_of_lt (s.plainSector x.line).isLt]
  rfl

section
variable {s : State} {x : Sector} (stored : StoredSector s x)
include stored

theorem StoredSector.reachOk : s.addrOk x = true ∧ s.ctlOn x.line = true ∧ s.reachOk s.core.id x = true := by
  obtain ⟨ok, -⟩ := stored
  obtain ⟨addr, on⟩ : s.addrOk x = true ∧ s.ctlOn x.line = true := by simpa [State.sectorOk] using ok
  exact ⟨addr, on, by simp [State.reachOk, addr, on]⟩

theorem readSector_stored (l1 : Bool) (cls : Nat) :
    s.readSector s.core.id x l1 cls = (some (s.plainSector x.line), s.meterLine x.line false (some s.core.id)) := by
  obtain ⟨-, on, reach⟩ := stored.reachOk
  obtain ⟨-, allowed, memory, plain, home, still⟩ := stored
  rw [State.readSector, if_neg (by simp [reach, allowed]), if_neg memory, forwarded_still still]
  simp [home, State.ctlSector, on, plain]

end

theorem readServed_stored {s : State} {l : List Served} (stored : Uncached s l) (l1 : Bool) (cls : Nat) (own : Bool) :
    ∃ t, Reports s t ∧ s.readServed s.core.id l1 cls own l = (.ok (storedSpan s l), t) := by
  induction l generalizing s with
  | nil => exact ⟨s, .refl s, rfl⟩
  | cons y l ih =>
    obtain ⟨x, we, rfl, here⟩ := stored y (List.mem_cons_self ..)
    have metered := meterLine_reports s x.line false (some s.core.id)
    obtain ⟨t, later, rest⟩ := ih (metered.uncached fun z mem => stored z (List.mem_cons_of_mem _ mem))
    have same : (s.meterLine x.line false (some s.core.id)).core.id = s.core.id := by rw [metered.1]
    rw [same, metered.storedSpan] at rest
    refine ⟨t, metered.trans later, ?_⟩
    rw [storedSpan_cons]
    simp only [State.readServed, readSector_stored here, rest]

/-- The bits of a piece (bit offset, length, sectors) as they are stored. -/
def storedPiece (s : State) (p : Nat × Nat × List Served) : Nat := storedSpan s p.2.2 / 2 ^ (p.1 % 512) % 2 ^ p.2.1

theorem readBits_stored {s : State} {l : List Served} (stored : Uncached s l) (bit n : Nat) :
    ∃ t, Reports s t ∧ s.readBits s.core.id true l bit n true = (.ok (storedPiece s (bit, n, l)), t) := by
  obtain ⟨cls, reads⟩ : ∃ cls, s.readBits s.core.id true l bit n true = match s.readServed s.core.id true cls true l with
    | (.ok v, s) => (.ok (v / 2 ^ (bit % 512) % 2 ^ n), s)
    | r => r := ⟨_, rfl⟩
  obtain ⟨t, reports, value⟩ := readServed_stored stored true cls true
  exact ⟨t, reports, by rw [reads, value]; rfl⟩

theorem readPieces_stored {s : State} {ps : List (Nat × Nat × List Served)} (stored : ∀ p ∈ ps, Uncached s p.2.2) :
    ∃ t, Reports s t ∧ s.readPieces ps = (.ok (ps.map (storedPiece s)), t) := by
  induction ps generalizing s with
  | nil => exact ⟨s, .refl s, rfl⟩
  | cons p ps ih =>
    obtain ⟨bit, n, l⟩ := p
    obtain ⟨t, read, first⟩ := readBits_stored (stored _ (List.mem_cons_self ..)) bit n
    obtain ⟨u, later, rest⟩ := ih fun q mem => read.uncached (stored q (List.mem_cons_of_mem _ mem))
    have bits : ps.map (storedPiece t) = ps.map (storedPiece s) :=
      List.map_congr_left fun q _ => by rw [storedPiece, storedPiece, read.storedSpan]
    refine ⟨u, read.trans later, ?_⟩
    simp only [State.readPieces, first, rest, bits, List.map_cons]

/-! ### Requests: none goes to another package -/

theorem farSectors_stored {s : State} {l : List Served} (stored : Uncached s l) : farSectors l = [] := by
  refine List.filterMap_eq_nil_iff.mpr fun y mem => ?_
  obtain ⟨x, we, rfl, -⟩ := stored y mem
  rfl

theorem farSlices_stored {s : State} {l : List Served} (stored : Uncached s l) (bit n v : Nat) : farSlices l bit n v = [] := by
  refine List.filterMap_eq_nil_iff.mpr fun p mem => ?_
  obtain ⟨x, we, is, -⟩ := stored p.1 (List.fst_mem_of_mem_zipIdx mem)
  rw [is]

theorem loadDue_stored {s : State} {l : List Served} (stored : Uncached s l) :
    ∃ due n, s.cycle < due ∧ s.loadDue l = (due, { s with fresh := n }) := by
  unfold State.loadDue
  split
  · exact ⟨s.cycle + 9, s.fresh, by omega, rfl⟩
  · simp only [State.draw]
    refine ⟨s.cycle + 1 + Config.delay .load s.fresh, s.fresh + 1, by omega, Prod.ext rfl (if_neg fun far => ?_)⟩
    obtain ⟨y, mem, remote⟩ := List.any_eq_true.mp far
    obtain ⟨x, we, rfl, -⟩ := stored y mem
    cases remote

/-! ### Writes -/

theorem paKey_line (x : Sector) : lineKeyId x.line = paKey x.pa := by
  unfold lineKeyId paKey Sector.line
  omega

/-- A sector's write leaves other sectors as they read, whatever their keys. -/
theorem plainSector_putSector_other (s : State) (sec tag line : Nat) (d : Mask) (other : lineSector line ≠ sec) :
    (s.putSector sec tag d).plainSector line = s.plainSector line := by
  have marks : (s.putSector sec tag d).lineKey = dput 0 s.lineKey sec tag := rfl
  unfold State.plainSector
  simp only [storedSector_putSector, marks, mget_dput, other, if_false]
  rfl

theorem undoLog_closed {s : State} {line : Nat}
    (closed : ∀ p, s.part? (lineKeyId line) = some p → p.undo.st ≠ .opened ∧ p.undo.st ≠ .rolling) : s.undoLog line = s := by
  unfold State.undoLog
  split
  · rfl
  next p is => exact if_pos (.inl (closed p is))

theorem writeSector_stored {s : State} {x : Sector} (stored : StoredSector s x)
    (closed : ∀ p, s.part? (paKey x.pa) = some p → p.undo.st ≠ .opened ∧ p.undo.st ≠ .rolling) (cls : Nat) (f : Mask → Mask) :
    s.writeSector s.core.id x cls f = (s.putSector (lineSector x.line) (s.keyTag (lineKeyId x.line)) (f (s.plainSector x.line))).meterLine
      x.line true (some s.core.id) := by
  obtain ⟨addr, on, reach⟩ := stored.reachOk
  obtain ⟨-, allowed, memory, -, home, still⟩ := stored
  have live : s.keyLive (lineKeyId x.line) = true := by
    rw [paKey_line]
    exact (Bool.and_eq_true_iff.mp addr).1
  rw [State.writeSector, if_neg (by simp [reach, allowed]), if_neg memory, forwarded_still still]
  simp only [home, ↓reduceIte, State.ctlWrite, live, on, Bool.and_self, undoLog_closed (paKey_line x ▸ closed)]

/-- Sectors written one after the other: sector i of the list reads as `f i` of what it held; every other line and byte is as before. -/
structure SectorsWritten (s t : State) (l : List Served) (f : Nat → Mask → Mask) : Prop where
  frame   : t = { s with mem := t.mem, lineKey := t.lineKey, agenda := t.agenda }
  kept    : ∀ e ∈ s.agenda, e ∈ t.agenda
  written : ∀ i x we, l[i]? = some (.ok x we) → t.plainSector x.line = f i (s.plainSector x.line)
  others  : ∀ line, (∀ x we, Served.ok x we ∈ l → lineSector line ≠ lineSector x.line) → t.plainSector line = s.plainSector line
  bytes   : ∀ a, (∀ x we, Served.ok x we ∈ l → a / 64 ≠ lineSector x.line) → memGet t.mem a = memGet s.mem a

namespace SectorsWritten

theorem refl (s : State) (f : Nat → Mask → Mask) : SectorsWritten s s [] f :=
  ⟨rfl, fun _ mem => mem, fun _ _ _ none_ => by simp at none_, fun _ _ => rfl, fun _ _ => rfl⟩

variable {s t u : State} {l l' : List Served} {f g h : Nat → Mask → Mask}

theorem append (first : SectorsWritten s t l f) (second : SectorsWritten t u l' g)
    (apart : ∀ x we y we', Served.ok x we ∈ l → Served.ok y we' ∈ l' → lineSector x.line ≠ lineSector y.line)
    (before : ∀ i, i < l.length → h i = f i) (after : ∀ i, i < l'.length → h (l.length + i) = g i) :
    SectorsWritten s u (l ++ l') h := by
  refine ⟨by rw [second.frame, first.frame], fun e mem => second.kept e (first.kept e mem), fun i x we at_ => ?_, fun line other => ?_,
    fun a other => ?_⟩
  · rcases Nat.lt_or_ge i l.length with inside | past
    · rw [List.getElem?_append_left inside] at at_
      rw [before i inside, ← first.written i x we at_]
      exact second.others _ fun y we' mem => apart x we y we' (List.mem_of_getElem? at_) mem
    · rw [List.getElem?_append_right past] at at_
      rw [← Nat.add_sub_cancel' past, after _ (List.getElem?_eq_some_iff.mp at_).1, second.written _ x we at_]
      refine congrArg _ (first.others _ fun y we' mem => ?_)
      exact (apart y we' x we mem (List.mem_of_getElem? at_)).symm
  · rw [second.others line fun x we mem => other x we (List.mem_append_right _ mem),
      first.others line fun x we mem => other x we (List.mem_append_left _ mem)]
  · rw [second.bytes a fun x we mem => other x we (List.mem_append_right _ mem),
      first.bytes a fun x we mem => other x we (List.mem_append_left _ mem)]

theorem reports (written : SectorsWritten s t l f) (report : Reports t u) : SectorsWritten s u l f := by
  obtain ⟨frame, kept, wrote, others, bytes⟩ := written
  refine ⟨by rw [report.1, frame], fun e mem => report.2 e (kept e mem), fun i x we at_ => ?_, fun line other => ?_, fun a other => ?_⟩
  · rw [← wrote i x we at_, report.1]; rfl
  · rw [← others line other, report.1]; rfl
  · rw [← bytes a other, report.1]

theorem uncached (written : SectorsWritten s t l f) (stored : Uncached s l') : Uncached t l' := by
  rw [written.frame]; exact stored

theorem writesAlone (written : SectorsWritten s t l f) {o : Word} {bit : Nat} (alone : WritesAlone s o bit l') :
    WritesAlone t o bit l' := by
  rw [written.frame]; exact alone

theorem storedAs (written : SectorsWritten s t l f) {b : Nat → Nat → Bool → Bool}
    (bits : ∀ i (m : Mask) j, i < l.length → j < 512 → (f i m).getLsbD j = b i j (m.getLsbD j)) : StoredAs s t l b := by
  refine ⟨fun i x we at_ j inside => ?_, written.bytes, written.kept, written.frame⟩
  rw [written.written i x we at_]
  exact bits i _ j (List.getElem?_eq_some_iff.mp at_).1 inside

end SectorsWritten

theorem sectorsWritten_one {s : State} {x : Sector} (we : Bool) (stored : StoredSector s x)
    (closed : ∀ p, s.part? (paKey x.pa) = some p → p.undo.st ≠ .opened ∧ p.undo.st ≠ .rolling) (cls : Nat) (f : Mask → Mask) :
    SectorsWritten s (s.writeSector s.core.id x cls f) [.ok x we] fun _ => f := by
  rw [writeSector_stored stored closed]
  refine SectorsWritten.reports ?_ (meterLine_reports ..)
  refine ⟨rfl, fun _ mem => mem, fun i y we' at_ => ?_, fun line other => ?_, fun a other => ?_⟩
  · obtain ⟨rfl, -⟩ : y = x ∧ we' = we := by simpa using List.mem_of_getElem? at_
    rw [plainSector_putSector, if_pos rfl]
  · exact plainSector_putSector_other _ _ _ _ _ (other x we (List.mem_singleton.mpr rfl))
  · rw [putSector_byte, if_neg (other x we (List.mem_singleton.mpr rfl))]

/-- The stored sector of what is served here. -/
def servedSector (y : Served) : Nat := match y with | .ok x _ => lineSector x.line | _ => 0

theorem apart_of_nodup {l l' : List Served} (different : ((l ++ l').map servedSector).Nodup) {x y : Sector} {we we' : Bool}
    (left : Served.ok x we ∈ l) (right : Served.ok y we' ∈ l') : lineSector x.line ≠ lineSector y.line := by
  rw [List.map_append, List.nodup_append] at different
  exact different.2.2 _ (List.mem_map_of_mem left) _ (List.mem_map_of_mem right)

theorem cow_unshared {s : State} {h : Word} {d : Desc} {o : Nat} (alone : s.sharers (hKey h) (o / 65536) = []) : s.cow h d o = s := by
  unfold State.cow
  exact if_pos (by rw [alone]; rfl)

/-- The part of a write of n bits at a bit offset that falls in sector i of its span. -/
def spanWrite (bit n v i : Nat) (old : Mask) : Mask :=
  sliceWrite ((2 ^ n - 1) * 2 ^ (bit % 512)) (v % 2 ^ n * 2 ^ (bit % 512)) i old

/-- Bit j of sector i is bit 512 × i + j from the start of the span's first sector; those of the write are replaced. -/
theorem spanWrite_getLsbD (bit n v i : Nat) (old : Mask) {j : Nat} (inside : j < 512) :
    (spanWrite bit n v i old).getLsbD j =
      let at_ := 512 * (bit / 512 + i) + j
      if bit ≤ at_ ∧ at_ < bit + n then v.testBit (at_ - bit) else old.getLsbD j := by
  extract_lets at_
  have here : at_ - bit = 512 * i + j - bit % 512 := by omega
  have low : bit ≤ at_ ↔ bit % 512 ≤ 512 * i + j := by omega
  have high (le : bit ≤ at_) : at_ < bit + n ↔ 512 * i + j - bit % 512 < n := by omega
  rw [spanWrite, sliceWrite, BitVec.getLsbD_or, BitVec.getLsbD_and, BitVec.getLsbD_and, BitVec.getLsbD_not, BitVec.getLsbD_ofNat,
    BitVec.getLsbD_ofNat, Nat.testBit_div_two_pow, Nat.testBit_div_two_pow, Nat.testBit_mul_two_pow, Nat.testBit_mul_two_pow,
    Nat.testBit_two_pow_sub_one, Nat.testBit_mod_two_pow, decide_eq_true inside, Nat.add_comm j, here]
  by_cases le : bit ≤ at_
  · rw [decide_eq_true (low.mp le)]
    by_cases lt : at_ < bit + n
    · rw [decide_eq_true ((high le).mp lt), if_pos ⟨le, lt⟩]
      simp
    · rw [decide_eq_false (fun c => lt ((high le).mpr c)), if_neg fun c => lt c.2]
      simp
  · rw [decide_eq_false (fun c => le (low.mpr c)), if_neg fun c => le c.1]
    simp

/-- A write of bits that this package stores: each sector of the span in turn, with no copy for a version (R202) and no undo log (R332). -/
theorem writeHere_stored {s : State} {q : Requester} {h : Word} {bit : Nat} {l : List Served} (who : q.core = s.core.id)
    (stored : Uncached s l) (alone : WritesAlone s h bit l) (d : Desc) (n v : Nat) :
    SectorsWritten s (s.writeHere q h d l bit n v) l (spanWrite bit n v) := by
  obtain ⟨unshared, closed, different⟩ := alone
  suffices upTo : ∀ k, k ≤ l.length → SectorsWritten s ((List.range k).foldl (fun s i =>
      match l.getD i .missing with
      | .ok x _ => (s.cow h d ((bit / 512 + i) * 64)).writeSector q.core x (classOf false false x.line) (spanWrite bit n v i)
      | _ => s) s) (l.take k) (spanWrite bit n v) by
    have all := upTo l.length le_rfl
    rw [List.take_length] at all
    exact all
  intro k within
  induction k with
  | zero => exact .refl s _
  | succ k ih =>
    have here : k < l.length := within
    obtain ⟨x, we, is, sector⟩ := stored l[k] (List.getElem_mem here)
    have taken : l.take (k + 1) = l.take k ++ [.ok x we] := by rw [List.take_succ_eq_append_getElem here, is]
    have served : l.getD k .missing = .ok x we := by rw [List.getD_eq_getElem _ _ here, is]
    have apart : ((l.take k ++ [Served.ok x we]).map servedSector).Nodup := by
      rw [← taken]
      exact List.Nodup.sublist ((List.take_sublist ..).map _) different
    have before := ih (Nat.le_of_lt here)
    rw [List.range_succ, List.foldl_append, List.foldl_cons, List.foldl_nil, taken]
    simp only [served]
    generalize List.foldl _ _ _ = t at before
    have sharers : t.sharers (hKey h) ((bit / 512 + k) * 64 / 65536) = [] := by
      rw [before.frame]; exact unshared k here
    have there : StoredSector t x := by
      rw [before.frame]; exact sector
    have shut (p : Part) (part : t.part? (paKey x.pa) = some p) : p.undo.st ≠ .opened ∧ p.undo.st ≠ .rolling := by
      rw [before.frame] at part
      exact closed x we (is ▸ List.getElem_mem here) p part
    have me : q.core = t.core.id := by rw [who, before.frame]
    rw [cow_unshared sharers, me]
    refine before.append (sectorsWritten_one we there shut _ _) (fun _ _ _ _ => apart_of_nodup apart) (fun _ _ => rfl) fun i only => ?_
    rw [Nat.lt_one_iff.mp only, List.length_take_of_le (Nat.le_of_lt here), Nat.add_zero]

end Sys2Proof.Machine
end

section
/-! PROOFS. The overflow object (R123, R125): where a spill access to it stops, and loads and stores of its slots in stored bytes. -/

namespace Sys2Proof.Machine

open Sys2Proof

/-! ### Where an access stops -/

section
variable {s : State} {write : Bool} {info : Nat} {l : List (Nat × Nat)}

/-- Loads and stores are accesses that R123 stops alike. -/
theorem ovfLoad_withOvf (k : List Nat → Nat → State → State) : ∃ f, s.ovfLoad info l k = s.withOvf false info l f := ⟨_, rfl⟩

theorem ovfStore_withOvf (vs : List Nat) : ∃ f, s.ovfStore info l vs = s.withOvf true info l f := by
  unfold State.ovfStore; exact ⟨_, rfl⟩

theorem exhausted_of_withOvf {t : State} (access : ∃ k, t = s.withOvf write info l k) (none_ : s.core.arch.ovfptr = 0) :
    t = s.fault 0x1C (BitVec.ofNat 64 info) 0 := by
  obtain ⟨k, rfl⟩ := access
  exact if_pos none_

theorem resolveOvf_violation {h : Word} {cause : BitVec 8} {owner : Nat}
    (refused : s.violation (s.core.requester s.pkg .spill) h (some (if write then 2 else 1)) = some (cause, owner)) :
    s.resolveOvf h write info l = .error { raise := ⟨cause, h, 0⟩, log := some owner } := by
  simp only [State.resolveOvf, refused]

theorem resolveOvf_past {h : Word} (allowed : s.violation (s.core.requester s.pkg .spill) h (some (if write then 2 else 1)) = none)
    (past : ∃ p ∈ l, 8 * (s.desc h).extent < p.1 + p.2) :
    s.resolveOvf h write info l = .error { raise := ⟨0x1C, BitVec.ofNat 64 info, h⟩ } := by
  have outside : (l.any fun p => decide (8 * (s.desc h).extent < p.1 + p.2)) = true := by simpa using past
  simp only [State.resolveOvf, allowed, outside, ↓reduceIte]

variable (some_ : s.core.arch.ovfptr ≠ 0) (home : hHome s.core.arch.ovfptr = s.pkg)
include some_ home

theorem withOvf_error {f : HFault} (stops : s.resolveOvf s.core.arch.ovfptr write info l = .error f)
    (k : List (Nat × Nat × List Served) → State → State) : s.withOvf write info l k = s.hFault .spill s.core.arch.ovfptr [] f := by
  simp only [State.withOvf, if_neg some_, learn_of_home home, stops]

theorem withOvf_ok {ps : List (Nat × Nat × List Served)} (resolved : s.resolveOvf s.core.arch.ovfptr write info l = .ok ps)
    (k : List (Nat × Nat × List Served) → State → State) : s.withOvf write info l k = k ps s := by
  simp only [State.withOvf, if_neg some_, learn_of_home home, resolved]

theorem overflowStops_of_withOvf {i : Instr} {t : State} (run : exec i s = .next t) (access : ∃ k, t = s.withOvf write info l k) :
    OverflowStops s i (if write then 2 else 1) info l := by
  obtain ⟨k, rfl⟩ := access
  refine ⟨fun cause owner refused => ?_, fun allowed past => ?_⟩
  · rw [run, withOvf_error some_ home (resolveOvf_violation refused)]
    rfl
  · rw [run, withOvf_error some_ home (resolveOvf_past allowed past)]
    rfl

end

/-! ### Values on their way (R33) -/

/-- A producer of either kind of register (R33, R89). -/
def State.produce (s : State) (v : Arrival) (due : Nat) : State :=
  match v with
  | .x r w => s.produceX r w due
  | .v r d g => s.produceV r d g due

/-- A produced value is on its way, with nothing else changed but reports and the free values drawn. -/
theorem produce_onItsWay {s : State} {a : List (Nat × Instr)} {due : Nat} (reported : ∀ e ∈ s.agenda, e ∈ a) (n : Nat)
    (later : s.cycle < due) (v : Arrival) :
    let t := ({ s with agenda := a, fresh := n } : State).produce v due
    LoadOnItsWay s t v due ∧ t = { s with core := t.core, agenda := t.agenda, fresh := t.fresh } := by
  intro t
  have moves : MemoryMoves s { s with agenda := a, fresh := n } := 
    (below_rest s { s with agenda := a, fresh := n } rfl reported id).moves
  have moved : ObjectMoves s { s with agenda := a, fresh := n } := ⟨_, moves, rfl⟩
  have arrives : (due * 16 + ptLand, Instr.valueArrives s.core.id v) ∈ agendaPut a (due * 16 + ptLand) (.valueArrives s.core.id v) :=
    (agendaPut_mem ..).mpr (.inl rfl)
  have logged := logIssue_frame s.core (Arrival.reg v) s.cycle
  cases v with
  | x r w => exact ⟨⟨later, arrives, _, moved, congrArg (fun c : Core => ({ s with
      core := { c with arch := s.core.arch.markX r (r = 0), pend := s.core.pend.filter fun p => !p.hitsX r, varOut := s.core.varOut + 1 }
      agenda := t.agenda, fresh := n } : State)) logged⟩, rfl⟩
  | v r d g => exact ⟨⟨later, arrives, _, moved, congrArg (fun c : Core => ({ s with
      core := { c with arch := s.core.arch.markV r false, pend := s.core.pend.filter fun p => !p.hitsV r, varOut := s.core.varOut + 1 }
      agenda := t.agenda, fresh := n } : State)) logged⟩, rfl⟩

/-! ### Stores of several pieces -/

/-- What a store of several pieces, each with its value, leaves in the sectors of them all. -/
def pieceWrites : List ((Nat × Nat × List Served) × Nat) → Nat → Mask → Mask
  | [], _, m => m
  | (p, v) :: t, i, m => if i < p.2.2.length then spanWrite p.1 p.2.1 v i m else pieceWrites t (i - p.2.2.length) m

section
variable {p : Nat × Nat × List Served} {v i : Nat} {z : List ((Nat × Nat × List Served) × Nat)} {m : Mask}

theorem pieceWrites_first (here : i < p.2.2.length) : pieceWrites ((p, v) :: z) i m = spanWrite p.1 p.2.1 v i m := if_pos here

theorem pieceWrites_rest (past : ¬ i < p.2.2.length) : pieceWrites ((p, v) :: z) i m = pieceWrites z (i - p.2.2.length) m := if_neg past

end

theorem writePieces_stored {s : State} {q : Requester} {h : Word} (who : q.core = s.core.id) (d : Desc)
    (z : List ((Nat × Nat × List Served) × Nat)) (each : ∀ p ∈ z, Uncached s p.1.2.2 ∧ WritesAlone s h p.1.1 p.1.2.2)
    (different : ((z.flatMap (·.1.2.2)).map servedSector).Nodup) :
    SectorsWritten s (z.foldl (fun s p => s.writeHere q h d p.1.2.2 p.1.1 p.1.2.1 p.2) s) (z.flatMap (·.1.2.2)) (pieceWrites z) := by
  induction z generalizing s with
  | nil => exact .refl s _
  | cons p z ih =>
    obtain ⟨⟨bit, n, l⟩, v⟩ := p
    obtain ⟨stored, alone⟩ := each _ (List.mem_cons_self ..)
    have first := writeHere_stored who stored alone d n v
    rw [List.flatMap_cons] at different ⊢
    refine first.append (ih (by rw [who, first.frame]) (fun p mem => ?_) ?_) (fun _ _ _ _ => apart_of_nodup different)
      (fun i inside => ?_) fun i _ => ?_
    · obtain ⟨here, free⟩ := each p (List.mem_cons_of_mem _ mem)
      exact ⟨first.uncached here, first.writesAlone free⟩
    · rw [List.map_append] at different
      exact different.of_append_right
    · exact funext fun m => pieceWrites_first inside
    · funext m
      rw [pieceWrites_rest (by simp), Nat.add_sub_cancel_left]

/-! ### Slots in stored bytes (R124) -/

section
variable {s : State} {info : Nat} {l : List (Nat × Nat)} {ps : List (Nat × Nat × List Served)}
  (some_ : s.core.arch.ovfptr ≠ 0) (home : hHome s.core.arch.ovfptr = s.pkg)
include some_ home

theorem ovfLoad_stored (resolved : s.resolveOvf s.core.arch.ovfptr false info l = .ok ps) (stored : ∀ p ∈ ps, Uncached s p.2.2) :
    ∃ due a n, s.cycle < due ∧ (∀ e ∈ s.agenda, e ∈ a) ∧
      ∀ k, s.ovfLoad info l k = k (ps.map (storedPiece s)) due { s with agenda := a, fresh := n } := by
  have all : Uncached s (ps.flatMap (·.2.2)) := fun y mem => by
    obtain ⟨p, listed, here⟩ := List.mem_flatMap.mp mem
    exact stored p listed y here
  obtain ⟨due, n, later, delay⟩ := loadDue_stored all
  obtain ⟨t, ⟨frame, kept⟩, read⟩ := readPieces_stored (s := { s with fresh := n }) stored
  refine ⟨due, t.agenda, n, later, kept, fun k => ?_⟩
  unfold State.ovfLoad
  rw [withOvf_ok some_ home resolved]
  have asks : s.askSectors (s.core.requester s.pkg .spill) s.core.arch.ovfptr (s.desc s.core.arch.ovfptr)
      (s.core.pinOf s.core.arch.ovfptr) (farSectors (ps.flatMap (·.2.2))) = s := by rw [farSectors_stored all]; rfl
  simp only [asks, delay, read]
  exact congrArg (k (ps.map (storedPiece s)) due) frame

theorem completes_ovfLoad {i : Instr} {v : List Nat → Arrival}
    (run : exec i s = .next (s.ovfLoad info l fun vs due s => s.produce (v vs) due))
    (resolved : s.resolveOvf s.core.arch.ovfptr false info l = .ok ps) (stored : ∀ p ∈ ps, Uncached s p.2.2) :
    Completes i s fun u => ∃ due, LoadOnItsWay s u (v (ps.map (storedPiece s))) due ∧
      u = { s with core := u.core, agenda := u.agenda, fresh := u.fresh } := by
  obtain ⟨due, a, n, later, reported, load⟩ := ovfLoad_stored some_ home resolved stored
  exact ⟨_, by rw [run, load], due, produce_onItsWay reported n later _⟩

theorem ovfStore_stored {vs : List Nat} (resolved : s.resolveOvf s.core.arch.ovfptr true info l = .ok ps)
    (each : ∀ p ∈ ps, Uncached s p.2.2 ∧ WritesAlone s s.core.arch.ovfptr p.1 p.2.2)
    (different : ((ps.flatMap (·.2.2)).map servedSector).Nodup) (valued : ps.length = vs.length) :
    SectorsWritten s (s.ovfStore info l vs) (ps.flatMap (·.2.2)) (pieceWrites (ps.zip vs)) := by
  have pieces : (ps.zip vs).flatMap (·.1.2.2) = ps.flatMap (·.2.2) := by
    rw [← List.flatMap_map Prod.fst fun p : Nat × Nat × List Served => p.2.2, List.map_fst_zip valued.le]
  have here : ∀ p ∈ ps.zip vs, Uncached s p.1.2.2 ∧ WritesAlone s s.core.arch.ovfptr p.1.1 p.1.2.2 :=
    fun p mem => each p.1 (List.of_mem_zip mem).1
  have far : ((ps.zip vs).flatMap fun p => farSlices p.1.2.2 p.1.1 p.1.2.1 p.2) = [] :=
    List.flatMap_eq_nil_iff.mpr fun p mem => farSlices_stored (here p mem).1 ..
  have written := writePieces_stored (q := s.core.requester s.pkg .spill) rfl (s.desc s.core.arch.ovfptr) (ps.zip vs) here
    (pieces.symm ▸ different)
  rw [pieces] at written
  unfold State.ovfStore
  simp only [withOvf_ok some_ home resolved, far]
  exact written

theorem completes_ovfStore {i : Instr} {vs : List Nat} {b : Nat → Nat → Bool → Bool} (run : exec i s = .next (s.ovfStore info l vs))
    (resolved : s.resolveOvf s.core.arch.ovfptr true info l = .ok ps)
    (each : ∀ p ∈ ps, Uncached s p.2.2 ∧ WritesAlone s s.core.arch.ovfptr p.1 p.2.2)
    (different : ((ps.flatMap (·.2.2)).map servedSector).Nodup) (valued : ps.length = vs.length)
    (bits : ∀ i (m : Mask) j, i < (ps.flatMap (·.2.2)).length → j < 512 →
      (pieceWrites (ps.zip vs) i m).getLsbD j = b i j (m.getLsbD j)) :
    Completes i s (StoredAs s · (ps.flatMap (·.2.2)) b) :=
  ⟨_, run, (ovfStore_stored some_ home resolved each different valued).storedAs bits⟩

end

/-! ### The words past both tiers (R122, R123, R128) -/

section
variable {s : State} {d : XReg} {o : BitVec 16} (compute : s.core.isSys = false)
include compute

theorem exec_sld_overflow (past : 4096 + 64 * s.core.tk.carve ≤ o.toNat) : exec (.sld d o) s =
    .next (s.ovfLoad o.toNat (ovfScalar o.toNat) fun vs due s => s.produce (.x d (BitVec.ofNat 64 (vs.getD 0 0))) due) := by
  rw [exec_sld compute, State.spillLoadX, spillTierX_overflow past]
  rfl

theorem exec_sst_overflow (past : 4096 + 64 * s.core.tk.carve ≤ o.toNat) :
    exec (.sst d o) s = .next (s.ovfStore o.toNat (ovfScalar o.toNat) [(s.getX d).toNat]) := by
  rw [exec_sst compute, State.spillStoreX, spillTierX_overflow past]

theorem exec_vsld_overflow (wf : (Instr.vsld d o).wf = true) (past : 64 + s.core.tk.carve ≤ o.toNat) : exec (.vsld d o) s =
    .next (s.ovfLoad (0x10000 + o.toNat) (ovfVector o.toNat) fun vs due s =>
      s.produce (.v d (BitVec.ofNat 4096 (vs.getD 1 0)) (BitVec.ofNat 4 (vs.getD 0 0))) due) := by
  rw [exec_vsld compute wf, State.spillLoadV, spillTierV_overflow past]
  rfl

theorem exec_vsst_overflow (wf : (Instr.vsst d o).wf = true) (past : 64 + s.core.tk.carve ≤ o.toNat) :
    exec (.vsst d o) s = .next (s.ovfStore (0x10000 + o.toNat) (ovfVector o.toNat) [(s.getV d).tag.toNat, (s.getV d).data.toNat]) := by
  rw [exec_vsst compute wf, State.spillStoreV, spillTierV_overflow past]

/-- With OVFPTR 0 the overflow is exhausted, for a scalar and for a vector (R123). -/
theorem spillWords_exhausted (none_ : s.core.arch.ovfptr = 0) :
    (4096 + 64 * s.core.tk.carve ≤ o.toNat → ∀ i ∈ [Instr.sld d o, .sst d o],
      exec i s = .next (s.fault 0x1C (BitVec.ofNat 64 o.toNat) 0)) ∧
    (64 + s.core.tk.carve ≤ o.toNat → ∀ i ∈ [Instr.vsld d o, .vsst d o], i.wf = true →
      exec i s = .next (s.fault 0x1C (BitVec.ofNat 64 (0x10000 + o.toNat)) 0)) := by
  simp only [List.forall_mem_cons, List.not_mem_nil, false_imp_iff, implies_true, and_true]
  refine ⟨fun past => ⟨?sld, ?sst⟩, fun past => ⟨fun wf => ?vsld, fun wf => ?vsst⟩⟩
  case sld => exact (exec_sld_overflow compute past).trans (congrArg _ (exhausted_of_withOvf (ovfLoad_withOvf _) none_))
  case sst => exact (exec_sst_overflow compute past).trans (congrArg _ (exhausted_of_withOvf (ovfStore_withOvf _) none_))
  case vsld => exact (exec_vsld_overflow compute wf past).trans (congrArg _ (exhausted_of_withOvf (ovfLoad_withOvf _) none_))
  case vsst => exact (exec_vsst_overflow compute wf past).trans (congrArg _ (exhausted_of_withOvf (ovfStore_withOvf _) none_))

end

/-- A slot's tag is one byte, in one sector. -/
theorem span_tag_length (s : State) (h : Word) (d : Desc) (ver : Option Nat) (byte : Nat) : (s.span h d ver (8 * byte) 8).length = 1 := by
  simp only [State.span, List.length_map, List.length_range]
  omega

end Sys2Proof.Machine
end

section
/-! PROOFS. Row words and spill words, with the overflow object (R116..R131). -/

namespace Sys2Proof.Machine

open Sys2Proof

/-- Settles O18: rows are read at issue and written at their write points, and a spill goes to the tier of its offset. -/
theorem rowAndSpillWords : Obligations.RowAndSpillWords := by
  unfold Obligations.RowAndSpillWords
  refine ⟨⟨fun s d a o compute => ?reads, fun s d a o compute => ?writes⟩, fun s d o compute => ?tiers,
    fun s d o compute => ?overflow⟩
  case reads =>
    rw [← rowAddr_eq]
    refine ⟨fun inside => ?_, fun outside => rowReads_outside compute outside⟩
    obtain ⟨vld, rtagr, aligned, past⟩ := rowReads (d := d) compute inside
    exact ⟨vld, rtagr, aligned, fun wf between next => givesV_rmg compute wf inside between next, past⟩
  case writes =>
    rw [← rowAddr_eq]
    refine ⟨fun inside => ?_, fun inside wf => ⟨_, exec_vfill_inside compute wf inside, rfl⟩,
      fun outside => rowWrites_outside compute outside, fun outside wf => exec_vfill_outside compute wf outside⟩
    obtain ⟨vst, rtagw, qst⟩ := rowWrites (d := d) compute inside
    exact ⟨vst, fun _ => rtagw, qst⟩
  case tiers =>
    exact ⟨scalarSpill compute, scalarCarve compute, vectorSpill_load compute, vectorSpill_store compute,
      fun wf past inside => vectorCarve_load compute past inside wf, fun wf past inside => vectorCarve_store compute past inside wf,
      spillWords_exhausted compute⟩
  case overflow =>
    intro n c h D tag data bits put pieces load store some_ home
    refine ⟨fun past => ⟨fun wf => ?sld, fun wf => ?sst⟩, fun past => ⟨fun wf => ?vsld, fun wf => ?vsst⟩⟩
    case sld =>
      have run := exec_sld_overflow (d := d) compute past
      refine ⟨overflowStops_of_withOvf some_ home run (ovfLoad_withOvf _), fun resolved stored => ?_⟩
      exact completes_ovfLoad some_ home (v := fun vs => .x d (BitVec.ofNat 64 (vs.getD 0 0))) run resolved stored
    case sst =>
      have run := exec_sst_overflow (d := d) compute past
      refine ⟨overflowStops_of_withOvf some_ home run (ovfStore_withOvf _), fun resolved each different =>
        completes_ovfStore some_ home run resolved each different rfl fun i m j within inside => ?_⟩
      have here : i < (s.span h D none (64 * n) 64).length := by simpa [pieces] using within
      exact (congrArg (BitVec.getLsbD · j) (pieceWrites_first here)).trans (spanWrite_getLsbD _ _ _ _ _ inside)
    case vsld =>
      have run := exec_vsld_overflow compute wf past
      refine ⟨overflowStops_of_withOvf some_ home run (ovfLoad_withOvf _), fun resolved stored => ?_⟩
      have stands : bits = fun b len l => storedPiece s (b, len, l) := rfl
      rw [stands]
      exact completes_ovfLoad some_ home (v := fun vs => .v d (BitVec.ofNat 4096 (vs.getD 1 0)) (BitVec.ofNat 4 (vs.getD 0 0)))
        run resolved stored
    case vsst =>
      have run := exec_vsst_overflow compute wf past
      refine ⟨overflowStops_of_withOvf some_ home run (ovfStore_withOvf _), fun resolved each different =>
        completes_ovfStore some_ home run resolved each different rfl fun i m j within inside => ?_⟩
      have one : (s.span h D none tag 8).length = 1 := span_tag_length ..
      by_cases first : i = 0
      · have inTag : i < (s.span h D none tag 8).length := by omega
        refine (congrArg (BitVec.getLsbD · j) (pieceWrites_first inTag)).trans ((spanWrite_getLsbD tag 8 _ i m inside).trans ?_)
        rw [if_pos first, first]
      · have pastTag : ¬ i < (s.span h D none tag 8).length := by omega
        have inData : i - (s.span h D none tag 8).length < (s.span h D none data 4096).length := by
          have both : i < (s.span h D none tag 8 ++ (s.span h D none data 4096 ++ [])).length := within
          rw [List.length_append, List.append_nil] at both
          omega
        refine (congrArg (BitVec.getLsbD · j) ((pieceWrites_rest pastTag).trans (pieceWrites_first inData))).trans
          ((spanWrite_getLsbD data 4096 _ _ m inside).trans ?_)
        rw [if_neg first, one]

end Sys2Proof.Machine
end

section
/-! PROOFS. Wavelet commands at issue (R141, R144): the checks that a start passes, and the command that holds the engine. -/

namespace Sys2Proof.Machine

open Sys2Proof

/-- Σ of R141 as the sum that defines it. -/
theorem sigma_eq_sum (n L : Nat) : sigma n L = ((List.range L).map fun l => n / 2 ^ (l + 1)).sum := by
  induction L with
  | zero => rfl
  | succ L ih => rw [sigma, ih, List.range_succ, List.map_append, List.sum_append, List.map_singleton, List.sum_singleton]

/-- The cycles from issue to T (R141). -/
def waveTime (kind : WKind) (n L k : Nat) : Nat :=
  let sum := ((List.range L).map fun l => n / 2 ^ (l + 1)).sum
  match kind with
  | .wfwd | .winv => 6 + sum
  | .wst => 8 + sum
  | .wstc => 8 + (k + 1) / 2
  | .wexp => 6 + n / 2
  | .wbias => 4 + n / 2 ^ L

section
variable {s : State}

theorem waveStart_starts (kind : WKind) (src dst n L k : Nat) (pres : BitVec 128) (bias : Row) :
    WaveStarts s (s.waveStart kind src dst n L k pres bias) kind src dst n L k pres bias (waveTime kind n L k) := by
  unfold WaveStarts State.waveStart waveTime
  simp only [sigma_eq_sum]
  cases kind <;> rfl

/-- A staging register of the engine that names a row (R144). -/
theorem wvRow_eq_getD (s : State) (i : Nat) : s.wvRow i = (s.core.arch.stg.toList.getD (48 + i) 0).toNat / 512 := by
  rw [State.wvRow, getStg_eq_getD]
  rfl

theorem rowsIn_inside {first n : Nat} (inside : first + n ≤ s.core.tk.rows) (k : State) : s.rowsIn first n k = k := if_pos inside

section
variable (real : s.ef.isFp = true) (wide : 16 ≤ s.ef.width)
include real wide

/-- VFMT.EF is a row format (R133). -/
theorem rowFormat_accepted : ¬ (!s.ef.isFp ∨ s.ef.width < 16) := by
  rw [real]
  simpa using wide

theorem withHeader_valid {row : Nat} (inside : row < s.core.tk.rows) (valid : hdrValid (windowRow s row) = true) (k : Row → State) :
    s.withHeader row k = k (windowRow s row) := by
  rw [State.withHeader, if_neg (rowFormat_accepted real wide), rowsIn_inside (Nat.succ_le_of_lt inside)]
  exact if_pos valid

/-- `wfwd` and `wst` on sizes that R132 allows, with every row that they read or write in the window. -/
theorem waveForward_inside {L : BitVec 8} {n : Nat} (kind : WKind) (rows : (s.core.arch.getStg 3 2).toNat = n)
    (some_ : 1 ≤ L.toNat) (few : L.toNat ≤ 7) (sizes : tileOk n L.toNat = true) (source : s.wvRow 0 + n ≤ s.core.tk.rows)
    (room : s.wvRow 1 + (n + 1) ≤ s.core.tk.rows) :
    s.waveForward kind L = s.waveStart kind (s.wvRow 0) (s.wvRow 1) n L.toNat n 0 {} := by
  have legal : ¬ (L.toNat = 0 ∨ 7 < L.toNat ∨ !tileOk n L.toNat ∨ !s.ef.isFp ∨ s.ef.width < 16) := by
    rw [real, sizes]
    simp only [Bool.not_true, Bool.false_eq_true, false_or]
    omega
  unfold State.waveForward
  rw [rows, if_neg legal, rowsIn_inside source, rowsIn_inside room]

/-- `winv`, `wexp` and `wst.c` on a valid tile with every row that they read or write in the window. -/
theorem waveTile_inside {kind : WKind} {most : Nat → Nat → Nat} (inside : s.wvRow 0 < s.core.tk.rows)
    (valid : hdrValid (windowRow s (s.wvRow 0)) = true) {h : Vec} (header : (windowRow s (s.wvRow 0)).data = h)
    (source : s.wvRow 0 + 1 + hdrCnt h ≤ s.core.tk.rows) (room : s.wvRow 1 + most (hdrNpos h) (hdrCnt h) ≤ s.core.tk.rows) :
    s.waveTile kind most =
      s.waveStart kind (s.wvRow 0) (s.wvRow 1) (hdrNpos h) (hdrLev h) (hdrCnt h) (hdrPres h) {} := by
  subst header
  rw [State.waveTile, withHeader_valid real wide inside valid, rowsIn_inside source, rowsIn_inside room]

/-- `wbias` on a valid tile and a bias row of tag C, with the approximation rows in the window. -/
theorem waveBias_inside (inside : s.wvRow 1 < s.core.tk.rows) (valid : hdrValid (windowRow s (s.wvRow 1)) = true)
    (bias : s.wvRow 0 < s.core.tk.rows) (tag : (windowRow s (s.wvRow 0)).tag = tagC) {h : Vec}
    (header : (windowRow s (s.wvRow 1)).data = h) (room : s.wvRow 1 + 1 + hdrNpos h / 2 ^ hdrLev h ≤ s.core.tk.rows) :
    s.waveBias = s.waveStart .wbias (s.wvRow 0) (s.wvRow 1) (hdrNpos h) (hdrLev h) (hdrCnt h) (hdrPres h) (windowRow s (s.wvRow 0)) := by
  subst header
  have plain : ¬ (s.core.row (s.wvRow 0)).tag ≠ tagC := not_not.mpr tag
  rw [State.waveBias, if_neg (rowFormat_accepted real wide), rowsIn_inside (Nat.succ_le_of_lt inside),
    rowsIn_inside (Nat.succ_le_of_lt bias), withHeader_valid real wide inside valid, if_neg plain, rowsIn_inside room]
  rfl

end

/-- A word of class 12 whose command starts. -/
theorem completes_waveStart {i : Instr} {f : State → State} (run : exec i s = s.computeWord i f) (compute : s.core.isSys = false)
    (wf : i.wf = true) {kind : WKind} {src dst n L k : Nat} {pres : BitVec 128} {bias : Row}
    (starts : f s = s.waveStart kind src dst n L k pres bias) :
    Completes i s (WaveStarts s · kind src dst n L k pres bias (waveTime kind n L k)) :=
  ⟨_, by rw [run, State.computeWord_next _ _ _ compute wf, starts], waveStart_starts ..⟩

end

/-- Settles O19: every check of R144 passes, and the command starts with the schedule of R141. -/
theorem waveletStarts : Obligations.WaveletStarts := by
  unfold Obligations.WaveletStarts
  refine ⟨fun s L compute => ?forward, fun s compute => ?tiles⟩
  case forward =>
    intro n src dst sum wfFwd wfSt some_ few sizes real wide source room
    have rows : (s.core.arch.getStg 3 2).toNat = n := by rw [getStg_eq_getD]
    have starts (kind : WKind) : s.waveForward kind L = s.waveStart kind src dst n L.toNat n 0 {} := by
      have from_ : s.wvRow 0 = src := wvRow_eq_getD s 0
      have to_ : s.wvRow 1 = dst := wvRow_eq_getD s 1
      rw [← from_] at source ⊢
      rw [← to_] at room ⊢
      exact waveForward_inside real wide kind rows some_ few sizes source room
    exact ⟨completes_waveStart (f := fun s => s.waveForward .wfwd L) rfl compute wfFwd (starts .wfwd),
      completes_waveStart (f := fun s => s.waveForward .wst L) rfl compute wfSt (starts .wst)⟩
  case tiles =>
    intro src dst rows tile real wide
    have from_ : s.wvRow 0 = src := wvRow_eq_getD s 0
    have to_ : s.wvRow 1 = dst := wvRow_eq_getD s 1
    rw [← from_, ← to_]
    refine ⟨?source, ?destination⟩
    case source =>
      rintro ⟨inside, valid⟩ h n k L sum source
      refine ⟨fun room => ?winv, fun room => ?wexp, fun room => ?wstc⟩
      case winv =>
        exact completes_waveStart (f := fun s => s.waveTile .winv fun n _ => n) rfl compute rfl
          (waveTile_inside real wide inside valid rfl source room)
      case wexp =>
        exact completes_waveStart (f := fun s => s.waveTile .wexp fun n _ => n + 1) rfl compute rfl
          (waveTile_inside real wide inside valid rfl source room)
      case wstc =>
        exact completes_waveStart (f := fun s => s.waveTile .wstc fun _ k => k + 1) rfl compute rfl
          (waveTile_inside real wide inside valid rfl source room)
    case destination =>
      rintro ⟨inside, valid⟩ bias tag h a room
      exact completes_waveStart (f := State.waveBias) rfl compute rfl (waveBias_inside real wide inside valid bias tag rfl room)

end Sys2Proof.Machine
end

section
/-! PROOFS. Rows as functions of row and element (R132): a row or a table of rows listed from a function, and the flags raised over it. -/

namespace Sys2Proof.Machine

open Sys2Proof

/-! ### Flags over positions -/

theorem raisedBy_succ (n : Nat) (f : Nat → FlagSet) : raisedBy (n + 1) f = raisedBy n f ||| f n := by
  rw [raisedBy, List.range_succ, List.foldl_append]
  rfl

theorem raisedBy_succ_left (n : Nat) (f : Nat → FlagSet) : raisedBy (n + 1) f = f 0 ||| raisedBy n fun k => f (k + 1) := by
  induction n with
  | zero => exact BitVec.or_comm ..
  | succ n ih => rw [raisedBy_succ, ih, raisedBy_succ, BitVec.or_assoc]

/-- A flag is raised over positions when one of them raises it. -/
theorem raisedBy_getLsbD {n : Nat} {f : Nat → FlagSet} {b : Nat} :
    (raisedBy n f).getLsbD b = true ↔ ∃ k, k < n ∧ (f k).getLsbD b = true := by
  induction n with
  | zero => simp [raisedBy]
  | succ n ih =>
    rw [raisedBy_succ, BitVec.getLsbD_or, Bool.or_eq_true, ih]
    constructor
    · rintro (⟨k, inside, raised⟩ | raised)
      · exact ⟨k, Nat.lt_succ_of_lt inside, raised⟩
      · exact ⟨n, Nat.lt_succ_self n, raised⟩
    · rintro ⟨k, inside, raised⟩
      rcases Nat.lt_succ_iff_lt_or_eq.mp inside with before | rfl
      · exact .inl ⟨k, before, raised⟩
      · exact .inr raised

/-! ### Tables -/

/-- A row's element patterns. -/
def elemRow (E : Nat) (g : Nat → Nat) : List Nat := (List.range E).map g

/-- Rows of E elements each. -/
def rowTable (n E : Nat) (f : Nat → Nat → Nat) : List (List Nat) := (List.range n).map fun i => elemRow E (f i)

section
variable (n m E : Nat) (f g : Nat → Nat → Nat)

theorem replicate_eq_elemRow (x : Nat) : List.replicate E x = elemRow E fun _ => x := replicate_eq_range ..

@[simp] theorem rowTable_length : (rowTable n E f).length = n := by simp [rowTable]

theorem rowTable_succ : rowTable (n + 1) E f = elemRow E (f 0) :: rowTable n E fun i => f (i + 1) := by
  rw [rowTable, List.range_succ_eq_map, List.map_cons, List.map_map]
  rfl

theorem rowTable_append : rowTable n E f ++ rowTable m E g = rowTable (n + m) E fun i => if i < n then f i else g (i - n) := by
  unfold rowTable
  rw [List.range_add, List.map_append, List.map_map]
  refine congrArg₂ _ (List.map_congr_left fun i inside => ?_) (List.map_congr_left fun i _ => ?_)
  · exact congrArg (elemRow E) (if_pos (List.mem_range.mp inside)).symm
  · simp

theorem rowTable_take {n m : Nat} (inside : m ≤ n) : (rowTable n E f).take m = rowTable m E f := by
  rw [rowTable, ← List.map_take, List.take_range, Nat.min_eq_left inside, rowTable]

theorem rowTable_drop {n m : Nat} : (rowTable (m + n) E f).drop m = rowTable n E fun i => f (m + i) := by
  rw [rowTable, List.range_add, List.map_append, List.drop_left' (by simp), List.map_map]
  rfl

end

/-- Element-wise pairs of two rows. -/
theorem rowPair_elemRow (h : Nat → Nat → (Nat × FlagSet) × (Nat × FlagSet)) (E : Nat) (x y : Nat → Nat) :
    rowPair h (elemRow E x) (elemRow E y) = (elemRow E fun e => (h (x e) (y e)).1.1, elemRow E fun e => (h (x e) (y e)).2.1,
      raisedBy E fun e => (h (x e) (y e)).1.2 ||| (h (x e) (y e)).2.2) := by
  have pairs : List.zipWith h (elemRow E x) (elemRow E y) = (List.range E).map fun e => h (x e) (y e) := by
    rw [elemRow, elemRow, List.zipWith_map, List.zipWith_self]
  simp only [rowPair, pairs, List.map_map, List.foldl_map, raisedBy, BitVec.or_assoc]
  rfl

end Sys2Proof.Machine
end

section
/-! PROOFS. The Haar transform (R132, R134) on tables of rows: what a level leaves, and the rows and flags after all levels. -/

namespace Sys2Proof.Machine

open Sys2Proof

/-! ### Sizes -/

/-- The rows of a level, counted from the approximations. -/
theorem levelRows_eq {n L l : Nat} (whole : n % 2 ^ L = 0) (level : l ≤ L) : n / 2 ^ l = n / 2 ^ L * 2 ^ (L - l) := by
  obtain ⟨A, rfl⟩ := Nat.dvd_of_mod_eq_zero whole
  rw [Nat.mul_div_cancel_left _ (Nat.two_pow_pos L)]
  have split_ : 2 ^ L = 2 ^ l * 2 ^ (L - l) := by rw [← Nat.pow_add, Nat.add_sub_cancel' level]
  rw [split_, Nat.mul_assoc, Nat.mul_div_cancel_left _ (Nat.two_pow_pos l), Nat.mul_comm]

theorem tileOk_iff {n L : Nat} : tileOk n L = true ↔ 1 ≤ L ∧ L ≤ 7 ∧ 2 ^ L ≤ n ∧ n ≤ 128 ∧ n % 2 ^ L = 0 := by
  simp [tileOk, and_assoc]

section
variable (f : FF) (r : RMode) (E : Nat)

/-! ### Forward -/

/-- The half-sums and half-differences of rows taken in pairs, and the flags of their roundings. -/
def halfSums (x : Nat → Nat → Nat) (i e : Nat) : Nat := (haarPair f r (x (2 * i) e) (x (2 * i + 1) e)).1.1
def halfDiffs (x : Nat → Nat → Nat) (i e : Nat) : Nat := (haarPair f r (x (2 * i) e) (x (2 * i + 1) e)).2.1
def haarFlags (x : Nat → Nat → Nat) (i e : Nat) : FlagSet :=
  (haarPair f r (x (2 * i) e) (x (2 * i + 1) e)).1.2 ||| (haarPair f r (x (2 * i) e) (x (2 * i + 1) e)).2.2

theorem fwdLevel_rowTable (m : Nat) (x : Nat → Nat → Nat) : fwdLevel f r (rowTable (2 * m) E x) =
    (rowTable m E (halfSums f r x), rowTable m E (halfDiffs f r x), raisedBy m fun i => raisedBy E (haarFlags f r x i)) := by
  induction m generalizing x with
  | zero => rfl
  | succ m ih =>
    rw [Nat.mul_succ, rowTable_succ, rowTable_succ, fwdLevel, rowPair_elemRow, ih, rowTable_succ, rowTable_succ, raisedBy_succ_left]
    rfl

/-- The coefficient rows of A · 2^L rows in tree order (R134). -/
def coefRows (A : Nat) : Nat → (Nat → Nat → Nat) → Nat → Nat → Nat
  | 0, x, j => x j
  | l + 1, x, j => if j < A * 2 ^ l then coefRows A l (halfSums f r x) j else halfDiffs f r x (j - A * 2 ^ l)

/-- The rows after some forward levels: approximations of the last. -/
def approximations (x : Nat → Nat → Nat) (l : Nat) : Nat → Nat → Nat := (halfSums f r)^[l] x

theorem approximations_succ (x : Nat → Nat → Nat) (l : Nat) :
    approximations f r x (l + 1) = halfSums f r (approximations f r x l) := Function.iterate_succ_apply' ..

theorem forward_rowTable (A L : Nat) (x : Nat → Nat → Nat) (details : List (List Nat)) (fl : FlagSet) :
    forward f r L (rowTable (A * 2 ^ L) E x) details fl = (rowTable (A * 2 ^ L) E (coefRows f r A L x) ++ details,
      fl ||| raisedBy L fun l => raisedBy (A * 2 ^ (L - (l + 1))) fun i => raisedBy E (haarFlags f r (approximations f r x l) i)) := by
  induction L generalizing x details fl with
  | zero => exact Prod.ext rfl (BitVec.or_zero).symm
  | succ L ih =>
    have double : A * 2 ^ (L + 1) = 2 * (A * 2 ^ L) := by rw [Nat.pow_succ]; ac_rfl
    rw [double, forward, fwdLevel_rowTable]
    dsimp only
    rw [ih, ← List.append_assoc, rowTable_append, ← Nat.two_mul, raisedBy_succ_left, BitVec.or_assoc]
    simp only [Nat.add_sub_add_right]
    rfl

/-- The approximations come first in tree order. -/
theorem coefRows_approximation {A L i : Nat} (x : Nat → Nat → Nat) (inside : i < A) :
    coefRows f r A L x i = approximations f r x L i := by
  induction L generalizing x with
  | zero => rfl
  | succ L ih =>
    rw [coefRows, if_pos (Nat.lt_of_lt_of_le inside (Nat.le_mul_of_pos_right A (Nat.two_pow_pos L))), ih]
    rfl

/-- The details of a level stand after the rows that its approximations become. -/
theorem coefRows_detail {A L l i : Nat} (x : Nat → Nat → Nat) (level : l < L) (inside : i < A * 2 ^ (L - (l + 1))) :
    coefRows f r A L x (A * 2 ^ (L - (l + 1)) + i) = halfDiffs f r (approximations f r x l) i := by
  induction L generalizing x l with
  | zero => exact absurd level (Nat.not_lt_zero l)
  | succ L ih =>
    cases l with
    | zero =>
      show (if A * 2 ^ L + i < A * 2 ^ L then _ else _) = _
      rw [if_neg (by omega)]
      exact congrArg (halfDiffs f r x) (Nat.add_sub_cancel_left ..)
    | succ l =>
      rw [Nat.add_sub_add_right] at inside ⊢
      have level : l < L := Nat.lt_of_succ_lt_succ level
      have half : A * 2 ^ L = A * 2 ^ (L - (l + 1)) * 2 ^ (l + 1) := by rw [Nat.mul_assoc, ← Nat.pow_add, Nat.sub_add_cancel level]
      have two : 2 ≤ 2 ^ (l + 1) := Nat.le_self_pow (by omega) 2
      have before : A * 2 ^ (L - (l + 1)) + i < A * 2 ^ L := calc
        _ < A * 2 ^ (L - (l + 1)) * 2 := by omega
        _ ≤ A * 2 ^ L := half ▸ Nat.mul_le_mul_left _ two
      rw [coefRows, if_pos before, ih _ level inside]
      rfl

/-! ### Inverse -/

variable (c : Nat → Nat → Nat)

/-- The rows of the next level from m rows and their details, and the flags of their sums and differences. -/
def rebuilt (m : Nat) (x : Nat → Nat → Nat) (j e : Nat) : Nat :=
  if j % 2 = 0 then (f.add r (x (j / 2) e) (c (m + j / 2) e)).1 else (f.sub r (x (j / 2) e) (c (m + j / 2) e)).1
def rebuiltFlags (m : Nat) (x : Nat → Nat → Nat) (i e : Nat) : FlagSet :=
  (f.add r (x i e) (c (m + i) e)).2 ||| (f.sub r (x i e) (c (m + i) e)).2

theorem invLevel_rowTable (m : Nat) (x y : Nat → Nat → Nat) : invLevel f r (rowTable m E x) (rowTable m E y) =
    (rowTable (2 * m) E fun j e => if j % 2 = 0 then (f.add r (x (j / 2) e) (y (j / 2) e)).1 else (f.sub r (x (j / 2) e) (y (j / 2) e)).1,
      raisedBy m fun i => raisedBy E fun e => (f.add r (x i e) (y i e)).2 ||| (f.sub r (x i e) (y i e)).2) := by
  induction m generalizing x y with
  | zero => rfl
  | succ m ih =>
    have parity (j : Nat) : (j + 1 + 1) % 2 = j % 2 := by omega
    have half (j : Nat) : (j + 1 + 1) / 2 = j / 2 + 1 := by omega
    rw [rowTable_succ, rowTable_succ, invLevel, rowPair_elemRow, ih, Nat.mul_succ, rowTable_succ, rowTable_succ, raisedBy_succ_left]
    simp only [parity, half]
    rfl

/-- The rows after some levels of reconstruction, from A approximations. -/
def reconstruction (A : Nat) : Nat → Nat → Nat → Nat
  | 0 => c
  | k + 1 => rebuilt f r c (A * 2 ^ k) (reconstruction A k)

theorem reconstruction_even (A k i e : Nat) : reconstruction f r c A (k + 1) (2 * i) e =
    (f.add r (reconstruction f r c A k i e) (c (A * 2 ^ k + i) e)).1 := by
  rw [reconstruction, rebuilt, if_pos (by omega), Nat.mul_div_cancel_left i (by decide)]

theorem reconstruction_odd (A k i e : Nat) : reconstruction f r c A (k + 1) (2 * i + 1) e =
    (f.sub r (reconstruction f r c A k i e) (c (A * 2 ^ k + i) e)).1 := by
  rw [reconstruction, rebuilt, if_neg (by omega), show (2 * i + 1) / 2 = i by omega]

theorem inverse_rowTable (A k l rest : Nat) (sizes : A * 2 ^ k + rest = A * 2 ^ (k + l)) (fl : FlagSet) :
    inverse f r l (rowTable (A * 2 ^ k) E (reconstruction f r c A k)) (rowTable rest E fun j => c (A * 2 ^ k + j)) fl =
      (rowTable (A * 2 ^ (k + l)) E (reconstruction f r c A (k + l)),
        fl ||| raisedBy l fun i => raisedBy (A * 2 ^ (k + i)) fun j =>
          raisedBy E (rebuiltFlags f r c (A * 2 ^ (k + i)) (reconstruction f r c A (k + i)) j)) := by
  induction l generalizing k rest fl with
  | zero => exact Prod.ext rfl (BitVec.or_zero).symm
  | succ l ih =>
    have double : A * 2 ^ (k + 1) = 2 * (A * 2 ^ k) := by rw [Nat.pow_succ]; ac_rfl
    have most : A * 2 ^ (k + 1) ≤ A * 2 ^ (k + (l + 1)) := Nat.mul_le_mul_left A (Nat.pow_le_pow_right (by decide) (by omega))
    obtain ⟨rest, rfl⟩ : ∃ q, rest = A * 2 ^ k + q := ⟨rest - A * 2 ^ k, by omega⟩
    have level : invLevel f r (rowTable (A * 2 ^ k) E (reconstruction f r c A k)) (rowTable (A * 2 ^ k) E fun j => c (A * 2 ^ k + j)) =
        (rowTable (A * 2 ^ (k + 1)) E (reconstruction f r c A (k + 1)),
          raisedBy (A * 2 ^ k) fun j => raisedBy E (rebuiltFlags f r c (A * 2 ^ k) (reconstruction f r c A k) j)) := by
      rw [invLevel_rowTable, double]
      rfl
    rw [inverse, rowTable_length, rowTable_take _ _ (Nat.le_add_right ..), level, rowTable_drop]
    dsimp only
    have next_ : (rowTable rest E fun i => c (A * 2 ^ k + (A * 2 ^ k + i))) = rowTable rest E fun j => c (A * 2 ^ (k + 1) + j) := by
      simp only [double, Nat.two_mul, Nat.add_assoc]
    have sizes_ : A * 2 ^ (k + 1) + rest = A * 2 ^ (k + 1 + l) := by
      rw [double, Nat.two_mul, Nat.add_assoc, sizes, Nat.add_right_comm k 1 l]
      rfl
    rw [next_, ih (k + 1) rest sizes_, raisedBy_succ_left, BitVec.or_assoc]
    simp only [Nat.add_right_comm k 1, Nat.add_assoc, Nat.add_zero]

end

end Sys2Proof.Machine
end

section
/-! PROOFS. Stored tiles (R136..R138): the header's fields, the kept rows in the order of their index, rows spread over a presence map,
and the rows that thresholds keep. -/

namespace Sys2Proof.Machine

open Sys2Proof

/-! ### Ranks -/

theorem rank_le (p : Nat → Bool) (n : Nat) : rank p n ≤ n := (List.length_filter_le ..).trans_eq List.length_range

@[simp] theorem rank_zero (p : Nat → Bool) : rank p 0 = 0 := rfl

theorem popc_range (p : Nat → Bool) (n : Nat) : popc ((List.range n).map p) = rank p n := by
  rw [popc, List.filter_map, List.length_map]
  rfl

theorem rank_succ_left (p : Nat → Bool) (n : Nat) : rank p (n + 1) = (if p 0 then 1 else 0) + rank (fun i => p (i + 1)) n := by
  have shifted : ((List.range n).map Nat.succ).filter p = ((List.range n).filter fun i => p (i + 1)).map Nat.succ := List.filter_map ..
  cases first : p 0 <;> simp [rank, List.range_succ_eq_map, first, shifted, Nat.add_comm]

/-- The kept index that stands at its rank. -/
theorem filter_range_rank {keep : Nat → Bool} {n i : Nat} (inside : i < n) (kept : keep i = true) :
    ((List.range n).filter keep)[rank keep i]? = some i := by
  obtain ⟨d, rfl⟩ := Nat.exists_eq_add_of_lt inside
  rw [Nat.add_assoc, List.range_add, List.filter_append, rank, List.getElem?_append_right le_rfl, Nat.sub_self, Nat.add_comm d 1,
    List.range_add, List.map_append, List.filter_append]
  simp [kept]

/-! ### Headers -/

theorem presOf_getLsbD (n : Nat) (keep : Nat → Bool) {j : Nat} (inside : j < 128) :
    (presOf ((List.range n).map keep)).getLsbD j = (decide (j < n) && keep j) := by
  rw [← maskOf_range n keep (show j < 512 by omega), presOf, maskOf, BitVec.getLsbD_ofNat, BitVec.getLsbD_ofNat,
    decide_eq_true inside, decide_eq_true (show j < 512 by omega)]

section
variable {tag lev cnt npos : Nat} (tagFits : tag < 256) (levFits : lev < 256) (cntFits : cnt < 256) (nposFits : npos < 256)
  (pres : BitVec 128)
include tagFits levFits cntFits nposFits

theorem header_toNat : (header tag lev cnt npos pres).toNat =
    2 ^ 128 * pres.toNat + (tag + 2 ^ 8 * lev + 2 ^ 16 * cnt + 2 ^ 24 * npos) := by
  have short : tag + 2 ^ 8 * lev + 2 ^ 16 * cnt + 2 ^ 24 * npos + 2 ^ 128 * pres.toNat < 2 ^ 256 := by
    have := pres.isLt
    omega
  have row := short.trans_le (Nat.pow_le_pow_right Nat.two_pos (show 256 ≤ 4096 by decide))
  rw [header, BitVec.toNat_ofNat, Nat.mod_eq_of_lt tagFits, Nat.mod_eq_of_lt levFits, Nat.mod_eq_of_lt cntFits,
    Nat.mod_eq_of_lt nposFits, Nat.mod_eq_of_lt row, Nat.add_comm]

theorem hdrTag_header : hdrTag (header tag lev cnt npos pres) = tag := by
  rw [hdrTag, header_toNat tagFits levFits cntFits nposFits]
  omega

theorem hdrLev_header : hdrLev (header tag lev cnt npos pres) = lev := by
  rw [hdrLev, header_toNat tagFits levFits cntFits nposFits]
  omega

theorem hdrCnt_header : hdrCnt (header tag lev cnt npos pres) = cnt := by
  rw [hdrCnt, header_toNat tagFits levFits cntFits nposFits]
  omega

theorem hdrNpos_header : hdrNpos (header tag lev cnt npos pres) = npos := by
  rw [hdrNpos, header_toNat tagFits levFits cntFits nposFits]
  omega

theorem hdrPres_header : hdrPres (header tag lev cnt npos pres) = pres := by
  refine BitVec.eq_of_toNat_eq ?_
  rw [hdrPres, BitVec.extractLsb'_toNat, Nat.shiftRight_eq_div_pow, header_toNat tagFits levFits cntFits nposFits]
  have := pres.isLt
  omega

/-- The reserved bits of R137 are 0. -/
theorem header_reserved {j : Nat} (reserved : (32 ≤ j ∧ j < 128) ∨ 256 ≤ j) :
    (header tag lev cnt npos pres).getLsbD j = false := by
  have low : tag + 2 ^ 8 * lev + 2 ^ 16 * cnt + 2 ^ 24 * npos < 2 ^ 32 := by omega
  rw [← BitVec.testBit_toNat, header_toNat tagFits levFits cntFits nposFits,
    Nat.testBit_two_pow_mul_add _ (low.trans (by decide))]
  rcases reserved with ⟨past, before⟩ | past
  · rw [if_pos before]
    exact Nat.testBit_lt_two_pow (low.trans_le (Nat.pow_le_pow_right (by decide) past))
  · rw [if_neg (by omega)]
    exact Nat.testBit_lt_two_pow (pres.isLt.trans_le (Nat.pow_le_pow_right (by decide) (by omega)))

end

/-! ### Rows of a tile -/

/-- The kept rows of a table, in the order of their index. -/
theorem keptRows_rowTable (n E : Nat) (c : Nat → Nat → Nat) (keep : Nat → Bool) :
    ((rowTable n E c).zip ((List.range n).map keep)).filterMap (fun p => if p.2 then some p.1 else none) =
      ((List.range n).filter keep).map fun i => elemRow E (c i) := by
  rw [rowTable, List.zip_map', List.filterMap_map]
  induction List.range n with
  | nil => rfl
  | cons i l ih => cases kept : keep i <;> simpa [kept] using ih

/-- The header row and the data rows of a tile whose sizes R132 allows are what R137 and R145 store. -/
theorem storesTile_of_result {w : WCmd} (sizes : tileOk w.n w.L = true) {c : Nat → Nat → Nat} {keep : Nat → Bool} {good : Bool}
    (rows : w.result.1 = tileRows w.dst w.L w.n w.ff.width (rowTable w.n (4096 / w.ff.width) c) ((List.range w.n).map keep) (!good)) :
    StoresTile w c keep good := by
  obtain ⟨-, levels, -, positions, -⟩ := tileOk_iff.mp sizes
  have count := rank_le keep w.n
  have tagFits : (if (!good) = true then 15 else 1 + w.L) < 256 := by split <;> omega
  have levFits : w.L < 256 := by omega
  have cntFits : rank keep w.n < 256 := by omega
  have nposFits : w.n < 256 := by omega
  unfold StoresTile
  rw [rows, tileRows, keptRows_rowTable, popc_range]
  refine ⟨?length, ⟨_, List.mem_cons_self, rfl, ?tag, hdrLev_header tagFits levFits cntFits nposFits _,
    hdrCnt_header tagFits levFits cntFits nposFits _, hdrNpos_header tagFits levFits cntFits nposFits _, ?pres,
    fun j _ reserved => header_reserved tagFits levFits cntFits nposFits _ reserved⟩,
    fun i inside kept => ⟨_, List.mem_cons_of_mem _ (List.mem_map.mpr
      ⟨(elemRow (4096 / w.ff.width) (c i), rank keep i), ?place, rfl⟩), ?dataTag, ?data⟩⟩
  case length => simp [rank]
  case tag =>
    rw [hdrTag_header tagFits levFits cntFits nposFits]
    cases good <;> rfl
  case pres =>
    intro j inside
    rw [hdrPres_header tagFits levFits cntFits nposFits, presOf_getLsbD _ _ inside]
  case place =>
    rw [List.mk_mem_zipIdx_iff_getElem?, List.getElem?_map, filter_range_rank inside kept]
    rfl
  case dataTag => cases good <;> rfl
  case data => exact fun e position => elem_ofElems_range _ (c i) position

/-- Present rows spread over their indices, absent ones +0 (R147..R149). -/
theorem spread_rowTable {p : Nat → Bool} {n k : Nat} (count : k = rank p n) (E : Nat) (d : Nat → Nat → Nat) :
    spread (elemRow E fun _ => 0) ((List.range n).map p) (rowTable k E d) =
      rowTable n E fun i e => if p i then d (rank p i) e else 0 := by
  subst count
  induction n generalizing p d with
  | zero => rfl
  | succ n ih =>
    have shift : (List.range (n + 1)).map p = p 0 :: (List.range n).map fun i => p (i + 1) := by
      rw [List.range_succ_eq_map, List.map_cons, List.map_map]
      rfl
    rw [shift, rowTable_succ]
    cases first : p 0 with
    | false => simp [rank_succ_left, first, spread, ih]
    | true =>
      have more : rank p (n + 1) = rank (fun i => p (i + 1)) n + 1 := by rw [rank_succ_left, first, Nat.add_comm]; rfl
      rw [more, rowTable_succ, spread, ih]
      simp [rank_succ_left p, first, Nat.add_comm]

/-! ### Thresholds -/

/-- The comparison of R136 as one of real numbers. -/
theorem belowThr_iff {f : FF} {thr x : Nat} : belowThr f thr x = true ↔ ∃ s m e, f.decode x = .fin s m e ∧
    (FF.f32.decode thr = .inf false ∨
      ∃ n y, FF.f32.decode thr = .fin false n y ∧ m * 2 ^ (e - min e y).toNat < n * 2 ^ (y - min e y).toNat) := by
  unfold belowThr
  cases f.decode x with
  | nan => simp
  | inf => simp
  | fin s m e => rcases FF.f32.decode thr with _ | ⟨_ | _⟩ | ⟨_ | _, n, y⟩ <;> simp [magLt, min_def]

/-- A row is dropped when every element is below the threshold (R136). -/
theorem dropped_iff_drops {w : WCmd} {thr : Nat} {row : Nat → Nat} :
    dropped w.ff thr (elemRow (4096 / w.ff.width) row) = true ↔ Drops w thr row := by
  simp only [dropped, elemRow, List.all_map, List.all_eq_true, List.mem_range, Function.comp_apply, belowThr_iff, Drops]

/-- The level of a detail (R134). -/
theorem levelOf_eq {n L l j : Nat} (some_ : 1 ≤ l) (most : l ≤ L) (from_ : n / 2 ^ l ≤ j) (to_ : j < n / 2 ^ (l - 1)) :
    levelOf n L j = l := by
  obtain ⟨l, rfl⟩ := Nat.exists_eq_add_of_le' some_
  have found : (List.range L).find? ((fun l => decide (n / 2 ^ l ≤ j)) ∘ (· + 1)) = some l := by
    refine List.find?_range_eq_some.mpr ⟨decide_eq_true from_, List.mem_range.mpr most, fun i before => ?_⟩
    have larger : n / 2 ^ l ≤ n / 2 ^ (i + 1) := Nat.div_le_div_left (Nat.pow_le_pow_right (by decide) before) (Nat.two_pow_pos _)
    simpa using Nat.lt_of_lt_of_le to_ larger
  rw [levelOf, List.find?_map, found]
  rfl

/-- Whether a coefficient row is kept (R136). -/
def WCmd.keeps (w : WCmd) (c : Nat → Nat → Nat) (j : Nat) : Bool :=
  decide (j < w.n / 2 ^ w.L) || !dropped w.ff (vget w.wth (levelOf w.n w.L j) 0).toNat (elemRow (4096 / w.ff.width) (c j))

theorem keepRows_rowTable (w : WCmd) (n : Nat) (c : Nat → Nat → Nat) :
    keepRows w.ff w.wth w.n w.L (rowTable n (4096 / w.ff.width) c) = (List.range n).map (w.keeps c) := by
  rw [keepRows, rowTable, zipIdx_map_range, List.map_map]
  rfl

theorem keeps_spec (w : WCmd) (c : Nat → Nat → Nat) : Keeps w c (w.keeps c) := by
  refine ⟨fun j inside => ?_, fun l j some_ most from_ to_ => ?_⟩
  · rw [WCmd.keeps, decide_eq_true inside, Bool.true_or]
  · have detail : ¬ j < w.n / 2 ^ w.L :=
      Nat.not_lt.mpr ((Nat.div_le_div_left (Nat.pow_le_pow_right (by decide) most) (Nat.two_pow_pos l)).trans from_)
    rw [WCmd.keeps, decide_eq_false detail, Bool.false_or, Bool.not_eq_false', levelOf_eq some_ most from_ to_, dropped_iff_drops]

end Sys2Proof.Machine
end

section
/-! PROOFS. Wavelet commands at T (R133, R141): the rows that a command computes from those it has read, and their writes. -/

namespace Sys2Proof.Machine

open Sys2Proof

/-! ### What a command has read -/

/-- Element e of the row read for an index. -/
def WCmd.read (w : WCmd) (j e : Nat) : Nat := elem w.ff.width (w.row j).data e

/-- Coefficient rows of a stored tile, absent ones +0. -/
def WCmd.stored (w : WCmd) (i e : Nat) : Nat := if w.pres.getLsbD i then w.read (rank w.pres.getLsbD i) e else 0

/-- Coefficient rows of the forward transform. -/
def WCmd.transformed (w : WCmd) : Nat → Nat → Nat := coefRows w.ff w.rm (w.n / 2 ^ w.L) w.L w.read

/-- Every source row of a transform carries S or C; every row of a stored tile carries its H tag (R145). -/
def WCmd.spatialTags (w : WCmd) : Bool := decide (∀ j, j < w.n → (w.row j).tag = tagS ∨ (w.row j).tag = tagC)
def WCmd.storedTags (w : WCmd) : Bool := decide (∀ j, j < w.k → (w.row j).tag = BitVec.ofNat 4 (1 + w.L))

section
variable (w : WCmd)

theorem all_rows_read (n : Nat) (p : Row → Bool) : (((List.range n).map w.row).all p) = true ↔ ∀ j, j < n → p (w.row j) = true := by
  simp

theorem spatialTags_eq : (((List.range w.n).map w.row).all fun r => r.tag == tagS || r.tag == tagC) = w.spatialTags := by
  rw [Bool.eq_iff_iff, all_rows_read, WCmd.spatialTags, decide_eq_true_iff]
  simp

theorem storedTags_eq : (((List.range w.k).map w.row).all fun r => r.tag == BitVec.ofNat 4 (1 + w.L)) = w.storedTags := by
  rw [Bool.eq_iff_iff, all_rows_read, WCmd.storedTags, decide_eq_true_iff]
  simp

theorem rows_read (n : Nat) :
    (((List.range n).map w.row).map fun r => elems w.ff.width r.data) = rowTable n (4096 / w.ff.width) w.read := by
  rw [List.map_map]
  rfl

theorem rows_spread (count : w.k = rank w.pres.getLsbD w.n) :
    spread (List.replicate (4096 / w.ff.width) 0) (presList w.pres w.n) (rowTable w.k (4096 / w.ff.width) w.read) =
      rowTable w.n (4096 / w.ff.width) w.stored := by
  rw [replicate_eq_elemRow]
  exact spread_rowTable count ..

theorem stored_absent (i e : Nat) (absent : w.pres.getLsbD i = false) : w.stored i e = 0 := by
  rw [WCmd.stored, absent]
  rfl

theorem rowTable_map_true (n E : Nat) (c : Nat → Nat → Nat) :
    ((rowTable n E c).map fun _ => true) = (List.range n).map fun _ => true := by
  rw [rowTable, List.map_map]
  rfl

end

/-! ### The transforms -/

section
variable {w : WCmd} (whole : w.n % 2 ^ w.L = 0)
include whole

/-- The flags of every rounding of the forward transform. -/
theorem forward_flags (b : Nat) : (raisedBy w.L fun l => raisedBy (w.n / 2 ^ w.L * 2 ^ (w.L - (l + 1))) fun i =>
      raisedBy (4096 / w.ff.width) (haarFlags w.ff w.rm (approximations w.ff w.rm w.read l) i)).getLsbD b = true ↔
    ∃ l i e, l < w.L ∧ i < w.n / 2 ^ (l + 1) ∧ e < 4096 / w.ff.width ∧
      (haarFlags w.ff w.rm (approximations w.ff w.rm w.read l) i e).getLsbD b = true := by
  simp only [raisedBy_getLsbD]
  constructor
  · rintro ⟨l, level, i, inside, e, position, raised⟩
    exact ⟨l, i, e, level, by rwa [levelRows_eq whole level], position, raised⟩
  · rintro ⟨l, i, e, level, inside, position, raised⟩
    exact ⟨l, level, i, by rwa [levelRows_eq whole level] at inside, e, position, raised⟩

/-- The forward transform of the rows read (R132). -/
theorem forward_transformed : ∃ fl, Forward w w.read w.transformed fl ∧
    forward w.ff w.rm w.L (rowTable w.n (4096 / w.ff.width) w.read) [] 0 = (rowTable w.n (4096 / w.ff.width) w.transformed, fl) := by
  have all := levelRows_eq whole (Nat.zero_le w.L)
  rw [Nat.pow_zero, Nat.div_one, Nat.sub_zero] at all
  have run := forward_rowTable w.ff w.rm (4096 / w.ff.width) (w.n / 2 ^ w.L) w.L w.read [] 0
  rw [← all, List.append_nil, flagSet_zero_or] at run
  refine ⟨_, ⟨approximations w.ff w.rm w.read, fun _ _ _ _ => rfl, fun l i e level inside _ => ⟨?sum, ?diff⟩,
    fun i e inside _ => ?rest, fun b _ => forward_flags whole b⟩, run⟩
  case sum => rw [approximations_succ]; rfl
  case diff =>
    have rows := levelRows_eq whole (show l + 1 ≤ w.L from level)
    beta_reduce at inside ⊢
    rw [rows] at inside ⊢
    rw [WCmd.transformed, coefRows_detail w.ff w.rm w.read level inside]
    rfl
  case rest => rw [WCmd.transformed, coefRows_approximation w.ff w.rm w.read inside]

/-- The flags of every sum and difference of a reconstruction. -/
theorem inverse_flags (c : Nat → Nat → Nat) (b : Nat) :
    (raisedBy w.L fun i => raisedBy (w.n / 2 ^ w.L * 2 ^ i) fun j => raisedBy (4096 / w.ff.width)
      (rebuiltFlags w.ff w.rm c (w.n / 2 ^ w.L * 2 ^ i) (reconstruction w.ff w.rm c (w.n / 2 ^ w.L) i) j)).getLsbD b = true ↔
    ∃ l i e, l < w.L ∧ i < w.n / 2 ^ (l + 1) ∧ e < 4096 / w.ff.width ∧
      (rebuiltFlags w.ff w.rm c (w.n / 2 ^ (l + 1)) (reconstruction w.ff w.rm c (w.n / 2 ^ w.L) (w.L - (l + 1))) i e).getLsbD b = true := by
  simp only [raisedBy_getLsbD]
  constructor
  · rintro ⟨i, step, j, inside, e, position, raised⟩
    have back : w.L - (w.L - 1 - i + 1) = i := by omega
    have level : w.L - 1 - i < w.L := by omega
    have rows := levelRows_eq whole (Nat.succ_le_of_lt level)
    rw [Nat.succ_eq_add_one, back] at rows
    exact ⟨w.L - 1 - i, j, e, level, by rwa [rows], position, by rwa [rows, back]⟩
  · rintro ⟨l, i, e, level, inside, position, raised⟩
    rw [levelRows_eq whole level] at inside raised
    exact ⟨w.L - (l + 1), by omega, i, inside, e, position, raised⟩

/-- The reconstruction from coefficient rows, absent ones +0 (R132). -/
theorem inverse_reconstruction {c : Nat → Nat → Nat} {present : Nat → Bool} (absent : ∀ i e, present i = false → c i e = 0) :
    ∃ out fl, Inverse w c present out fl ∧
      inverse w.ff w.rm w.L ((rowTable w.n (4096 / w.ff.width) c).take (w.n / 2 ^ w.L))
        ((rowTable w.n (4096 / w.ff.width) c).drop (w.n / 2 ^ w.L)) 0 = (rowTable w.n (4096 / w.ff.width) out, fl) := by
  have all := levelRows_eq whole (Nat.zero_le w.L)
  rw [Nat.pow_zero, Nat.div_one, Nat.sub_zero] at all
  have some_ : w.n / 2 ^ w.L ≤ w.n := Nat.div_le_self ..
  have parts : w.n / 2 ^ w.L + (w.n - w.n / 2 ^ w.L) = w.n := Nat.add_sub_cancel' some_
  have run := inverse_rowTable w.ff w.rm (4096 / w.ff.width) c (w.n / 2 ^ w.L) 0 w.L (w.n - w.n / 2 ^ w.L)
    (by rw [Nat.pow_zero, Nat.mul_one, parts, Nat.zero_add, ← all]) 0
  have rest := rowTable_drop (4096 / w.ff.width) c (n := w.n - w.n / 2 ^ w.L) (m := w.n / 2 ^ w.L)
  rw [parts] at rest
  simp only [Nat.pow_zero, Nat.mul_one, Nat.zero_add, ← all, flagSet_zero_or] at run
  rw [rowTable_take _ _ some_, rest]
  have here (j e : Nat) : (if present j = true then c j e else 0) = c j e := by
    cases at_ : present j with
    | false => rw [absent j e at_]; rfl
    | true => rfl
  refine ⟨_, _, ⟨fun l => reconstruction w.ff w.rm c (w.n / 2 ^ w.L) (w.L - l), ?_⟩, run⟩
  simp only [here]
  refine ⟨fun i e _ _ => by rw [Nat.sub_self]; rfl, fun l i e level _ _ => ?_, fun _ _ _ _ => rfl, fun b _ => inverse_flags whole c b⟩
  have step : w.L - l = w.L - (l + 1) + 1 := by omega
  rw [step, levelRows_eq whole level]
  exact ⟨reconstruction_even .., reconstruction_odd ..⟩

end

/-! ### Results, command by command -/

section
variable {w : WCmd}

theorem result_wfwd (kind : w.kind = .wfwd) {c : Nat → Nat → Nat} {fl : FlagSet}
    (run : forward w.ff w.rm w.L (rowTable w.n (4096 / w.ff.width) w.read) [] 0 = (rowTable w.n (4096 / w.ff.width) c, fl)) :
    w.result = (tileRows w.dst w.L w.n w.ff.width (rowTable w.n (4096 / w.ff.width) c) ((List.range w.n).map fun _ => true)
      (!w.spatialTags), fl) := by
  simp only [WCmd.result, kind, rows_read, run, spatialTags_eq, rowTable_map_true]

theorem result_wst (kind : w.kind = .wst) {c : Nat → Nat → Nat} {fl : FlagSet}
    (run : forward w.ff w.rm w.L (rowTable w.n (4096 / w.ff.width) w.read) [] 0 = (rowTable w.n (4096 / w.ff.width) c, fl)) :
    w.result = (tileRows w.dst w.L w.n w.ff.width (rowTable w.n (4096 / w.ff.width) c) ((List.range w.n).map (w.keeps c))
      (!w.spatialTags), fl) := by
  simp only [WCmd.result, kind, rows_read, run, spatialTags_eq, keepRows_rowTable]

theorem result_wstc (kind : w.kind = .wstc) (count : w.k = rank w.pres.getLsbD w.n) :
    w.result = (tileRows w.dst w.L w.n w.ff.width (rowTable w.n (4096 / w.ff.width) w.stored)
      ((List.range w.n).map fun j => w.keeps w.stored j && w.pres.getLsbD j) (!w.storedTags), 0) := by
  simp only [WCmd.result, kind, rows_read, rows_spread w count, storedTags_eq, keepRows_rowTable]
  rw [presList, List.zip_map', List.map_map]
  rfl

theorem result_wexp (kind : w.kind = .wexp) (count : w.k = rank w.pres.getLsbD w.n) :
    w.result = (tileRows w.dst w.L w.n w.ff.width (rowTable w.n (4096 / w.ff.width) w.stored) ((List.range w.n).map fun _ => true)
      (!w.storedTags), 0) := by
  simp only [WCmd.result, kind, rows_read, rows_spread w count, storedTags_eq, rowTable_map_true]

theorem result_winv (kind : w.kind = .winv) (count : w.k = rank w.pres.getLsbD w.n) {out : Nat → Nat → Nat} {fl : FlagSet}
    (run : inverse w.ff w.rm w.L ((rowTable w.n (4096 / w.ff.width) w.stored).take (w.n / 2 ^ w.L))
      ((rowTable w.n (4096 / w.ff.width) w.stored).drop (w.n / 2 ^ w.L)) 0 = (rowTable w.n (4096 / w.ff.width) out, fl)) :
    w.result = ((List.range w.n).map fun i =>
      (w.dst + i, ⟨ofElems w.ff.width (elemRow (4096 / w.ff.width) (out i)), if w.storedTags then tagS else tagX⟩), fl) := by
  simp only [WCmd.result, kind, rows_read, rows_spread w count, storedTags_eq, run]
  rw [rowTable, zipIdx_map_range, List.map_map]
  rfl

/-- The sum of an element of an approximation row and the bias row's (R150). -/
def WCmd.biased (w : WCmd) (j e : Nat) : Nat × FlagSet := w.ff.add w.rm (w.read j e) (elem w.ff.width w.bias.data e)

theorem result_wbias (kind : w.kind = .wbias) :
    w.result = ((List.range (w.n / 2 ^ w.L)).map fun j =>
        (w.dst + 1 + j, ⟨ofElems w.ff.width (elemRow (4096 / w.ff.width) fun e => (w.biased j e).1),
          if (w.row j).tag = BitVec.ofNat 4 (1 + w.L) then BitVec.ofNat 4 (1 + w.L) else tagX⟩),
      raisedBy (w.n / 2 ^ w.L) fun j => raisedBy (4096 / w.ff.width) fun e => (w.biased j e).2) := by
  have sums (j : Nat) : List.zipWith (w.ff.add w.rm) (elems w.ff.width (w.row j).data) (elems w.ff.width w.bias.data) =
      (List.range (4096 / w.ff.width)).map (w.biased j) := by
    rw [elems, elems, List.zipWith_map, List.zipWith_self]
    rfl
  have tags (t : Tag) : (if (t == BitVec.ofNat 4 (1 + w.L)) = true then t else tagX) =
      if t = BitVec.ofNat 4 (1 + w.L) then BitVec.ofNat 4 (1 + w.L) else tagX := by
    by_cases same : t = BitVec.ofNat 4 (1 + w.L) <;> simp [same]
  simp only [WCmd.result, kind, zipIdx_map_range, List.map_map, List.foldl_map, Function.comp_def, sums, tags]
  rfl

end

/-! ### Writes at T -/

/-- The rows of a command written one after another. -/
def Core.writeWave (c : Core) (l : List (Nat × Row)) : Core := l.foldl (fun c p => c.writeRow .wavelet (c.tk.base + p.1) p.2) c

theorem waveWrite_some {c : Core} {w : WCmd} (held : c.wave = some w) : c.waveWrite = { c.writeWave w.result.1 with wave := none } := by
  simp only [Core.waveWrite, held, Core.writeWave]

section
variable (l : List (Nat × Row)) (c : Core)

/-- Those writes leave the core's number and its registers alone. -/
theorem writeWave_keeps : (c.writeWave l).id = c.id ∧ (c.writeWave l).arch = c.arch := by
  induction l generalizing c with
  | nil => exact ⟨rfl, rfl⟩
  | cons p l ih =>
    obtain ⟨id, arch⟩ := ih (c.writeRow .wavelet (c.tk.base + p.1) p.2)
    exact ⟨id.trans (by rw [writeRow_frame]), arch.trans (by rw [writeRow_frame])⟩

theorem physRow_writeWave (distinct : (l.map (·.1)).Nodup) :
    (∀ r ∈ l, (c.writeWave l).physRow (c.tk.base + r.1) = r.2) ∧
    ∀ p, (∀ r ∈ l, p ≠ c.tk.base + r.1) → (c.writeWave l).physRow p = c.physRow p := by
  induction l generalizing c with
  | nil => exact ⟨fun r listed => absurd listed List.not_mem_nil, fun _ _ => rfl⟩
  | cons q l ih =>
    rw [List.map_cons, List.nodup_cons] at distinct
    obtain ⟨alone, distinct⟩ := distinct
    have base : (c.writeRow .wavelet (c.tk.base + q.1) q.2).tk.base = c.tk.base := by rw [writeRow_frame]; rfl
    obtain ⟨written, kept⟩ := ih (c.writeRow .wavelet (c.tk.base + q.1) q.2) distinct
    rw [base] at written kept
    refine ⟨fun r listed => ?_, fun p other => ?_⟩
    · rcases List.mem_cons.mp listed with rfl | later
      · refine (kept _ fun r later same => alone ?_).trans ((physRow_writeRow ..).trans (if_pos rfl))
        exact Nat.add_left_cancel same ▸ List.mem_map_of_mem later
      · exact written r later
    · refine (kept p fun r later => other r (List.mem_cons_of_mem _ later)).trans ((physRow_writeRow ..).trans (if_neg ?_))
      exact other q List.mem_cons_self

end

/-- A command's rows at T, in a core that holds it. -/
theorem waveWrite_rows {c : Core} {w : WCmd} (held : c.wave = some w) (distinct : (w.result.1.map (·.1)).Nodup) :
    c.waveWrite.wave = none ∧ c.waveWrite.arch = c.arch ∧ (∀ r ∈ w.result.1, c.waveWrite.physRow (c.tk.base + r.1) = r.2) ∧
      ∀ p, (∀ r ∈ w.result.1, p ≠ c.tk.base + r.1) → c.waveWrite.physRow p = c.physRow p := by
  obtain ⟨written, kept⟩ := physRow_writeWave w.result.1 c distinct
  rw [waveWrite_some held]
  exact ⟨rfl, (writeWave_keeps ..).2, written, kept⟩

theorem waveWrite_id (c : Core) : c.waveWrite.id = c.id := by
  cases held : c.wave with
  | none => simp only [Core.waveWrite, held]
  | some w =>
    rw [waveWrite_some held]
    exact (writeWave_keeps ..).1

/-! ### `wcnt` -/

theorem exec_wcnt {s : State} {a d : XReg} (compute : s.core.isSys = false) (wf : (Instr.wcnt a d).wf = true) :
    exec (.wcnt a d) s = .next (s.withRow (rowNum (s.getX a)) fun r =>
      s.produceX d (BitVec.ofNat 64 (r.data.toNat % 2 ^ 32)) (s.cycle + 3)) :=
  State.computeWord_next s (.wcnt a d) (fun s => s.withRow (rowNum (s.getX a)) fun r =>
    s.produceX d (BitVec.ofNat 64 (r.data.toNat % 2 ^ 32)) (s.cycle + 3)) compute wf

/-- Settles O20: the rows of a command land once each, and hold what R146 to R150 compute from the rows read. -/
theorem waveletResults : Obligations.WaveletResults := by
  unfold Obligations.WaveletResults
  refine ⟨fun s a d compute wf => ?wcnt, fun s k w held here distinct => ?writes, fun c w n held going => ?flags,
    fun w sizes => ?values⟩
  case wcnt =>
    intro n
    exact ⟨fun inside => ⟨_, (exec_wcnt compute wf).trans (congrArg _ (withRow_inside inside _)), produceX_arrives ..⟩,
      fun outside => (exec_wcnt compute wf).trans (congrArg _ (withRow_outside outside _))⟩
  case writes =>
    refine ⟨s.modCore k Core.waveWrite, rfl, ?_⟩
    have now : (s.modCore k Core.waveWrite).coreOf k = (s.coreOf k).waveWrite := by
      rw [coreOf_modCore _ _ _ _ ((waveWrite_id _).trans here), if_pos rfl]
    beta_reduce
    rw [now]
    exact ⟨rfl, waveWrite_rows held distinct⟩
  case flags => simp [Core.waveFlags, held, going]
  case values =>
    obtain ⟨-, -, -, -, whole⟩ := tileOk_iff.mp sizes
    obtain ⟨fl, transform, run⟩ := forward_transformed whole
    intro at_ hl spatial stored pres coef
    refine ⟨fun kind => ?wfwd, fun kind => ?wst, fun count => ⟨fun kind => ?wstc, fun kind => ?wexp, fun kind => ?winv⟩,
      fun kind => ?wbias⟩
    case wfwd =>
      have result := result_wfwd kind run
      exact ⟨w.transformed, by rw [result]; exact transform, storesTile_of_result sizes (by rw [result]; rfl)⟩
    case wst =>
      have result := result_wst kind run
      exact ⟨w.transformed, w.keeps w.transformed, by rw [result]; exact transform, keeps_spec w _,
        storesTile_of_result sizes (by rw [result]; rfl)⟩
    case wstc =>
      have result := result_wstc kind count
      exact ⟨w.keeps w.stored, keeps_spec w _, storesTile_of_result sizes (by rw [result]; rfl), by rw [result]⟩
    case wexp =>
      have result := result_wexp kind count
      exact ⟨storesTile_of_result sizes (by rw [result]; rfl), by rw [result]⟩
    case winv =>
      obtain ⟨out, fl, rebuilds, run⟩ := inverse_reconstruction whole (stored_absent w)
      rw [result_winv kind count run]
      exact ⟨out, rebuilds, by simp, fun i inside => ⟨_, List.mem_map.mpr ⟨i, List.mem_range.mpr inside, rfl⟩, rfl,
        fun e position => elem_ofElems_range _ (out i) position⟩⟩
    case wbias =>
      rw [result_wbias kind]
      refine ⟨by simp, fun b _ => ?_, fun j inside => ⟨_, List.mem_map.mpr ⟨j, List.mem_range.mpr inside, rfl⟩, rfl,
        fun e position => elem_ofElems_range _ (fun e => (w.biased j e).1) position⟩⟩
      simp only [raisedBy_getLsbD]
      exact ⟨fun ⟨j, inside, e, position, raised⟩ => ⟨j, e, inside, position, raised⟩,
        fun ⟨j, e, inside, position, raised⟩ => ⟨j, inside, e, position, raised⟩⟩

end Sys2Proof.Machine
end

section
/-! PROOFS. The spans of `mzero` and `mdrain`, and weight loads at issue (R157, R161, R166..R168). -/

namespace Sys2Proof.Machine

open Sys2Proof

/-! ### Spans of a bank (R166) -/

/-- A span of mx.7 without reserved bits that ends inside the bank is taken (R161, R166). -/
theorem withSpan_inside {s : State} {k : Nat → Nat → State} :
    let x := (s.core.arch.stg.toList.getD 39 0).toNat
    x < 2 ^ 15 → x % 256 + (x / 256 % 128 + 1) ≤ 256 → s.withSpan k = k (x % 256) (x / 256 % 128 + 1) := by
  intro x legal inside
  have staged : s.core.arch.getStg 2 7 = s.core.arch.stg.toList.getD 39 0 := getStg_eq_getD ..
  rw [State.withSpan, staged, if_neg (by rw [Nat.div_eq_of_lt legal]; exact fun h => h rfl), if_neg (Nat.not_lt.mpr inside)]

/-- A command with no row to push joins those in flight. -/
theorem commandJoins_alone (s : State) (m : MCmd) :
    CommandJoins s (s.onCore fun c => { c with mcmds := c.mcmds ++ [m], seq := c.seq + 1 }) m 0 0 :=
  ⟨rfl, fun e => by simp⟩

/-! ### Slots -/

theorem slot_modSlot_other (c : Core) {i j : Nat} (other : i % 64 ≠ j % 64) (f : WSlot → WSlot) :
    (c.modSlot i f).slot j = c.slot j := by
  simp [Core.modSlot, Core.slot, vget, vset, Vector.getElem?_setIfInBounds_ne other]

/-- A slot once a load has issued into it: LOADING in the load's B format, with the full image reserved (R157). -/
def WLoad.claims (w : WLoad) (sl : WSlot) : WSlot :=
  { sl with state := .loading, bfmt := BitVec.ofNat 4 (mfBf w.mfmt), cause := 0, gran := w.rows }

theorem startLoad_slots (s : State) (w : WLoad) (j : Nat) :
    (s.startLoad w).core.slot j = (s.core.modSlot w.slot w.claims).slot j := rfl

theorem startLoad_slot_same (s : State) (w : WLoad) : (s.startLoad w).core.slot w.slot = w.claims (s.core.slot w.slot) :=
  (startLoad_slots ..).trans (slot_modSlot_same ..)

theorem startLoad_slot_other (s : State) {w : WLoad} {j : Nat} (other : w.slot % 64 ≠ j % 64) :
    (s.startLoad w).core.slot j = s.core.slot j :=
  (startLoad_slots ..).trans (slot_modSlot_other _ other _)

theorem claims_bfmt {w : WLoad} (format : mfBf w.mfmt < 16) (sl : WSlot) : (w.claims sl).bfmt.toNat = mfBf w.mfmt :=
  (BitVec.toNat_ofNat ..).trans (Nat.mod_eq_of_lt format)

/-! ### Loads -/

/-- The stream load that a word or a pass asks for (R168, R169). -/
def State.streamedLoad (s : State) (slot : Nat) (mf h : Word) (n0 k0 : Nat) (ver : Option Nat) (cmd : Bool) : WLoad :=
  { seq := s.core.seq, slot := slot % 64, issue := s.cycle, stream := true, rows := imageRows (mfBf mf), hnd := h, n0, k0
    mfmt := mf, ver, cmd }

/-- With granules enough, the load asked for starts, and completes after a free time (R168). -/
theorem streamInto_streamedLoad {s : State} {slot n0 k0 : Nat} {mf h : Word} {ver : Option Nat} {cmd : Bool}
    (room : s.core.granShort (slot % 64) (imageRows (mfBf mf)) = false) : ∃ far fresh,
    s.streamInto slot mf h n0 k0 ver cmd =
      (({ s with far := far, fresh := fresh } : State).startLoad (s.streamedLoad slot mf h n0 k0 ver cmd)).schedFree .weight 1 ptPush
        (.weightLoadComplete s.core.id (slot % 64)) := by
  obtain ⟨far, fresh, learnt⟩ := learn_eq s h
  refine ⟨far, fresh, ?_⟩
  unfold State.streamInto
  rw [learnt]
  exact if_neg (by simp [room])

/-- A load starts, whatever free values have been drawn and whatever has been learnt of its object (R156, R167). -/
theorem loadStarts_startLoad (s : State) {w : WLoad} {far : List (Nat × Desc)} {fresh drawn done : Nat} (named : w.slot < 64)
    (format : mfBf w.mfmt < 16) :
    LoadStarts s
      { (({ s with far := far, fresh := fresh } : State).startLoad w).sched done ptPush (.weightLoadComplete s.core.id w.slot) with
        fresh := drawn } w done := by
  have claimed := startLoad_slot_same { s with far := far, fresh := fresh } w
  refine ⟨?_, congrArg WSlot.state claimed, (congrArg (fun sl => sl.bfmt.toNat) claimed).trans (claims_bfmt format _),
    congrArg WSlot.gran claimed, fun j inside other => startLoad_slot_other _ ?_⟩
  · have agenda := startLoad_agenda { s with far := far, fresh := fresh } w
    rw [← agenda]
    rfl
  · rw [Nat.mod_eq_of_lt named, Nat.mod_eq_of_lt inside]
    exact Ne.symm other

section
variable {s : State} {sl : XReg} (legal : mfBf s.core.arch.mfmt ≤ 6)
  (room : s.core.granShort sl.toNat (imageRows (mfBf s.core.arch.mfmt)) = false)
  (compute : s.core.isSys = false) (noError : s.core.merr = none)
include legal room compute noError

/-- `mwld` past its checks (R167). -/
theorem exec_mwld (wf : (Instr.mwld sl).wf = true) {src rows : Nat} (source : src = (s.core.arch.stg.toList.getD 38 0).toNat / 512)
    (size : rows = imageRows (mfBf s.core.arch.mfmt)) (inside : src + rows ≤ s.core.tk.rows) :
    exec (.mwld sl) s = .next
      ((s.startLoad { seq := s.core.seq, slot := sl.toNat, issue := s.cycle, stream := false, src, rows, mfmt := s.core.arch.mfmt }).sched
        (s.cycle + 4 + rows) ptPush (.weightLoadComplete s.core.id sl.toNat)) := by
  subst source size
  have staged : rowNum (s.core.arch.getStg 2 6) = (s.core.arch.stg.toList.getD 38 0).toNat / 512 := by
    rw [getStg_eq_getD, rowNum]
  refine (exec_matrixWord rfl compute wf noError).trans (congrArg Host.Outcome.next ?_)
  rw [staged, if_neg (Nat.not_lt.mpr legal), rowsIn_inside inside, if_neg (by simp [room])]

/-- `mwstr` past its checks (R168). -/
theorem exec_mwstr (wf : (Instr.mwstr sl).wf = true) :
    exec (.mwstr sl) s = .next (s.streamInto sl.toNat s.core.arch.mfmt (s.core.arch.stg.toList.getD 34 0)
      (s.core.arch.stg.toList.getD 35 0).toNat (s.core.arch.stg.toList.getD 36 0).toNat
      (s.core.pinOf (s.core.arch.stg.toList.getD 34 0)) true) := by
  refine (exec_matrixWord rfl compute wf noError).trans (congrArg Host.Outcome.next ?_)
  simp only [getStg_eq_getD, Nat.reduceMul, Nat.reduceAdd, if_neg (Nat.not_lt.mpr legal), room, Bool.false_eq_true, ↓reduceIte]

end

/-- Settles O21: the span of mx.7 is taken and the command joins, and a weight load past its checks starts. -/
theorem matrixCommands : Obligations.MatrixCommands := by
  unfold Obligations.MatrixCommands
  refine ⟨fun s b q compute noError => ?span, fun s sl compute noError => ?load⟩
  case span =>
    intro x row n legal inside
    exact ⟨⟨_, (exec_matrixWord rfl compute rfl noError).trans (congrArg _ (withSpan_inside legal inside)), commandJoins_alone s _⟩,
      ⟨_, (exec_matrixWord rfl compute rfl noError).trans (congrArg _ (withSpan_inside legal inside)),
        commandJoins_schedPushes s _ _ _ rfl⟩⟩
  case load =>
    intro mf rows src h legal fits
    have room : s.core.granShort sl.toNat rows = false := decide_eq_false (Nat.not_lt.mpr fits)
    have format : mfBf mf < 16 := Nat.lt_of_le_of_lt legal (by decide)
    refine ⟨fun wf inside => ?mwld, fun wf => ?mwstr⟩
    case mwld =>
      exact ⟨_, exec_mwld legal room compute noError wf rfl rfl inside,
        loadStarts_startLoad s (far := s.far) (fresh := s.fresh) (drawn := s.fresh) sl.isLt format⟩
    case mwstr =>
      have here : sl.toNat % 64 = sl.toNat := Nat.mod_eq_of_lt sl.isLt
      obtain ⟨far, fresh, starts⟩ := streamInto_streamedLoad (s := s) (slot := sl.toNat) (mf := mf) (h := h)
        (n0 := (s.core.arch.stg.toList.getD 35 0).toNat) (k0 := (s.core.arch.stg.toList.getD 36 0).toNat) (ver := s.core.pinOf h)
        (cmd := true) (by rw [here]; exact room)
      simp only [State.streamedLoad, here] at starts
      exact ⟨_, (exec_mwstr legal room compute noError wf).trans (congrArg _ starts), s.cycle + 1 + Config.delay .weight fresh,
        by omega, loadStarts_startLoad s sl.isLt format⟩

end Sys2Proof.Machine
end

section
/-! PROOFS. The state's focus on a core, and maps read past a selection by key. -/

namespace Sys2Proof.Machine

open Sys2Proof

/-- A map read after its entries have been selected by key. -/
theorem mget_filter_key {α : Type} (l : List (Nat × α)) (p : Nat → Bool) (k : Nat) :
    mget (l.filter fun e => p e.1) k = if p k = true then mget l k else none := by
  induction l with
  | nil => simp [mget]
  | cons e t ih =>
    obtain ⟨j, a⟩ := e
    by_cases kept : p j = true
    · rw [List.filter_cons_of_pos (p := fun e : Nat × α => p e.1) kept, mget, mget, ih]
      by_cases same : j = k
      · subst same; simp [kept]
      · simp [same]
    · rw [List.filter_cons_of_neg (p := fun e : Nat × α => p e.1) kept, mget, ih]
      by_cases same : j = k
      · subst same; simp [kept]
      · simp [same]

theorem focus_core (s : State) (i : Nat) : (s.focus i).core = s.coreOf i := by
  unfold State.focus
  split
  next here => exact (if_pos here).symm
  next => rfl

/-- The focus is a matter of which core stands apart: nothing else moves. -/
theorem focus_frame (s : State) (i : Nat) :
    s.focus i = { s with core := (s.focus i).core, parked := (s.focus i).parked } := by
  unfold State.focus; split <;> rfl

@[simp] theorem focus_agenda (s : State) (i : Nat) : (s.focus i).agenda = s.agenda := by rw [focus_frame]
@[simp] theorem focus_mem (s : State) (i : Nat) : (s.focus i).mem = s.mem := by rw [focus_frame]
@[simp] theorem focus_clock (s : State) (i : Nat) : (s.focus i).clock = s.clock := by rw [focus_frame]

theorem findCore_filter_ne (l : List Core) {i j : Nat} (other : j ≠ i) :
    findCore (l.filter fun c => c.id ≠ i) j = findCore l j := by
  rw [findCore, List.find?_filter]
  refine List.find?_congr fun c _ => ?_
  by_cases same : c.id = j
  · simp [same, other]
  · simp [same]

/-- Every core stands as before, whichever is in focus. -/
theorem coreOf_focus (s : State) (i j : Nat) : (s.focus i).coreOf j = s.coreOf j := by
  by_cases here : s.core.id = i
  · rw [State.focus, if_pos here]
  · rw [State.focus, if_neg here]
    by_cases same : j = i
    · subst same
      exact if_pos (coreOf_id s j)
    · refine (if_neg (by rw [coreOf_id]; exact Ne.symm same)).trans ?_
      show (findCore (parkCore (s.parked.filter fun c => c.id ≠ i) s.core) j).getD _ = _
      rw [findCore_parkCore, findCore_filter_ne _ same]
      by_cases was : j = s.core.id
      · rw [if_pos was]
        exact (if_pos was.symm).symm
      · rw [if_neg was]
        exact (if_neg (Ne.symm was)).symm

end Sys2Proof.Machine
end

section
/-! PROOFS. `mstat` (R170), final rows and their queues (R158, R159, R166), and weight loads that complete (R156, R168). -/

namespace Sys2Proof.Machine

open Sys2Proof

/-! ### `mstat` -/

theorem exec_mstat {s : State} {w : Bool} {d : XReg} {sel : BitVec 8} {v : Word} (compute : s.core.isSys = false)
    (noError : s.core.merr = none) (wf : (Instr.mstat w d sel).wf = true) (value : s.core.mstatValue sel.toNat = some v) :
    exec (.mstat w d sel) s = .next
      (if w = true then (s.awaitX d).onCore fun c => { c with mwaits := c.mwaits ++ [(d, sel.toNat, c.seq)] }
       else s.produceX d v (s.cycle + 2)) := by
  refine (exec_matrixWord rfl compute wf noError).trans (congrArg Host.Outcome.next ?_)
  rw [value]

/-! ### Final rows -/

/-- Row k of a command as it is pushed: its result, or the bank's row of a drain, C where that is zeroed (R155, R166). -/
def MCmd.finalOf (m : MCmd) (a : Arch) (k : Nat) : Row :=
  match m.kind with
  | .drain => (mget a.acc (m.bank * 256 + (m.accRow + k))).getD ⟨0, tagC⟩
  | _ => (mget m.outs k).getD {}

section
variable {c : Core} {m : MCmd} {q : BitVec 2}

theorem finalOf_mul (mul : m.kind = .mul) (a : Arch) (k : Nat) : m.finalOf a k = (mget m.outs k).getD {} := by
  rw [MCmd.finalOf, mul]

theorem finalOf_drain (drain : m.kind = .drain) (a : Arch) (k : Nat) :
    m.finalOf a k = (mget a.acc (m.bank * 256 + (m.accRow + k))).getD ⟨0, tagC⟩ := by
  rw [MCmd.finalOf, drain]

/-- A row enters a queue with room at its end (R158). -/
theorem pushRow_room (room : (c.arch.rq.toList.getD q.toNat []).length < 64) (r : Row) (cyc : Nat) :
    c.pushRow q r cyc =
      { c with arch := { c.arch with rq := c.arch.rq.setIfInBounds q.toNat (c.arch.rq.toList.getD q.toNat [] ++ [r]) } } := by
  rw [Core.pushRow, vget_eq_getD, if_pos room]
  rfl

/-- A final row raises its flags, is counted, and enters its queue (R158, R163). -/
theorem finalRow_room (push : m.push = some q) (room : (c.arch.rq.toList.getD q.toNat []).length < 64) (k cyc : Nat) :
    c.finalRow m k cyc = { c with
      arch := { c.arch with
        flags := c.arch.flags ||| (mget m.flags k).getD 0
        rq := c.arch.rq.setIfInBounds q.toNat (c.arch.rq.toList.getD q.toNat [] ++ [m.finalOf c.arch k]) }
      mcmds := c.mcmds.map fun n => if n.seq = m.seq then { n with left := n.left - 1 } else n } := by
  unfold Core.finalRow
  rw [push]
  exact pushRow_room (c := { c with
      arch := { c.arch with flags := c.arch.flags ||| (mget m.flags k).getD 0 }
      mcmds := c.mcmds.map fun n => if n.seq = m.seq then { n with left := n.left - 1 } else n }) room _ _

end

/-- While no row is held, a final row of a command in flight takes its effect in its cycle (R159, R163). -/
theorem exec_resultRowPush {s : State} {k seq j : Nat} {m : MCmd}
    (named : (s.coreOf k).mcmds.find? (fun m => m.seq = seq) = some m) (free : (s.coreOf k).held = false) :
    exec (.resultRowPush k seq j) s = .next (s.putCore ((s.coreOf k).finalRow m j s.cycle)) := by
  show Host.Outcome.next (s.modCore k _) = _
  unfold State.modCore
  beta_reduce
  rw [named]
  simp only [free, Bool.false_eq_true, ↓reduceIte]

/-! ### `mzero` -/

/-- The only command in flight, an `mzero`, clears its span and is complete (R166). -/
theorem matrixTick_zero {c : Core} {m : MCmd} {cyc : Nat} (only : c.mcmds = [m]) (zero : m.kind = .zero) (due : m.start + 1 ≤ cyc) :
    (c.matrixTick cyc).mcmds = [] ∧ ∀ e, mget (c.matrixTick cyc).arch.acc e =
      if m.bank * 256 + m.accRow ≤ e ∧ e < m.bank * 256 + m.accRow + m.mrows then none else mget c.arch.acc e := by
  have idle : m.rowAt cyc = none := by simp [MCmd.rowAt, zero]
  have tick : (c.matrixTick cyc).mcmds = [] ∧ (c.matrixTick cyc).arch.acc = c.arch.acc.filter fun e =>
      !(m.bank * 256 + m.accRow ≤ e.1 && e.1 < m.bank * 256 + m.accRow + m.mrows) := by
    unfold Core.matrixTick
    simp only [only, List.foldl_cons, List.foldl_nil, idle, zero, due, and_self, ↓reduceIte, List.filter_cons, List.filter_nil, ne_eq,
      not_true_eq_false, decide_false, Bool.false_eq_true]
  obtain ⟨complete, cleared⟩ := tick
  refine ⟨complete, fun e => ?_⟩
  rw [cleared, mget_filter_key c.arch.acc fun e => !(m.bank * 256 + m.accRow ≤ e && e < m.bank * 256 + m.accRow + m.mrows)]
  simp only [Bool.not_eq_true', ← Bool.decide_and, decide_eq_false_iff_not, ite_not]

/-! ### Held rows (R159) -/

/-- Steps scheduled one after another touch the agenda alone. -/
theorem foldl_sched_frame {α : Type} (l : List α) (s : State) (cyc : α → Nat) (pt : Nat) (i : α → Instr) :
    ∃ agenda, l.foldl (fun s a => s.sched (cyc a) pt (i a)) s = { s with agenda := agenda } := by
  induction l generalizing s with
  | nil => exact ⟨s.agenda, rfl⟩
  | cons a l ih =>
    obtain ⟨agenda, later⟩ := ih (s.sched (cyc a) pt (i a))
    exact ⟨agenda, later⟩

theorem putCore_of_agenda (s : State) (l : List (Nat × Instr)) (c : Core) :
    ({ s with agenda := l } : State).putCore c = { s.putCore c with agenda := l } := by
  unfold State.putCore
  dsimp only
  split <;> rfl

/-- When the engine pushes again, no push waits any more; else only what is scheduled differs. -/
theorem pushAgain_eq (s : State) (k d : Nat) :
    ∃ agenda, s.pushAgain k d = { s.putCore { s.coreOf k with pushHeld := [] } with agenda := agenda } := by
  obtain ⟨agenda, scheduled⟩ := foldl_sched_frame (s.coreOf k).pushHeld
    (({ s with agenda := (s.agenda.map (delayPush k d)).foldl (fun l e => agendaPut l e.1 e.2) [] } : State).modCore k
      fun c => { c with pushHeld := [] }) (fun w => w.1 + d) ptPush fun w => .resultRowPush k w.2.1 w.2.2
  refine ⟨agenda, scheduled.trans ?_⟩
  rw [State.modCore, putCore_of_agenda]
  rfl

/-- A core whose held row has entered its queue. -/
def Core.heldEnters (c : Core) (q : BitVec 2) (r : Row) : Core :=
  { c with arch := { c.arch with
      rq := c.arch.rq.setIfInBounds q.toNat (c.arch.rq.toList.getD q.toNat [] ++ [r])
      hold := c.arch.hold.setIfInBounds q.toNat none } }

/-- A held row enters its queue once there is room, its overflow has been raised, and the core has resumed (R159). -/
theorem exec_heldRowEntersQueue {s : State} {k : Nat} {q : BitVec 2} {r : Row}
    (held : (s.coreOf k).arch.hold.toList.getD q.toNat none = some r)
    (room : ((s.coreOf k).arch.rq.toList.getD q.toNat []).length < 64) (raised : (s.coreOf k).ovf = none)
    (resumed : (s.coreOf k).state ≠ .halted) :
    exec (.heldRowEntersQueue k q) s = .next
      ((s.modCore k fun c => c.heldEnters q r).pushAgain k (s.cycle - (s.coreOf k).heldAt)) := by
  show execHeldRowEntersQueue k q s = _
  have enters : ¬ (64 ≤ ((s.coreOf k).arch.rq.toList.getD q.toNat []).length ∨ (s.coreOf k).ovf.isSome = true ∨
      (s.coreOf k).state = .halted) := by
    rintro (full | due | halted)
    · omega
    · rw [raised] at due; cases due
    · exact resumed halted
  unfold execHeldRowEntersQueue State.event
  simp only [vget_eq_getD, held, if_neg enters]
  rfl

/-- Once a held row has entered, no push waits behind it any more. -/
theorem heldEnters_pushAgain {s : State} {k d : Nat} {q : BitVec 2} {r : Row} :
    ∃ agenda, (s.modCore k fun c => c.heldEnters q r).pushAgain k d =
      { s.putCore { (s.coreOf k).heldEnters q r with pushHeld := [] } with agenda := agenda } := by
  obtain ⟨agenda, again⟩ := pushAgain_eq (s.modCore k fun c => c.heldEnters q r) k d
  have entered : (s.modCore k fun c => c.heldEnters q r).coreOf k = (s.coreOf k).heldEnters q r :=
    (coreOf_modCore _ _ _ _ (coreOf_id ..)).trans (if_pos rfl)
  refine ⟨agenda, again.trans ?_⟩
  rw [entered, State.modCore, putCore_putCore]
  rfl

/-! ### Weight loads -/

theorem pokeTile_none {s : State} {k : Nat} (single : (s.coreOf k).mtile = none) : s.pokeTile k = s := by
  rw [State.pokeTile, single]

/-- A core whose load of a slot has ended with an image (R156). -/
def Core.loadEnds (c : Core) (slot : Nat) (rows : List (Nat × Vec)) : Core :=
  Core.slotReady { c with wloads := c.wloads.filter fun o => o.slot ≠ slot } slot rows

/-- An `mwld` completes with the rows read (R156, R167). -/
theorem exec_weightLoadComplete_window {s : State} {k j : Nat} {w : WLoad}
    (named : (s.coreOf k).wloads.find? (fun w => w.slot = j) = some w) (window : w.stream = false)
    (single : (s.coreOf k).mtile = none) :
    exec (.weightLoadComplete k j) s = .next (s.putCore ((s.coreOf k).loadEnds j w.got)) := by
  have ended : (s.putCore ((s.coreOf k).loadEnds j w.got)).coreOf k = (s.coreOf k).loadEnds j w.got :=
    (coreOf_putCore ..).trans (if_pos (coreOf_id s k).symm)
  have idle : ((s.putCore ((s.coreOf k).loadEnds j w.got)).coreOf k).mtile = none := by rw [ended]; exact single
  show execWeightLoadComplete k j s = _
  unfold execWeightLoadComplete State.event
  simp only [named, window, Bool.false_and, Bool.false_eq_true, ↓reduceIte]
  exact congrArg Host.Outcome.next (pokeTile_none idle)

/-- The slot of a load that has ended is READY, and holds the rows that are not all zero (R156, R157). -/
theorem loadEnds_slot (c : Core) (slot : Nat) (rows : List (Nat × Vec)) :
    (c.loadEnds slot rows).slot slot =
      { c.slot slot with state := .ready, image := rows.filter (fun r => r.2 ≠ 0), gran := (rows.filter fun r => r.2 ≠ 0).length } :=
  slot_modSlot_same ..

end Sys2Proof.Machine
end

section
/-! PROOFS. Passes of an `mtile` (R169), and the matrix engine's status and own steps together (R156, R158, R159, R166..R170). -/

namespace Sys2Proof.Machine

open Sys2Proof

/-- A command as a pass of an `mtile` starts: that of the `mtile` knows its pass and the cycle of its first row (R169). -/
def MCmd.runsPass (m : MCmd) (x : MTile) (cyc : Nat) : MCmd :=
  if m.seq = x.seq then { m with pass := x.next, sigma := cyc } else m

theorem runsPass_seq (m : MCmd) (x : MTile) (cyc : Nat) : (m.runsPass x cyc).seq = m.seq := by
  unfold MCmd.runsPass; split <;> rfl

theorem runsPass_mrows (m : MCmd) (x : MTile) (cyc : Nat) : (m.runsPass x cyc).mrows = m.mrows := by
  unfold MCmd.runsPass; split <;> rfl

/-- A core once the next pass of its `mtile` has started in a cycle: the command knows its pass, and the sequencer looks at the pass
after it 128 cycles later, where there is one (R169). -/
def Core.passStarts (c : Core) (x : MTile) (cyc : Nat) : Core :=
  { c with
    mcmds := c.mcmds.map (·.runsPass x cyc)
    mtile := if x.next + 1 < x.total then some { x with next := x.next + 1, sigma := cyc + 128 } else none }

section
variable {s : State} {k : Nat} {x : MTile}

/-- The state as the next pass of a core's `mtile` starts, before it asks for the tile of the pass after it. -/
def State.atPass (s : State) (k : Nat) (x : MTile) : State := s.modCore k fun c => c.passStarts x s.cycle

theorem atPass_coreOf : (s.atPass k x).coreOf k = (s.coreOf k).passStarts x s.cycle :=
  (coreOf_modCore _ _ _ _ (coreOf_id ..)).trans (if_pos rfl)

theorem atPass_mem : (s.atPass k x).mem = s.mem := modCore_mem ..
theorem atPass_cycle : (s.atPass k x).cycle = s.cycle := congrArg (· / 16) (modCore_clock ..)

theorem tilePass_eq : s.tilePass k x =
    let u := s.atPass k x
    if x.next + 1 < x.total then
      let v := (u.focus k).streamInto (x.slot + (x.next + 1) % 2) x.mfmt x.hnd x.n0
        (x.k0 + (x.next + 1) * ((classB x.mfmt).getD .h16).depth) x.ver false
      (v.focus u.core.id).sched (v.cycle + 128) ptPush (.mtilePassStart k)
    else
      match (u.coreOf k).mcmds.find? fun m => m.seq = x.seq with
      | some m => u.schedPushes k x.seq (u.cycle + 18) m.mrows
      | none => u := rfl

/-- A pass starts once its slot is READY and its cycle has come (R169). -/
theorem exec_mtilePassStart_ready (running : (s.coreOf k).mtile = some x) (due : x.sigma ≤ s.cycle)
    (going : (s.coreOf k).state ≠ .stopping) (ready : ((s.coreOf k).slot (x.slot + x.next % 2)).state = .ready) :
    exec (.mtilePassStart k) s = .next (s.tilePass k x) := by
  show execMtilePassStart k s = _
  unfold execMtilePassStart State.event
  simp only [running, if_neg (Nat.not_lt.mpr due), if_neg going, ready]

/-- A FAILED slot stops the `mtile`, and its cause stays pending (R169). -/
theorem exec_mtilePassStart_failed (running : (s.coreOf k).mtile = some x) (due : x.sigma ≤ s.cycle)
    (going : (s.coreOf k).state ≠ .stopping) (failed : ((s.coreOf k).slot (x.slot + x.next % 2)).state = .failed) :
    exec (.mtilePassStart k) s = .next (s.putCore
      (let w := (s.coreOf k).slot (x.slot + x.next % 2)
       { s.coreOf k with
         mtile := none, mcmds := (s.coreOf k).mcmds.filter (fun m => m.seq ≠ x.seq), merr := some ⟨w.cause, w.hnd, w.aux⟩ })) := by
  show execMtilePassStart k s = _
  unfold execMtilePassStart State.event
  simp only [running, if_neg (Nat.not_lt.mpr due), if_neg going, failed]
  rfl

/-- The command of the `mtile` is found by its number as before, with as many rows. -/
theorem passStarts_find {c : Core} {m : MCmd} (cyc : Nat) (named : c.mcmds.find? (fun m => m.seq = x.seq) = some m) :
    ∃ n, (c.passStarts x cyc).mcmds.find? (fun m => m.seq = x.seq) = some n ∧ n.mrows = m.mrows := by
  have keeps : ((fun n : MCmd => decide (n.seq = x.seq)) ∘ fun n : MCmd => n.runsPass x cyc) =
      fun n => decide (n.seq = x.seq) := funext fun n => by rw [Function.comp, runsPass_seq]
  refine ⟨m.runsPass x cyc, ?_, runsPass_mrows ..⟩
  rw [Core.passStarts, List.find?_map, keeps, named]
  rfl

/-! ### The last pass -/

/-- Of the core, the last pass changes what the start of any pass does. -/
theorem tilePass_last_core (last : x.next + 1 = x.total) : (s.tilePass k x).coreOf k = (s.coreOf k).passStarts x s.cycle := by
  have ends : ¬ x.next + 1 < x.total := by omega
  rw [tilePass_eq]
  dsimp only
  rw [if_neg ends]
  split
  next m _ =>
    obtain ⟨frame, -⟩ := schedPushes_spec (s.atPass k x) k x.seq ((s.atPass k x).cycle + 18) m.mrows
    rw [frame]
    exact atPass_coreOf
  next => exact atPass_coreOf

/-- Row i of the last pass is final 18 cycles after it enters (R169). -/
theorem tilePass_last_rows (last : x.next + 1 = x.total) {m : MCmd}
    (named : (s.coreOf k).mcmds.find? (fun m => m.seq = x.seq) = some m) {i : Nat} (row : i < m.mrows) :
    ((s.cycle + 18 + i) * 16 + ptPush, Instr.resultRowPush k x.seq i) ∈ (s.tilePass k x).agenda := by
  have ends : ¬ x.next + 1 < x.total := by omega
  obtain ⟨n, same, rows⟩ := passStarts_find s.cycle named
  obtain ⟨-, members⟩ := schedPushes_spec (s.atPass k x) k x.seq (s.cycle + 18) n.mrows
  rw [tilePass_eq]
  dsimp only
  rw [if_neg ends, atPass_coreOf, same, atPass_cycle]
  exact (members _).mpr (.inr ⟨i, rows ▸ row, rfl⟩)

/-! ### A pass before the last -/

/-- A pass before the last asks for the weight tile of the pass after it, and its sequencer looks again 128 cycles later (R169). -/
theorem tilePass_next {cls : WClass} (more : x.next + 1 < x.total) (format : classB x.mfmt = some cls)
    (room : (s.coreOf k).granShort ((x.slot + (x.next + 1) % 2) % 64) (imageRows (mfBf x.mfmt)) = false) :
    ∃ (u : State) (w : WLoad) (due : Nat), u.core = (s.coreOf k).passStarts x s.cycle ∧
      w = u.streamedLoad (x.slot + (x.next + 1) % 2) x.mfmt x.hnd x.n0 (x.k0 + (x.next + 1) * cls.depth) x.ver false ∧
      s.cycle < due ∧ (s.tilePass k x).coreOf k = (u.startLoad w).core ∧ (s.tilePass k x).mem = s.mem ∧
      (s.tilePass k x).agenda = agendaPut
        (agendaPut (u.startLoad w).agenda (due * 16 + ptPush) (.weightLoadComplete k w.slot))
        ((s.cycle + 128) * 16 + ptPush) (.mtilePassStart k) := by
  have core : ((s.atPass k x).focus k).core = (s.coreOf k).passStarts x s.cycle := (focus_core ..).trans atPass_coreOf
  have id_ : ((s.atPass k x).focus k).core.id = k := by rw [core]; exact coreOf_id s k
  have clock : ((s.atPass k x).focus k).cycle = s.cycle := (congrArg (· / 16) (focus_clock ..)).trans atPass_cycle
  have fits : ((s.atPass k x).focus k).core.granShort ((x.slot + (x.next + 1) % 2) % 64) (imageRows (mfBf x.mfmt)) = false := by
    rw [core]; exact room
  obtain ⟨far, fresh, starts⟩ := streamInto_streamedLoad (h := x.hnd) (n0 := x.n0) (k0 := x.k0 + (x.next + 1) * cls.depth)
    (ver := x.ver) (cmd := false) fits
  have is := tilePass_eq (s := s) (k := k) (x := x)
  simp only [if_pos more, format, Option.getD_some, starts] at is
  refine ⟨{ (s.atPass k x).focus k with far := far, fresh := fresh }, _, s.cycle + 1 + Config.delay .weight fresh, core, rfl, by omega,
    ?_, ?_, ?_⟩
  · rw [is]
    refine (coreOf_focus ..).trans (if_pos id_)
  · rw [is]
    exact (focus_mem ..).trans ((focus_mem ..).trans atPass_mem)
  · rw [is]
    refine (congrArg (agendaPut · _ _) (focus_agenda ..)).trans ?_
    rw [← clock, schedFree_agenda, id_]
    rfl

end

/-- Settles O23: each word or step does to its core what its lemma says, and touches the parts of the state that it names. -/
theorem matrixStatusAndEvents : Obligations.MatrixStatusAndEvents := by
  unfold Obligations.MatrixStatusAndEvents
  refine ⟨fun s d sel v compute noError value => ?mstat, fun s k seq j q here => ?steps⟩
  case mstat =>
    refine ⟨fun wf => ⟨_, exec_mstat compute noError wf value, produceX_arrives ..⟩,
      fun wf => ⟨_, exec_mstat compute noError wf value, ?_⟩⟩
    rw [if_pos rfl, awaitX_eq]
    rfl
  case steps =>
    intro c
    refine ⟨fun m named mul push free room => ?product, fun m named drain push none_ free room => ?drained,
      fun m cyc only zero due => ?zeroed, fun r held room raised resumed => ?entered, fun w named window single inside => ?loaded,
      fun x running due going ready last => ?lastPass, fun x cls running due going ready more format room => ?pass,
      fun x running due going failed => ?stopped⟩
    case product =>
      refine ⟨_, exec_resultRowPush named free, ?_⟩
      rw [finalRow_room push room, finalOf_mul mul]
    case drained =>
      have quiet : c.arch.flags ||| (mget m.flags j).getD 0 = c.arch.flags := by
        rw [none_]
        exact BitVec.or_zero
      refine ⟨_, exec_resultRowPush named free, ?_⟩
      rw [finalRow_room push room, finalOf_drain drain, quiet]
    case zeroed => exact matrixTick_zero only zero due
    case entered =>
      obtain ⟨agenda, entered⟩ := heldEnters_pushAgain (s := s) (k := k) (d := s.cycle - c.heldAt) (q := q) (r := r)
      have now : ((s.modCore k fun c => c.heldEnters q r).pushAgain k (s.cycle - c.heldAt)).coreOf k =
          { c.heldEnters q r with pushHeld := [] } := by
        rw [entered]
        exact (coreOf_putCore ..).trans (if_pos here.symm)
      refine ⟨_, exec_heldRowEntersQueue held room raised resumed, ?_⟩
      beta_reduce
      rw [now]
      exact ⟨rfl, rfl, rfl, entered ▸ rfl⟩
    case loaded =>
      have now : (s.putCore (c.loadEnds j w.got)).coreOf k = c.loadEnds j w.got := (coreOf_putCore ..).trans (if_pos here.symm)
      have slot := loadEnds_slot c j w.got
      refine ⟨_, exec_weightLoadComplete_window named window single, ?_⟩
      beta_reduce
      rw [now, slot]
      exact ⟨rfl, rfl, rfl, rfl, rfl⟩
    case lastPass =>
      refine ⟨_, exec_mtilePassStart_ready running due (by rw [going]; decide) ready, ?_⟩
      beta_reduce
      rw [tilePass_last_core last]
      exact ⟨if_neg (by omega), rfl, fun m named i row => tilePass_last_rows last named row⟩
    case pass =>
      intro n
      obtain ⟨u, _, again, core, rfl, later, now, mem, agenda⟩ := tilePass_next (s := s) (k := k) more format room
      have loading := startLoad_slot u (u.streamedLoad (x.slot + (x.next + 1) % 2) x.mfmt x.hnd x.n0
        (x.k0 + (x.next + 1) * cls.depth) x.ver false)
      refine ⟨_, exec_mtilePassStart_ready running due (by rw [going]; decide) ready, ?_⟩
      beta_reduce
      rw [now, agenda]
      refine ⟨?_, ?_, loading, ⟨_, List.mem_append_right _ (List.mem_singleton.mpr rfl), rfl, rfl, rfl, rfl, rfl, rfl, rfl⟩,
        (agendaPut_mem ..).mpr (.inl rfl), ⟨again, later, (agendaPut_mem ..).mpr (.inr ((agendaPut_mem ..).mpr (.inl rfl)))⟩, ?_, mem⟩
      · exact (congrArg Core.mtile core).trans (if_pos more)
      · exact congrArg Core.mcmds core
      · exact (congrArg Core.rows core :)
    case stopped =>
      exact ⟨_, exec_mtilePassStart_failed running due going failed, rfl⟩

end Sys2Proof.Machine
end

section
/-! PROOFS. What accesses to objects leave alone besides memory: requests to other packages, and what is known of the sectors that they
serve (R184, R199). -/

namespace Sys2Proof.Machine

open Sys2Proof

/-! ### Moves of objects compose -/

/-- `t` with what `s` had sent to other packages and knew of their sectors. -/
def State.sameOuter (s t : State) : State :=
  { t with outbox := s.outbox, sent := s.sent, via := s.via, farMem := s.farMem, farDue := s.farDue }

theorem MemoryMoves.under {t u : State} (h : MemoryMoves t u) (s : State) : MemoryMoves (s.sameOuter t) (s.sameOuter u) :=
  ⟨congrArg s.sameOuter h.1, h.2.1, h.2.2.1, h.2.2.2⟩

theorem objectMoves_iff {s t : State} : ObjectMoves s t ↔ MemoryMoves s (s.sameOuter t) := by
  constructor
  · rintro ⟨m, moves, rest⟩
    have back : s.sameOuter t = m := by rw [rest, moves.1]; rfl
    rwa [back]
  · exact fun moves => ⟨s.sameOuter t, moves, rfl⟩

theorem ObjectMoves.trans {s t u : State} (h : ObjectMoves s t) (k : ObjectMoves t u) : ObjectMoves s u :=
  objectMoves_iff.mpr ((objectMoves_iff.mp h).trans ((objectMoves_iff.mp k).under s))

theorem MemoryMoves.object {s t : State} (h : MemoryMoves s t) : ObjectMoves s t := ⟨t, h, rfl⟩

theorem ObjectMoves.refl (s : State) : ObjectMoves s s := (MemoryMoves.refl s).object

theorem Below.object {s t : State} (h : Below s t) : ObjectMoves s t := h.moves.object

/-- A read that may learn of other packages' sectors. -/
theorem Below.objectFar {s t : State} (h : Below s (s.sameFar t)) : ObjectMoves s t := ⟨_, h.moves, rfl⟩

theorem ObjectMoves.fold {α : Type} (l : List α) (f : State → α → State) (hf : ∀ s a, ObjectMoves s (f s a)) (s : State) :
    ObjectMoves s (l.foldl f s) := by
  induction l generalizing s with
  | nil => exact .refl s
  | cons a l ih => exact (hf s a).trans (ih _)

theorem ObjectMoves.cycle_eq {s t : State} (h : ObjectMoves s t) : t.cycle = s.cycle := by
  obtain ⟨m, moves, rest⟩ := h
  rw [rest, moves.1]; rfl

theorem ObjectMoves.core {s t : State} (h : ObjectMoves s t) : CoreMoves s.core t.core := by
  obtain ⟨m, moves, rest⟩ := h
  rw [rest]; exact moves.2.1

/-! ### Requests -/

section
variable (s : State) (q : Requester) (h : Word) (d : Desc)

theorem post_moves (pkg core : Nat) (b : PacketBody) (port : Option Nat) : ObjectMoves s (s.post pkg core b port) := ⟨s, .refl s, rfl⟩

theorem send_moves (pkg core : Nat) (b : PacketBody) : ObjectMoves s (s.send pkg core b) := post_moves ..

theorem toPackage_moves (pkg core : Nat) (b : PacketBody) : ObjectMoves s (s.toPackage pkg core b) := by
  unfold State.toPackage
  cases packetLoad b with
  | none => exact post_moves ..
  | some load => exact (below_sched ..).object.trans (post_moves ..)

theorem askFar_moves (o : Nat) (cs : List Nat) (op : Nat) (data : Vec) (ver : Option Nat) :
    ObjectMoves s (s.askFar q h d o cs op data ver) := by
  unfold State.askFar
  cases s.holder h d o with
  | none => exact .refl s
  | some t => exact toPackage_moves ..

theorem askLoad_moves (cs : List Nat) (op : Nat) (ver : Option Nat) (t : Target) : ObjectMoves s (s.askLoad q h cs op ver t) :=
  ObjectMoves.fold _ _ (fun _ _ => askFar_moves ..) s

theorem askSectors_moves (ver : Option Nat) (l : List (Nat × Nat)) : ObjectMoves s (s.askSectors q h d ver l) :=
  ObjectMoves.fold _ _ (fun _ _ => askFar_moves ..) s

end

/-- No request leaves for sectors that this package serves. -/
theorem farSectors_here {l : List Served} (here : ∀ y ∈ l, ∃ x we, y = .ok x we) : farSectors l = [] := by
  refine List.filterMap_eq_nil_iff.mpr fun y mem => ?_
  obtain ⟨x, we, rfl⟩ := here y mem
  rfl

theorem farSlices_here {l : List Served} (here : ∀ y ∈ l, ∃ x we, y = .ok x we) (bit n v : Nat) : farSlices l bit n v = [] := by
  refine List.filterMap_eq_nil_iff.mpr fun p mem => ?_
  obtain ⟨x, we, is⟩ := here p.1 (List.fst_mem_of_mem_zipIdx mem)
  rw [is]

theorem Uncached.here {s : State} {l : List Served} (stored : Uncached s l) : ∀ y ∈ l, ∃ x we, y = .ok x we := fun y mem => by
  obtain ⟨x, we, is, -⟩ := stored y mem
  exact ⟨x, we, is⟩

/-! ### Times and values of loads (R33) -/

theorem loadDue_moves (s : State) (l : List Served) : ObjectMoves s (s.loadDue l).2 := by
  unfold State.loadDue
  split
  · exact .refl s
  · dsimp only
    split
    · exact ⟨_, (below_fresh s (s.fresh + 1)).moves, rfl⟩
    · exact (below_fresh ..).object

theorem loadDue_later (s : State) (l : List Served) : s.cycle < (s.loadDue l).1 := by
  unfold State.loadDue
  split
  · exact Nat.lt_add_of_pos_right (by decide)
  · exact Nat.lt_of_lt_of_le (Nat.lt_succ_self s.cycle) (Nat.le_add_right ..)

theorem logIssue_valueLog {c d : Core} (h : CoreMoves c d) (reg cyc : Nat) :
    (d.logIssue reg cyc).valueLog = (c.logIssue reg cyc).valueLog := by
  rw [h.1]
  unfold Core.logIssue
  split <;> rfl

/-- A producer empties its register, discards the earlier writes to it, and is scheduled: nothing else changes. -/
theorem produce_frame (s : State) (v : Arrival) (due : Nat) : s.produce v due = { s with
    core := { s.core with
      arch := (match v with | .x r _ => s.core.arch.markX r (r = 0) | .v r _ _ => s.core.arch.markV r false)
      pend := s.core.pend.filter (fun p => match v with | .x r _ => !p.hitsX r | .v r _ _ => !p.hitsV r)
      varOut := s.core.varOut + 1
      valueLog := (s.core.logIssue (Arrival.reg v) s.cycle).valueLog }
    agenda := agendaPut s.agenda (due * 16 + ptLand) (.valueArrives s.core.id v) } := by
  have logged := logIssue_frame s.core (Arrival.reg v) s.cycle
  cases v with
  | x r w => exact produceX_arrives s r w due
  | v r d g =>
    unfold State.produce State.produceV State.onCore
    dsimp only
    change s.core.logIssue (64 + r.toNat) s.cycle = _ at logged
    rw [logged]
    rfl

/-- After moves of objects, a produced value is on its way. -/
theorem produce_of_moves {s m : State} (moved : ObjectMoves s m) {due : Nat} (later : s.cycle < due) (v : Arrival) :
    LoadOnItsWay s (m.produce v due) v due := by
  have core := moved.core
  have same : m.core.id = s.core.id := core.id_eq
  have arch : m.core.arch = s.core.arch := by rw [core.1]
  have pend : m.core.pend = s.core.pend := by rw [core.1]
  have varOut : m.core.varOut = s.core.varOut := by rw [core.1]
  have made := produce_frame m v due
  rw [arch, pend, varOut, logIssue_valueLog core, moved.cycle_eq, same] at made
  rw [made]
  exact ⟨later, (agendaPut_mem ..).mpr (.inl rfl), m, moved, rfl⟩

end Sys2Proof.Machine
end

section
/-! PROOFS. Loads through handles (R195): one operation serves both words. -/

namespace Sys2Proof.Machine

open Sys2Proof

theorem with8_ok {s : State} {h : Word} {i : XReg} {o : Op8} {t : Target} (home : hHome h = s.pkg) (resolved : s.resolve8 h i o = .ok t)
    (k : Target → State → State) : s.with8 h i o k = k t s := by
  simp [State.with8, learn_of_home home, resolved]

/-- A load of a run or of an element: `op` is its number in a request to another package, `v` what it makes of the bits read. -/
def State.loadBits (s : State) (h : Word) (i : XReg) (o : Op8) (op : Nat) (v : Target → Nat → Arrival) : State :=
  s.with8 h i o fun t s =>
    let (due, s) := (s.askLoad s.asker h (s.tuple i t.d.rank) op (s.core.pinOf h) t).loadDue t.span
    match s.readBits s.core.id true t.span t.bit t.n with
    | (.ok n, s) => s.produce (v t n) due
    | (.error pa, s) => s.fault 0x18 (BitVec.ofNat 64 pa) (s.core.prestart.zeroExtend 64)

theorem loadRun_eq (s : State) (d : VCode) (h : Word) (i : XReg) :
    s.loadRun d h i = s.loadBits h i { need := 1, run := true } 0 fun _ n => .v d (BitVec.ofNat 4096 n) tagS := rfl

theorem loadElem_eq (s : State) (d : XReg) (h : Word) (i : XReg) :
    s.loadElem d h i = s.loadBits h i { need := 1 } 2 fun t n => .x d (elemWord t.d.fmt t.d.w n) := rfl

theorem exec_hld {s : State} (compute : s.core.isSys = false) {d : VCode} {h i : XReg} {e : Bool} (wf : (Instr.hld d h i e).wf = true) :
    exec (.hld d h i e) s = .next (s.loadRun d (s.getX h) i) :=
  State.computeWord_next s _ (fun s => s.loadRun d (s.getX h) i) compute wf

theorem exec_hlds {s : State} (compute : s.core.isSys = false) {d : XReg} {h i : XReg} {e : Bool} (wf : (Instr.hlds d h i e).wf = true) :
    exec (.hlds d h i e) s = .next (s.loadElem d (s.getX h) i) :=
  State.computeWord_next s _ (fun s => s.loadElem d (s.getX h) i) compute wf

/-! ### Sectors that the L1 holds (R269) -/

theorem inL1_cons {s : State} {y : Sector × Bool × Mask} {l : List (Sector × Bool × Mask)} (live : InL1 s (y :: l)) : InL1 s l :=
  fun z mem => live z (List.mem_cons_of_mem _ mem)

theorem reachOk_of_sectorOk {s : State} {x : Sector} (ok : s.sectorOk x = true) (c : Nat) : s.reachOk c x = true := by
  obtain ⟨addr, on⟩ : s.addrOk x = true ∧ s.ctlOn x.line = true := by simpa [State.sectorOk] using ok
  simp [State.reachOk, addr, on]

theorem l1All_live {s : State} {l : List (Sector × Bool × Mask)} (live : InL1 s l) :
    s.l1All (l.map fun y => .ok y.1 y.2.1) = true := by
  refine List.all_eq_true.mpr fun y mem => ?_
  obtain ⟨z, here, rfl⟩ := List.mem_map.mp mem
  obtain ⟨ok, -, memory, cached, still, hit⟩ := live z here
  simp [reachOk_of_sectorOk ok, memory, cached, still, hit]

/-- A live copy serves a core's read, and nothing changes. -/
theorem readSector_live {s : State} {x : Sector} {m : Mask} (ok : s.sectorOk x = true) (allowed : s.refusedAt s.core.id x = false)
    (memory : paSpace x.pa ≠ 2) (cached : x.home ≠ 1) (still : s.migrated x.line = (x.line, false))
    (hit : s.l1Hit s.core.id x.line = some m) (cls : Nat) : s.readSector s.core.id x true cls = (some m, s) := by
  rw [State.readSector, if_neg (by simp [reachOk_of_sectorOk ok, allowed]), if_neg memory, forwarded_still still]
  simp [cached, hit]

theorem readServed_live {s : State} {l : List (Sector × Bool × Mask)} (live : InL1 s l) (cls : Nat) :
    s.readServed s.core.id true cls false (l.map fun y => .ok y.1 y.2.1) = (.ok (packNat 512 (l.map fun y => y.2.2.toNat)), s) := by
  induction l with
  | nil => rfl
  | cons y l ih =>
    obtain ⟨ok, allowed, memory, cached, still, hit⟩ := live y (List.mem_cons_self ..)
    have first := readSector_live ok allowed memory cached still hit cls
    rw [List.map_cons, List.map_cons, packNat, Nat.mod_eq_of_lt y.2.2.isLt]
    simp only [State.readServed, first, ih (inL1_cons live)]

/-! ### Reads of a span -/

/-- A span is read sector by sector, and the bits asked for are taken from it. -/
theorem readBits_of_readServed {s t : State} {c : Nat} {l1 own : Bool} {l : List Served} {n : Nat}
    (read : ∀ cls, s.readServed c l1 cls own l = (.ok n, t)) (bit w : Nat) :
    s.readBits c l1 l bit w own = (.ok (n / 2 ^ (bit % 512) % 2 ^ w), t) := by
  unfold State.readBits
  rw [read]

theorem readServed_stored_class {s : State} {l : List Served} (stored : Uncached s l) :
    ∃ t, Reports s t ∧ ∀ cls, s.readServed s.core.id true cls false l = (.ok (storedSpan s l), t) := by
  induction l generalizing s with
  | nil => exact ⟨s, .refl s, fun _ => rfl⟩
  | cons y l ih =>
    obtain ⟨x, we, rfl, here⟩ := stored y (List.mem_cons_self ..)
    have metered := meterLine_reports s x.line false (some s.core.id)
    obtain ⟨t, later, rest⟩ := ih (metered.uncached fun z mem => stored z (List.mem_cons_of_mem _ mem))
    have same : (s.meterLine x.line false (some s.core.id)).core.id = s.core.id := by rw [metered.1]
    simp only [same, metered.storedSpan] at rest
    refine ⟨t, metered.trans later, fun cls => ?_⟩
    rw [storedSpan_cons]
    simp only [State.readServed, readSector_stored here, rest]

section
variable {s : State} {h : Word} {i : XReg} {o : Op8} {t : Target} (home : hHome h = s.pkg) (resolved : s.resolve8 h i o = .ok t)
  (op : Nat) (v : Target → Nat → Arrival)
include home resolved

/-- Whatever the read returns is on its way. -/
theorem loadBits_onItsWay {n : Nat} {m : State}
    (read : ((s.askLoad s.asker h (s.tuple i t.d.rank) op (s.core.pinOf h) t).loadDue t.span).2.readBits s.core.id true t.span t.bit t.n =
      (.ok n, m)) : ∃ due, LoadOnItsWay s (s.loadBits h i o op v) (v t n) due := by
  have asked := askLoad_moves s s.asker h (s.tuple i t.d.rank) op (s.core.pinOf h) t
  have timed := asked.trans (loadDue_moves _ t.span)
  have later := loadDue_later (s.askLoad s.asker h (s.tuple i t.d.rank) op (s.core.pinOf h) t) t.span
  rw [asked.cycle_eq] at later
  rw [State.loadBits, with8_ok home resolved]
  generalize (s.askLoad s.asker h (s.tuple i t.d.rank) op (s.core.pinOf h) t).loadDue t.span = r at *
  obtain ⟨due, u⟩ := r
  have same : u.core.id = s.core.id := timed.core.id_eq
  have moved := timed.trans (Below.objectFar (below_readBits u s.core.id true t.span t.bit t.n false))
  dsimp only at read moved
  rw [read] at moved
  dsimp only
  rw [same, read]
  exact ⟨due, produce_of_moves moved later _⟩

/-- From the L1 the value comes 9 cycles after issue. -/
theorem loadBits_live {l : List (Sector × Bool × Mask)} (span : t.span = l.map fun y => .ok y.1 y.2.1) (live : InL1 s l) :
    s.loadBits h i o op v =
      s.produce (v t (packNat 512 (l.map fun y => y.2.2.toNat) / 2 ^ (t.bit % 512) % 2 ^ t.n)) (s.cycle + 9) := by
  have here : ∀ y ∈ t.span, ∃ x we, y = .ok x we := fun y mem => by
    rw [span] at mem
    obtain ⟨z, -, rfl⟩ := List.mem_map.mp mem
    exact ⟨_, _, rfl⟩
  have asks : s.askLoad s.asker h (s.tuple i t.d.rank) op (s.core.pinOf h) t = s := by
    rw [State.askLoad, farSectors_here here]; rfl
  have due : s.loadDue t.span = (s.cycle + 9, s) := by rw [State.loadDue, span, if_pos (l1All_live live)]
  have read := readBits_of_readServed (fun cls => readServed_live live cls) t.bit t.n
  rw [State.loadBits, with8_ok home resolved, asks, due]
  dsimp only
  rw [span, read]

/-- From stored bytes that no cache holds the value comes later, and nothing else changes but reports and the free values drawn. -/
theorem loadBits_stored (stored : Uncached s t.span) :
    let u := s.loadBits h i o op v
    ∃ due, LoadOnItsWay s u (v t (storedSpan s t.span / 2 ^ (t.bit % 512) % 2 ^ t.n)) due ∧
      u = { s with core := u.core, agenda := u.agenda, fresh := u.fresh } ∧ u.core.rows = s.core.rows := by
  have asks : s.askLoad s.asker h (s.tuple i t.d.rank) op (s.core.pinOf h) t = s := by
    rw [State.askLoad, farSectors_here stored.here]; rfl
  obtain ⟨due, n, later, delay⟩ := loadDue_stored stored
  obtain ⟨u, ⟨frame, kept⟩, served⟩ := readServed_stored_class (s := { s with fresh := n }) stored
  have read := readBits_of_readServed served t.bit t.n
  rw [State.loadBits, with8_ok home resolved, asks, delay]
  dsimp only
  rw [read, frame]
  obtain ⟨way, only⟩ := produce_onItsWay (s := s) kept n later (v t (storedSpan s t.span / 2 ^ (t.bit % 512) % 2 ^ t.n))
  refine ⟨due, way, only, ?_⟩
  dsimp only
  rw [produce_frame]

end

/-- Settles O24: each word is a load of bits, whose value comes from the L1, from stored bytes, or from wherever its span is read. -/
theorem handleLoads : Obligations.HandleLoads := by
  unfold Obligations.HandleLoads
  intro s h i e t compute home bits
  refine ⟨fun d wf resolved => ⟨fun v m read => ?_, fun l span live => ?_, fun stored => ?_⟩,
    fun d wf resolved => ⟨fun v m read => ?_, fun l span live => ?_, fun stored => ?_⟩⟩
  · exact ⟨_, (exec_hld compute wf).trans (by rw [loadRun_eq]), loadBits_onItsWay home resolved 0 _ read⟩
  · exact ⟨_, (exec_hld compute wf).trans (by rw [loadRun_eq, loadBits_live home resolved 0 _ span live]), produce_frame ..⟩
  · exact ⟨_, (exec_hld compute wf).trans (by rw [loadRun_eq]), loadBits_stored home resolved 0 _ stored⟩
  · exact ⟨_, (exec_hlds compute wf).trans (by rw [loadElem_eq]), loadBits_onItsWay home resolved 2 _ read⟩
  · exact ⟨_, (exec_hlds compute wf).trans (by rw [loadElem_eq, loadBits_live home resolved 2 _ span live]; rfl), produceX_arrives ..⟩
  · exact ⟨_, (exec_hlds compute wf).trans (by rw [loadElem_eq]), loadBits_stored home resolved 2 _ stored⟩

end Sys2Proof.Machine
end

section
/-! PROOFS. Stores through handles (R194, R195). -/

namespace Sys2Proof.Machine

open Sys2Proof

theorem below_writeHere (s : State) (q : Requester) (h : Word) (d : Desc) (l : List Served) (bit n v : Nat) :
    Below s (s.writeHere q h d l bit n v) :=
  Below.fold _ _ (fun s i => by
    cases l.getD i .missing with
    | ok x we => exact (below_cow s h d _).trans (below_writeSector ..)
    | missing => exact .refl s
    | remote => exact .refl s) s

/-- A write of sectors that this package serves asks nothing of another. -/
theorem writeBits_here {l : List Served} (here : ∀ y ∈ l, ∃ x we, y = .ok x we) (s : State) (q : Requester) (h : Word) (d : Desc)
    (bit n v : Nat) : s.writeBits q h d l bit n v = s.writeHere q h d l bit n v := by
  rw [State.writeBits, farSlices_here here]; rfl

theorem exec_hst {s : State} (compute : s.core.isSys = false) {d : VCode} {h i : XReg} {e : Bool} (wf : (Instr.hst d h i e).wf = true) :
    exec (.hst d h i e) s = .next (s.vectorOut d h i fun v => s.storeBits (s.getX h) i true v.toNat) :=
  State.computeWord_next s _ (fun s => s.vectorOut d h i fun v => s.storeBits (s.getX h) i true v.toNat) compute wf

theorem exec_hsts {s : State} (compute : s.core.isSys = false) {d h i : XReg} {e : Bool} (wf : (Instr.hsts d h i e).wf = true) :
    exec (.hsts d h i e) s = .next (s.storeBits (s.getX h) i false (s.getX d).toNat) :=
  State.computeWord_next s _ (fun s => s.storeBits (s.getX h) i false (s.getX d).toNat) compute wf

section
variable {s : State} {h : Word} {i : XReg} {run : Bool} {t : Target} (home : hHome h = s.pkg)
  (resolved : s.resolve8 h i { need := 2, run, write := true } = .ok t) (v : Nat)
include home resolved

theorem storeBits_here (here : ∀ y ∈ t.span, ∃ x we, y = .ok x we) :
    s.storeBits h i run v = s.writeHere s.asker h t.d t.span t.bit t.n v := by
  rw [State.storeBits, with8_ok home resolved, writeBits_here here]
  rfl

theorem storeBits_moves (here : ∀ y ∈ t.span, ∃ x we, y = .ok x we) : MemoryMoves s (s.storeBits h i run v) := by
  rw [storeBits_here home resolved v here]
  exact (below_writeHere ..).moves

/-- Onto stored bytes the bits of the element or run alone change. -/
theorem storeBits_stored (stored : Uncached s t.span) (alone : WritesAlone s h t.bit t.span) :
    StoredAs s (s.storeBits h i run v) t.span fun k j old =>
      let at_ := 512 * (t.bit / 512 + k) + j
      if t.bit ≤ at_ ∧ at_ < t.bit + t.n then v.testBit (at_ - t.bit) else old := by
  rw [storeBits_here home resolved v stored.here]
  exact (writeHere_stored rfl stored alone t.d t.n v).storedAs fun k m j _ inside => spanWrite_getLsbD t.bit t.n v k m inside

end

/-- A coefficient is no value for an object (R194), where the index tuple fits the registers (R13). -/
theorem vectorOut_domain {s : State} {d : VCode} {h i : XReg} (tagged : (Tag.isH (s.getV d).tag || Tag.isX (s.getV d).tag) = true)
    (fits : i.toNat + (s.desc (s.getX h)).rank ≤ 64) (k : Vec → State) :
    s.vectorOut d h i k = s.fault 0x05 (domainInfo (d.toNat, (s.getV d).tag)) := by
  have short : s.tupleOver (s.getX h) i = false := by
    rw [State.tupleOver, decide_eq_false (by omega), Bool.false_and]
  simp only [State.vectorOut, tagged, short, Bool.not_false, Bool.and_self, ↓reduceIte]

/-- Settles O25: a vector in the spatial domain and a scalar are stored by one operation, and a coefficient stops before it. -/
theorem handleStores : Obligations.HandleStores := by
  unfold Obligations.HandleStores
  intro s h i e t compute home put
  refine ⟨fun d wf hH hX resolved => ⟨fun here => ?_, fun stored alone => ?_⟩,
    fun d wf resolved => ⟨fun here => ?_, fun stored alone => ?_⟩, fun d wf tagged fits => ?_⟩
  · exact ⟨_, (exec_hst compute wf).trans (by rw [vectorOut_spatial hH hX]), storeBits_moves home resolved _ here⟩
  · exact ⟨_, (exec_hst compute wf).trans (by rw [vectorOut_spatial hH hX]), storeBits_stored home resolved _ stored alone⟩
  · exact ⟨_, exec_hsts compute wf, storeBits_moves home resolved _ here⟩
  · exact ⟨_, exec_hsts compute wf, storeBits_stored home resolved _ stored alone⟩
  · rw [exec_hst compute wf, vectorOut_domain tagged fits]

end Sys2Proof.Machine
end

section
/-! PROOFS. A copy for a version (R202) leaves where requests are served: the key ids that a die refuses (R287) and, but for lines that
wait for their copy, the pages under migration (R278). -/

namespace Sys2Proof.Machine

open Sys2Proof

/-- A page under migration as requests see it: what is held of it may grow. -/
structure MigrationGoesOn (m n : Migration) : Prop where
  page : n.page = m.page
  dest : n.dest = m.dest
  next : n.next = m.next
  held : ∀ i ∈ m.held, i ∈ n.held

theorem MigrationGoesOn.refl (m : Migration) : MigrationGoesOn m m := ⟨rfl, rfl, rfl, fun _ mem => mem⟩

theorem MigrationGoesOn.trans {l m n : Migration} (h : MigrationGoesOn l m) (k : MigrationGoesOn m n) : MigrationGoesOn l n :=
  ⟨k.page.trans h.page, k.dest.trans h.dest, k.next.trans h.next, fun i mem => k.held i (h.held i mem)⟩

/-- What each die refuses, and the pages that it has under migration, stand for requests as before. -/
structure RequestsStand (s t : State) : Prop where
  refuses : ∀ d, (t.die d).refuses = (s.die d).refuses
  migs    : ∀ d, List.Forall₂ MigrationGoesOn (s.die d).migs (t.die d).migs

theorem RequestsStand.of_dies {s t : State} (same : t.dies = s.dies) : RequestsStand s t := by
  have die (d : Nat) : t.die d = s.die d := by unfold State.die; rw [same]
  exact ⟨fun d => by rw [die], fun d => by rw [die]; exact List.forall₂_same.mpr fun m _ => .refl m⟩

theorem RequestsStand.refl (s : State) : RequestsStand s s := .of_dies rfl

theorem RequestsStand.trans {s t u : State} (h : RequestsStand s t) (k : RequestsStand t u) : RequestsStand s u :=
  ⟨fun d => (k.refuses d).trans (h.refuses d), fun d => List.forall₂_iff_get.mpr (by
    obtain ⟨len, each⟩ := List.forall₂_iff_get.mp (h.migs d)
    obtain ⟨len', each'⟩ := List.forall₂_iff_get.mp (k.migs d)
    exact ⟨len.trans len', fun i hi hj => (each i hi (len ▸ hi)).trans (each' i (len ▸ hi) hj)⟩)⟩

theorem RequestsStand.fold {α : Type} (l : List α) (f : State → α → State) (hf : ∀ s a, RequestsStand s (f s a)) (s : State) :
    RequestsStand s (l.foldl f s) := by
  induction l generalizing s with
  | nil => exact .refl s
  | cons a l ih => exact (hf s a).trans (ih _)

theorem die_modDie (s : State) (d i : Nat) (f : Die → Die) :
    (s.modDie d f).die i = if i = d ∧ d < 24 then f (s.die d) else s.die i := by
  have read : (s.modDie d f).die i = vget (vset s.dies d (f (s.die d))) i {} := rfl
  rw [read, vget, vset, Vector.getElem?_setIfInBounds]
  by_cases same : d = i
  · subst same
    by_cases inside : d < 24
    · simp [inside]
    · simp [State.die, vget, inside]
  · rw [if_neg same, if_neg fun c => same c.1.symm]
    rfl

theorem RequestsStand.modDie (s : State) (d : Nat) (f : Die → Die) (refuses : (f (s.die d)).refuses = (s.die d).refuses)
    (migs : List.Forall₂ MigrationGoesOn (s.die d).migs (f (s.die d)).migs) : RequestsStand s (s.modDie d f) := by
  have each (i : Nat) : ((s.modDie d f).die i).refuses = (s.die i).refuses ∧
      List.Forall₂ MigrationGoesOn (s.die i).migs ((s.modDie d f).die i).migs := by
    rw [die_modDie]
    split
    next here => obtain ⟨rfl, -⟩ := here; exact ⟨refuses, migs⟩
    next => exact ⟨rfl, (RequestsStand.refl s).migs i⟩
  exact ⟨fun i => (each i).1, fun i => (each i).2⟩

/-- An update of a die that leaves both alone. -/
theorem RequestsStand.modDie_same (s : State) (d : Nat) (f : Die → Die) (refuses : ∀ die, (f die).refuses = die.refuses)
    (migs : ∀ die, (f die).migs = die.migs) : RequestsStand s (s.modDie d f) :=
  .modDie s d f (refuses _) (by rw [migs]; exact List.forall₂_same.mpr fun m _ => .refl m)

/-! ### Accesses below the handle unit -/

theorem undoLog_dies (s : State) (line : Nat) : (s.undoLog line).dies = s.dies := by
  unfold State.undoLog
  split
  · rfl
  · extract_lets
    split
    · rfl
    · split <;> rfl

theorem meterLine_dies (s : State) (line : Nat) (write : Bool) (who : Option Nat) : (s.meterLine line write who).dies = s.dies := by
  rw [(meterLine_reports ..).1]

theorem ctlWrite_dies (s : State) (line : Nat) (d : Mask) (who : Option Nat) : (s.ctlWrite line d who).dies = s.dies := by
  unfold State.ctlWrite
  split
  · exact (meterLine_dies ..).trans (undoLog_dies s line)
  · rfl

theorem moveSector_dies (s : State) (key src dst : Nat) : (s.moveSector key src dst).dies = s.dies := by
  unfold State.moveSector
  extract_lets
  split
  · exact (ctlWrite_dies ..).trans (meterLine_dies ..)
  · exact undoLog_dies ..

theorem invalidateAt_stands (s : State) (d base k : Nat) : RequestsStand s (s.invalidateAt d base k) := by
  unfold State.invalidateAt
  extract_lets hit lines s1 s2
  have written : RequestsStand s s1 := RequestsStand.fold _ _ (fun s l => by
    split
    · exact .of_dies (ctlWrite_dies ..)
    · exact .refl s) s
  have dropped : RequestsStand s1 s2 := .modDie_same s1 d _ (fun _ => rfl) fun _ => rfl
  exact (written.trans dropped).trans (.of_dies rfl)

theorem forwarded_stands (s : State) (line : Nat) : RequestsStand s (s.forwarded line).2 := by
  unfold State.forwarded
  split
  · exact .refl s
  · extract_lets page i
    split
    · exact .refl s
    · extract_lets dest s1
      have moved : RequestsStand s s1 := by
        refine (RequestsStand.of_dies (moveSector_dies s ..)).trans (RequestsStand.modDie _ _ _ rfl ?_)
        refine List.forall₂_map_right_iff.mpr (List.forall₂_same.mpr fun m _ => ?_)
        split
        · exact ⟨rfl, rfl, rfl, fun j mem => List.mem_cons_of_mem _ mem⟩
        · exact .refl m
      exact moved

theorem purgePage_stands (s : State) (line : Nat) : RequestsStand s (s.purgePage line) := by
  refine RequestsStand.fold _ _ (fun s d => ?_) s
  refine (invalidateAt_stands s d line 10).trans (.modDie_same _ d _ (fun die => ?_) fun die => ?_) <;> rfl

theorem copySectors_stands (s : State) (src dst : Nat) : RequestsStand s (s.copySectors src dst) := by
  refine RequestsStand.fold _ _ (fun s i => ?_) s
  have moved := forwarded_stands s (src + i)
  split
  · exact .of_dies (ctlWrite_dies ..)
  · split
    rename_i l s1 at_
    rw [at_] at moved
    exact moved.trans (.of_dies ((ctlWrite_dies ..).trans (meterLine_dies ..)))

theorem versions_stands (s : State) (p : List (Nat × Nat)) (k : List KeptVer) : RequestsStand s { s with pool := p, kept := k } :=
  .of_dies rfl

theorem cow_stands (s : State) (h : Word) (d : Desc) (o : Nat) : RequestsStand s (s.cow h d o) := by
  unfold State.cow
  extract_lets slot page
  split
  · exact .refl s
  · split
    · extract_lets src to_ s1 leaf
      have copied : RequestsStand s s1 := (purgePage_stands ..).trans (copySectors_stands ..)
      clear_value s1
      exact copied.trans (versions_stands ..)
    · exact .refl s

/-! ### What still holds of a request -/

theorem forall₂_find? {α : Type} {r : α → α → Prop} {p : α → Bool} (same : ∀ a b, r a b → p b = p a) {l m : List α}
    (related : List.Forall₂ r l m) : Option.Rel r (l.find? p) (m.find? p) := by
  induction related with
  | nil => exact .none
  | cons ab _ ih =>
    rw [List.find?_cons, List.find?_cons, same _ _ ab]
    split
    · exact .some ab
    · exact ih

theorem rel_findSome? {α β : Type} {r : β → β → Prop} {f g : α → Option β} (related : ∀ a, Option.Rel r (f a) (g a)) (l : List α) :
    Option.Rel r (l.findSome? f) (l.findSome? g) := by
  induction l with
  | nil => exact .none
  | cons a l ih =>
    rw [List.findSome?_cons, List.findSome?_cons]
    have first := related a
    generalize f a = x at first
    generalize g a = y at first
    cases first with
    | none => exact ih
    | some xy => exact .some xy

theorem dies_toList (s : State) : s.dies.toList = (List.range 24).map s.die := by
  refine List.ext_getElem (by simp) fun i here _ => ?_
  have inside : i < 24 := by simpa using here
  simp [State.die, vget, inside]

section
variable {s t : State} (stands : RequestsStand s t)
include stands

theorem RequestsStand.refusedAt_eq (c : Nat) (x : Sector) : t.refusedAt c x = s.refusedAt c x := by
  unfold State.refusedAt
  rw [stands.refuses]

/-- A line that a request finds at its place is found there still. -/
theorem RequestsStand.still {line : Nat} (still : s.migrated line = (line, false)) : t.migrated line = (line, false) := by
  have found : Option.Rel MigrationGoesOn
      (s.dies.toList.findSome? fun d => d.migs.find? fun m => m.page = lineSector line / 1024)
      (t.dies.toList.findSome? fun d => d.migs.find? fun m => m.page = lineSector line / 1024) := by
    rw [dies_toList, dies_toList, List.findSome?_map, List.findSome?_map]
    exact rel_findSome? (fun d => forall₂_find? (fun m n on => by rw [on.page]) (stands.migs d)) _
  unfold State.migrated at still ⊢
  generalize s.dies.toList.findSome? _ = a at found still
  generalize t.dies.toList.findSome? _ = b at found
  cases found with
  | none => rfl
  | some on =>
    rename_i m n
    dsimp only at still ⊢
    by_cases copied : line % 1024 < m.next ∨ m.held.contains (line % 1024) = true
    · rw [if_pos copied] at still
      have after : line % 1024 < n.next ∨ n.held.contains (line % 1024) = true := by
        rcases copied with before | held
        · exact .inl (by rwa [on.next])
        · exact .inr (List.contains_iff_mem.mpr (on.held _ (List.contains_iff_mem.mp held)))
      rw [if_pos after, on.dest, still]
    · rw [if_neg copied] at still
      cases still

end

theorem Below.addrOk_eq {s t : State} (h : Below s t) (x : Sector) : t.addrOk x = s.addrOk x := by
  rw [h.moves.1]; rfl

theorem Below.sectorOk_eq {s t : State} (h : Below s t) (x : Sector) : t.sectorOk x = s.sectorOk x := by
  rw [State.sectorOk, h.addrOk_eq, h.ctlOn_eq]; rfl

end Sys2Proof.Machine
end

section
/-! PROOFS. The bits of a sector that an atomic replaces (R197, R198). -/

namespace Sys2Proof.Machine

open Sys2Proof

/-- A number with w bits at `lo` replaced, the rest above and below in place. -/
theorem testBit_withField (m lo w z j : Nat) :
    (2 ^ lo * (2 ^ w * (m / 2 ^ lo / 2 ^ w) + z % 2 ^ w) + m % 2 ^ lo).testBit j =
      if lo ≤ j ∧ j < lo + w then z.testBit (j - lo) else m.testBit j := by
  rw [Nat.testBit_two_pow_mul_add _ (Nat.mod_lt _ (Nat.two_pow_pos lo)), Nat.testBit_two_pow_mul_add _ (Nat.mod_lt _ (Nat.two_pow_pos w))]
  by_cases low : j < lo
  · rw [if_pos low, if_neg (by omega), Nat.testBit_mod_two_pow]
    simp [low]
  · by_cases field : j - lo < w
    · rw [if_neg low, if_pos field, if_pos (by omega), Nat.testBit_mod_two_pow]
      simp [field]
    · rw [if_neg low, if_neg field, if_neg (by omega), Nat.testBit_div_two_pow, Nat.testBit_div_two_pow]
      congr 1
      omega

theorem testBit_replaceField (m lo w z j : Nat) : (m - m / 2 ^ lo % 2 ^ w * 2 ^ lo + z % 2 ^ w * 2 ^ lo).testBit j =
    if lo ≤ j ∧ j < lo + w then z.testBit (j - lo) else m.testBit j := by
  rw [← testBit_withField]
  congr 1
  have low := Nat.div_add_mod m (2 ^ lo)
  have field := Nat.div_add_mod (m / 2 ^ lo) (2 ^ w)
  have whole : m = 2 ^ lo * (2 ^ w * (m / 2 ^ lo / 2 ^ w)) + 2 ^ lo * (m / 2 ^ lo % 2 ^ w) + m % 2 ^ lo := by
    rw [← Nat.mul_add, field, low]
  rw [Nat.mul_add, Nat.mul_comm (m / 2 ^ lo % 2 ^ w), Nat.mul_comm (z % 2 ^ w)]
  omega

/-- An atomic replaces the bits of its element alone. -/
theorem atomicOnSector_getLsbD (op : AtomicOp) (w fmt lo v new : Nat) (m : Mask) {j : Nat} (inside : j < 512) :
    (atomicOnSector op w fmt lo v new m).getLsbD j =
      if lo ≤ j ∧ j < lo + w then (atomicFn op w fmt (m.toNat / 2 ^ lo % 2 ^ w) v new).testBit (j - lo) else m.getLsbD j := by
  rw [atomicOnSector, BitVec.getLsbD_ofNat, testBit_replaceField, decide_eq_true inside, Bool.true_and, BitVec.testBit_toNat]

/-- An element of a sector as its bits say. -/
theorem field_congr {a b : Mask} {lo w : Nat}
    (same : ∀ j, lo ≤ j → j < lo + w → j < 512 → a.getLsbD j = b.getLsbD j) : a.toNat / 2 ^ lo % 2 ^ w = b.toNat / 2 ^ lo % 2 ^ w := by
  refine Nat.eq_of_testBit_eq fun j => ?_
  rw [Nat.testBit_mod_two_pow, Nat.testBit_mod_two_pow, Nat.testBit_div_two_pow, Nat.testBit_div_two_pow, BitVec.testBit_toNat,
    BitVec.testBit_toNat]
  by_cases field : j < w
  · by_cases inside : j + lo < 512
    · rw [same (j + lo) (by omega) (by omega) inside]
    · rw [BitVec.getLsbD_of_ge a _ (by omega), BitVec.getLsbD_of_ge b _ (by omega)]
  · simp [field]

/-- Atomics on different elements of one sector, in any order: each element takes what its own atomic leaves in it. -/
theorem atomicsOnSector_getLsbD (op : AtomicOp) {w : Nat} (fmt : Nat) (operand : Nat → Nat) (some_ : 0 < w) (l : List Nat)
    (different : l.Nodup) (m : Mask) {j : Nat} (inside : j < 512) :
    (l.foldl (fun m k => atomicOnSector op w fmt (k * w) (operand k) 0 m) m).getLsbD j =
      if j / w ∈ l then (atomicFn op w fmt (m.toNat / 2 ^ (j / w * w) % 2 ^ w) (operand (j / w)) 0).testBit (j % w) else m.getLsbD j := by
  have place := Nat.div_add_mod' j w
  have part := Nat.mod_lt j some_
  induction l generalizing m with
  | nil => simp
  | cons k l ih =>
    obtain ⟨fresh, different⟩ := List.nodup_cons.mp different
    have mine : (k * w ≤ j ∧ j < k * w + w) ↔ j / w = k := by
      rw [Nat.div_eq_iff some_, and_congr_right_iff]
      omega
    rw [List.foldl_cons, ih different]
    by_cases first : j / w = k
    · subst first
      rw [if_neg fresh, if_pos (List.mem_cons_self ..), atomicOnSector_getLsbD _ _ _ _ _ _ _ inside, if_pos (mine.mpr rfl)]
      congr 1
      omega
    · have other : ∀ i, j / w * w ≤ i → i < j / w * w + w → i < 512 →
          (atomicOnSector op w fmt (k * w) (operand k) 0 m).getLsbD i = m.getLsbD i := fun i from_ to_ here => by
        rw [atomicOnSector_getLsbD _ _ _ _ _ _ _ here, if_neg fun c => first ?_]
        rw [← Nat.div_eq_of_lt_le c.1 (by rw [Nat.succ_mul]; exact c.2)]
        exact (Nat.div_eq_of_lt_le from_ (by rw [Nat.succ_mul]; exact to_)).symm
      by_cases later : j / w ∈ l
      · rw [if_pos later, if_pos (List.mem_cons_of_mem _ later)]
        rw [field_congr other]
      · rw [if_neg later, if_neg (by simp [first, later])]
        exact other j (by omega) (by omega) inside

end Sys2Proof.Machine
end

section
/-! PROOFS. Atomics on one element (R197): the value that each word leaves, and the sector that it leaves it in (R268, R285). -/

namespace Sys2Proof.Machine

open Sys2Proof

/-! ### Values -/

theorem toInt_eq_intOfPat {w v : Nat} (some_ : 0 < w) (inside : v < 2 ^ w) : (BitVec.ofNat w v).toInt = intOfPat w true v := by
  rw [intOfPat_signed some_ inside, BitVec.toInt_eq_toNat_cond, BitVec.toNat_ofNat, Nat.mod_eq_of_lt inside]
  norm_cast

/-- The formats of floating-point atomics. -/
theorem fmtFp_cases {fmt : Nat} (fp : (fmtFp fmt).isSome = true) : fmt = 0 ∨ fmt = 1 ∨ fmt = 2 := by
  unfold fmtFp at fp
  split at fp <;> simp_all

theorem fmtFp_getD {fmt : Nat} (fp : (fmtFp fmt).isSome = true) :
    (fmtFp fmt).getD .f32 = if fmt = 0 then .f32 else if fmt = 1 then .f16 else .bf16 := by
  obtain rfl | rfl | rfl := fmtFp_cases fp <;> rfl

/-- Each element atomic of R197 is one operation of the core, with the value that R197 gives. -/
theorem atomicWords_elem : ∀ p ∈ atomicWords, ∃ code op, op ≠ .cas ∧
    (∀ (s : State) (d h i : XReg) (nr e : Bool), exec (p.1 d h i nr e) s =
      s.computeWord (p.1 d h i nr e) fun s => s.atomicElem code op p.2.1 d (s.getX h) i nr) ∧
    ∀ w fmt old v, 0 < w → old < 2 ^ w → v < 2 ^ w → (p.2.1 = true → (fmtFp fmt).isSome = true) →
      atomicFn op w fmt old v 0 = p.2.2 w fmt old v 0 := by
  simp only [atomicWords, List.forall_mem_cons, List.not_mem_nil, false_imp_iff, implies_true, and_true]
  refine ⟨⟨5, .add, by decide, fun _ _ _ _ _ _ => rfl, fun _ _ _ _ _ _ _ _ => rfl⟩,
    ⟨6, .max, by decide, fun _ _ _ _ _ _ => rfl, fun w fmt old v some_ was is _ => ?max⟩,
    ⟨7, .min, by decide, fun _ _ _ _ _ _ => rfl, fun w fmt old v some_ was is _ => ?min⟩,
    ⟨8, .maxn, by decide, fun _ _ _ _ _ _ => rfl, fun w fmt old v _ _ _ _ => ?maxn⟩,
    ⟨9, .minn, by decide, fun _ _ _ _ _ _ => rfl, fun w fmt old v _ _ _ _ => ?minn⟩,
    ⟨10, .and, by decide, fun _ _ _ _ _ _ => rfl, fun _ _ _ _ _ _ _ _ => rfl⟩,
    ⟨11, .or, by decide, fun _ _ _ _ _ _ => rfl, fun _ _ _ _ _ _ _ _ => rfl⟩,
    ⟨12, .xor, by decide, fun _ _ _ _ _ _ => rfl, fun _ _ _ _ _ _ _ _ => rfl⟩,
    ⟨13, .swp, by decide, fun _ _ _ _ _ _ => rfl, fun _ _ _ _ _ _ _ _ => rfl⟩,
    ⟨15, .fadd, by decide, fun _ _ _ _ _ _ => rfl, fun w fmt old v _ _ _ fp => ?fadd⟩,
    ⟨16, .fmax, by decide, fun _ _ _ _ _ _ => rfl, fun w fmt old v _ _ _ fp => ?fmax⟩,
    ⟨17, .fmin, by decide, fun _ _ _ _ _ _ => rfl, fun w fmt old v _ _ _ fp => ?fmin⟩⟩
  case max => simp only [atomicFn, toInt_eq_intOfPat some_ was, toInt_eq_intOfPat some_ is]
  case min => simp only [atomicFn, toInt_eq_intOfPat some_ was, toInt_eq_intOfPat some_ is]
  case maxn =>
    simp only [atomicFn, Nat.max_def]
    split <;> split <;> omega
  case minn =>
    simp only [atomicFn, Nat.min_def]
    split <;> split <;> omega
  case fadd => simp only [atomicFn, fmtFp_getD (fp trivial)]
  case fmax => simp only [atomicFn, fmtFp_getD (fp trivial)]
  case fmin => simp only [atomicFn, fmtFp_getD (fp trivial)]

/-! ### What resolution has found (R193, R194) -/

theorem passes_of_ok {ε α : Type} {p : Prop} [Decidable p] {f : ε} {r : Except ε α} {a : α}
    (ok : (if p then .error f else r) = .ok a) : ¬ p ∧ r = .ok a := by
  split at ok
  · cases ok
  · exact ⟨‹_›, ok⟩

theorem resolve8_ok {s : State} {h : Word} {i : XReg} {o : Op8} {t : Target} (resolved : s.resolve8 h i o = .ok t) :
    t.d = s.desc h ∧ t.bit = t.d.bitOf (s.tuple i t.d.rank) ∧ t.n = (if o.run then 4096 else t.d.w) ∧ o.fmtOk t.d.fmt = true ∧
      t.span = s.span h t.d (if o.write then none else s.core.pinOf h) t.bit t.n := by
  unfold State.resolve8 State.resolveAt at resolved
  extract_lets r d bit n last ver span at resolved
  obtain ⟨-, resolved⟩ := passes_of_ok resolved
  split at resolved
  · cases resolved
  · obtain ⟨-, resolved⟩ := passes_of_ok resolved
    obtain ⟨suits, resolved⟩ := passes_of_ok resolved
    obtain ⟨-, resolved⟩ := passes_of_ok resolved
    obtain ⟨-, resolved⟩ := passes_of_ok resolved
    obtain ⟨-, resolved⟩ := passes_of_ok resolved
    split at resolved
    · cases resolved
    · split at resolved
      · cases resolved
      · cases resolved
        exact ⟨rfl, rfl, rfl, by simpa using suits, rfl⟩

theorem fmtWidth_cases (fmt : Nat) : fmtWidth fmt = 4 ∨ fmtWidth fmt = 8 ∨ fmtWidth fmt = 16 ∨ fmtWidth fmt = 32 := by
  unfold fmtWidth
  split
  next e is =>
    unfold efOf at is
    split at is <;> cases is <;> simp [EFmt.width, FF.width]
  next => exact .inl rfl

/-- Atomics are on elements of 8, 16 or 32 bits; floating-point ones on FP32, FP16 or BF16 (R194). -/
theorem fmtOk_atomic {o : Op8} {fmt : Nat} (atomic : o.atomic = true) (ok : o.fmtOk fmt = true) :
    (fmtWidth fmt = 8 ∨ fmtWidth fmt = 16 ∨ fmtWidth fmt = 32) ∧ (o.fpOnly = true → (fmtFp fmt).isSome = true) ∧
      (o.vec = true → fmt < 5 → (fmtFp fmt).isSome = true) := by
  simp only [Op8.fmtOk, atomic, Bool.not_true, Bool.false_or, Bool.and_eq_true, bne_iff_ne, Bool.or_eq_true, Bool.not_eq_true',
    Bool.or_eq_false_iff, Bool.and_eq_false_iff, decide_eq_false_iff_not] at ok
  obtain ⟨whole, suits⟩ := ok
  refine ⟨?_, fun fp => suits.resolve_left fun no => by simp [fp] at no, fun vec low => suits.resolve_left fun no => ?_⟩
  · exact (fmtWidth_cases fmt).resolve_left whole
  · rcases no.2 with no | no
    · simp [vec] at no
    · exact no low

/-! ### Its place (R285) -/

/-- The core's own copy of a line goes (R268). -/
def Core.dropCopy (line : Nat) (c : Core) : Core := { c with l1 := c.l1.filter fun l => l.line ≠ line }

theorem coreOf_self (s : State) : s.coreOf s.core.id = s.core := if_pos rfl

theorem modL1_self {s : State} (compute : s.core.isSys = false) (f : List L1Line → List L1Line) :
    s.modL1 s.core.id f = s.onCore fun c => { c with l1 := f c.l1 } := by
  have low : s.core.id < 784 := by
    simp only [Core.isSys, decide_eq_false_iff_not] at compute
    omega
  rw [State.modL1, if_pos low, State.modCore, coreOf_self, State.putCore, if_pos rfl]
  rfl

/-- An atomic on a sector that no cache holds is a write of it, after the core's copy has gone, and answers what it held. -/
theorem atomicSector_stored {s : State} {x : Sector} (compute : s.core.isSys = false) (stored : StoredSector s x) (ret : Bool)
    (f : Mask → Mask) (cls : Nat) : s.atomicSector s.core.id x ret f =
      (some (s.plainSector x.line), (s.onCore (Core.dropCopy x.line)).writeSector s.core.id x cls f) := by
  have there : StoredSector (s.onCore (Core.dropCopy x.line)) x := stored
  obtain ⟨-, -, reach'⟩ := there.reachOk
  obtain ⟨-, allowed', -, -, -, still'⟩ := there
  obtain ⟨ok, allowed, memory, -, home, still⟩ := stored
  have self : (s.onCore (Core.dropCopy x.line)).core.id = s.core.id := rfl
  rw [self] at reach' allowed'
  rw [State.atomicSector, if_neg (by simp [reachOk_of_sectorOk ok, allowed]), if_neg memory, forwarded_still still,
    State.writeSector, if_neg (by simp [reach', allowed']), if_neg memory, forwarded_still still']
  simp only [home, ↓reduceIte, modL1_self compute]
  rfl

section
variable {s : State} {h : Word} {i : XReg} {t : Target} {x : Sector} {we : Bool} {fp : Bool} (home : hHome h = s.pkg)
  (resolved : s.resolve8 h i { need := 4, write := true, atomic := true, fpOnly := fp } = .ok t) (span : t.span = [.ok x we])
  (code : Nat) (op : AtomicOp) (d : XReg) (nr : Bool)
include home resolved span

/-- An atomic that finds its old value answers it, unless .nr is set. -/
theorem atomicElem_performed {old : Nat} {u : State}
    (done : (s.cow h t.d (t.bit / 8)).performAtomic s.core.id x op t.n t.d.fmt (t.bit % 512) ((s.getX d).toNat % 2 ^ t.n)
      ((if op = .cas then (s.getX (d + 1)).toNat else 0) % 2 ^ t.n) (!nr) = (.ok old, u)) :
    s.atomicElem code op fp d h i nr = if nr then u else
      ({ u with fresh := u.fresh + 1 } : State).produceX d (elemWord t.d.fmt t.n (old % 2 ^ t.n)) (u.cycle + 1 + Config.delay .load u.fresh) := by
  have self : (s.cow h t.d (t.bit / 8)).core.id = s.core.id := (below_cow ..).moves.2.1.id_eq
  rw [State.atomicElem, with8_ok home resolved]
  simp only [span, self, done]
  rfl

/-- An atomic whose sector is served moves memory, and its old value is on its way unless .nr is set. -/
theorem atomicElem_served (ok : s.sectorOk x = true) (allowed : s.refusedAt s.core.id x = false)
    (still : s.migrated x.line = (x.line, false)) :
    (nr = true → MemoryMoves s (s.atomicElem code op fp d h i nr)) ∧
    (nr = false → ∃ was due, LoadOnItsWay s (s.atomicElem code op fp d h i nr) (.x d was) due) := by
  have copied := below_cow s h t.d (t.bit / 8)
  have stands := cow_stands s h t.d (t.bit / 8)
  obtain ⟨old, u, done, performed⟩ := performAtomic_served ((copied.sectorOk_eq x).trans ok)
    ((stands.refusedAt_eq s.core.id x).trans allowed) (stands.still still) op t.n t.d.fmt (t.bit % 512)
    ((s.getX d).toNat % 2 ^ t.n) ((if op = .cas then (s.getX (d + 1)).toNat else 0) % 2 ^ t.n) (!nr)
  have moved := copied.trans performed
  rw [atomicElem_performed home resolved span code op d nr done]
  refine ⟨fun quiet => ?_, fun answers => ?_⟩
  · rw [if_pos quiet]
    exact moved.moves
  · rw [if_neg (by simp [answers])]
    refine ⟨_, _, produce_of_moves (moved.trans (below_fresh u (u.fresh + 1))).object ?_ (.x d _)⟩
    rw [moved.cycle_eq]
    omega

/-- On stored bytes that no cache holds the element takes its new value, and nothing else of memory changes. -/
theorem atomicElem_stored (compute : s.core.isSys = false) (stored : Uncached s t.span) (alone : WritesAlone s h t.bit t.span) {z : Nat}
    (value : atomicFn op t.n t.d.fmt ((s.plainSector x.line).toNat / 2 ^ (t.bit % 512) % 2 ^ t.n) ((s.getX d).toNat % 2 ^ t.n)
      ((if op = .cas then (s.getX (d + 1)).toNat else 0) % 2 ^ t.n) = z) :
    let lo := t.bit % 512
    let old := (s.plainSector x.line).toNat / 2 ^ lo % 2 ^ t.n
    let u := s.atomicElem code op fp d h i nr
    ∃ m, StoredAs (s.onCore (Core.dropCopy x.line)) m t.span (fun _ j b => if lo ≤ j ∧ j < lo + t.n then z.testBit (j - lo) else b) ∧
      (nr = true → u = m) ∧
      (nr = false → ∃ due, s.cycle < due ∧ u = { m with
        core := { m.core with
          arch := m.core.arch.markX d (d = 0), pend := m.core.pend.filter (fun p => !p.hitsX d), varOut := m.core.varOut + 1
          valueLog := (m.core.logIssue d.toNat s.cycle).valueLog }
        agenda := agendaPut m.agenda (due * 16 + ptLand) (.valueArrives s.core.id (.x d (elemWord t.d.fmt t.n old)))
        fresh := s.fresh + 1 }) := by
  intro lo old
  obtain ⟨unshared, closed, -⟩ := alone
  obtain ⟨y, we', is, sector⟩ := stored (.ok x we) (by rw [span]; exact List.mem_singleton.mpr rfl)
  cases is
  have own := unshared 0 (by rw [span]; exact Nat.one_pos)
  have kept : s.cow h t.d (t.bit / 8) = s := cow_unshared (by rw [← own]; congr 1; omega)
  have shut := closed x we (by rw [span]; exact List.mem_singleton.mpr rfl)
  let f := atomicOnSector op t.n t.d.fmt lo ((s.getX d).toNat % 2 ^ t.n) ((if op = .cas then (s.getX (d + 1)).toNat else 0) % 2 ^ t.n)
  let m := (s.onCore (Core.dropCopy x.line)).writeSector s.core.id x 0 f
  have written : SectorsWritten (s.onCore (Core.dropCopy x.line)) m t.span fun _ => f := by
    rw [span]
    exact sectorsWritten_one (s := s.onCore (Core.dropCopy x.line)) we sector shut 0 f
  have done : (s.cow h t.d (t.bit / 8)).performAtomic s.core.id x op t.n t.d.fmt (t.bit % 512) ((s.getX d).toNat % 2 ^ t.n)
      ((if op = .cas then (s.getX (d + 1)).toNat else 0) % 2 ^ t.n) (!nr) = (.ok old, m) := by
    rw [kept, State.performAtomic, atomicSector_stored compute sector _ _ 0]
  refine ⟨m, ⟨fun k y we' at_ j inside => ?_, written.bytes, written.kept, written.frame⟩, ?_⟩
  · rw [written.written k y we' at_]
    rw [span] at at_
    cases List.mem_singleton.mp (List.mem_of_getElem? at_)
    refine (atomicOnSector_getLsbD op t.n t.d.fmt lo _ _ _ inside).trans ?_
    rw [← value]
    rfl
  rw [atomicElem_performed home resolved span code op d nr done, Nat.mod_mod]
  have frame := written.frame
  refine ⟨fun quiet => if_pos quiet, fun answers => ⟨m.cycle + 1 + Config.delay .load m.fresh, ?_, ?_⟩⟩
  · have same : m.cycle = s.cycle := by rw [frame]; rfl
    omega
  · rw [if_neg (by simp [answers]), produceX_arrives { m with fresh := m.fresh + 1 }]
    have fresh : m.fresh = s.fresh := by rw [frame]; rfl
    have self : m.core.id = s.core.id := by rw [frame]; rfl
    have cycle : ({ m with fresh := m.fresh + 1 } : State).cycle = s.cycle := by rw [frame]; rfl
    rw [cycle]
    simp only [fresh, self]
    rfl

end

end Sys2Proof.Machine
end

section
/-! PROOFS. Atomics on the elements of a run (R198), sector by sector. -/

namespace Sys2Proof.Machine

open Sys2Proof

/-- Elements stand at multiples of their width (R180). -/
theorem bitOf_mod {d : Desc} (cs : List Nat) (whole : 4096 % d.w = 0) : d.bitOf cs % d.w = 0 := by
  have row : d.w ∣ 4096 := Nat.dvd_of_mod_eq_zero whole
  refine Nat.mod_eq_zero_of_dvd ?_
  unfold Desc.bitOf
  extract_lets ds p cols t
  split
  · refine Nat.dvd_add ?_ (Nat.dvd_mul_left ..)
    have bytes : 8 * (65536 * t + 512 * (inner cs 1 % 128)) = 4096 * (128 * t + inner cs 1 % 128) := by omega
    rw [bytes]
    exact Nat.dvd_mul_right_of_dvd row _
  · exact Nat.dvd_mul_left ..

/-- The elements of sector k of a run that the run takes in, and the operand of each. -/
def runElements (bit w k : Nat) : List Nat := (List.range (512 / w)).filter fun j =>
  decide (bit ≤ 512 * (bit / 512 + k) + j * w) && decide (512 * (bit / 512 + k) + j * w < bit + 4096)
def runOperand (bit w : Nat) (v : Vec) (k j : Nat) : Nat := v.toNat / 2 ^ (512 * (bit / 512 + k) + j * w - bit) % 2 ^ w

/-- What a run leaves in sector k of its span. -/
def runSector (op : AtomicOp) (w fmt bit : Nat) (v : Vec) (k : Nat) (m : Mask) : Mask :=
  (runElements bit w k).foldl (fun m j => atomicOnSector op w fmt (j * w) (runOperand bit w v k j) 0 m) m

/-- Bit j of sector k belongs to the element at it, and to one operand where the run takes it in. -/
theorem runSector_getLsbD (op : AtomicOp) {w bit : Nat} (fmt : Nat) (v : Vec) (k : Nat) (width : w = 8 ∨ w = 16 ∨ w = 32)
    (aligned : bit % w = 0) (m : Mask) {j : Nat} (inside : j < 512) :
    (runSector op w fmt bit v k m).getLsbD j =
      let at_ := 512 * (bit / 512 + k) + j
      if bit ≤ at_ ∧ at_ < bit + 4096 then
        (atomicFn op w fmt (m.toNat / 2 ^ (j / w * w) % 2 ^ w) (elem w v ((at_ - bit) / w)) 0).testBit (j % w)
      else m.getLsbD j := by
  extract_lets at_
  have some_ : 0 < w := by omega
  have different : (runElements bit w k).Nodup := List.nodup_range.filter _
  rw [runSector, atomicsOnSector_getLsbD op fmt _ some_ _ different m inside]
  have taken : j / w ∈ runElements bit w k ↔ bit ≤ at_ ∧ at_ < bit + 4096 := by
    simp only [runElements, List.mem_filter, List.mem_range, Bool.and_eq_true, decide_eq_true_eq]
    obtain rfl | rfl | rfl := width <;> omega
  by_cases mine : bit ≤ at_ ∧ at_ < bit + 4096
  · have place : 512 * (bit / 512 + k) + j / w * w - bit = w * ((at_ - bit) / w) := by
      obtain rfl | rfl | rfl := width <;> omega
    rw [if_pos (taken.mpr mine), if_pos mine, runOperand, elem, place]
  · rw [if_neg fun c => mine (taken.mp c), if_neg mine]

/-! ### Sectors that this package serves -/

theorem getD_here {l : List Served} (here : ∀ y ∈ l, ∃ x we, y = .ok x we) (k : Nat) :
    (∃ x we, l.getD k .missing = .ok x we) ∨ l.getD k .missing = .missing := by
  rcases Nat.lt_or_ge k l.length with inside | past
  · rw [List.getD_eq_getElem _ _ inside]
    exact .inl (here _ (List.getElem_mem inside))
  · exact .inr (List.getD_eq_default _ _ past)

/-- Sector k of a run, where this package serves it. -/
def State.runStep (s : State) (q : Requester) (h : Word) (t : Target) (op : AtomicOp) (v : Vec) (k : Nat) : State :=
  match t.span.getD k .missing with
  | .ok x _ => ((s.cow h t.d ((t.bit / 512 + k) * 64)).atomicSector q.core x false (runSector op t.d.w t.d.fmt t.bit v k)).2
  | _ => s

theorem runAtomics_here {t : Target} (here : ∀ y ∈ t.span, ∃ x we, y = .ok x we) (s : State) (q : Requester) (h : Word) (op : AtomicOp)
    (v : Vec) : s.runAtomics q h t op v = (List.range t.span.length).foldl (fun s k => s.runStep q h t op v k) s := by
  unfold State.runAtomics
  extract_lets w first
  refine List.foldl_ext _ _ s fun s k _ => ?_
  rcases getD_here here k with ⟨x, we, is⟩ | is
  · simp only [State.runStep, is]
    rfl
  · simp only [State.runStep, is]

theorem below_runStep (s : State) (q : Requester) (h : Word) (t : Target) (op : AtomicOp) (v : Vec) (k : Nat) :
    Below s (s.runStep q h t op v k) := by
  unfold State.runStep
  split
  · exact (below_cow ..).trans (below_atomicSector ..)
  · exact .refl s

/-! ### Onto stored bytes -/

/-- Writes of sectors do not look at the core's L1. -/
theorem SectorsWritten.onCore {s t : State} {l : List Served} {f : Nat → Mask → Mask} (written : SectorsWritten s t l f)
    (g : Core → Core) : SectorsWritten (s.onCore g) (t.onCore g) l f :=
  ⟨congrArg (State.onCore · g) written.frame, written.kept, written.written, written.others, written.bytes⟩

theorem StoredSector.onL1 {s : State} {x : Sector} (stored : StoredSector s x) (l : List L1Line) :
    StoredSector (s.onCore fun c => { c with l1 := l }) x := stored

/-- Each sector of a run takes what its elements' atomics leave in it, and the core's copies of the sectors go. -/
theorem runAtomics_stored {s : State} {h : Word} {t : Target} (compute : s.core.isSys = false) (stored : Uncached s t.span)
    (alone : WritesAlone s h t.bit t.span) (op : AtomicOp) (v : Vec) :
    ∃ l, SectorsWritten (s.onCore fun c => { c with l1 := l }) (s.runAtomics s.asker h t op v) t.span
      (runSector op t.d.w t.d.fmt t.bit v) := by
  obtain ⟨unshared, closed, different⟩ := alone
  rw [runAtomics_here stored.here]
  suffices upTo : ∀ k, k ≤ t.span.length → ∃ l, SectorsWritten (s.onCore fun c => { c with l1 := l })
      ((List.range k).foldl (fun u k => u.runStep s.asker h t op v k) s) (t.span.take k) (runSector op t.d.w t.d.fmt t.bit v) by
    have all := upTo t.span.length le_rfl
    rwa [List.take_length] at all
  intro k within
  induction k with
  | zero => exact ⟨s.core.l1, .refl s _⟩
  | succ k ih =>
    have here : k < t.span.length := within
    obtain ⟨x, we, is, sector⟩ := stored t.span[k] (List.getElem_mem here)
    have taken : t.span.take (k + 1) = t.span.take k ++ [.ok x we] := by rw [List.take_succ_eq_append_getElem here, is]
    have served : t.span.getD k .missing = .ok x we := by rw [List.getD_eq_getElem _ _ here, is]
    have apart : ((t.span.take k ++ [Served.ok x we]).map servedSector).Nodup := by
      rw [← taken]
      exact List.Nodup.sublist ((List.take_sublist ..).map _) different
    obtain ⟨l, before⟩ := ih (Nat.le_of_lt here)
    rw [List.range_succ, List.foldl_append, List.foldl_cons, List.foldl_nil, taken]
    generalize List.foldl _ _ _ = u at before
    have sharers : u.sharers (hKey h) ((t.bit / 512 + k) * 64 / 65536) = [] := by
      rw [before.frame]; exact unshared k here
    have there : StoredSector u x := by
      rw [before.frame]; exact sector
    have shut (p : Part) (part : u.part? (paKey x.pa) = some p) : p.undo.st ≠ .opened ∧ p.undo.st ≠ .rolling := by
      rw [before.frame] at part
      exact closed x we (is ▸ List.getElem_mem here) p part
    have me : s.asker.core = u.core.id := by rw [before.frame]; rfl
    have task : u.core.isSys = false := by rw [before.frame]; exact compute
    have step : u.runStep s.asker h t op v k =
        (u.onCore (Core.dropCopy x.line)).writeSector u.core.id x 0 (runSector op t.d.w t.d.fmt t.bit v k) := by
      simp only [State.runStep, served, cow_unshared sharers, me, atomicSector_stored task there _ _ 0]
    have now := sectorsWritten_one (s := u.onCore (Core.dropCopy x.line)) we there shut 0 (runSector op t.d.w t.d.fmt t.bit v k)
    rw [step]
    refine ⟨(Core.dropCopy x.line u.core).l1, ?_⟩
    have dropped := before.onCore (Core.dropCopy x.line)
    have first : (s.onCore fun c => { c with l1 := l }).onCore (Core.dropCopy x.line) =
        s.onCore fun c => { c with l1 := (Core.dropCopy x.line u.core).l1 } := by
      have l1 : u.core.l1 = l := by rw [before.frame]; rfl
      simp only [Core.dropCopy, l1]
      rfl
    rw [first] at dropped
    refine dropped.append now (fun _ _ _ _ => apart_of_nodup apart) (fun _ _ => rfl) fun i only => ?_
    rw [Nat.lt_one_iff.mp only, List.length_take_of_le (Nat.le_of_lt here), Nat.add_zero]

end Sys2Proof.Machine
end

section
/-! PROOFS. Atomics on elements and runs (R197, R198, R268, R285). -/

namespace Sys2Proof.Machine

open Sys2Proof

/-- The formats of a run are those of R198. -/
theorem runFormat {s : State} {h : Word} {i : XReg} {t : Target}
    (resolved : s.resolve8 h i { need := 4, run := true, write := true, atomic := true, vec := true } = .ok t) :
    (t.d.w = 8 ∨ t.d.w = 16 ∨ t.d.w = 32) ∧ t.bit % t.d.w = 0 ∧ (t.d.fmt < 5 → (fmtFp t.d.fmt).isSome = true) := by
  obtain ⟨-, bit, -, suits, -⟩ := resolve8_ok resolved
  obtain ⟨width, -, fp⟩ := fmtOk_atomic rfl suits
  refine ⟨width, ?_, fp rfl⟩
  rw [bit]
  refine bitOf_mod _ ?_
  change t.d.w = 8 ∨ t.d.w = 16 ∨ t.d.w = 32 at width
  obtain is | is | is := width <;> rw [is]

section
variable {s : State} {h : Word} {i : XReg} {t : Target} {v : Vec} (home : hHome h = s.pkg)
  (resolved : s.resolve8 h i { need := 4, run := true, write := true, atomic := true, vec := true } = .ok t) (mx : Bool)
include home resolved

theorem atomicRun_eq : s.atomicRun mx h i v = s.runAtomics s.asker h t (runOp t.d.fmt mx) v := by
  rw [State.atomicRun, with8_ok home resolved]

theorem atomicRun_moves (here : ∀ y ∈ t.span, ∃ x we, y = .ok x we) : MemoryMoves s (s.atomicRun mx h i v) := by
  rw [atomicRun_eq home resolved, runAtomics_here here]
  exact (Below.fold _ _ (fun _ _ => below_runStep ..) s).moves

/-- Each element of a run takes what the run's operation makes of its old value and its operand. -/
theorem atomicRun_stored (compute : s.core.isSys = false) (stored : Uncached s t.span) (alone : WritesAlone s h t.bit t.span)
    {f : Nat → Nat → Nat} (value : ∀ a b, a < 2 ^ t.d.w → b < 2 ^ t.d.w → atomicFn (runOp t.d.fmt mx) t.d.w t.d.fmt a b 0 = f a b) :
    ∃ l, StoredAs (s.onCore fun c => { c with l1 := l }) (s.atomicRun mx h i v) t.span fun k j old =>
      let at_ := 512 * (t.bit / 512 + k) + j
      let was := match t.span.getD k .missing with
        | .ok x _ => (s.plainSector x.line).toNat / 2 ^ (j / t.d.w * t.d.w) % 2 ^ t.d.w
        | _ => 0
      if t.bit ≤ at_ ∧ at_ < t.bit + 4096 then (f was (elem t.d.w v ((at_ - t.bit) / t.d.w))).testBit (j % t.d.w) else old := by
  obtain ⟨width, aligned, -⟩ := runFormat resolved
  obtain ⟨l, written⟩ := runAtomics_stored compute stored alone (runOp t.d.fmt mx) v
  rw [atomicRun_eq home resolved]
  refine ⟨l, fun k x we at_ j inside => ?_, written.bytes, written.kept, written.frame⟩
  have served : t.span.getD k .missing = .ok x we := by rw [List.getD_eq_getElem?_getD, at_]; rfl
  rw [written.written k x we at_, runSector_getLsbD _ _ _ _ width aligned _ inside]
  dsimp only
  rw [value _ _ (Nat.mod_lt _ (Nat.two_pow_pos _)) (elem_lt ..), served]
  rfl

end

/-- The operation of a run of sums, and of a run of maxima, on each format (R198). -/
theorem runOp_add {w fmt : Nat} (fp : fmt < 5 → (fmtFp fmt).isSome = true) (a b : Nat) :
    atomicFn (runOp fmt false) w fmt a b 0 =
      if fmt < 5 then ((if fmt = 0 then FF.f32 else if fmt = 1 then .f16 else .bf16).add {} a b).1 else (a + b) % 2 ^ w := by
  by_cases low : fmt < 5
  · rw [if_pos low, ← fmtFp_getD (fp low), runOp, if_pos low]
    rfl
  · rw [if_neg low, runOp, if_neg low]
    rfl

theorem runOp_max {w fmt : Nat} (some_ : 0 < w) (fp : fmt < 5 → (fmtFp fmt).isSome = true) {a b : Nat} (left : a < 2 ^ w)
    (right : b < 2 ^ w) : atomicFn (runOp fmt true) w fmt a b 0 =
      if fmt < 5 then (if fmt = 0 then FF.f32 else if fmt = 1 then .f16 else .bf16).minmax false true a b
      else if fmtSigned fmt then (if (BitVec.ofNat w a).toInt < (BitVec.ofNat w b).toInt then b else a) else max a b := by
  by_cases low : fmt < 5
  · rw [if_pos low, ← fmtFp_getD (fp low), runOp, if_pos low]
    rfl
  · rw [if_neg low, runOp, if_neg low, toInt_eq_intOfPat some_ left, toInt_eq_intOfPat some_ right]
    by_cases signed : fmtSigned fmt = true
    · rw [if_pos signed, if_pos rfl, if_pos signed]
      rfl
    · rw [if_neg signed, if_pos rfl, if_neg signed]
      rfl

/-- Settles O26: one lemma serves every element atomic, with the value of its word, and one both runs, with the operation of the format. -/
theorem handleAtomics : Obligations.HandleAtomics := by
  unfold Obligations.HandleAtomics
  refine ⟨?elements, ?runs⟩
  case elements =>
    intro s d h i nr e t x we compute home span lo old v new does
    have one (w : Instr) (code : Nat) (op : AtomicOp) (fp : Bool) (z : Nat)
        (run : exec w s = s.computeWord w fun s => s.atomicElem code op fp d (s.getX h) i nr)
        (resolved : s.resolve8 (s.getX h) i { need := 4, write := true, atomic := true, fpOnly := fp } = .ok t)
        (value : atomicFn op t.n t.d.fmt old v ((if op = .cas then (s.getX (d + 1)).toNat else 0) % 2 ^ t.n) = z) : does w z := by
      intro wf
      have done := run.trans (State.computeWord_next s w (fun s => s.atomicElem code op fp d (s.getX h) i nr) compute wf)
      exact ⟨fun ok allowed still => ⟨_, done, atomicElem_served home resolved span code op d nr ok allowed still⟩,
        fun stored alone => ⟨_, done, atomicElem_stored home resolved span code op d nr compute stored alone value⟩⟩
    refine ⟨fun p mem resolved => ?_, fun resolved => ?_⟩
    · obtain ⟨code, op, plain, run, value⟩ := atomicWords_elem p mem
      obtain ⟨-, -, n, suits, -⟩ := resolve8_ok resolved
      obtain ⟨width, fp, -⟩ := fmtOk_atomic rfl suits
      have some_ : 0 < t.n := by
        rw [n]
        change 0 < fmtWidth t.d.fmt
        omega
      refine one _ code op p.2.1 _ (run s d h i nr e) resolved ?_
      rw [if_neg plain, Nat.zero_mod]
      exact value _ _ _ _ some_ (Nat.mod_lt _ (Nat.two_pow_pos _)) (Nat.mod_lt _ (Nat.two_pow_pos _)) fp
    · exact one _ 14 .cas false _ rfl resolved rfl
  case runs =>
    intro s d h i e t compute home hH hX resolved w ff sg add mx put does
    obtain ⟨width, -, fp⟩ := runFormat resolved
    have one (x : Instr) (m : Bool) (f : Nat → Nat → Nat)
        (run : exec x s = s.computeWord x fun s => s.vectorOut d h i fun v => s.atomicRun m (s.getX h) i v)
        (value : ∀ a b, a < 2 ^ w → b < 2 ^ w → atomicFn (runOp t.d.fmt m) w t.d.fmt a b 0 = f a b) : does x f := by
      intro wf
      have done := run.trans (State.computeWord_next s x (fun s => s.vectorOut d h i fun v => s.atomicRun m (s.getX h) i v) compute wf)
      rw [vectorOut_spatial hH hX] at done
      exact ⟨fun here => ⟨_, done, atomicRun_moves home resolved m here⟩,
        fun stored alone => ⟨_, done, atomicRun_stored home resolved m compute stored alone value⟩⟩
    exact ⟨one _ false add rfl fun a b _ _ => runOp_add fp a b,
      one _ true mx rfl fun a b left right => runOp_max (by omega) fp left right⟩

end Sys2Proof.Machine
end

section
/-! PROOFS. Accesses from outside the compute dies (R184, R189): what stops one, what it reads, and what its answer changes. -/

namespace Sys2Proof.Machine

open Sys2Proof

/-- The requester of an access from outside. -/
def asking (a : OuterAccess) : Requester := ⟨a.part, a.kind, a.core, a.pkg⟩

/-- The sectors of its bytes, as they are served. -/
def State.outerSpan (s : State) (a : OuterAccess) : List Served :=
  s.span a.handle (s.desc a.handle) none (8 * a.offset) (8 * a.len)

/-! ### Answers (R189) -/

theorem ObjectMoves.replies {s t : State} (h : ObjectMoves s t) (l : List HostReply) :
    ObjectMoves { s with replies := l } { t with replies := l } := by
  obtain ⟨m, ⟨frame, core, cores, kept⟩, rest⟩ := h
  exact ⟨{ m with replies := l }, ⟨congrArg (fun u : State => { u with replies := l }) frame, core, cores, kept⟩,
    congrArg (fun u : State => { u with replies := l }) rest⟩

/-- A packet that leaves changes nothing that is kept here but the meters' reports. -/
theorem toPackage_frame (s : State) (pkg core : Nat) (b : PacketBody) :
    s.toPackage pkg core b = { s with
      agenda := (s.toPackage pkg core b).agenda, outbox := (s.toPackage pkg core b).outbox, sent := s.sent + 1
      via := (s.toPackage pkg core b).via } := by
  unfold State.toPackage
  cases packetLoad b <;> rfl

theorem toPackage_replies (s : State) (pkg core : Nat) (b : PacketBody) : (s.toPackage pkg core b).replies = s.replies := by
  rw [toPackage_frame]

theorem toPackage_sends (s : State) (pkg core : Nat) (b : PacketBody) :
    (pkg, ({ src := s.pkg, srcCore := core, seq := s.sent, body := b } : Packet)) ∈ (s.toPackage pkg core b).outbox := by
  unfold State.toPackage
  cases packetLoad b <;> exact List.mem_cons_self ..

section
variable (s : State) (a : OuterAccess)

theorem outerReply_host_error (host : a.kind = .host) (c : BitVec 8) :
    s.outerReply a (.error c) = { s with replies := .abort :: s.replies } := by
  unfold State.outerReply; rw [host]

theorem outerReply_error (fabric : a.kind ≠ .host) (c : BitVec 8) : s.outerReply a (.error c) = s.send a.pkg 1023 (.refused a.core c) := by
  unfold State.outerReply
  cases kind : a.kind with
  | host => exact absurd kind fabric
  | _ => rfl

theorem outerReply_host_read (host : a.kind = .host) (read : a.write = none) (v : Nat) : s.outerReply a (.ok v) =
    { s with replies := .bytes ((List.range a.len).map fun i => BitVec.ofNat 8 (v / 2 ^ (8 * i))) :: s.replies } := by
  unfold State.outerReply; rw [host, read]; rfl

theorem outerReply_host_write (host : a.kind = .host) (write : a.write.isSome = true) (v : Nat) : s.outerReply a (.ok v) = s := by
  unfold State.outerReply; rw [host, write]; rfl

theorem outerReply_ok (fabric : a.kind ≠ .host) (v : Nat) :
    s.outerReply a (.ok v) = s.toPackage a.pkg 1023 (.value a.core a.part (if a.write.isSome then 0 else a.len) v) := by
  unfold State.outerReply
  cases kind : a.kind with
  | host => exact absurd kind fabric
  | _ => rfl

theorem outerReply_moves (r : Except (BitVec 8) Nat) :
    ObjectMoves { s with replies := (s.outerReply a r).replies } (s.outerReply a r) := by
  by_cases host : a.kind = .host
  · cases r with
    | error c => rw [outerReply_host_error s a host]; exact .refl _
    | ok v =>
      cases write : a.write with
      | none => rw [outerReply_host_read s a host write]; exact .refl _
      | some bs => rw [outerReply_host_write s a host (by rw [write]; rfl)]; exact .refl _
  · cases r with
    | error c => rw [outerReply_error s a host]; exact send_moves ..
    | ok v =>
      rw [outerReply_ok s a host, toPackage_replies]
      exact toPackage_moves ..

/-- The answer to a write tells of it alone. -/
theorem outerReply_written (write : a.write.isSome = true) (v : Nat) :
    ObjectMoves s (s.outerReply a (.ok v)) ∧ ∀ line, (s.outerReply a (.ok v)).plainSector line = s.plainSector line := by
  by_cases host : a.kind = .host
  · rw [outerReply_host_write s a host write]
    exact ⟨.refl s, fun _ => rfl⟩
  · rw [outerReply_ok s a host]
    exact ⟨toPackage_moves .., fun line => by rw [toPackage_frame]; rfl⟩

end

/-! ### Checks (R182, R189) -/

theorem logViolation_here {s : State} {h : Word} (home : hHome h = s.pkg) (owner : Nat) (q : Requester) (c : BitVec 8) (cs : List Nat)
    (shown : Option Word) : s.logViolation owner q c h cs shown = { s with
      vlogs := mput s.vlogs owner (((mget s.vlogs owner).getD {}).push (vlogEntry s.cycle q c (shown.getD h) cs)) } := by
  simp [State.logViolation, elsewhere_of_home home]

/-- A log holds its newest entries, of which there is one now. -/
theorem push_entries (l : VLog) (e : BitVec 512) : (l.push e).entries.length ≤ 64 ∧ (l.push e).entries ≠ [] := by
  unfold VLog.push
  split
  next room => exact ⟨room, by simp⟩
  next => exact ⟨List.length_take_le .., by simp⟩

theorem outerAccess_violation {s : State} {a : OuterAccess} {v : BitVec 8 × Nat}
    (violates : s.violation (asking a) a.handle (some (if a.write.isSome then 2 else 1)) = some v) :
    s.outerAccess a = (s.logViolation v.2 (asking a) v.1 a.handle []).outerReply a (.error v.1) := by
  unfold State.outerAccess State.outerCheck
  dsimp only
  change s.violation ⟨a.part, a.kind, a.core, a.pkg⟩ a.handle _ = _ at violates
  rw [violates]
  rfl

section
variable {s : State} {a : OuterAccess} (allowed : s.violation (asking a) a.handle (some (if a.write.isSome then 2 else 1)) = none)
  (inside : a.offset + a.len ≤ (s.desc a.handle).extent) (positive : 0 < a.len)

/-- What an access that the rights allow is checked for: the host may write a replicated object. -/
def State.outerStops (s : State) (a : OuterAccess) : Option HFault :=
  s.checkSpan a.handle (if a.kind = .host then Desc.set (s.desc a.handle) 57 1 0 else s.desc a.handle) a.write.isSome false none
    [(8 * a.offset, 8 * a.len, s.outerSpan a)]

include allowed inside positive

theorem outerCheck_error {f : HFault} (stops : s.outerStops a = some f) :
    s.outerCheck (asking a) a.handle a.write.isSome (8 * a.offset) (8 * a.len) = .error f := by
  unfold State.outerCheck
  rw [allowed]
  dsimp only
  rw [if_neg (by omega)]
  exact congrArg (fun o : Option HFault => match o with | some f => Except.error f | none => .ok (s.outerSpan a)) stops

theorem outerCheck_ok (passes : s.outerStops a = none) :
    s.outerCheck (asking a) a.handle a.write.isSome (8 * a.offset) (8 * a.len) = .ok (s.outerSpan a) := by
  unfold State.outerCheck
  rw [allowed]
  dsimp only
  rw [if_neg (by omega)]
  exact congrArg (fun o : Option HFault => match o with | some f => Except.error f | none => .ok (s.outerSpan a)) passes

end

end Sys2Proof.Machine
end

section
/-! PROOFS. Reads from outside the compute dies (R184, R279). -/

namespace Sys2Proof.Machine

open Sys2Proof

theorem homeDie_lt (line : Nat) : homeDie line < 24 := by
  unfold homeDie stackDie
  dsimp only
  split
  · split
    · omega
    · split
      · omega
      · split <;> omega
  · omega

/-! ### What a read changes -/

theorem outerBits_moves (part : Nat) (l : List Served) (s : State) : ObjectMoves s (s.outerBits part l).2 := by
  induction l generalizing s with
  | nil => exact .refl s
  | cons y l ih =>
    unfold State.outerBits
    split
    rename_i r t first
    have moved : ObjectMoves s t := by
      cases y with
      | ok x we =>
        have below := (below_outerRead s x).object
        dsimp only at first
        split at first
        next read => rw [read] at below; cases first; exact below
        next read => rw [read] at below; cases first; exact below
      | remote pkg a we room =>
        have far := Below.objectFar (below_readFar s part 1023 a false)
        dsimp only at first
        rwa [first] at far
      | missing => cases first; exact .refl s
    have rest := ih t
    cases r with
    | error pa => exact moved
    | ok n =>
      dsimp only
      split
      next last => rw [last] at rest; exact moved.trans rest
      next => exact moved.trans rest

/-- The bytes of an access among the bits of its sectors, or uncorrectable data. -/
def readOut (a : OuterAccess) : Except Nat Nat → Except (BitVec 8) Nat
  | .ok v => .ok (v / 2 ^ (8 * a.offset % 512) % 2 ^ (8 * a.len))
  | .error _ => .error 0x18

/-- A read that is stopped is no violation. -/
theorem checkSpan_read_log {s : State} {h : Word} {d : Desc} {pinned : Bool} {ver : Option Nat} {ps : List (Nat × Nat × List Served)}
    {f : HFault} (stops : s.checkSpan h d false pinned ver ps = some f) : f.log = none := by
  unfold State.checkSpan at stops
  dsimp only at stops
  split at stops
  · cases stops; rfl
  · cases stops

section
variable {s : State} {a : OuterAccess} (allowed : s.violation (asking a) a.handle (some (if a.write.isSome then 2 else 1)) = none)
  (inside : a.offset + a.len ≤ (s.desc a.handle).extent) (positive : 0 < a.len)
include allowed inside positive

/-- Without a violation nothing but the answer comes of an access that is stopped. -/
theorem outerAccess_stopped {f : HFault} (stops : s.outerStops a = some f) (log : f.log = none) :
    s.outerAccess a = s.outerReply a (.error f.raise.cause) := by
  have check := outerCheck_error allowed inside positive stops
  unfold asking at check
  unfold State.outerAccess
  dsimp only
  rw [check]
  dsimp only
  rw [State.outerFault, log]

variable (read : a.write = none)
include read

/-- A read is answered from the bits of its sectors, after requests for those that other packages serve. -/
theorem outerAccess_reads (passes : s.outerStops a = none) : ∃ t, ObjectMoves s t ∧ (farSectors (s.outerSpan a) = [] → t = s) ∧
    s.outerAccess a = (t.outerBits a.part (s.outerSpan a)).2.outerReply a (readOut a (t.outerBits a.part (s.outerSpan a)).1) := by
  have check := outerCheck_ok allowed inside positive passes
  unfold asking at check
  refine ⟨s.askSectors { asking a with core := 1023 } a.handle (s.desc a.handle) none (farSectors (s.outerSpan a)),
    askSectors_moves .., fun here => by rw [here]; rfl, ?_⟩
  unfold State.outerAccess
  dsimp only
  rw [check, read]
  dsimp only
  unfold asking
  dsimp only
  split <;> rename_i bits <;> rw [bits] <;> rfl

theorem outerAccess_read_moves : ObjectMoves { s with replies := (s.outerAccess a).replies } (s.outerAccess a) := by
  cases stops : s.outerStops a with
  | some f =>
    have log : f.log = none := checkSpan_read_log (by rw [State.outerStops, read] at stops; exact stops)
    rw [outerAccess_stopped allowed inside positive stops log]
    exact outerReply_moves ..
  | none =>
    obtain ⟨t, asked, -, same⟩ := outerAccess_reads allowed inside positive read stops
    rw [same]
    exact ((asked.trans (outerBits_moves ..)).replies _).trans (outerReply_moves ..)


end

/-! ### A read of one sector of stored bytes -/

theorem outerSpan_one {s : State} {a : OuterAccess} {y : Served} (positive : 0 < a.len) (one : (a.offset + a.len - 1) / 64 = a.offset / 64)
    (at_ : s.locate a.handle (s.desc a.handle) none (64 * (a.offset / 64)) = y) : s.outerSpan a = [y] := by
  have first : 8 * a.offset / 512 = a.offset / 64 := by omega
  have count : (8 * a.offset + 8 * a.len - 1) / 512 - 8 * a.offset / 512 + 1 = 1 := by omega
  unfold State.outerSpan State.span
  dsimp only
  rw [count, first, ← at_]
  rfl

theorem outerRead_stored {s : State} {x : Sector} (ok : s.sectorOk x = true) (memory : paSpace x.pa ≠ 2) (home : x.home ≠ 2)
    (plain : x.comp = false) (still : s.migrated x.line = (x.line, false))
    (none_ : ∀ k, k < 24 → (s.die k).l2Line x.line = none ∧ (s.die k).mscLine x.line = none) :
    s.outerRead x = (some (s.plainSector x.line), s.meterLine x.line false (some 1023)) := by
  have on : s.ctlOn x.line = true := by
    rw [State.sectorOk, Bool.and_eq_true] at ok
    exact ok.2
  have l2 : (s.dies.toList.findSome? fun d => d.l2Line x.line) = none := by
    rw [dies_toList, List.findSome?_map, List.findSome?_eq_none_iff]
    exact fun k mem => (none_ k (List.mem_range.mp mem)).1
  unfold State.outerRead
  rw [if_neg (by simp [reachOk_of_sectorOk ok]), if_neg memory, forwarded_still still]
  dsimp only
  rw [if_neg home, l2, (none_ _ (homeDie_lt x.line)).2]
  dsimp only
  rw [State.ctlSector, if_pos on, plain]
  rfl

theorem lineByte_eq (m : Mask) {k j len : Nat} (inside : j < len) :
    lineByte m (k + j) = BitVec.ofNat 8 (m.toNat / 2 ^ (8 * k) % 2 ^ (8 * len) / 2 ^ (8 * j)) := by
  refine BitVec.eq_of_getLsbD_eq fun i low => ?_
  rw [lineByte, BitVec.getLsbD_extractLsb', BitVec.getLsbD_ofNat, Nat.testBit_div_two_pow, Nat.testBit_mod_two_pow, Nat.testBit_div_two_pow,
    BitVec.testBit_toNat, decide_eq_true low, decide_eq_true (by omega : i + 8 * j < 8 * len)]
  congr 2
  omega

/-- A number from its bytes. -/
theorem packNat_bytesOf (v len : Nat) : packNat 8 ((List.range len).map fun j => v / 2 ^ (8 * j) % 2 ^ 8) = v % 2 ^ (8 * len) := by
  induction len generalizing v with
  | zero => simp [packNat, Nat.mod_one]
  | succ n ih =>
    have shift : ∀ j, v / 2 ^ (8 * (j + 1)) = v / 2 ^ 8 / 2 ^ (8 * j) := fun j => by
      rw [Nat.div_div_eq_div_mul, ← pow_add]; congr 2; omega
    rw [List.range_succ_eq_map, List.map_cons, List.map_map, packNat]
    simp only [Function.comp_def, Nat.succ_eq_add_one, shift, ih]
    rw [Nat.mul_zero, pow_zero, Nat.div_one, Nat.mod_mod, Nat.mul_add, Nat.mul_one, Nat.add_comm (8 * n), pow_add, Nat.mod_mul]

section
variable {s : State} {a : OuterAccess} (allowed : s.violation (asking a) a.handle (some (if a.write.isSome then 2 else 1)) = none)
  (inside : a.offset + a.len ≤ (s.desc a.handle).extent) (positive : 0 < a.len) (read : a.write = none)
include allowed inside positive read

/-- What a sector of stored bytes that no cache holds answers. -/
theorem outerAccess_read_stored {x : Sector} {we : Bool} (one : (a.offset + a.len - 1) / 64 = a.offset / 64)
    (at_ : s.locate a.handle (s.desc a.handle) none (64 * (a.offset / 64)) = .ok x we)
    (ok : s.sectorOk x = true) (memory : paSpace x.pa ≠ 2) (home : x.home ≠ 2)
    (plain : x.comp = false) (still : s.migrated x.line = (x.line, false))
    (none_ : ∀ k, k < 24 → (s.die k).l2Line x.line = none ∧ (s.die k).mscLine x.line = none) :
    let bytes := (List.range a.len).map fun j => lineByte (s.plainSector x.line) (a.offset % 64 + j)
    (a.kind = .host → (s.outerAccess a).replies = .bytes bytes :: s.replies) ∧
    (a.kind ≠ .host → ∃ n, (a.pkg,
      ({ src := s.pkg, srcCore := 1023, seq := n, body := .value a.core a.part a.len (packNat 8 (bytes.map (·.toNat))) } : Packet)) ∈
        (s.outerAccess a).outbox) := by
  have span := outerSpan_one positive one at_
  have passes : s.outerStops a = none := by
    rw [State.outerStops, span, read]
    rfl
  obtain ⟨t, -, here, same⟩ := outerAccess_reads allowed inside positive read passes
  rw [here (by rw [span]; rfl), span] at same
  have bits : s.outerBits a.part [.ok x we] = (.ok (s.plainSector x.line).toNat, s.meterLine x.line false (some 1023)) := by
    simp only [State.outerBits, outerRead_stored ok memory home plain still none_, Nat.mul_zero, Nat.add_zero]
  have place : 8 * a.offset % 512 = 8 * (a.offset % 64) := by omega
  rw [bits] at same
  dsimp only [readOut] at same
  rw [place] at same
  have metered := (meterLine_reports s x.line false (some 1023)).1
  refine ⟨fun host => ?_, fun fabric => ⟨s.sent, ?_⟩⟩
  · rw [same, outerReply_host_read _ a host read, metered]
    dsimp only
    congr 2
    refine List.map_congr_left fun j mem => ?_
    rw [lineByte_eq _ (List.mem_range.mp mem)]
  · have value : packNat 8 (((List.range a.len).map fun j => lineByte (s.plainSector x.line) (a.offset % 64 + j)).map (·.toNat)) =
        (s.plainSector x.line).toNat / 2 ^ (8 * (a.offset % 64)) % 2 ^ (8 * a.len) := by
      rw [← Nat.mod_mod (_ / _), ← packNat_bytesOf, List.map_map]
      congr 1
      refine List.map_congr_left fun j mem => ?_
      rw [Function.comp_apply, lineByte_eq _ (List.mem_range.mp mem), BitVec.toNat_ofNat]
    rw [same, outerReply_ok _ a fabric, read, value, metered]
    exact toPackage_sends ..

end

end Sys2Proof.Machine
end

section
/-! PROOFS. Writes from outside the compute dies (R184, R202, R279): the bytes written are then read. -/

namespace Sys2Proof.Machine

open Sys2Proof

/-! ### Bytes of a sector -/

theorem byteMask_getLsbD (j : Nat) : (255#512).getLsbD j = decide (j < 8) := by
  rw [BitVec.getLsbD_ofNat, show 255 = 2 ^ 8 - 1 from rfl, Nat.testBit_two_pow_sub_one]
  by_cases low : j < 8
  · simp [low, show j < 512 by omega]
  · simp [low]

theorem setLineByte_getLsbD (m : Mask) (k : Nat) (b : BitVec 8) {n : Nat} (inside : n < 512) :
    (setLineByte m k b).getLsbD n = if 8 * k ≤ n ∧ n < 8 * k + 8 then b.getLsbD (n - 8 * k) else m.getLsbD n := by
  unfold setLineByte
  simp only [BitVec.getLsbD_or, BitVec.getLsbD_and, BitVec.getLsbD_not, BitVec.getLsbD_shiftLeft, BitVec.getLsbD_setWidth, byteMask_getLsbD,
    inside, decide_true, Bool.true_and]
  by_cases low : n < 8 * k
  · simp [low]
  · by_cases high : n < 8 * k + 8
    · simp [low, show n - 8 * k < 8 by omega, show 8 * k ≤ n ∧ n < 8 * k + 8 by omega, show n - 8 * k < 512 by omega]
    · have past : b.getLsbD (n - 8 * k) = false := BitVec.getLsbD_of_ge b _ (by omega)
      simp [past, high, show ¬ n - 8 * k < 8 by omega]

theorem lineByte_setLineByte (m : Mask) {k i : Nat} (b : BitVec 8) (inside : i < 64) :
    lineByte (setLineByte m k b) i = if i = k then b else lineByte m i := by
  refine BitVec.eq_of_getLsbD_eq fun j low => ?_
  rw [lineByte, BitVec.getLsbD_extractLsb', setLineByte_getLsbD m k b (by omega), decide_eq_true low, Bool.true_and]
  by_cases same : i = k
  · rw [if_pos same, if_pos (by omega), same, Nat.add_sub_cancel_left]
  · rw [if_neg same, if_neg (by omega), lineByte, BitVec.getLsbD_extractLsb', decide_eq_true low, Bool.true_and]

/-- Bytes before the place of a write are as they were. -/
theorem lineByte_put_before (bs : List (BitVec 8)) (m : Mask) (at_ k : Nat) {i : Nat} (inside : i < 64) (before : i < at_ + k) :
    lineByte ((bs.zipIdx k).foldl (fun m p => setLineByte m (at_ + p.2) p.1) m) i = lineByte m i := by
  induction bs generalizing m k with
  | nil => rfl
  | cons b bs ih =>
    rw [List.zipIdx_cons, List.foldl_cons, ih _ _ (by omega), lineByte_setLineByte _ _ inside, if_neg (by omega)]

theorem lineByte_put (bs : List (BitVec 8)) (m : Mask) (at_ k : Nat) {j : Nat} (inside : at_ + k + j < 64) (within : j < bs.length) :
    some (lineByte ((bs.zipIdx k).foldl (fun m p => setLineByte m (at_ + p.2) p.1) m) (at_ + k + j)) = bs[j]? := by
  induction bs generalizing m k j with
  | nil => cases within
  | cons b bs ih =>
    rw [List.zipIdx_cons, List.foldl_cons]
    cases j with
    | zero => rw [lineByte_put_before _ _ _ _ inside (by omega), lineByte_setLineByte _ _ inside]; simp
    | succ j =>
      have place : at_ + k + (j + 1) = at_ + (k + 1) + j := by omega
      rw [place] at inside ⊢
      exact ih _ _ inside (Nat.lt_of_succ_lt_succ within)

theorem lineByte_putBytes (m : Mask) {at_ j : Nat} {bs : List (BitVec 8)} (inside : at_ + j < 64) (within : j < bs.length) :
    some (lineByte (putBytes m at_ bs) (at_ + j)) = bs[j]? :=
  lineByte_put bs m at_ 0 inside within

/-! ### A sector's write is read back -/

theorem Below.keyLive_eq {s t : State} (h : Below s t) (k : Nat) : t.keyLive k = s.keyLive k := by
  rw [h.moves.1]; rfl

theorem Reports.plainSector {s t : State} (h : Reports s t) (line : Nat) : t.plainSector line = s.plainSector line := by
  rw [h.1]; rfl

theorem ctlWrite_reads {s : State} {line : Nat} (live : s.keyLive (lineKeyId line) = true) (on : s.ctlOn line = true) (m : Mask)
    (who : Option Nat) : (s.ctlWrite line m who).plainSector line = m := by
  have tag : s.keyTag (lineKeyId line) = (s.undoLog line).keyTag (lineKeyId line) := by
    rw [(below_undoLog s line).moves.1]; rfl
  rw [State.ctlWrite, if_pos (by simp [live, on]), (meterLine_reports ..).plainSector, tag, plainSector_putSector, if_pos rfl]

theorem outerWrite_reads {s : State} {x : Sector} (ok : s.sectorOk x = true) (memory : paSpace x.pa ≠ 2) (home : x.home ≠ 2)
    (still : s.migrated x.line = (x.line, false)) (f : Mask → Mask) : ∃ m, (s.outerWrite x f).plainSector x.line = f m := by
  obtain ⟨addr, on⟩ : s.addrOk x = true ∧ s.ctlOn x.line = true := by simpa [State.sectorOk] using ok
  have live : s.keyLive (lineKeyId x.line) = true := by
    rw [paKey_line]
    exact (Bool.and_eq_true_iff.mp addr).1
  unfold State.outerWrite
  rw [if_neg (by simp [addr]), if_neg memory, forwarded_still still]
  dsimp only
  rw [if_neg home]
  have below := (below_dirClear s x.line).trans (below_modDie (s.dirClear x.line) (homeDie x.line) fun d =>
    { d with msc := d.msc.filter fun m => m.line ≠ x.line })
  exact ⟨_, ctlWrite_reads (by rw [below.keyLive_eq, live]) (by rw [below.ctlOn_eq, on]) _ _⟩

/-! ### What a write is checked for -/

theorem replicated_cleared (d : Desc) : Desc.replicated (Desc.set d 57 1 0) = false := by
  have bit : (Desc.set d 57 1 0).getLsbD 57 = false := by
    unfold Desc.set Desc.f
    rw [BitVec.getLsbD_ofNat, testBit_replaceField, if_pos (by omega), Nat.zero_testBit, Bool.and_false]
  have field : Desc.f (Desc.set d 57 1 0) 57 1 = 0 := by
    rw [← BitVec.testBit_toNat, Nat.testBit_eq_decide_div_mod_eq, decide_eq_false_iff_not] at bit
    unfold Desc.f
    omega
  rw [Desc.replicated, field]
  rfl

/-- Whether a write must wait for room for a copy (R202) depends on its page alone. -/
theorem poolShort_page (s : State) (h : Word) {o o' : Nat} (page : o / 65536 = o' / 65536) (room : s.poolShort h [o] = none) :
    s.poolShort h [o'] = none := by
  unfold State.poolShort at room ⊢
  cases shared : (s.sharers (hKey h) (o' / 65536)).isEmpty with
  | true => simp [shared]
  | false =>
    simp only [List.filter_cons, List.filter_nil, page, shared, Bool.not_false, ↓reduceIte, List.map_cons, List.map_nil] at room ⊢
    split at room
    next => rfl
    next q some_ =>
      have same : q = o' / 65536 := by simpa using List.mem_of_getElem? some_
      simp [page, same] at room

section
variable {s : State} {a : OuterAccess}

theorem outerStops_write {x : Sector} (write : a.write.isSome = true) (span : s.outerSpan a = [.ok x true])
    (writable : a.kind = .host ∨ (s.desc a.handle).replicated = false) (room : s.poolShort a.handle [64 * (a.offset / 64)] = none) :
    s.outerStops a = none := by
  have plain : (if a.kind = .host then Desc.set (s.desc a.handle) 57 1 0 else s.desc a.handle).replicated = false := by
    split
    next => exact replicated_cleared _
    next fabric => exact writable.resolve_left fabric
  have place : 8 * a.offset / 8 = a.offset := by omega
  have free : s.poolShort a.handle [a.offset] = none := poolShort_page s a.handle (by omega) room
  rw [State.outerStops, span, write]
  generalize (if a.kind = .host then Desc.set (s.desc a.handle) 57 1 0 else s.desc a.handle) = d at plain
  have blocked : firstBlocked s a.handle [(8 * a.offset, [.ok x true])] = none := by
    simp [firstBlocked, place, free]
  simp [State.checkSpan, firstMissing, firstReadOnly, plain, blocked]

/-- A write into one sector that this package serves. -/
theorem outerAccess_writes {x : Sector} {bs : List (BitVec 8)} (write : a.write = some bs) (length : bs.length = a.len)
    (unwatched : (s.desc a.handle).watch = false) (one : (a.offset + a.len - 1) / 64 = a.offset / 64) (span : s.outerSpan a = [.ok x true])
    (check : s.outerCheck (asking a) a.handle a.write.isSome (8 * a.offset) (8 * a.len) = .ok (s.outerSpan a)) :
    s.outerAccess a = ((s.cow a.handle (s.desc a.handle) (64 * (a.offset / 64))).outerWrite x
      fun m => putBytes m (a.offset % 64) bs).outerReply a (.ok 0) := by
  unfold asking at check
  have first : max a.offset (64 * (a.offset / 64)) = a.offset := by omega
  have all : (bs.drop (a.offset - a.offset)).take (64 * (a.offset / 64 + 1) - a.offset) = bs := by
    rw [Nat.sub_self, List.drop_zero, List.take_of_length_le (by omega)]
  have record : ∀ q bit n, s.watchRecord q a.handle (s.desc a.handle) bit n = s := fun q bit n => by
    simp [State.watchRecord, unwatched]
  have here : ∀ y ∈ s.outerSpan a, ∃ x we, y = .ok x we := fun y mem => by
    rw [span, List.mem_singleton] at mem
    exact ⟨_, _, mem⟩
  unfold State.outerAccess
  dsimp only
  rw [check, write]
  dsimp only
  rw [record, farSlices_here here, span]
  simp only [List.zipIdx_cons, List.zipIdx_nil, List.foldl_cons, List.foldl_nil, Nat.add_zero, first, all]
  rfl

theorem outerAccess_write_stored {x : Sector} {bs : List (BitVec 8)}
    (allowed : s.violation (asking a) a.handle (some (if a.write.isSome then 2 else 1)) = none)
    (inside : a.offset + a.len ≤ (s.desc a.handle).extent) (positive : 0 < a.len)
    (write : a.write = some bs) (length : bs.length = a.len)
    (writable : a.kind = .host ∨ (s.desc a.handle).replicated = false) (unwatched : (s.desc a.handle).watch = false)
    (one : (a.offset + a.len - 1) / 64 = a.offset / 64)
    (at_ : s.locate a.handle (s.desc a.handle) none (64 * (a.offset / 64)) = .ok x true)
    (room : s.poolShort a.handle [64 * (a.offset / 64)] = none) (ok : s.sectorOk x = true) (memory : paSpace x.pa ≠ 2)
    (home : x.home ≠ 2) (still : s.migrated x.line = (x.line, false)) :
    ObjectMoves s (s.outerAccess a) ∧
      ∀ j, j < a.len → some (lineByte ((s.outerAccess a).plainSector x.line) (a.offset % 64 + j)) = bs[j]? := by
  have span := outerSpan_one positive one at_
  have isWrite : a.write.isSome = true := by rw [write]; rfl
  have check := outerCheck_ok allowed inside positive (outerStops_write isWrite span writable room)
  rw [outerAccess_writes write length unwatched one span check]
  generalize from_ : s.cow a.handle (s.desc a.handle) (64 * (a.offset / 64)) = t
  have copied : Below s t := from_ ▸ below_cow ..
  have stands : RequestsStand s t := from_ ▸ cow_stands ..
  obtain ⟨m, reads⟩ := outerWrite_reads (copied.sectorOk_eq x ▸ ok) memory home (stands.still still) fun m => putBytes m (a.offset % 64) bs
  obtain ⟨told, kept⟩ := outerReply_written (t.outerWrite x fun m => putBytes m (a.offset % 64) bs) a isWrite 0
  refine ⟨(copied.trans (below_outerWrite ..)).object.trans told, fun j within => ?_⟩
  rw [kept, reads]
  exact lineByte_putBytes m (by omega) (by omega)

end

end Sys2Proof.Machine
end

section
/-! PROOFS. Packets from other packages (R208, R209, R375, R376). -/

namespace Sys2Proof.Machine

open Sys2Proof

/-- The packet's sequence number is known from now on. -/
def State.sees (s : State) (p : Packet) : State := { s with seen := (p.src, p.seq) :: s.seen }

/-- The packet's payload is metered (R356). -/
def State.metersPayload (s : State) (p : Packet) : State :=
  match s.payload p.body with
  | some (k, n) => s.sched s.cycle ptEnd (.meterAdd k 0 10 n)
  | none => s

theorem exec_fabricPacket (s : State) (p : Packet) : exec (.fabricPacket p) s = .next (
    if s.seen.contains (p.src, p.seq) then s
    else if !s.members.contains p.src && !PacketBody.isAnswer p.body then (s.sees p).nack p
    else ((s.sees p).metersPayload p).actOn p) := rfl

section
variable {s : State} {p : Packet}

theorem exec_fabricPacket_duplicate (seen : (p.src, p.seq) ∈ s.seen) : exec (.fabricPacket p) s = .next s := by
  rw [exec_fabricPacket, if_pos (List.contains_iff_mem.mpr seen)]

section
variable (fresh : (p.src, p.seq) ∉ s.seen)
include fresh

theorem exec_fabricPacket_left (stranger : p.src ∉ s.members) (asks : PacketBody.isAnswer p.body = false) :
    exec (.fabricPacket p) s = .next ((s.sees p).nack p) := by
  rw [exec_fabricPacket, if_neg (mt List.contains_iff_mem.mp fresh), if_pos (by simp [stranger, asks])]

theorem exec_fabricPacket_member (member : p.src ∈ s.members) :
    exec (.fabricPacket p) s = .next (((s.sees p).metersPayload p).actOn p) := by
  rw [exec_fabricPacket, if_neg (mt List.contains_iff_mem.mp fresh), if_neg (by simp [member])]

theorem exec_fabricPacket_unmetered (member : p.src ∈ s.members) (unmetered : (s.sees p).payload p.body = none) :
    exec (.fabricPacket p) s = .next ((s.sees p).actOn p) := by
  rw [exec_fabricPacket_member fresh member, State.metersPayload, unmetered]

end

/-! ### Rows -/

theorem nack_landing {core : Nat} {r : LandingRow} (body : p.body = .landing core r) :
    s.nack p = s.send p.src p.srcCore (.answer p.srcCore r.fromCh r.cmd false) := by
  rw [State.nack, body]

theorem actOn_landing {core : Nat} {r : LandingRow} (body : p.body = .landing core r) (s : State) : s.actOn p =
    s.sched (s.cycle + 1) ptArrive (.landingRowArrival core { r with fromPkg := p.src, fromCore := p.srcCore }) := by
  rw [State.actOn, body]

theorem metersPayload_reports (s : State) (p : Packet) : Reports s (s.metersPayload p) := by
  unfold State.metersPayload
  split
  · exact ⟨rfl, fun e mem => (agendaPut_mem ..).mpr (.inr mem)⟩
  · exact .refl s

/-! ### Releases held for markers (R209) -/

theorem gathered_eq (s : State) (src rel : Nat) : s.gathered src rel =
    s.marks.countP fun m => decide (m.1 = src) && decide (m.2.1 = rel) := rfl

/-- The markers of a release are forgotten when it is performed. -/
def State.unmark (s : State) (src rel : Nat) : State := { s with marks := s.marks.filter fun m => !(decide (m.1 = src) && decide (m.2.1 = rel)) }

theorem unmark_eq (s : State) (src rel : Nat) :
    { s with marks := s.marks.filter fun m => ¬ (m.1 = src ∧ m.2.1 = rel) } = s.unmark src rel := by
  unfold State.unmark
  congr 1
  exact List.filter_congr fun m _ => by rw [decide_not, Bool.decide_and]

theorem holdRelease_performed {t : State} (done : s.tryRelease p = (true, t)) : s.holdRelease p = t := by
  rw [State.holdRelease, done]

theorem holdRelease_waits {t : State} (waits : s.tryRelease p = (false, t)) :
    s.holdRelease p = { t with heldRel := t.heldRel ++ [(s.cycle, p)] } := by
  rw [State.holdRelease, waits]

section
variable {core paths pair : Nat} {sender : Sender} {bgen : BitVec 8} (body : p.body = .arrival core sender pair bgen paths)
include body

theorem tryRelease_arrival_ready (ready : paths ≤ s.gathered p.src sender.rel) : s.tryRelease p = (true,
    (s.unmark p.src sender.rel).sched (s.cycle + 1) ptArrive
      (.barrierArrival core p.src { sender with core := p.srcCore } pair bgen)) := by
  unfold State.tryRelease
  rw [body]
  dsimp only
  rw [if_pos (decide_eq_true ready), unmark_eq]

theorem tryRelease_arrival_held (held : s.gathered p.src sender.rel < paths) : s.tryRelease p = (false, s) := by
  unfold State.tryRelease
  rw [body]
  dsimp only
  rw [if_neg (by simpa using held)]

end

section
variable {core rel path paths : Nat} (body : p.body = .marker core rel path paths true) (ready : paths ≤ s.gathered p.src rel)
include body ready

theorem tryRelease_marker_performed (settled : s.outerWaits p.src rel = (false, s)) :
    s.tryRelease p = (true, (s.unmark p.src rel).send p.src 1023 (.done core rel)) := by
  unfold State.tryRelease
  rw [body]
  dsimp only
  rw [if_pos (decide_eq_true ready), settled]
  dsimp only
  rw [unmark_eq]

theorem tryRelease_marker_held {t : State} (waits : s.outerWaits p.src rel = (true, t)) : s.tryRelease p = (false, t) := by
  unfold State.tryRelease
  rw [body]
  dsimp only
  rw [if_pos (decide_eq_true ready), waits]

end

theorem outerWaits_first {src rel : Nat} (first : ∀ e ∈ s.relStale, ¬ (e.1 = src ∧ e.2.1 = rel)) : s.outerWaits src rel =
    if s.staleCopies.isEmpty then (false, s) else (true, { s with relStale := (src, rel, s.staleCopies) :: s.relStale }) := by
  have none_ : (s.relStale.find? fun e => e.1 = src && e.2.1 = rel) = none :=
    List.find?_eq_none.mpr fun e mem => by simpa using first e mem
  unfold State.outerWaits
  rw [none_]

/-! ### Markers -/

/-- A marker that had not come before is gathered. -/
def State.marked (s : State) (src rel path : Nat) : State := { s with marks := (src, rel, path) :: s.marks }

theorem gathered_marked (s : State) (src rel path : Nat) : (s.marked src rel path).gathered src rel = s.gathered src rel + 1 := by
  rw [gathered_eq, gathered_eq]
  exact List.countP_cons_of_pos (by simp)

theorem unmark_marked (s : State) (src rel path : Nat) : (s.marked src rel path).unmark src rel = s.unmark src rel := by
  unfold State.unmark State.marked
  dsimp only
  rw [List.filter_cons_of_neg (by simp)]

theorem markerHere_alone {rel path : Nat} (paths : Nat) (unmarked : (p.src, rel, path) ∉ s.marks) : s.markerHere p rel path paths true =
    if s.gathered p.src rel + 1 < paths then s.marked p.src rel path else (s.marked p.src rel path).holdRelease p := by
  unfold State.markerHere
  rw [if_neg (mt List.contains_iff_mem.mp unmarked)]
  change (if (s.marked p.src rel path).gathered p.src rel < paths then _ else _) = _
  rw [gathered_marked]
  rfl

end

end Sys2Proof.Machine
end

section
/-! PROOFS. Accesses from outside and packets: what O50 asks of each. -/

namespace Sys2Proof.Machine

open Sys2Proof

/-! ### A refused access -/

/-- A violation of the rights is recorded here and answered, and nothing else happens (R189, R190). -/
theorem outerAccess_refused {s : State} {a : OuterAccess} {v : BitVec 8 × Nat}
    (violates : s.violation (asking a) a.handle (some (if a.write.isSome then 2 else 1)) = some v) (home : hHome a.handle = s.pkg) :
    let t := s.outerAccess a
    (∃ l, mget t.vlogs v.2 = some l ∧ l.entries.length ≤ 64 ∧ l.entries ≠ []) ∧
    ((a.kind = .host → t.replies = .abort :: s.replies ∧ t.outbox = s.outbox) ∧
      (a.kind ≠ .host → t.replies = s.replies ∧
        t.outbox = (a.pkg, { src := s.pkg, srcCore := 1023, seq := s.sent, body := .refused a.core v.1 }) :: s.outbox)) ∧
    t = { s with vlogs := t.vlogs, replies := t.replies, outbox := t.outbox, sent := t.sent, via := t.via } := by
  have logged (e : BitVec 512) : ∃ l, mget (mput s.vlogs v.2 (((mget s.vlogs v.2).getD {}).push e)) v.2 = some l ∧
      l.entries.length ≤ 64 ∧ l.entries ≠ [] :=
    ⟨_, (mget_mput ..).trans (if_pos rfl), push_entries ..⟩
  rw [outerAccess_violation violates, logViolation_here home]
  by_cases host : a.kind = .host
  · rw [outerReply_host_error _ a host]
    exact ⟨logged _, ⟨fun _ => ⟨rfl, rfl⟩, fun fabric => absurd host fabric⟩, rfl⟩
  · rw [outerReply_error _ a host]
    exact ⟨logged _, ⟨fun isHost => absurd isHost host, fun _ => ⟨rfl, rfl⟩⟩, rfl⟩

/-! ### Host links (R377) -/

theorem exec_remoteAccess (s : State) (a : OuterAccess) : exec (.remoteAccess a) s = .next (s.outerAccess a) := rfl

theorem exec_hostWrite_up {s : State} {link : HostLink} (up : s.linkUp link = true) (a : OuterAccess) :
    exec (.hostWrite (.object link a)) s = .next (s.outerAccess { a with kind := .host, core := 1023, pkg := s.pkg }) :=
  congrArg Host.Outcome.next (if_pos up)

theorem exec_hostWrite_down {s : State} {link : HostLink} (down : s.linkUp link = false) (a : OuterAccess) :
    exec (.hostWrite (.object link a)) s = .next s :=
  congrArg Host.Outcome.next (if_neg (by simp [down]))

/-! ### Packets of members -/

section
variable {s : State} {p : Packet} (fresh : (p.src, p.seq) ∉ s.seen)
include fresh

theorem fabricPacket_left_landing (stranger : p.src ∉ s.members) {core : Nat} {r : LandingRow} (body : p.body = .landing core r) :
    Completes (.fabricPacket p) s fun t => t.coreOf core = s.coreOf core ∧ t.mem = s.mem ∧
      (p.src, ({ src := s.pkg, srcCore := p.srcCore, seq := s.sent, body := .answer p.srcCore r.fromCh r.cmd false } : Packet)) ∈ t.outbox := by
  refine ⟨_, exec_fabricPacket_left fresh stranger (by rw [body]; rfl), ?_⟩
  rw [nack_landing body]
  exact ⟨rfl, rfl, List.mem_cons_self ..⟩

variable (member : p.src ∈ s.members)
include member

theorem fabricPacket_landing {core : Nat} {r : LandingRow} (body : p.body = .landing core r) :
    Completes (.fabricPacket p) s fun t =>
      ((s.cycle + 1) * 16 + ptArrive, Instr.landingRowArrival core { r with fromPkg := p.src, fromCore := p.srcCore }) ∈ t.agenda ∧
      t = { s with seen := (p.src, p.seq) :: s.seen, agenda := t.agenda } := by
  refine ⟨_, exec_fabricPacket_member fresh member, ?_⟩
  rw [actOn_landing body, (metersPayload_reports (s.sees p) p).1]
  exact ⟨(agendaPut_mem ..).mpr (.inl rfl), rfl⟩

theorem fabricPacket_reserve {core : Nat} {q : ResReq} (body : p.body = .reserve core q) :
    Completes (.fabricPacket p) s fun t => t = { s with
      seen := (p.src, p.seq) :: s.seen
      agenda := agendaPut s.agenda ((s.cycle + 1) * 16 + ptArrive)
        (.reservationRequest core { q with fromPkg := p.src, fromCore := p.srcCore }) } := by
  refine ⟨_, exec_fabricPacket_unmetered fresh member (by rw [body]; rfl), ?_⟩
  rw [State.actOn, body]
  rfl

theorem fabricPacket_release {core : Nat} {rel : Word} (body : p.body = .release core rel) :
    Completes (.fabricPacket p) s fun t => t = { s with
      seen := (p.src, p.seq) :: s.seen
      agenda := agendaPut s.agenda ((s.cycle + 1) * 16 + ptArrive) (.slotReleaseAtTarget core p.src p.srcCore rel) } := by
  refine ⟨_, exec_fabricPacket_unmetered fresh member (by rw [body]; rfl), ?_⟩
  rw [State.actOn, body]
  rfl

theorem fabricPacket_arrival {core pair paths : Nat} {sender : Sender} {bgen : BitVec 8}
    (body : p.body = .arrival core sender pair bgen paths) :
    (paths ≤ s.gathered p.src sender.rel → exec (.fabricPacket p) s = .next (((s.sees p).unmark p.src sender.rel).sched (s.cycle + 1)
      ptArrive (.barrierArrival core p.src { sender with core := p.srcCore } pair bgen))) ∧
    (s.gathered p.src sender.rel < paths →
      exec (.fabricPacket p) s = .next { s.sees p with heldRel := s.heldRel ++ [(s.cycle, p)] }) := by
  have held : (s.sees p).actOn p = (s.sees p).holdRelease p := by rw [State.actOn, body]
  rw [exec_fabricPacket_unmetered fresh member (by rw [body]; rfl), held]
  refine ⟨fun ready => ?_, fun waits => ?_⟩
  · rw [holdRelease_performed (tryRelease_arrival_ready (s := s.sees p) body ready)]
    rfl
  · rw [holdRelease_waits (tryRelease_arrival_held (s := s.sees p) body waits)]
    rfl

/-- The last marker of a release that asks to be told: it is performed at once, unless a copy here can return an older value. -/
theorem fabricPacket_marker {core rel path paths : Nat} (body : p.body = .marker core rel path paths true)
    (unmarked : (p.src, rel, path) ∉ s.marks) :
    (s.gathered p.src rel + 1 < paths → exec (.fabricPacket p) s = .next ((s.sees p).marked p.src rel path)) ∧
    (paths ≤ s.gathered p.src rel + 1 → (∀ e ∈ s.relStale, ¬ (e.1 = p.src ∧ e.2.1 = rel)) → exec (.fabricPacket p) s = .next (
      if s.staleCopies.isEmpty then ((s.sees p).unmark p.src rel).send p.src 1023 (.done core rel)
      else { (s.sees p).marked p.src rel path with
        relStale := (p.src, rel, s.staleCopies) :: s.relStale, heldRel := s.heldRel ++ [(s.cycle, p)] })) := by
  have same : (s.sees p).gathered p.src rel = s.gathered p.src rel := rfl
  have here : (s.sees p).actOn p = (s.sees p).markerHere p rel path paths true := by rw [State.actOn, body]
  rw [exec_fabricPacket_unmetered fresh member (by rw [body]; rfl), here, markerHere_alone paths (s := s.sees p) unmarked, same]
  refine ⟨fun few => by rw [if_pos few], fun enough first => ?_⟩
  have ready : paths ≤ ((s.sees p).marked p.src rel path).gathered p.src rel := by rw [gathered_marked]; exact enough
  have waits := outerWaits_first (s := (s.sees p).marked p.src rel path) first
  change _ = if s.staleCopies.isEmpty then _ else _ at waits
  rw [if_neg (Nat.not_lt.mpr enough)]
  cases stale : s.staleCopies.isEmpty with
  | true =>
    rw [stale, if_pos rfl] at waits
    rw [holdRelease_performed (tryRelease_marker_performed body ready waits), if_pos rfl, unmark_marked]
  | false =>
    rw [stale, if_neg Bool.false_ne_true] at waits
    rw [holdRelease_waits (tryRelease_marker_held body ready waits), if_neg Bool.false_ne_true]
    rfl

end

/-- Settles O50: an access is refused, read or written by one operation, whoever asks; a packet is dropped, refused, or done. -/
theorem outsideAccess : Obligations.OutsideAccess := by
  unfold Obligations.OutsideAccess
  refine ⟨fun s a => ?_, fun s p => ?_⟩
  · intro own does
    have serves (i : Instr) (a : OuterAccess) (run : exec i s = .next (s.outerAccess a)) : does i a := by
      refine ⟨fun v violates home => ⟨_, run, outerAccess_refused violates home⟩,
        fun allowed _ inside positive => ⟨fun read => ?_, ?_, ?_⟩⟩
      · exact ⟨_, run, outerAccess_read_moves allowed inside positive read⟩
      · intro x we read one at_ ok memory home plain still none_
        exact ⟨_, run, outerAccess_read_stored allowed inside positive read one at_ ok memory home plain still none_⟩
      · intro bs x write length writable unwatched one at_ room ok memory home still
        exact ⟨_, run,
          outerAccess_write_stored allowed inside positive write length writable unwatched one at_ room ok memory home still⟩
    exact ⟨serves _ a (exec_remoteAccess s a), fun link =>
      ⟨fun up => serves _ own (exec_hostWrite_up up a), fun down => ⟨_, exec_hostWrite_down down a, rfl⟩⟩⟩
  · refine ⟨fun seen => ⟨_, exec_fabricPacket_duplicate seen, rfl⟩, fun fresh => ⟨fun stranger core r body =>
      fabricPacket_left_landing fresh stranger body, fun member => ⟨fun core r body => fabricPacket_landing fresh member body,
      fun core q body => fabricPacket_reserve fresh member body, fun core sender pair bgen paths body => ?_,
      fun core rel body => fabricPacket_release fresh member body, fun core rel path paths body unmarked => ?_⟩⟩⟩
    · obtain ⟨ready, waits⟩ := fabricPacket_arrival fresh member body
      exact ⟨fun here => ⟨_, ready here, rfl⟩, fun few => ⟨_, waits few, rfl⟩⟩
    · obtain ⟨waits, last⟩ := fabricPacket_marker fresh member body unmarked
      refine ⟨fun few => ⟨_, waits few, rfl⟩, fun enough first => ⟨fun none_ => ⟨_, last enough first, ?_⟩,
        fun some_ => ⟨_, last enough first, ?_⟩⟩⟩
      · rw [if_pos (by rw [none_]; rfl)]
        rfl
      · rw [if_neg (by simpa using some_)]
        rfl

end Sys2Proof.Machine
end

section
/-! PROOFS. OBJ_DESTROY and the descriptors learned of objects homed elsewhere (R193, R354). -/

namespace Sys2Proof.Machine

open Sys2Proof

/-- The handle of slot 0 of package 0 at generation 5, without rights. -/
def slot0Handle : Word := BitVec.ofNat 64 (5 * 2 ^ 12)

/-- A live object of partition 1 at generation 5. -/
def slot0Desc : Desc := (((0 : Desc).set 0 2 1).set 2 6 1).set 8 20 5

/-- A package that is READY, whose object table lists nothing, and which holds a descriptor of its own slot 0 among those learned of
objects homed elsewhere: `State.desc` reads the one, OBJ_DESTROY the other. No step leads here, and the statement does not exclude it. -/
def learnedOwnSlot : State := { State.reset with
  power := .ready
  parts := [{ k := 1, root := 1 }]
  far := [(0, slot0Desc)]
  windows := [(1, { args := vset (Vector.replicate 16 0) 0 slot0Handle })] }

theorem learnedOwnSlot_accepts : Accepts learnedOwnSlot 1 1 false true := by
  refine ⟨by decide, fun _ => rfl, rfl, by decide, rfl, fun i past inside => ?_⟩
  interval_cases i <;> rfl

/-- The handle that the command names. -/
theorem learnedOwnSlot_arg : vget (learnedOwnSlot.window 1).args 0 0 = slot0Handle := by decide +kernel

/-- The host's partition may destroy the object, and nothing holds it. -/
theorem learnedOwnSlot_allowed :
    learnedOwnSlot.violation ⟨1, .host, 1023, learnedOwnSlot.pkg⟩ slot0Handle (some 0) = none ∧
    hHome slot0Handle = learnedOwnSlot.pkg ∧ (learnedOwnSlot.desc slot0Handle).part = 1 ∧
    hRights slot0Handle = (learnedOwnSlot.desc slot0Handle).rights ∧ (learnedOwnSlot.desc slot0Handle).f 436 2 = 0 ∧
    learnedOwnSlot.objectBusy (hKey slot0Handle) = false := by decide +kernel

/-- The slot, and the generation that the rule asks for. -/
theorem learnedOwnSlot_names :
    hKey slot0Handle = 0 ∧ ((learnedOwnSlot.desc slot0Handle).gen + 1) % 2 ^ 20 = 6 := by decide +kernel

/-- The generation rises from 0, that of the slot that the table does not list. -/
theorem learnedOwnSlot_destroyed :
    (match exec (.objDestroy 1) learnedOwnSlot with | .next t => (mget t.descs 0).map Desc.gen | _ => none) = some 1 := by
  decide +kernel

/-- Refutes O54: where the table lists no descriptor of a slot, but one is held as learned, OBJ_DESTROY raises the generation of the
empty entry, to 1, and not that of the descriptor that the handle names, to 6. -/
theorem not_objectCommands : ¬ Obligations.ObjectCommands := by
  unfold Obligations.ObjectCommands
  intro holds
  obtain ⟨-, destroys, -⟩ := holds learnedOwnSlot 1 (by decide)
  obtain ⟨-, checked⟩ := destroys learnedOwnSlot_accepts
  simp only [learnedOwnSlot_arg] at checked
  obtain ⟨allowed, home, mine, rights, free, idle⟩ := learnedOwnSlot_allowed
  obtain ⟨-, -, destroyed⟩ := checked allowed home mine rights
  obtain ⟨t, run, -, ⟨d, listed, generation, -⟩, -⟩ := destroyed free idle
  obtain ⟨key, gen⟩ := learnedOwnSlot_names
  have model := learnedOwnSlot_destroyed
  rw [key] at listed
  rw [gen] at generation
  simp only [run, listed, Option.map_some, generation] at model
  cases model

end Sys2Proof.Machine
end

section
/-! PROOFS. Folds: what every step keeps, the whole keeps, and what one step brings about stands at the end. -/

namespace Sys2Proof.Machine

section
variable {σ α : Type} {r : σ → σ → Prop} {f : σ → α → σ} {l : List α} {s : σ}

theorem foldl_related (refl : ∀ s, r s s) (trans : ∀ {s t u}, r s t → r t u → r s u) (step : ∀ s, ∀ a ∈ l, r s (f s a)) (s : σ) :
    r s (l.foldl f s) :=
  List.foldlRecOn l f (refl s) fun t so_far a mem => trans so_far (step t a mem)

theorem foldl_still (still : ∀ a ∈ l, f s a = s) : l.foldl f s = s :=
  List.foldlRecOn (motive := (· = s)) l f rfl fun t so_far a mem => by rw [so_far, still a mem]

theorem foldl_reaches (refl : ∀ s, r s s) (trans : ∀ {s t u}, r s t → r t u → r s u) (step : ∀ s, ∀ a ∈ l, r s (f s a))
    {p : σ → Prop} (keeps : ∀ s t, r s t → p s → p t) {a : α} (mem : a ∈ l) (hit : ∀ t, r s t → p (f t a)) : p (l.foldl f s) := by
  obtain ⟨before, after, rfl⟩ := List.append_of_mem mem
  rw [List.foldl_append, List.foldl_cons]
  refine keeps _ _ (foldl_related refl trans (fun t b here => step t b ?_) _) (hit _ (foldl_related refl trans (fun t b here => step t b ?_) s))
  · exact List.mem_append_right _ (List.mem_cons_of_mem _ here)
  · exact List.mem_append_left _ here

end

end Sys2Proof.Machine
end

section
/-! PROOFS. Ports (R209, R375, R376): what goes again when one stops, and what goes at last once one is UP. -/

namespace Sys2Proof.Machine

open Sys2Proof

/-! ### The table of ports -/

theorem mput_mput {α : Type} (l : List (Nat × α)) (k : Nat) (a b : α) : mput (mput l k a) k b = mput l k b := by
  induction l with
  | nil => simp [mput]
  | cons p t ih =>
    obtain ⟨j, x⟩ := p
    by_cases before : k < j
    · simp [mput, before]
    · by_cases here : k = j
      · simp [mput, here]
      · simp [mput, before, here, ih]

theorem mem_of_mget {α : Type} {l : List (Nat × α)} {k : Nat} {a : α} (listed : mget l k = some a) : (k, a) ∈ l := by
  induction l with
  | nil => cases listed
  | cons p t ih =>
    obtain ⟨j, x⟩ := p
    by_cases here : j = k
    · rw [mget, if_pos here] at listed
      cases here; cases listed
      exact List.mem_cons_self ..
    · rw [mget, if_neg here] at listed
      exact List.mem_cons_of_mem _ (ih listed)

def State.putPort (s : State) (n : Nat) (q : Port) : State := { s with ports := mput s.ports n q }

theorem modPort_eq (s : State) (n : Nat) (f : Port → Port) : s.modPort n f = s.putPort n (f (s.port n)) := rfl

theorem port_putPort (s : State) (n : Nat) (q : Port) : (s.putPort n q).port n = q := by
  show (mget (mput s.ports n q) n).getD {} = q
  rw [mget_mput, if_pos rfl]; rfl

theorem putPort_putPort (s : State) (n : Nat) (p q : Port) : (s.putPort n p).putPort n q = s.putPort n q :=
  congrArg (fun l => { s with ports := l }) (mput_mput ..)

/-- A port that is UP is a live path. -/
theorem livePaths_putPort (s : State) (n : Nat) {q : Port} (up : q.st = .up) : (s.putPort n q).livePaths ≠ [] := by
  have listed : (n, q) ∈ (s.putPort n q).ports := mem_of_mget (by rw [State.putPort, mget_mput, if_pos rfl])
  have live : n ∈ (s.putPort n q).livePaths := List.mem_map.mpr ⟨_, List.mem_filter.mpr ⟨listed, decide_eq_true up⟩, rfl⟩
  exact List.ne_nil_of_mem live

/-! ### What goes again (R209, R375) -/

/-- What has been sent to other packages, and over which ports, differs alone; nothing that was sent is taken back. -/
structure Resends (s t : State) : Prop where
  frame : t = { s with outbox := t.outbox, sent := t.sent, via := t.via, fresh := t.fresh }
  kept  : ∀ e ∈ s.outbox, e ∈ t.outbox

theorem Resends.refl (s : State) : Resends s s := ⟨rfl, fun _ mem => mem⟩

theorem Resends.trans {s t u : State} (h : Resends s t) (k : Resends t u) : Resends s u :=
  ⟨by rw [k.frame, h.frame], fun e mem => k.kept e (h.kept e mem)⟩

section
variable {s t : State} (h : Resends s t)
include h

theorem Resends.livePaths : t.livePaths = s.livePaths := by rw [h.frame]; rfl
theorem Resends.pkg : t.pkg = s.pkg := by rw [h.frame]
theorem Resends.cores : t.cores = s.cores := by rw [h.frame]; rfl

end

theorem send_resends (s : State) (pkg core : Nat) (b : PacketBody) : Resends s (s.send pkg core b) :=
  ⟨rfl, fun _ mem => List.mem_cons_of_mem _ mem⟩

theorem choose_resends {s t : State} {k m : Nat} (drawn : s.choose k = (m, t)) : Resends s t := by
  cases drawn
  exact ⟨rfl, fun _ mem => mem⟩

theorem via_resends (s : State) (l : List (Nat × Nat × Nat)) : Resends s { s with via := l } := ⟨rfl, fun _ mem => mem⟩

theorem route_resends (s : State) (pkg seq : Nat) : Resends s (s.route pkg seq) := by
  unfold State.route
  split
  · exact via_resends ..
  · exact .refl s

/-- A package is reached over a live path, if there is one. -/
theorem nextPort_live {s : State} (live : s.livePaths ≠ []) (pkg : Nat) : ∃ n, s.nextPort pkg = some n := by
  obtain ⟨n, rest, path⟩ := List.exists_cons_of_ne_nil live
  unfold State.nextPort
  split
  next v _ =>
    cases later : s.livePaths.find? fun n => v.2.2 < n with
    | none => exact ⟨n, by rw [path]; rfl⟩
    | some m => exact ⟨m, rfl⟩
  next => exact ⟨n, by rw [path]; rfl⟩

theorem reroute_resends (s : State) (n : Nat) : Resends s (s.reroute n) :=
  foldl_related Resends.refl Resends.trans (fun s v _ => by
    split
    · exact .refl s
    · split
      next u drawn => exact choose_resends drawn
      next u _ drawn =>
        exact (choose_resends drawn).trans ((via_resends ..).trans (route_resends ..))) s

theorem reroute_unused {s : State} {n : Nat} (unused : ∀ v ∈ s.via, v.2.2 ≠ n) : s.reroute n = s :=
  foldl_still fun v mem => if_pos (unused v (List.mem_reverse.mp mem))

/-- The marker of a release goes again where it went over path n and another path lives. -/
def State.remark (n : Nat) (c : Core) (s : State) (r : Nat × Nat × List Nat) : State :=
  match r.2.2.contains n, s.livePaths with
  | true, _ :: _ =>
    s.send r.1 c.id (.marker c.id r.2.1 n r.2.2.length (match c.asking.map decodeWord with
      | some (.ok (_, .opub)) | some (.ok (_, .over)) => decide (r.1 ≠ hHome (c.arch.getStg 4 0))
      | _ => false))
  | _, _ => s

theorem resendMarkers_eq (s : State) (n : Nat) :
    s.resendMarkers n = s.cores.foldl (fun s c => c.relOut.foldl (State.remark n c) s) s := rfl

theorem remark_resends (n : Nat) (c : Core) (s : State) (r : Nat × Nat × List Nat) : Resends s (s.remark n c r) := by
  unfold State.remark
  split
  · exact send_resends ..
  · exact .refl s

theorem remarks_resends (n : Nat) (c : Core) (s : State) : Resends s (c.relOut.foldl (State.remark n c) s) :=
  foldl_related Resends.refl Resends.trans (fun s r _ => remark_resends n c s r) s

theorem resendMarkers_resends (s : State) (n : Nat) : Resends s (s.resendMarkers n) :=
  foldl_related Resends.refl Resends.trans (fun s c _ => remarks_resends n c s) s

theorem resendMarkers_unused {s : State} {n : Nat} (unused : ∀ c ∈ s.cores, ∀ r ∈ c.relOut, n ∉ r.2.2) : s.resendMarkers n = s := by
  rw [resendMarkers_eq]
  refine foldl_still fun c core => foldl_still fun r release => ?_
  have absent : r.2.2.contains n = false := by simpa using unused c core r release
  simp only [State.remark, absent]

/-- A flush marker of a release has been sent for path n, under some number. -/
def MarkerSent (pkg n : Nat) (c : Core) (r : Nat × Nat × List Nat) (t : State) : Prop :=
  ∃ a m, (r.1, ({ src := pkg, srcCore := c.id, seq := m, body := .marker c.id r.2.1 n r.2.2.length a } : Packet)) ∈ t.outbox

theorem Resends.markerSent (pkg n : Nat) (c : Core) (r : Nat × Nat × List Nat) (s t : State) (h : Resends s t)
    (gone : MarkerSent pkg n c r s) : MarkerSent pkg n c r t := by
  obtain ⟨a, m, mem⟩ := gone
  exact ⟨a, m, h.kept _ mem⟩

/-- The markers that went over a path go again, where another path lives. -/
theorem resendMarkers_sends {s : State} {n : Nat} {c : Core} {r : Nat × Nat × List Nat} (live : s.livePaths ≠ []) (core : c ∈ s.cores)
    (release : r ∈ c.relOut) (path : n ∈ r.2.2) : MarkerSent s.pkg n c r (s.resendMarkers n) := by
  rw [resendMarkers_eq]
  refine foldl_reaches Resends.refl Resends.trans (fun s c _ => remarks_resends n c s) (Resends.markerSent s.pkg n c r) core
    fun t before => foldl_reaches Resends.refl Resends.trans (fun s r _ => remark_resends n c s r) (Resends.markerSent s.pkg n c r) release
      fun u between => ?_
  have so_far := before.trans between
  have used : r.2.2.contains n = true := by simpa using path
  obtain ⟨first, rest, paths⟩ := List.exists_cons_of_ne_nil (so_far.livePaths ▸ live)
  simp only [State.remark, used, paths]
  rw [← so_far.pkg]
  exact ⟨_, _, List.mem_cons_self ..⟩

/-- A port has stopped: what it sent, and the markers that went over it, go again (R209, R375). -/
def State.resend (s : State) (n : Nat) : State := (s.reroute n).resendMarkers n

theorem resend_resends (s : State) (n : Nat) : Resends s (s.resend n) :=
  (reroute_resends s n).trans (resendMarkers_resends ..)

theorem resend_markers {s : State} {n : Nat} {c : Core} {r : Nat × Nat × List Nat} (live : s.livePaths ≠ []) (core : c ∈ s.cores)
    (release : r ∈ c.relOut) (path : n ∈ r.2.2) : MarkerSent s.pkg n c r (s.resend n) := by
  have first := reroute_resends s n
  rw [← first.pkg]
  exact resendMarkers_sends (first.livePaths ▸ live) (first.cores ▸ core) release path

theorem resend_unused {s : State} {n : Nat} (sent : ∀ v ∈ s.via, v.2.2 ≠ n) (marked : ∀ c ∈ s.cores, ∀ r ∈ c.relOut, n ∉ r.2.2) :
    s.resend n = s := by
  rw [State.resend, reroute_unused sent, resendMarkers_unused marked]

/-! ### What goes at last (R375) -/

/-- Packets that waited have taken ports; no packet's port is forgotten. -/
structure Routes (s t : State) : Prop where
  frame : t = { s with via := t.via }
  kept  : ∀ v ∈ s.via, v ∈ t.via

theorem Routes.refl (s : State) : Routes s s := ⟨rfl, fun _ mem => mem⟩

theorem Routes.trans {s t u : State} (h : Routes s t) (k : Routes t u) : Routes s u :=
  ⟨by rw [k.frame, h.frame], fun v mem => k.kept v (h.kept v mem)⟩

theorem route_routes (s : State) (pkg seq : Nat) : Routes s (s.route pkg seq) := by
  unfold State.route
  split
  · exact ⟨rfl, fun _ mem => List.mem_cons_of_mem _ mem⟩
  · exact .refl s

/-- A packet goes where it has not gone yet. -/
def State.routeOnce (s : State) (p : Nat × Packet) : State :=
  if s.via.any fun v => v.2.1 = p.2.seq then s else s.route p.1 p.2.seq

theorem routeOnce_routes (s : State) (p : Nat × Packet) : Routes s (s.routeOnce p) := by
  unfold State.routeOnce
  split
  · exact .refl s
  · exact route_routes ..

theorem routeWaiting_routes (s : State) : Routes s s.routeWaiting :=
  foldl_related Routes.refl Routes.trans (fun s p _ => routeOnce_routes s p) s

/-- Once a path lives, every packet that was sent has gone over some port. -/
theorem routeWaiting_sent {s : State} (live : s.livePaths ≠ []) {p : Nat × Packet} (waits : p ∈ s.outbox) :
    ∃ v ∈ s.routeWaiting.via, v.2.1 = p.2.seq := by
  refine foldl_reaches (p := fun t : State => ∃ v ∈ t.via, v.2.1 = p.2.seq) Routes.refl Routes.trans (fun s p _ => routeOnce_routes s p)
    (fun s t h ⟨v, mem, gone⟩ => ⟨v, h.kept v mem, gone⟩) (List.mem_reverse.mpr waits) fun t before => ?_
  have live : t.livePaths ≠ [] := by rw [before.frame]; exact live
  show ∃ v ∈ (t.routeOnce p).via, v.2.1 = p.2.seq
  unfold State.routeOnce
  split
  next gone => simpa using gone
  next =>
    obtain ⟨n, port⟩ := nextPort_live live p.1
    rw [State.route, port]
    exact ⟨_, List.mem_cons_self .., rfl⟩

/-! ### Port events -/

section
variable {s : State} {n : Nat}

theorem exec_portEnableWrite_on (present : n < 72) : exec (.portEnableWrite n true) s = .next (s.putPort n
    { s.port n with en := true, st := if (s.port n).st = .down && fitted n then .training else (s.port n).st }) := by
  show Host.Outcome.next (s.setPort n true) = _
  rw [State.setPort, if_neg (by omega), if_pos rfl]; rfl

theorem exec_portEnableWrite_absent (absent : 72 ≤ n) (en : Bool) : exec (.portEnableWrite n en) s = .next s := by
  show Host.Outcome.next (s.setPort n en) = _
  rw [State.setPort, if_pos absent]

theorem exec_portEnableWrite_off (present : n < 72) : exec (.portEnableWrite n false) s =
    .next (if (s.port n).st = .up then (s.putPort n { s.port n with en := false, st := .down }).resend n
      else s.putPort n { s.port n with en := false, st := .down }) := by
  show Host.Outcome.next (s.setPort n false) = _
  rw [State.setPort, if_neg (by omega), if_neg (by decide)]
  simp only [modPort_eq, State.portStops, port_putPort, putPort_putPort, beq_iff_eq]
  rfl

theorem exec_portFailure_up (up : (s.port n).st = .up) : exec (.portFailure n) s =
    .next (if (s.port n).st = .up then (s.putPort n { s.port n with st := .failed }).resend n
      else s.putPort n { s.port n with st := .failed }) := by
  rw [if_pos up]
  exact congrArg Host.Outcome.next (if_pos up)

theorem exec_portFailure_idle (idle : (s.port n).st ≠ .up) : exec (.portFailure n) s = .next s :=
  congrArg Host.Outcome.next (if_neg idle)

/-- The port goes down: what an event that takes it from UP does, and what one does that meets it in another state. -/
theorem completes_portDown {i : Instr} {q : Port}
    (run : exec i s = .next (if (s.port n).st = .up then (s.putPort n q).resend n else s.putPort n q)) :
    Completes i s fun t =>
      t = { s.putPort n q with outbox := t.outbox, sent := t.sent, via := t.via, fresh := t.fresh } ∧
      (∀ c ∈ s.cores, ∀ r ∈ c.relOut, n ∈ r.2.2 → (s.port n).st = .up → (s.putPort n q).livePaths ≠ [] → MarkerSent s.pkg n c r t) ∧
      (((s.port n).st ≠ .up ∨ (∀ v ∈ s.via, v.2.2 ≠ n) ∧ ∀ c ∈ s.cores, ∀ r ∈ c.relOut, n ∉ r.2.2) → t = s.putPort n q) := by
  by_cases up : (s.port n).st = .up
  · rw [if_pos up] at run
    refine ⟨_, run, (resend_resends ..).frame, fun c core r release path _ live => resend_markers live core release path, ?_⟩
    rintro (idle | ⟨sent, marked⟩)
    · exact absurd up idle
    · exact resend_unused sent marked
  · rw [if_neg up] at run
    exact ⟨_, run, rfl, fun _ _ _ _ _ was => absurd was up, fun _ => rfl⟩

theorem exec_portTraining_other (other : (s.port n).st ≠ .training) (ok : Bool) (peer : Nat) :
    exec (.portTrainingComplete n ok peer) s = .next s := congrArg Host.Outcome.next (if_pos other)

theorem exec_portTraining_fails (training : (s.port n).st = .training) (peer : Nat) :
    exec (.portTrainingComplete n false peer) s = .next (s.putPort n { s.port n with st := .failed }) :=
  congrArg Host.Outcome.next (if_neg (not_not_intro training))

/-- The port as it stands UP toward a package. -/
def State.trained (s : State) (n peer : Nat) : Port :=
  { s.port n with st := .up, peer := BitVec.ofNat 9 peer, fecs := [(s.cycle, 0)] }

theorem exec_portTraining_ok (training : (s.port n).st = .training) (peer : Nat) :
    exec (.portTrainingComplete n true peer) s = .next (
      let t := (s.putPort n (s.trained n peer)).routeWaiting
      if t.members.contains peer then t else { t with members := t.members ++ [peer] }) :=
  congrArg Host.Outcome.next (if_neg (not_not_intro training))

/-- A port comes UP: its peer joins the domain, and the packets that waited go (R375, R376). -/
theorem completes_portTraining (training : (s.port n).st = .training) (peer : Nat) :
    Completes (.portTrainingComplete n true peer) s fun t =>
      t.port n = s.trained n peer ∧ peer ∈ t.members ∧ (∀ m ∈ s.members, m ∈ t.members) ∧
      (∀ v ∈ s.via, v ∈ t.via) ∧ (∀ o ∈ s.outbox, ∃ v ∈ t.via, v.2.1 = o.2.seq) ∧
      t = { s with ports := t.ports, members := t.members, via := t.via } := by
  refine ⟨_, exec_portTraining_ok training peer, ?_⟩
  have routes := routeWaiting_routes (s.putPort n (s.trained n peer))
  have sent (o) (mem : o ∈ s.outbox) := routeWaiting_sent (livePaths_putPort s n (q := s.trained n peer) rfl) (p := o) mem
  have up := port_putPort s n (s.trained n peer)
  generalize (s.putPort n (s.trained n peer)).routeWaiting = t at routes sent
  obtain ⟨frame, kept⟩ := routes
  have port : t.port n = s.trained n peer := by rw [frame]; exact up
  have members : ∀ m ∈ s.members, m ∈ t.members := by rw [frame]; exact fun _ mem => mem
  dsimp only
  split
  next known =>
    refine ⟨port, by simpa using known, members, kept, sent, ?_⟩
    rw [frame]; rfl
  next =>
    refine ⟨port, by simp, fun m mem => List.mem_append_left _ (members m mem), kept, sent, ?_⟩
    rw [frame]; rfl

end

end Sys2Proof.Machine
end

section
/-! PROOFS. Heat and the boot (R364, R379), and the package's events together. -/

namespace Sys2Proof.Machine

open Sys2Proof

theorem isPowerGood_iff (i : Instr) : Instr.isPowerGood i = true ↔ i = .powerGood := by
  unfold Instr.isPowerGood
  split
  next => simp
  next other => simpa using other

section
variable {s : State} {n : Nat}

/-- An order to gate or ungate away from a boundary of a core cycle waits (R379). -/
theorem orderGate_waits (between : s.clock % 32 ≠ 0) (on : Bool) :
    s.orderGate n on = { s with dies := vset s.dies n { s.die n with gateAsk := some on } } := by
  simp only [State.orderGate, State.modDie, if_neg between]

theorem orderGate_now (boundary : s.clock % 32 = 0) (on : Bool) :
    s.orderGate n on = { s with dies := vset s.dies n { s.die n with gated := on, gateAsk := none } } := by
  simp only [State.orderGate, State.modDie, if_pos boundary]

theorem completes_thermalShutdown : Completes .thermalShutdown s fun t =>
    t = { State.reset with power := .off, clock := s.clock, agenda := t.agenda } ∧
    ∀ e, e ∈ t.agenda ↔ e ∈ s.agenda ∧ e.2 = .powerGood := by
  refine ⟨_, rfl, rfl, fun e => ?_⟩
  rw [List.mem_filter, isPowerGood_iff]

theorem completes_powerGood_cold (cold : s.power = .cold) : Completes .powerGood s fun t => ∃ d, d < 20000000 ∧
    t = { s with power := .booting, bstep := 1, bootAt := s.cycle + d, fresh := s.fresh + 1 } :=
  ⟨_, congrArg Host.Outcome.next (if_pos cold), _, Nat.mod_lt _ (by decide), rfl⟩

theorem completes_powerGood_off (off : s.power = .off) :
    Completes .powerGood s fun t => t.power = .booting ∧ t.bstep = 1 ∧ t.clock = 0 ∧ t.mem = s.mem :=
  ⟨_, congrArg Host.Outcome.next ((if_neg (by rw [off]; decide)).trans (if_pos off)), rfl, rfl, rfl, rfl⟩

theorem exec_powerGood_on (warm : s.power ≠ .cold) (on : s.power ≠ .off) : exec .powerGood s = .next s :=
  congrArg Host.Outcome.next ((if_neg warm).trans (if_neg on))

/-- DETAIL as a step that fails leaves it: the event's number, where the step's table has it (R364). -/
def failDetail (b : Nat) (d : BitVec 16) : BitVec 16 :=
  if bootDetail b d.toNat then d else if b = 1 then 24 else if b = 3 then 1 else 0

theorem failDetail_known {b : Nat} {d : BitVec 16} (known : bootDetail b d.toNat = true) : failDetail b d = d := if_pos known

theorem failDetail_first {b : Nat} {d : BitVec 16} (unknown : ¬ bootDetail b d.toNat = true) :
    failDetail b d = if b = 1 then 24 else if b = 3 then 1 else 0 := if_neg unknown

theorem failDetail_1 (d : BitVec 16) : failDetail 1 d = 24 ∨ failDetail 1 d = 25 := by
  by_cases known : bootDetail 1 d.toNat = true
  · rw [failDetail_known known]
    have numbers : d.toNat = 24 ∨ d.toNat = 25 := by simpa [bootDetail] using known
    exact numbers.imp (fun e => BitVec.eq_of_toNat_eq e) fun e => BitVec.eq_of_toNat_eq e
  · exact .inl (failDetail_first known)

theorem failDetail_zero {b : Nat} (zero : b = 2 ∨ b = 9) (d : BitVec 16) : failDetail b d = 0 := by
  have other : (b = 1) = False ∧ (b = 3) = False := by constructor <;> simp only [eq_iff_iff, iff_false] <;> omega
  by_cases known : bootDetail b d.toNat = true
  · rw [failDetail_known known]
    have number : d.toNat = 0 := by rcases zero with rfl | rfl <;> simpa [bootDetail] using known
    exact BitVec.eq_of_toNat_eq number
  · rw [failDetail_first known]
    simp only [other, ↓reduceIte]

theorem failDetail_3 (d : BitVec 16) : failDetail 3 d ∈ ([1, 2, 3] : List (BitVec 16)) := by
  by_cases known : bootDetail 3 d.toNat = true
  · rw [failDetail_known known]
    have between : 1 ≤ d.toNat ∧ d.toNat ≤ 3 := by simpa [bootDetail] using known
    have numbers : d.toNat = 1 ∨ d.toNat = 2 ∨ d.toNat = 3 := by omega
    simp only [List.mem_cons, List.not_mem_nil, or_false]
    exact numbers.imp (fun e => BitVec.eq_of_toNat_eq e) (·.imp (fun e => BitVec.eq_of_toNat_eq e) fun e => BitVec.eq_of_toNat_eq e)
  · rw [failDetail_first known]; decide

theorem failDetail_5 (d : BitVec 16) : (failDetail 5 d).toNat < 512 := by
  by_cases known : bootDetail 5 d.toNat = true
  · rw [failDetail_known known]
    simpa [bootDetail] using known
  · rw [failDetail_first known]; decide

theorem failDetail_any {b : Nat} (any : b = 6 ∨ b = 7) (d : BitVec 16) : failDetail b d = d :=
  failDetail_known (by rcases any with rfl | rfl <;> rfl)

theorem exec_bootStepTimeout_fails (booting : s.power = .booting) (other : s.bstep ≠ 8) (d : BitVec 16) :
    exec (.bootStepTimeout d) s = .next (s.bootFail (failDetail s.bstep.toNat d)) :=
  congrArg Host.Outcome.next (if_pos ⟨booting, fun e => other (BitVec.eq_of_toNat_eq e)⟩)

theorem exec_bootStepTimeout_passes (passes : s.power ≠ .booting ∨ s.bstep = 8) (d : BitVec 16) : exec (.bootStepTimeout d) s = .next s := by
  refine congrArg Host.Outcome.next (if_neg ?_)
  rintro ⟨booting, other⟩
  rcases passes with power | step
  · exact power booting
  · exact other (by rw [step]; rfl)

/-- A boot that fails: sys0 halts, and BOOTSTAT tells the step. -/
theorem bootFail_spec (s : State) (d : BitVec 16) :
    (s.bootFail d).power = .bootFailed ∧ (s.bootFail d).failstep = s.bstep ∧ (s.bootFail d).bdetail = d ∧
    (s.bootFail d).coreOf 768 = { s.coreOf 768 with state := .halted } ∧
    s.bootFail d = { s with
      core := (s.bootFail d).core, parked := (s.bootFail d).parked, power := (s.bootFail d).power, failstep := (s.bootFail d).failstep
      bdetail := (s.bootFail d).bdetail } := by
  have frame := putCore_frame { s with power := .bootFailed, failstep := s.bstep, bdetail := d } { s.coreOf 768 with state := .halted }
  have same : s.bootFail d =
      State.putCore { s with power := .bootFailed, failstep := s.bstep, bdetail := d } { s.coreOf 768 with state := .halted } := rfl
  rw [same]
  refine ⟨by rw [frame], by rw [frame], by rw [frame], ?_, by rw [frame]⟩
  rw [coreOf_putCore, if_pos (coreOf_id s 768).symm]

theorem completes_bootStepTimeout (booting : s.power = .booting) (other : s.bstep ≠ 8) (d : BitVec 16) :
    Completes (.bootStepTimeout d) s fun t =>
      t.power = .bootFailed ∧ t.failstep = s.bstep ∧ (s.bstep = 1 → t.bdetail = 24 ∨ t.bdetail = 25) ∧
      (s.bstep = 2 ∨ s.bstep = 9 → t.bdetail = 0) ∧ (s.bstep = 3 → t.bdetail ∈ ([1, 2, 3] : List (BitVec 16))) ∧
      (s.bstep = 5 → t.bdetail.toNat < 512) ∧ (s.bstep = 6 ∨ s.bstep = 7 → t.bdetail = d) ∧
      t.coreOf 768 = { s.coreOf 768 with state := .halted } ∧
      t = { s with core := t.core, parked := t.parked, power := t.power, failstep := t.failstep, bdetail := t.bdetail } := by
  obtain ⟨power, failstep, detail, sys0, frame⟩ := bootFail_spec s (failDetail s.bstep.toNat d)
  refine ⟨_, exec_bootStepTimeout_fails booting other d, power, failstep, ?_, ?_, ?_, ?_, ?_, sys0, frame⟩ <;> rw [detail]
  · intro step; rw [step]; exact failDetail_1 d
  · intro step; exact failDetail_zero (step.imp (congrArg BitVec.toNat) (congrArg BitVec.toNat)) d
  · intro step; rw [step]; exact failDetail_3 d
  · intro step; rw [step]; exact failDetail_5 d
  · intro step; exact failDetail_any (step.imp (congrArg BitVec.toNat) (congrArg BitVec.toNat)) d

end

/-- Settles O49: a port that leaves UP sends again what it had sent, one that comes UP sends what waited, and the links, the gates and the
boot take the states of R364, R377 and R379. -/
theorem packageEvents : Obligations.PackageEvents := by
  unfold Obligations.PackageEvents
  intro s n
  refine ⟨fun present named => ⟨?_, ?_⟩, fun absent en => ⟨_, exec_portEnableWrite_absent absent en, rfl⟩, fun present unnamed => ⟨?_, ?_⟩,
    fun peer => ⟨fun other ok => ⟨_, exec_portTraining_other other ok peer, rfl⟩, fun training => ⟨_, exec_portTraining_fails training peer, rfl⟩,
      fun training => completes_portTraining training peer⟩,
    fun up => completes_portDown (exec_portFailure_up up), fun idle => ⟨_, exec_portFailure_idle idle, rfl⟩,
    ⟨⟨_, rfl, rfl⟩, ⟨_, rfl, rfl⟩, ⟨_, rfl, rfl⟩, ⟨_, rfl, rfl⟩⟩,
    fun _ between => ⟨⟨_, rfl, orderGate_waits between true⟩, ⟨_, rfl, orderGate_waits between false⟩⟩,
    fun _ boundary => ⟨⟨_, rfl, orderGate_now boundary true⟩, ⟨_, rfl, orderGate_now boundary false⟩⟩,
    completes_thermalShutdown, completes_powerGood_cold, completes_powerGood_off, fun warm on => ⟨_, exec_powerGood_on warm on, rfl⟩,
    fun d booting other => completes_bootStepTimeout booting other d, fun d passes => ⟨_, exec_bootStepTimeout_passes passes d, rfl⟩⟩
  · exact ⟨_, exec_portEnableWrite_on present, by simp [fitted, named]; rfl⟩
  · exact completes_portDown (exec_portEnableWrite_off present)
  · exact ⟨_, exec_portEnableWrite_on present, by simp [fitted, unnamed]; rfl⟩
  · exact completes_portDown (exec_portEnableWrite_off present)

end Sys2Proof.Machine
end

section
/-! PROOFS. Sync words as they issue (R214): what the request found, and that the core asks no more. -/

namespace Sys2Proof.Machine

open Sys2Proof

/-- The core has its answer, and asks no more. -/
def State.answered (s : State) : State := s.onCore fun c => { c with accepted := none, asking := none }

/-- What a request found as its word issues: its effect stands, or its fault is taken. -/
def Synced.issues (r : Synced) : State :=
  match r.1 with
  | .ok => r.2.answered
  | .fault c info aux => r.2.answered.fault c info aux

section
variable {s : State} {i : Instr}

theorem syncIssue_accepted {r : SyncResult} (accepted : s.core.accepted = some r) : s.syncIssue i = Synced.issues (r, s) := by
  unfold State.syncIssue
  rw [accepted]
  rfl

theorem syncIssue_performs (waiting : s.core.accepted = none) : s.syncIssue i = Synced.issues (s.syncPerform i) := by
  unfold State.syncIssue
  rw [waiting]
  rfl

variable (meaning : exec i s = s.computeWord i fun s => s.syncIssue i) (compute : s.core.isSys = false) (wf : i.wf = true)
include meaning compute wf

theorem exec_sync_accepted {r : SyncResult} (accepted : s.core.accepted = some r) : exec i s = .next (Synced.issues (r, s)) := by
  rw [meaning, State.computeWord_next s i _ compute wf, syncIssue_accepted accepted]

theorem exec_sync_performs (waiting : s.core.accepted = none) {r : Synced} (found : s.syncPerform i = r) :
    exec i s = .next r.issues := by
  rw [meaning, State.computeWord_next s i _ compute wf, syncIssue_performs waiting, found]

end

/-! ### Handles homed here (R214, R215) -/

section
variable {s : State} {h : Word} {need : Nat} (home : hHome h = s.pkg)
include home

theorem syncCheck_passes (allowed : s.violation (s.core.requester s.pkg .core) h (some need) = none) (k : State → Synced) :
    s.syncCheck h need k = k s := by
  unfold State.syncCheck
  rw [learn_of_home home]
  simp only [allowed]

theorem pubCheck_passes (allowed : s.violation (s.core.requester s.pkg .core) h (some 8) = none)
    (joined : s.core.writeErr (hKey h) = none) (k : State → Synced) : s.pubCheck h k = k s := by
  unfold State.pubCheck
  rw [syncCheck_passes home allowed]
  simp only [joined]

end

theorem hKey_home (h : Word) : hKey h / 2 ^ 23 = hHome h := by
  exact Nat.div_div_eq_div_mul ..

/-! ### The publish request (R215) -/

section
variable {s : State} {chosen : Option Nat} (home : hHome (s.sy 0) = s.pkg)
  (allowed : s.violation (s.core.requester s.pkg .core) (s.sy 0) (some 8) = none) (joined : s.core.writeErr (hKey (s.sy 0)) = none)
include home allowed joined

theorem pubRequest_fails {c : BitVec 8} (version : pubVersion (s.desc (s.sy 0)).vcur chosen = .error c) :
    s.pubRequest chosen = (.fault c (s.sy 0) 0, s) := by
  unfold State.pubRequest
  rw [pubCheck_passes home allowed joined]
  simp only [version]
  rfl

theorem pubRequest_idle (version : pubVersion (s.desc (s.sy 0)).vcur chosen = .ok none) : s.pubRequest chosen = (.ok, s) := by
  unfold State.pubRequest
  rw [pubCheck_passes home allowed joined]
  simp only [version]

theorem pubRequest_publishes {v : Nat} (version : pubVersion (s.desc (s.sy 0)).vcur chosen = .ok (some v)) :
    s.pubRequest chosen = (.ok, s.publish s.pkg s.core.id (hKey (s.sy 0)) v) := by
  unfold State.pubRequest
  rw [pubCheck_passes home allowed joined]
  simp only [version, home, if_true]

end

section
variable {n v : Nat}

theorem pubVersion_next (room : n < 2 ^ 32 - 1) : pubVersion n none = .ok (some (n + 1)) := if_neg (by omega)
theorem pubVersion_last : pubVersion (2 ^ 32 - 1) none = .error 0x0D := rfl
theorem pubVersion_wide (wide : 2 ^ 32 ≤ v) : pubVersion n (some v) = .error 0x0D := if_pos wide

theorem pubVersion_past (past : v ≤ n) (small : n < 2 ^ 32) : pubVersion n (some v) = .ok none := by
  rw [pubVersion, if_neg (by omega), if_pos past]

theorem pubVersion_chosen (later : n < v) (small : v < 2 ^ 32) : pubVersion n (some v) = .ok (some v) := by
  rw [pubVersion, if_neg (by omega), if_neg (by omega)]

end

theorem vcur_lt (d : Desc) : d.vcur < 2 ^ 32 := Nat.mod_lt _ (by decide)

end Sys2Proof.Machine
end

section
/-! PROOFS. What a publish leaves (R202, R205, R215). -/

namespace Sys2Proof.Machine

open Sys2Proof

/-! ### The descriptor -/

theorem set_getLsbD (d : Desc) (lo n v : Nat) {j : Nat} (inside : j < 512) :
    (Desc.set d lo n v).getLsbD j = if lo ≤ j ∧ j < lo + n then v.testBit (j - lo) else d.getLsbD j := by
  unfold Desc.set Desc.f
  rw [BitVec.getLsbD_ofNat, testBit_replaceField, decide_eq_true inside, Bool.true_and, BitVec.testBit_toNat]

theorem replicated_eq (d : Desc) : Desc.replicated d = d.getLsbD 57 := by
  rw [Desc.replicated, Desc.f, ← BitVec.testBit_toNat, Nat.testBit_eq_decide_div_mod_eq, pow_one]
  rfl

theorem replicated_version (d : Desc) (v : Nat) : Desc.replicated (Desc.set d 256 32 v) = Desc.replicated d := by
  rw [replicated_eq, replicated_eq, set_getLsbD d 256 32 v (by decide), if_neg (by omega)]

/-! ### Task events (R205) -/

theorem fireEvents_id (key ver die ts rb : Nat) (c : Core) : (fireEvents key ver die ts rb c).id = c.id := rfl

/-- No event of a core in its reset state waits. -/
theorem fireEvents_reset (key ver die ts rb i t : Nat) :
    fireEvents key ver die ts rb { id := i, ltime := t } = { id := i, ltime := t } := by
  unfold fireEvents
  congr 1
  exact (Vector.map_replicate ..).trans rfl

theorem coreOf_reset {s : State} {i : Nat} (reset : ¬ (s.core.id = i ∨ (findCore s.parked i).isSome)) :
    s.coreOf i = { id := i, ltime := (vget s.dies (i / 32) {}).idle } := by
  rw [not_or, Option.not_isSome_iff_eq_none] at reset
  rw [State.coreOf, if_neg reset.1, reset.2]
  rfl

theorem coreOf_fireEvents (s : State) (key ver die ts rb i : Nat) :
    (s.allCores (fireEvents key ver die ts rb)).coreOf i = fireEvents key ver die ts rb (s.coreOf i) := by
  rw [coreOf_allCores s _ (fireEvents_id key ver die ts rb)]
  split
  · rfl
  next reset => rw [coreOf_reset reset, fireEvents_reset]

/-! ### Versions kept (R202) -/

theorem dropVersions_frame (s : State) (key : Nat) :
    s.dropVersions key = { s with kept := (s.dropVersions key).kept, pool := (s.dropVersions key).pool } := rfl

theorem dropVersions_keeps {s : State} {key : Nat} {k : KeptVer} (listed : k ∈ s.kept) (other : k.slot ≠ key) :
    k ∈ (s.dropVersions key).kept := by
  show k ∈ (s.kept.partition fun k => k.slot ≠ key || s.versionKept key k.ver).1
  rw [List.partition_eq_filter_filter]
  exact List.mem_filter.mpr ⟨listed, by simp [other]⟩

/-! ### What other packages are told (R188, R205) -/

/-- `t` with what `s` had sent to other packages, and the events of theirs that waited. -/
def State.untold (s t : State) : State := { t with subs := s.subs, outbox := s.outbox, sent := s.sent, via := s.via }

/-- Other packages are told, and that is all. -/
def Tells (s t : State) : Prop := s.untold t = s

theorem Tells.refl (s : State) : Tells s s := rfl

theorem Tells.trans {s t u : State} (h : Tells s t) (k : Tells t u) : Tells s u :=
  (congrArg s.untold k : s.untold (t.untold u) = s.untold t).trans h

theorem send_tells (s : State) (pkg core : Nat) (b : PacketBody) : Tells s (s.send pkg core b) := rfl

theorem subs_tells (s : State) (l : List (Nat × Nat × Nat)) : Tells s { s with subs := l } := rfl

theorem tellChange_tells (s : State) (key : Nat) (d : Option Desc) : Tells s (s.tellChange key d) :=
  foldl_related Tells.refl Tells.trans (fun s p _ => send_tells s p 1023 _) s

theorem tellPublish_tells (s : State) (key ver pkg core : Nat) : Tells s (s.tellPublish key ver pkg core) := by
  unfold State.tellPublish
  extract_lets to_
  exact (subs_tells s _).trans (foldl_related Tells.refl Tells.trans (fun s p _ => send_tells s p core _) _)

/-- Other packages are told, and what stands below the handle unit may have moved for it. -/
def Announces (s t : State) : Prop := MemoryMoves s (s.untold t)

theorem Announces.trans {s t u : State} (h : Announces s t) (k : Announces t u) : Announces s u :=
  MemoryMoves.trans h ⟨congrArg s.untold k.1, k.2.1, k.2.2.1, k.2.2.2⟩

theorem Tells.announces {s t : State} (h : Tells s t) : Announces s t := by
  unfold Announces
  rw [h]
  exact .refl s

theorem Below.announces {s t : State} (h : Below s t) : Announces s t := by
  have same : s.untold t = t := by rw [h.moves.1]; rfl
  rw [Announces, same]
  exact h.moves

/-- What has been read, and what the reads moved. A name of its own keeps the kernel from running the reads to compare them. -/
def ReadBelow {α : Type} (a b : α × State) : Prop := Below a.2 b.2

theorem ReadBelow.fold {α β : Type} {f : α × State → β → α × State} (step : ∀ st b, ReadBelow st (f st b)) (l : List β) (st : α × State) :
    ReadBelow st (l.foldl f st) :=
  foldl_related (r := ReadBelow) (fun st => Below.refl st.2) (fun h k => Below.trans h k) (fun st b _ => step st b) st

theorem readPage_below (s : State) (h : Word) (page : Nat) : Below s (s.readPage h page).2 :=
  ReadBelow.fold (fun st i => by
    unfold ReadBelow
    split
    next x _ _ _ =>
      have read := below_outerRead st.2 x
      split
      next e => exact read.of_eq e
      next e => exact read.of_eq e
    next => exact .refl _) _ (some [], s)

/-- Copies of an object are sent where it is replicated; what is read for them moves caches alone (R188). -/
theorem sendReplicas_cases (s : State) (key : Nat) :
    s.sendReplicas key = s ∨ Desc.replicated ((mget s.descs key).getD 0) = true ∧ Announces s (s.sendReplicas key) := by
  unfold State.sendReplicas
  extract_lets d others
  split
  · exact .inl rfl
  next sends =>
    have replicated : Desc.replicated d = true := by
      rw [not_or] at sends
      simpa using sends.1
    refine .inr ⟨replicated, ?_⟩
    split
    next pages u read =>
      have pages_below : Below s u := by
        refine Below.of_eq (ReadBelow.fold (fun st i => ?_) _ ([], s)) read
        unfold ReadBelow
        have page := readPage_below st.2 (BitVec.ofNat 64 (key * 2 ^ 32)) i
        split
        next e => exact page.of_eq e
        next e => exact page.of_eq e
      refine pages_below.announces.trans (foldl_related (fun s => (Tells.refl s).announces) Announces.trans (fun t p _ => ?_) u)
      have drawn : Below t (t.choose 2).2 := below_fresh t _
      split
      next n v e =>
        have drawn := (drawn.of_eq e).announces
        split
        · exact drawn
        · exact drawn.trans (send_tells ..).announces

/-! ### The version stands -/

/-- The state in which the draft has become version `ver`, before any other package hears of it. -/
def State.versionStands (s : State) (key ver : Nat) : State :=
  let d : Desc := (mget s.descs key).getD 0
  let die := dieOfCore s.core.id
  let rb := (s.die die).rebase.toNat
  (({ s with
      saves := s.saves.map fun (p : Nat × Image) => (p.1, { p.2 with ctx := fireEvents key ver die s.core.ltime rb p.2.ctx })
      descs := mput s.descs key (Desc.set d 256 32 ver)
      kept := { slot := key, ver := ver } :: s.kept
      pubs := { slot := key, ver := ver, die := die, ts := s.core.ltime, rb := rb } :: s.pubs } : State).allCores
    (fireEvents key ver die s.core.ltime rb)).dropVersions key

/-- A core's events once the version stands. -/
def State.firedIn (s : State) (key ver : Nat) (c : Core) : Vector TEvent 64 :=
  (fireEvents key ver (dieOfCore s.core.id) s.core.ltime (s.die (dieOfCore s.core.id)).rebase.toNat c).events

section
variable (s : State) (key ver : Nat)

theorem publish_eq : s.publish s.pkg s.core.id key ver =
    (((s.versionStands key ver).sendReplicas key).tellChange key (some (Desc.set ((mget s.descs key).getD 0) 256 32 ver))).tellPublish
      key ver s.pkg s.core.id := by
  unfold State.publish
  simp only [if_true, coreOf_self]
  rfl

theorem versionStands_frame : s.versionStands key ver = { s with
    core := { s.core with events := s.firedIn key ver s.core }
    parked := (s.versionStands key ver).parked, saves := (s.versionStands key ver).saves, descs := (s.versionStands key ver).descs
    kept := (s.versionStands key ver).kept, pool := (s.versionStands key ver).pool, pubs := (s.versionStands key ver).pubs } := rfl

theorem versionStands_coreOf (i : Nat) :
    (s.versionStands key ver).coreOf i = { s.coreOf i with events := s.firedIn key ver (s.coreOf i) } :=
  coreOf_fireEvents ..

theorem versionStands_desc : (mget (s.versionStands key ver).descs key).getD 0 = Desc.set ((mget s.descs key).getD 0) 256 32 ver := by
  show (mget (mput s.descs key _) key).getD 0 = _
  rw [mget_mput, if_pos rfl]
  rfl

/-- Nothing has happened but that the version stands and that, of a replicated object, copies were read for others. -/
def VersionMade (u : State) : Prop :=
  u = s.versionStands key ver ∨ Desc.replicated ((mget s.descs key).getD 0) = true ∧ MemoryMoves (s.versionStands key ver) u

theorem publish_made : ∃ u, VersionMade s key ver u ∧ Tells u (s.publish s.pkg s.core.id key ver) := by
  have told (t : State) := (tellChange_tells t key (some (Desc.set ((mget s.descs key).getD 0) 256 32 ver))).trans
    (tellPublish_tells _ key ver s.pkg s.core.id)
  rw [publish_eq]
  rcases sendReplicas_cases (s.versionStands key ver) key with still | ⟨replicated, copies⟩
  · exact ⟨_, .inl rfl, by rw [still]; exact told _⟩
  · rw [versionStands_desc, replicated_version] at replicated
    refine ⟨_, .inr ⟨replicated, copies⟩, ?_⟩
    have told := told ((s.versionStands key ver).sendReplicas key)
    exact (congrArg (s.versionStands key ver).untold told : _)

end

end Sys2Proof.Machine
end

section
/-! PROOFS. A publish against the state before it (R205, R215). -/

namespace Sys2Proof.Machine

open Sys2Proof

theorem CoreMoves.events_eq {c d : Core} (h : CoreMoves c d) : d.events = c.events := by rw [h.1]

/-- The moves below the handle unit do not depend on the events that stand. -/
theorem CoreMoves.restore {c d : Core} {e : Vector TEvent 64} (h : CoreMoves { c with events := e } d) :
    CoreMoves c { d with events := c.events } :=
  ⟨congrArg (fun x : Core => { x with events := c.events }) h.1, h.2⟩

/-- `u` without the version: its descriptors, its log of publishes and the events of its cores as `s` has them. -/
def State.beforePublish (s u : State) : State :=
  { u with
    core := { u.core with events := s.core.events }
    parked := (s.parked ++ u.parked).map fun c => { u.coreOf c.id with events := (s.coreOf c.id).events }
    descs := s.descs, saves := s.saves, pubs := s.pubs }

theorem beforePublish_coreOf {s u : State} (same : u.core.id = s.core.id) (k : Nat) :
    (s.beforePublish u).coreOf k = { u.coreOf k with events := (s.coreOf k).events } := by
  by_cases own : s.core.id = k
  · subst own
    have mine : (s.beforePublish u).core.id = s.core.id := same
    rw [← mine, coreOf_self, mine, coreOf_self, ← same, coreOf_self]
    rfl
  · have others : u.core.id ≠ k := same ▸ own
    have ids (c : Core) : ({ u.coreOf c.id with events := (s.coreOf c.id).events } : Core).id = c.id := coreOf_id u c.id
    have parked := findCore_map (s.parked ++ u.parked) (fun c => { u.coreOf c.id with events := (s.coreOf c.id).events }) ids k
    have looks : (s.beforePublish u).coreOf k = (findCore (s.beforePublish u).parked k).getD
        { id := k, ltime := (vget u.dies (k / 32) {}).idle } := if_neg others
    rw [looks, show findCore (s.beforePublish u).parked k = _ from parked]
    cases found : findCore (s.parked ++ u.parked) k with
    | some c =>
      rw [Option.map_some, Option.getD_some, findCore_id _ _ _ found]
    | none =>
      have absent : findCore s.parked k = none ∧ findCore u.parked k = none := by
        simpa only [findCore, List.find?_append, Option.or_eq_none_iff] using found
      rw [coreOf_reset (s := s) (by simp [own, absent.1]), coreOf_reset (s := u) (by simp [others, absent.2])]
      rfl

section
variable {s u : State} {key ver : Nat}

theorem beforePublish_moves (moves : MemoryMoves (s.versionStands key ver) u) : MemoryMoves s (s.beforePublish u) := by
  obtain ⟨frame, core, cores, kept⟩ := moves
  have same : u.core.id = s.core.id := core.id_eq
  refine ⟨?_, CoreMoves.restore core, fun k => ?_, kept⟩
  · unfold State.beforePublish
    rw [frame]
    rfl
  · rw [beforePublish_coreOf same]
    have moved := cores k
    rw [versionStands_coreOf] at moved
    exact moved.restore

/-- The version made over `m`: of the cores the events alone differ. -/
structure MadeOver (s m : State) (key ver : Nat) (u : State) : Prop where
  moved : m = s ∨ Desc.replicated ((mget s.descs key).getD 0) = true ∧ MemoryMoves s m
  core  : u.core = { m.core with events := s.firedIn key ver s.core }
  cores : ∀ k, u.coreOf k = { m.coreOf k with events := s.firedIn key ver (s.coreOf k) }
  descs : u.descs = (s.versionStands key ver).descs
  pubs  : u.pubs = (s.versionStands key ver).pubs
  frame : u = { m with
    core := u.core, parked := u.parked, descs := u.descs, kept := u.kept, pool := u.pool, pubs := u.pubs, saves := u.saves }

theorem VersionMade.over (made : VersionMade s key ver u) : ∃ m, MadeOver s m key ver u := by
  rcases made with rfl | ⟨replicated, moves⟩
  · exact ⟨s, .inl rfl, rfl, versionStands_coreOf s key ver, rfl, rfl, rfl⟩
  · have restored := beforePublish_moves moves
    obtain ⟨frame, core, cores, -⟩ := moves
    have same : u.core.id = s.core.id := core.id_eq
    refine ⟨s.beforePublish u, .inr ⟨replicated, restored⟩, ?_, fun k => ?_, ?_, ?_, ?_⟩
    · rw [show s.firedIn key ver s.core = u.core.events from core.events_eq.symm]
      rfl
    · have moved := cores k
      rw [versionStands_coreOf] at moved
      rw [beforePublish_coreOf same, show s.firedIn key ver (s.coreOf k) = (u.coreOf k).events from moved.events_eq.symm]
    · rw [frame]
    · rw [frame]
    · rfl

end

theorem coreOf_answered_other {s : State} {k : Nat} (other : k ≠ s.core.id) : s.answered.coreOf k = s.coreOf k := by
  show (if s.core.id = k then _ else _) = if s.core.id = k then _ else _
  rw [if_neg other.symm, if_neg other.symm]
  rfl

theorem MadeOver.fires {s m u t : State} {key ver : Nat} (made : MadeOver s m key ver u) (told : t = t.untold u.answered) :
    Published s t key ver := by
  have descs : t.descs = mput s.descs key (Desc.set ((mget s.descs key).getD 0) 256 32 ver) := by rw [told]; exact made.descs
  have core : t.core = { u.core with accepted := none, asking := none } := by rw [told]; rfl
  have same : s.core.id = u.core.id := by
    rw [made.core]
    rcases made.moved with rfl | ⟨-, moves⟩
    · rfl
    · exact moves.2.1.id_eq.symm
  refine ⟨fun j inside => ?_, fun k other => ?_, ?_, m, made.moved, ?_, fun k other => ?_, ?_⟩
  · rw [descs, mget_mput, if_pos rfl]
    exact set_getLsbD _ 256 32 ver inside
  · rw [descs, mget_mput, if_neg other]
  · rw [told]
    exact made.pubs
  · rw [core, made.core]
    rfl
  · have others : t.coreOf k = u.coreOf k := by
      rw [told]
      exact coreOf_answered_other (same ▸ other)
    rw [others, made.cores]
    rfl
  · rw [told]
    exact congrArg (fun w : State => t.untold { w with core := u.answered.core }) made.frame

theorem Tells.restored {u t : State} (told : Tells u t) : t = t.untold u :=
  (congrArg t.untold told : t.untold (u.untold t) = t.untold u)

theorem publish_published (s : State) (key ver : Nat) : Published s (s.publish s.pkg s.core.id key ver).answered key ver := by
  obtain ⟨u, made, told⟩ := publish_made s key ver
  obtain ⟨m, made⟩ := made.over
  exact made.fires (congrArg State.answered told.restored)

end Sys2Proof.Machine
end

section
/-! PROOFS. Subscriptions and pins at an object's home (R217..R219). -/

namespace Sys2Proof.Machine

open Sys2Proof

/-! ### Subscriptions (R217) -/

section
variable {s : State} {ev : Nat} (home : hHome (s.sy 0) = s.pkg) (small : (s.sy 1).toNat < 2 ^ 32)
  (allowed : s.violation (s.core.requester s.pkg .core) (s.sy 0) (some 1) = none)

/-- The event of a subscription to what the staging registers name. -/
def State.subscription (s : State) : TEvent :=
  { st := .armed, home := hHome (s.sy 0), slot := hKey (s.sy 0) % 2 ^ 23, gen := hGen (s.sy 0), ver := (s.sy 1).toNat }

/-- The core's task event `ev` is `e`. -/
def State.putEvent (s : State) (ev : Nat) (e : TEvent) : State := s.onCore fun c => { c with events := vset c.events ev e }

include home small allowed

theorem subRequest_arms (ahead : (s.desc (s.sy 0)).vcur < (s.sy 1).toNat) : s.subRequest ev = (.ok, s.putEvent ev s.subscription) := by
  refine (if_neg (by omega)).trans ((syncCheck_passes home allowed _).trans ?_)
  exact (if_pos home).trans (if_neg (by omega))

theorem subRequest_fires (there : (s.sy 1).toNat ≤ (s.desc (s.sy 0)).vcur) : ∃ die ts rb,
    (∀ p, firstPublish s.pubs (hKey (s.sy 0)) (s.sy 1).toNat = some p → die = p.die ∧ ts = p.ts ∧ rb = p.rb) ∧
    s.subRequest ev = (.ok, s.putEvent ev { s.subscription with st := .fired, pubDie := die, ts := ts, rb := rb }) := by
  have performed : s.subRequest ev = _ := (if_neg (by omega)).trans
    ((syncCheck_passes home allowed _).trans ((if_pos home).trans (if_pos there)))
  cases made : firstPublish s.pubs (hKey (s.sy 0)) (s.sy 1).toNat with
  | some p =>
    refine ⟨p.die, p.ts, p.rb, fun q same => by rw [Option.some.inj same]; exact ⟨rfl, rfl, rfl⟩, ?_⟩
    rw [performed, made]
    rfl
  | none =>
    refine ⟨24, 0, 0, nofun, ?_⟩
    rw [performed, made]
    rfl

end

/-! ### A task's pin leaves (R219) -/

section
variable {s : State} {key : Nat}

theorem unpin_none (free : ∀ p ∈ s.core.pins, p.home * 2 ^ 23 + p.slot ≠ key) : s.unpin key = s := by
  refine if_neg ?_
  simpa using free

theorem unpin_own (home : key / 2 ^ 23 = s.pkg) (pinned : ∃ p ∈ s.core.pins, p.home * 2 ^ 23 + p.slot = key) :
    s.unpin key = (({ s with
      core := { s.core with pins := s.core.pins.filter fun p => p.home * 2 ^ 23 + p.slot ≠ key }
      pinned := s.pinned.filter fun p => ¬ (p.1 = s.core.id ∧ p.2.1 = key) } : State).setVpin key).dropVersions key := by
  have any : s.core.pins.any (fun p => p.home * 2 ^ 23 + p.slot = key) = true := by simpa using pinned
  exact (if_pos any).trans (if_neg (not_not.mpr home))

theorem setVpin_frame (s : State) (key : Nat) : s.setVpin key = { s with descs := (s.setVpin key).descs } := by
  unfold State.setVpin
  extract_lets n
  split <;> rfl

/-- What leaves with a pin: the pin, the version it alone kept and the count of pinned versions. -/
theorem unpin_frame (home : key / 2 ^ 23 = s.pkg) : s.unpin key = { s with
    core := (s.unpin key).core, pinned := (s.unpin key).pinned, kept := (s.unpin key).kept, pool := (s.unpin key).pool
    descs := (s.unpin key).descs } := by
  by_cases pinned : ∃ p ∈ s.core.pins, p.home * 2 ^ 23 + p.slot = key
  · rw [unpin_own home pinned, dropVersions_frame, setVpin_frame]
  · rw [unpin_none (by simpa using pinned)]

theorem unpin_id (home : key / 2 ^ 23 = s.pkg) : (s.unpin key).core.id = s.core.id := by
  by_cases pinned : ∃ p ∈ s.core.pins, p.home * 2 ^ 23 + p.slot = key
  · rw [unpin_own home pinned, dropVersions_frame, setVpin_frame]
  · rw [unpin_none (by simpa using pinned)]

end

/-! ### A task's pin is added (R218) -/

section
variable {s : State} {who key v : Nat}

theorem mayPin_iff : s.mayPin key v = true ↔
    v ≤ Desc.vcur ((mget s.descs key).getD 0) ∧ (v = Desc.vcur ((mget s.descs key).getD 0) ∨ v ∈ s.pinnedVers key) ∧
      (v ∈ s.pinnedVers key ∨ (s.pinnedVers key).length < 2) := by
  simp only [State.mayPin, Bool.and_eq_true, Bool.or_eq_true, decide_eq_true_eq, beq_iff_eq, List.contains_iff_mem, and_assoc]

theorem addPin_core (s : State) (who key v : Nat) : (s.addPin who key v).core = s.core := by
  rw [State.addPin, setVpin_frame]

theorem addPin_pinned (s : State) (who key v : Nat) : (s.addPin who key v).pinned = (who, key, v) :: s.pinned := by
  rw [State.addPin, setVpin_frame]

theorem addPin_frame (s : State) (who key v : Nat) : s.addPin who key v = { s with
    core := (s.addPin who key v).core, pinned := (s.addPin who key v).pinned, kept := (s.addPin who key v).kept
    descs := (s.addPin who key v).descs } := by
  rw [State.addPin, setVpin_frame]

/-- A pinned version is kept (R202). -/
theorem addPin_keeps (s : State) (who key v : Nat) : ((s.addPin who key v).keptVer key v).isSome = true := by
  unfold State.addPin
  rw [setVpin_frame]
  show (List.find? _ (if (s.keptVer key v).isSome then _ else _)).isSome = true
  split
  next kept => exact kept
  next => simp

end

section
variable {s : State} (home : hHome (s.sy 0) = s.pkg) (small : (s.sy 1).toNat < 2 ^ 32)
  (allowed : s.violation (s.core.requester s.pkg .core) (s.sy 0) (some 16) = none)
include home small allowed

theorem pinRequest_full
    (full : ¬ ((s.unpin (hKey (s.sy 0))).core.pins.length < 16 ∧ (s.unpin (hKey (s.sy 0))).mayPin (hKey (s.sy 0)) (s.sy 1).toNat = true)) :
    s.pinRequest = Synced.fails (s.unpin (hKey (s.sy 0))) 0x0E (s.sy 0) (BitVec.ofNat 64 (s.sy 1).toNat) := by
  have near : (s.unpin (hKey (s.sy 0))).pkg = s.pkg := by rw [unpin_frame ((hKey_home _).trans home)]
  refine (if_neg (by omega)).trans ((syncCheck_passes home allowed _).trans ?_)
  by_cases room : (s.unpin (hKey (s.sy 0))).core.pins.length < 16
  · exact (if_neg (by omega)).trans ((if_pos (near ▸ home)).trans (if_neg fun may => full ⟨room, may⟩))
  · exact if_pos (by omega)

theorem pinRequest_fits (room : (s.unpin (hKey (s.sy 0))).core.pins.length < 16)
    (may : (s.unpin (hKey (s.sy 0))).mayPin (hKey (s.sy 0)) (s.sy 1).toNat = true) :
    s.pinRequest = (.ok, ((s.unpin (hKey (s.sy 0))).onCore fun c =>
      { c with pins := c.pins ++ [⟨hHome (s.sy 0), hKey (s.sy 0) % 2 ^ 23, (s.sy 1).toNat, 0⟩] }).addPin s.core.id (hKey (s.sy 0))
        (s.sy 1).toNat) := by
  have near : (s.unpin (hKey (s.sy 0))).pkg = s.pkg := by rw [unpin_frame ((hKey_home _).trans home)]
  rw [← unpin_id ((hKey_home (s.sy 0)).trans home)]
  refine (if_neg (by omega)).trans ((syncCheck_passes home allowed _).trans ?_)
  exact (if_neg (by omega)).trans ((if_pos (near ▸ home)).trans (if_pos may))

end

theorem unpinRequest_passes {s : State} (home : hHome (s.sy 0) = s.pkg)
    (allowed : s.violation (s.core.requester s.pkg .core) (s.sy 0) (some 16) = none) :
    s.unpinRequest = (.ok, s.unpin (hKey (s.sy 0))) := by
  unfold State.unpinRequest
  rw [syncCheck_passes home allowed]

/-! ### The words -/

section
variable {s : State} (compute : s.core.isSys = false) (waiting : s.core.accepted = none)
include compute waiting

theorem opub_performs {r : Synced} (found : s.pubRequest none = r) : exec .opub s = .next r.issues :=
  exec_sync_performs rfl compute rfl waiting found

theorem over_performs {r : Synced} (found : s.pubRequest (some (s.sy 1).toNat) = r) : exec .over s = .next r.issues :=
  exec_sync_performs rfl compute rfl waiting found

theorem osub_performs {e : BitVec 8} (wf : (Instr.osub e).wf = true) {r : Synced} (found : s.subRequest e.toNat = r) :
    exec (.osub e) s = .next r.issues :=
  exec_sync_performs rfl compute wf waiting found

theorem opin_performs {r : Synced} (found : s.pinRequest = r) : exec .opin s = .next r.issues :=
  exec_sync_performs rfl compute rfl waiting found

theorem ounpin_performs {r : Synced} (found : s.unpinRequest = r) : exec .ounpin s = .next r.issues :=
  exec_sync_performs rfl compute rfl waiting found

/-- A pin that fits (R218). -/
theorem opin_pins (home : hHome (s.sy 0) = s.pkg) (small : (s.sy 1).toNat < 2 ^ 32)
    (allowed : s.violation (s.core.requester s.pkg .core) (s.sy 0) (some 16) = none)
    (room : (s.unpin (hKey (s.sy 0))).core.pins.length < 16)
    (may : (s.unpin (hKey (s.sy 0))).mayPin (hKey (s.sy 0)) (s.sy 1).toNat = true) : Completes .opin s fun t =>
      let u := s.unpin (hKey (s.sy 0))
      t.core = { u.core with
        pins := u.core.pins ++ [⟨hHome (s.sy 0), hKey (s.sy 0) % 2 ^ 23, (s.sy 1).toNat, 0⟩], accepted := none, asking := none } ∧
      t.pinned = (s.core.id, hKey (s.sy 0), (s.sy 1).toNat) :: u.pinned ∧ (t.keptVer (hKey (s.sy 0)) (s.sy 1).toNat).isSome = true ∧
      t = { u with core := t.core, pinned := t.pinned, kept := t.kept, descs := t.descs } := by
  refine ⟨_, opin_performs compute waiting (pinRequest_fits home small allowed room may), ?_⟩
  refine ⟨?_, addPin_pinned .., addPin_keeps .., ?_⟩
  · exact congrArg (fun c : Core => { c with accepted := none, asking := none }) (addPin_core ..)
  · exact congrArg State.answered (addPin_frame ..)

/-- A pin that leaves (R219). -/
theorem ounpin_unpins (home : hHome (s.sy 0) = s.pkg)
    (allowed : s.violation (s.core.requester s.pkg .core) (s.sy 0) (some 16) = none)
    (pinned : ∃ p ∈ s.core.pins, p.home * 2 ^ 23 + p.slot = hKey (s.sy 0)) : Completes .ounpin s fun t =>
      t.core = { s.core with
        pins := s.core.pins.filter fun p => p.home * 2 ^ 23 + p.slot ≠ hKey (s.sy 0), accepted := none, asking := none } ∧
      t.pinned = s.pinned.filter (fun p => ¬ (p.1 = s.core.id ∧ p.2.1 = hKey (s.sy 0))) ∧
      (∀ k ∈ s.kept, k.slot ≠ hKey (s.sy 0) → k ∈ t.kept) ∧
      t = { s with core := t.core, pinned := t.pinned, kept := t.kept, pool := t.pool, descs := t.descs } := by
  refine ⟨_, ounpin_performs compute waiting (unpinRequest_passes home allowed), ?_⟩
  have left := unpin_own ((hKey_home (s.sy 0)).trans home) pinned
  rw [setVpin_frame] at left
  refine ⟨?_, ?_, fun k listed other => ?_, ?_⟩
  · exact congrArg (fun t => t.answered.core) left
  · exact congrArg (fun t => t.answered.pinned) left
  · show k ∈ (s.unpin (hKey (s.sy 0))).kept
    rw [left]
    exact dropVersions_keeps listed other
  · exact congrArg State.answered (unpin_frame ((hKey_home (s.sy 0)).trans home))

end

/-- Settles O35: each word does what its request finds, and the request at the object's home what R215..R219 say. -/
theorem versionWords : Obligations.VersionWords := by
  unfold Obligations.VersionWords
  intro s compute waiting
  have handle : s.core.arch.stg.toList.getD 64 0 = s.sy 0 := (sy_eq_getD s 0).symm
  have version : s.core.arch.stg.toList.getD 65 0 = s.sy 1 := (sy_eq_getD s 1).symm
  rw [handle, version]
  intro h v key d passes joined done clean
  refine ⟨fun ⟨home, allowed⟩ joined => ⟨fun room => ?_, fun last => ?_, fun past => ?_, fun later small => ?_, fun wide => ?_⟩,
    fun e wf small ⟨home, allowed⟩ => ⟨fun ahead => ?_, fun there => ?_⟩,
    fun ⟨home, allowed⟩ small => ⟨fun ⟨room, may⟩ => ?_, fun full => ?_⟩,
    fun ⟨home, allowed⟩ => ⟨fun free => ?_, fun pinned => ?_⟩⟩
  · exact ⟨_, opub_performs compute waiting (pubRequest_publishes home allowed joined (pubVersion_next room)), publish_published ..⟩
  · refine opub_performs compute waiting (pubRequest_fails home allowed joined (c := 0x0D) ?_)
    rw [show (s.desc (s.sy 0)).vcur = 2 ^ 32 - 1 from last]
    exact pubVersion_last
  · exact ⟨_, over_performs compute waiting (pubRequest_idle home allowed joined (pubVersion_past past (vcur_lt _))), rfl⟩
  · exact ⟨_, over_performs compute waiting (pubRequest_publishes home allowed joined (pubVersion_chosen later small)), publish_published ..⟩
  · exact over_performs compute waiting (pubRequest_fails home allowed joined (pubVersion_wide wide))
  · exact ⟨_, osub_performs compute waiting wf (subRequest_arms home small allowed ahead), rfl⟩
  · obtain ⟨die, ts, rb, first, fires⟩ := subRequest_fires (ev := e.toNat) home small allowed there
    exact ⟨_, osub_performs compute waiting wf fires, die, ts, rb, first, rfl⟩
  · exact opin_pins compute waiting home small allowed room (mayPin_iff.mpr may)
  · exact opin_performs compute waiting (pinRequest_full home small allowed fun ⟨room, may⟩ => full ⟨room, mayPin_iff.mp may⟩)
  · refine ⟨_, ounpin_performs compute waiting (unpinRequest_passes home allowed), ?_⟩
    rw [unpin_none free]
    rfl
  · exact ounpin_unpins compute waiting home allowed pinned

end Sys2Proof.Machine
end

section
/-! PROOFS. Signals (R220): the events of a replay. -/

namespace Sys2Proof.Machine

open Sys2Proof

theorem modify_middle {α : Type} (l m : List α) (a : α) (f : α → α) : (l ++ a :: m).modify l.length f = l ++ f a :: m := by
  induction l with
  | nil => rfl
  | cons b l ih => rw [List.cons_append, List.length_cons, List.modify_succ_cons, ih, List.cons_append]

section
variable {s : State} {rid n : Nat} {f : Replay → Replay} {r : Replay}

theorem modReplay_frame (s : State) (rid n : Nat) (f : Replay → Replay) :
    s.modReplay rid n f = { s with replays := (s.modReplay rid n f).replays } := by
  unfold State.modReplay
  split <;> rfl

theorem replay?_token (found : s.replay? rid n = some r) : r.rid = rid ∧ r.replay = n := by
  simpa using List.find?_some found

/-- An update of a replay that keeps its token is found under it. -/
theorem replay?_modReplay (found : s.replay? rid n = some r) (token : (f r).rid = rid ∧ (f r).replay = n) :
    (s.modReplay rid n f).replay? rid n = some (f r) := by
  obtain ⟨here, before, after, order, others⟩ := List.find?_eq_some_iff_append.mp found
  have listed : s.replays = after.reverse ++ r :: before.reverse := by
    rw [← List.reverse_reverse s.replays, order, List.reverse_append, List.reverse_cons, List.append_assoc, List.singleton_append]
  have later : before.findIdx? (fun r => r.rid = rid && r.replay = n) = none :=
    List.findIdx?_eq_none_iff.mpr fun q earlier => by simpa only [Bool.not_eq_true'] using others q earlier
  have place : s.replays.reverse.findIdx? (fun r => r.rid = rid && r.replay = n) = some before.length := by
    rw [order, List.findIdx?_append, later, List.findIdx?_cons, if_pos here, Option.none_or, Option.map_some, Nat.zero_add]
  have counted : s.replays.length - 1 - before.length = after.reverse.length := by
    rw [listed, List.length_append, List.length_cons, List.length_reverse, List.length_reverse]
    omega
  have changed : (s.modReplay rid n f).replays = after.reverse ++ f r :: before.reverse := by
    unfold State.modReplay
    rw [place]
    show s.replays.modify (s.replays.length - 1 - before.length) f = _
    rw [counted, listed, modify_middle]
  refine List.find?_eq_some_iff_append.mpr ⟨by simpa using token, before, after, ?_, others⟩
  rw [changed, List.reverse_append, List.reverse_cons, List.reverse_reverse, List.reverse_reverse, List.append_assoc,
    List.singleton_append]

theorem endEvent_token (r : Replay) (e : Nat) (st : EvState) : (r.endEvent e st).rid = r.rid ∧ (r.endEvent e st).replay = r.replay := by
  unfold Replay.endEvent
  split <;> exact ⟨rfl, rfl⟩

end

section
variable {s : State} {r : Replay} (found : s.replay? s.core.tk.rid s.core.tk.replay = some r)

theorem signal_frame (s : State) (e : Nat) : s.signal e = { s with replays := (s.signal e).replays } := modReplay_frame ..

theorem signal_core (s : State) (e : Nat) : (s.signal e).core = s.core := by rw [signal_frame]

include found in
/-- An event of the generation ends FIRED, once (R220). -/
theorem signal_fires (e : BitVec 8) : (s.signal e.toNat).replay? s.core.tk.rid s.core.tk.replay =
    some (if e = 0 ∨ r.event e.toNat ≠ .idle then r else { r with events := mput r.events e.toNat .fired }) := by
  obtain ⟨rid, replay⟩ := replay?_token found
  obtain ⟨sameRid, sameReplay⟩ := endEvent_token r e.toNat .fired
  have zero : e.toNat = 0 ↔ e = 0 := by rw [← BitVec.toNat_inj]; rfl
  have ends : r.endEvent e.toNat .fired =
      if e = 0 ∨ r.event e.toNat ≠ .idle then r else { r with events := mput r.events e.toNat .fired } :=
    if_congr (or_congr_left zero) rfl rfl
  rw [← ends]
  exact replay?_modReplay found ⟨sameRid.trans rid, sameReplay.trans replay⟩

end

end Sys2Proof.Machine
end

section
/-! PROOFS. Arrivals and slot releases within the package (R221, R253, R264). -/

namespace Sys2Proof.Machine

open Sys2Proof

theorem coreOf_answered (s : State) (k : Nat) :
    s.answered.coreOf k = if k = s.core.id then { s.coreOf k with accepted := none, asking := none } else s.coreOf k := by
  split
  next own => subst own; rw [coreOf_self]; exact coreOf_self s.answered
  next other => exact coreOf_answered_other other

theorem modCore_core (s : State) (k : Nat) (f : Core → Core) (keeps : (f (s.coreOf k)).id = k) :
    (s.modCore k f).core = if s.core.id = k then f s.core else s.core := by
  unfold State.modCore State.putCore
  rw [keeps]
  split
  next own => subst own; rw [coreOf_self]
  next => rfl

theorem holds_iff {c : Core} {task : Task} {n : Nat} (runs : c.task = some task) : c.holds n = true ↔ n < task.z := by
  simp [Core.holds, Core.tk, runs]

/-- A word that sets a pair of a core of the package, and does no more. -/
theorem modPair_answered (s : State) (k n : Nat) (f : Pair → Pair) {t : State}
    (does : t = (s.modCore k fun c => c.modPair n f).answered) :
    (t.coreOf k).pairs = vset (s.coreOf k).pairs n (f (vget (s.coreOf k).pairs n {})) ∧ (t.coreOf k).arch = (s.coreOf k).arch ∧
      t.core.arch = s.core.arch ∧ t = { s with core := t.core, parked := t.parked } := by
  have keeps : ((s.coreOf k).modPair n f).id = k := coreOf_id s k
  have target : (s.modCore k fun c => c.modPair n f).coreOf k = (s.coreOf k).modPair n f := by
    rw [coreOf_modCore _ _ _ _ keeps, if_pos rfl]
  have own : (s.modCore k fun c => c.modPair n f).core.arch = s.core.arch := by
    rw [modCore_core _ _ _ keeps]
    split <;> rfl
  subst does
  refine ⟨?_, ?_, own, ?_⟩
  · rw [coreOf_answered, target]
    split <;> rfl
  · rw [coreOf_answered, target]
    split <;> rfl
  · exact congrArg State.answered (putCore_frame s _)

section
variable {s : State} {n : Nat}

/-- What an arrival of generation `g` makes of a pair (R253). -/
def Pair.arrival (p : Pair) (g : BitVec 8) : Pair :=
  if p.bar = .armed ∧ g = p.gen then p.counted else { p with stale := sat255 p.stale }

theorem arrival_eq (p : Pair) {w : Word} (small : w.toNat < 2 ^ 8) : p.arrival (w.truncate 8) =
    if p.bar = .armed ∧ w.toNat = p.gen.toNat then
      (if p.arrived + 1 = p.expect then
        { p with arrived := p.arrived + 1, bar := .complete, zone := if p.zone = .opened then .complete else p.zone }
      else { p with arrived := p.arrived + 1 })
    else { p with stale := min 255 (p.stale + 1) } := by
  have same : w.truncate 8 = p.gen ↔ w.toNat = p.gen.toNat := by
    rw [← BitVec.toNat_inj, BitVec.truncate_eq_setWidth, BitVec.toNat_setWidth, Nat.mod_eq_of_lt small]
  exact if_congr (and_congr_right fun _ => same) rfl rfl

section
variable {k part : Nat} {g : BitVec 8} {task : Task} (runs : (s.coreOf k).task = some task)
include runs

theorem arriveAt_counts (zone : n < task.z) (same : part = task.part) :
    s.arriveAt k part n g = (true, s.modCore k fun c => c.modPair n fun p => p.arrival g) := by
  refine if_neg ?_
  simp [(holds_iff runs).mpr zone, Core.tk, runs, same]

theorem arriveAt_refused (stranger : ¬ (n < task.z ∧ part = task.part)) : s.arriveAt k part n g = (false, s) := by
  refine if_pos ?_
  rw [← holds_iff runs, not_and_or] at stranger
  rcases stranger with closed | other
  · simp [closed]
  · simp [Core.tk, runs, Ne.symm other]

end

section
variable (wide : (s.sy 2).toNat < 2 ^ 19) (narrow : (s.sy 3).toNat < 2 ^ 8) (home : (s.sy 2).toNat / 2 ^ 10 = s.pkg)
  (member : s.members.contains s.pkg = true) (core : (s.sy 2).toNat % 2 ^ 10 < 768)
include wide narrow home member core

theorem arrivalTarget_home : s.arrivalTarget = .ok (s.pkg, (s.sy 2).toNat % 2 ^ 10, (s.sy 3).truncate 8) := by
  have pkg : fieldN (s.sy 2) 10 9 = s.pkg := by unfold fieldN; omega
  have low : fieldN (s.sy 2) 0 10 = (s.sy 2).toNat % 2 ^ 10 := by unfold fieldN; omega
  unfold State.arrivalTarget
  simp only [pkg, low, member]
  rw [if_neg (by omega), if_neg (by simpa using core)]

variable {task : Task} (runs : (s.coreOf ((s.sy 2).toNat % 2 ^ 10)).task = some task)
include runs

theorem arrivalRequest_arrives (zone : n < task.z) (same : s.core.tk.part = task.part) : s.arrivalRequest n =
    (.ok, s.modCore ((s.sy 2).toNat % 2 ^ 10) fun c => c.modPair n fun p => p.arrival ((s.sy 3).truncate 8)) := by
  unfold State.arrivalRequest
  rw [arrivalTarget_home wide narrow home member core]
  simp only [if_true, arriveAt_counts runs zone same]

theorem arrivalRequest_refused (stranger : ¬ (n < task.z ∧ s.core.tk.part = task.part)) :
    s.arrivalRequest n = Synced.fails s 0x0F (s.sy 2) := by
  unfold State.arrivalRequest
  rw [arrivalTarget_home wide narrow home member core]
  simp only [if_true, arriveAt_refused runs stranger, Bool.false_eq_true, if_false]

end

/-! ### Slot releases (R264) -/

theorem release_owned {p : Pair} {i pkg core gen : Nat} (reserved : (vget p.slots i {}).state = .reserved)
    (of : (vget p.slots i {}).pkg = pkg) (owner : (vget p.slots i {}).core = core) (current : p.gen.toNat = gen) :
    p.release i pkg core gen = { p with slots := vset p.slots i { vget p.slots i {} with state := .released } } :=
  if_pos ⟨reserved, of, owner, current⟩

theorem releaseRequest_home {task : Task} (home : (s.sy 8).toNat / 2 ^ 10 % 2 ^ 9 = s.pkg) (member : s.members.contains s.pkg = true)
    (core : (s.sy 8).toNat % 2 ^ 10 < 768) (runs : (s.coreOf ((s.sy 8).toNat % 2 ^ 10)).task = some task)
    (zone : (s.sy 8).toNat / 2 ^ 29 % 16 < task.z) : s.releaseRequest =
    (.ok, s.modCore ((s.sy 8).toNat % 2 ^ 10) fun c => c.modPair ((s.sy 8).toNat / 2 ^ 29 % 16) fun p =>
      p.release ((s.sy 8).toNat / 2 ^ 33 % 8) s.pkg s.core.id ((s.sy 8).toNat / 2 ^ 36 % 256)) := by
  have pkg : fieldN (s.sy 8) 10 9 = s.pkg := home
  have low : fieldN (s.sy 8) 0 10 = (s.sy 8).toNat % 2 ^ 10 := by unfold fieldN; omega
  unfold State.releaseRequest
  simp only [pkg, low, member]
  rw [if_neg (by simpa using core), if_true]
  exact congrArg (Prod.mk _) (if_pos ((holds_iff runs).mpr zone))

theorem releaseRequest_nowhere (nowhere : s.members.contains ((s.sy 8).toNat / 2 ^ 10 % 2 ^ 9) = false ∨ 768 ≤ (s.sy 8).toNat % 2 ^ 10) :
    s.releaseRequest = Synced.fails s 0x0F (s.sy 8) := by
  have low : fieldN (s.sy 8) 0 10 = (s.sy 8).toNat % 2 ^ 10 := by unfold fieldN; omega
  refine if_pos ?_
  rw [low, fieldN]
  simpa using nowhere

end

end Sys2Proof.Machine
end

section
/-! PROOFS. What a request finds before its word issues (R208, R209, R214), and resolutions (R33, R193). -/

namespace Sys2Proof.Machine

open Sys2Proof

/-- The focus core's request is answered with `r`. -/
def State.finds (s : State) (r : SyncResult) : State := s.onCore fun c => { c with accepted := some r, relOut := [], askDue := none }

section
variable {s : State}

theorem accept_self (asks : s.core.asking.isSome = true) (r : SyncResult) : s.accept s.core.id r = s.finds r := by
  unfold State.accept State.modCore
  rw [coreOf_self]
  beta_reduce
  rw [if_pos asks]
  exact if_pos rfl

theorem focus_self (s : State) : s.focus s.core.id = s := if_pos rfl

/-- An operation on the focus core takes no other into focus. -/
theorem onFocus_self {f : State → State} {t : State} (does : f s = t) (stays : t.core.id = s.core.id) : s.onFocus s.core.id f = t := by
  unfold State.onFocus
  rw [focus_self, does, ← stays, focus_self]

section
variable {w : IWord} {b : Bool} {i : Instr} (asks : s.core.asking = some w) (word : decodeWord w = .ok (b, i))
include asks

/-- A release waits until no copy can return an older value (R208). -/
theorem accepted_waits (waiting : s.core.accepted = none) (older : s.releaseWaits s.core.id = true) :
    exec (.syncRequestAccepted s.core.id) s = .next (s.sched (s.cycle + 1) ptEnd (.syncRequestAccepted s.core.id)) := by
  refine congrArg Host.Outcome.next (onFocus_self ?_ rfl)
  simp only [asks, waiting, older, Option.isSome_none, Bool.false_eq_true, if_false, if_true]

theorem accepted_signals {e : BitVec 8} (word : decodeWord w = .ok (b, .evsig e)) (waiting : s.core.accepted = none)
    (fresh : s.releaseWaits s.core.id = false) :
    exec (.syncRequestAccepted s.core.id) s = .next ((s.signal e.toNat).finds .ok) := by
  have own := signal_core s e.toNat
  have accepts : (s.signal e.toNat).accept s.core.id .ok = (s.signal e.toNat).finds .ok := by
    rw [← own]
    exact accept_self (by rw [own, asks]; rfl) .ok
  have near : s.releasesFar (.evsig e) = false := rfl
  refine congrArg Host.Outcome.next (onFocus_self ?_ (show (s.signal e.toNat).core.id = s.core.id from congrArg Core.id own))
  simp only [asks, waiting, fresh, word, near, Option.isSome_none, Bool.and_false, Bool.false_eq_true, if_false]
  exact accepts

theorem markersLate_arrival {n : BitVec 8} (word : decodeWord w = .ok (b, .evsigB n)) :
    exec (.markerTimeout s.core.id) s = .next (s.finds (.fault 0x0F (s.sy 2) 0)) := by
  refine congrArg Host.Outcome.next (onFocus_self ?_ rfl)
  simp only [asks, Option.map_some, word]
  exact accept_self (by rw [asks]; rfl) _

theorem markersLate_publish (word : decodeWord w = .ok (b, .opub) ∨ decodeWord w = .ok (b, .over)) :
    exec (.markerTimeout s.core.id) s = .next (s.finds (.fault 0x0B (s.sy 0) 0)) := by
  refine congrArg Host.Outcome.next (onFocus_self ?_ rfl)
  rcases word with word | word <;>
  · simp only [asks, Option.map_some, word]
    exact accept_self (by rw [asks]; rfl) _

end

theorem learn_frame (s : State) (h : Word) : s.learn h = { s with far := (s.learn h).far, fresh := (s.learn h).fresh } := by
  unfold State.learn
  split <;> rfl

/-- The descriptors of a list of handles are learnt. -/
theorem learnAll_frame (s : State) (l : List Word) :
    l.foldl State.learn s = { s with far := (l.foldl State.learn s).far, fresh := (l.foldl State.learn s).fresh } :=
  foldl_related (r := fun s t : State => t = { s with far := t.far, fresh := t.fresh }) (fun _ => rfl)
    (fun {s t u} first then_ => by rw [then_, first]) (fun s h _ => learn_frame s h) s

theorem learnAll_home {l : List Word} (home : ∀ h ∈ l, hHome h = s.pkg) : l.foldl State.learn s = s :=
  foldl_still fun h listed => learn_of_home (home h listed)

theorem learnAll_core (s : State) (l : List Word) : (l.foldl State.learn s).core = s.core := by rw [learnAll_frame]

/-- The core once the handles of the word at issue are resolved. -/
def Core.resolvesAll (c : Core) (l : List Word) : Core :=
  { c with asking := none, resolved := true, xlate := (c.xlate ++ l.map hKey).eraseDups }

theorem resolution_completes {w : IWord} {b : Bool} {i : Instr} (asks : s.core.asking = some w) (word : decodeWord w = .ok (b, i)) :
    exec (.resolutionComplete s.core.id) s = .next (((s.resolves i).foldl State.learn s).onCore (Core.resolvesAll · (s.resolves i))) := by
  refine congrArg Host.Outcome.next (onFocus_self ?_ ?_)
  · simp only [asks, Option.map_some, word]
    rfl
  · rw [learnAll_frame]
    rfl

end

end Sys2Proof.Machine
end

section
/-! PROOFS. Values arrive (R32, R33). -/

namespace Sys2Proof.Machine

open Sys2Proof

theorem landOver_none {c : Core} {cyc : Nat} {a : Arrival} (later : ∀ p ∈ c.pend, p.dest.forReg a = true → cyc < p.due) :
    c.landOver cyc a = c := by
  have apart (p : Pend) (listed : p ∈ c.pend) : (decide (p.due ≤ cyc) && p.dest.forReg a) = false := by
    cases mine : p.dest.forReg a with
    | false => exact Bool.and_false _
    | true => simpa using later p listed mine
  have landed : (c.pend.filter fun p => decide (p.due ≤ cyc) && p.dest.forReg a) = [] :=
    List.filter_eq_nil_iff.mpr fun p listed => by simp only [apart p listed, Bool.false_eq_true, not_false_eq_true]
  have left : (c.pend.filter fun p => !(decide (p.due ≤ cyc) && p.dest.forReg a)) = c.pend :=
    List.filter_eq_self.mpr fun p listed => by simp only [apart p listed, Bool.not_false]
  unfold Core.landOver
  simp only [landed, left, List.foldl_nil]

/-- The core once the value stands in its register. -/
def Core.arrived (c : Core) (cyc : Nat) (a : Arrival) : Core :=
  let fill (k : Arch) : Arch := if k.lacksFor a then k.arrive a else k
  let gone (l : List XReg) : List XReg := match a with | .x r _ => l.erase r | .v _ _ _ => l
  { c with
    arch := c.arch.arrive a, ckpt := fill c.ckpt, phaseCk := fill c.phaseCk, varOut := c.varOut - 1
    valueLog := logFill a cyc c.valueLog, lzresOut := gone c.lzresOut, gkickOut := gone c.gkickOut, physOut := gone c.physOut }

theorem valueArrives_eq {s : State} {k : Nat} {a : Arrival}
    (later : ∀ p ∈ (s.coreOf k).pend, p.dest.forReg a = true → s.cycle < p.due) :
    exec (.valueArrives k a) s = .next (s.putCore ((s.coreOf k).arrived s.cycle a)) := by
  have stands : ((s.coreOf k).arrived s.cycle a).landOver s.cycle a = (s.coreOf k).arrived s.cycle a := landOver_none later
  exact congrArg (fun c => Host.Outcome.next (s.putCore c)) stands

theorem coreOf_arrived (s : State) (k : Nat) (a : Arrival) :
    (s.putCore ((s.coreOf k).arrived s.cycle a)).coreOf k = (s.coreOf k).arrived s.cycle a := by
  rw [coreOf_putCore]
  exact if_pos (coreOf_id s k).symm

/-! ### Registers -/

section
variable (a : Arch) (d : XReg) (v : Word)

theorem setX_frame : a.setX d v = { a with x := (a.setX d v).x } := by
  unfold Arch.setX
  split <;> rfl

theorem fullX_setX (r : XReg) : (a.setX d v).fullX r = a.fullX r := by rw [setX_frame]; rfl

theorem fullX_markX (b : Bool) (r : XReg) : (a.markX d b).fullX r = if r = d then r = 0 || b else a.fullX r := by
  unfold Arch.fullX Arch.markX
  split
  next same => subst same; rw [Vector.getElem_set_self]
  next other =>
    have apart : d.toNat ≠ r.toNat := fun e => other (BitVec.eq_of_toNat_eq e.symm)
    rw [Vector.getElem_set_ne _ _ apart]

theorem getX_arrive (r : XReg) :
    (a.arrive (.x d v)).getX r = if r = d then (if d = 0 then 0 else v) else a.getX r := by
  show (a.setX d v).getX r = _
  rw [getX_setX]
  by_cases same : r = d
  · subst same
    rw [if_pos rfl, if_pos rfl]
    split
    next zero => exact if_pos zero
    next => rfl
  · rw [if_neg same, if_neg same, ite_self]

theorem fullX_arrive (r : XReg) : (a.arrive (.x d v)).fullX r = if r = d then r = 0 || true else a.fullX r := by
  rw [← fullX_setX a d v r]
  exact fullX_markX (a.setX d v) d true r

theorem arriveX_frame : { a.arrive (.x d v) with x := a.x, xFull := a.xFull } = a := by
  show ({ (a.setX d v).markX d true with x := a.x, xFull := a.xFull } : Arch) = a
  rw [setX_frame]
  rfl

end

section
variable (a : Arch) {d : VCode} (v : Vec) (g : Tag) (real : d.toNat < 56)
include real

theorem getV_markV (b : Bool) (r : VCode) : (a.markV d b).getV r = if r = d then { a.getV d with full := b } else a.getV r := by
  unfold Arch.markV
  rw [dif_pos real]
  split
  next same => subst same; simp [Arch.getV, real]
  next other =>
    have apart : d.toNat ≠ r.toNat := fun e => other (BitVec.eq_of_toNat_eq e.symm)
    unfold Arch.getV
    split
    · exact Vector.getElem_set_ne real _ apart
    · rfl

theorem getV_arrive (r : VCode) : (a.arrive (.v d v g)).getV r = if r = d then { data := v, tag := g, full := true } else a.getV r := by
  show ((a.setV d v g).markV d true).getV r = _
  rw [getV_markV _ real]
  split
  · rw [getV_setV, if_pos ⟨rfl, real⟩]
  next other => rw [getV_setV, if_neg fun same => other same.1]

theorem arriveV_frame : { a.arrive (.v d v g) with v := a.v } = a := by
  show ({ (a.setV d v g).markV d true with v := a.v } : Arch) = a
  rw [Arch.markV, dif_pos real, Arch.setV, dif_pos real]

end

end Sys2Proof.Machine
end

section
/-! PROOFS. Events, subscriptions and releases as the obligation states them. -/

namespace Sys2Proof.Machine

open Sys2Proof

theorem sy_eq (s : State) : (fun i => s.core.arch.stg.toList.getD (64 + i) 0) = s.sy := funext fun i => (sy_eq_getD s i).symm

/-- The words whose request is answered before they issue (R214). -/
theorem exec_syncWord {s : State} {i : Instr} {e : BitVec 8}
    (listed : i ∈ [Instr.opub, .over, .opin, .ounpin, .lzrel, .osub e, .evsig e, .evsigB e]) :
    exec i s = s.computeWord i fun s => s.syncIssue i := by
  simp only [List.mem_cons, List.not_mem_nil, or_false] at listed
  rcases listed with rfl | rfl | rfl | rfl | rfl | rfl | rfl | rfl <;> rfl

section
variable {s : State} (compute : s.core.isSys = false) (waiting : s.core.accepted = none)
include compute waiting

theorem evsig_performs {e : BitVec 8} (wf : (Instr.evsig e).wf = true) : exec (.evsig e) s = .next (s.signal e.toNat).answered :=
  exec_sync_performs rfl compute wf waiting rfl

theorem evsigB_performs {n : BitVec 8} (wf : (Instr.evsigB n).wf = true) {r : Synced} (found : s.arrivalRequest n.toNat = r) :
    exec (.evsigB n) s = .next r.issues :=
  exec_sync_performs rfl compute wf waiting found

theorem lzrel_performs {r : Synced} (found : s.releaseRequest = r) : exec .lzrel s = .next r.issues :=
  exec_sync_performs rfl compute rfl waiting found

end

/-- Settles O36: a sync word does what its request finds, and a request, a resolution or a value that arrives changes what R32, R33,
R193, R208, R214, R220, R221 and R264 name. -/
theorem signalWords : Obligations.SignalWords := by
  unfold Obligations.SignalWords
  refine ⟨fun s compute => ?_, fun s w b i asks word => ?_, fun s k d v => ?_, fun s k d v g real => ?_⟩
  · rw [sy_eq]
    intro clean tk sy
    refine ⟨fun e i listed wf => ⟨fun good => ?_, fun c info aux bad => ?_⟩, fun waiting =>
      ⟨fun e r wf found => ?_, fun n task wf wide narrow home member => ?_, fun task home member => ?_, fun nowhere => ?_⟩⟩
    · exact ⟨_, exec_sync_accepted (exec_syncWord listed) compute wf good, rfl⟩
    · exact exec_sync_accepted (exec_syncWord listed) compute wf bad
    · exact ⟨_, evsig_performs compute waiting wf, congrArg State.answered (signal_frame s e.toNat), signal_fires found e⟩
    · intro k core runs p
      refine ⟨fun zone same => ?_, fun stranger =>
        evsigB_performs compute waiting wf (arrivalRequest_refused wide narrow home member core runs stranger)⟩
      have arrives := arrivalRequest_arrives wide narrow home member core runs zone same
      refine ⟨_, evsigB_performs compute waiting wf arrives, ?_⟩
      obtain ⟨pairs, target, own, frame⟩ := modPair_answered s k n.toNat (Pair.arrival · ((s.sy 3).truncate 8)) rfl
      rw [arrival_eq _ narrow] at pairs
      exact ⟨pairs, target, own, frame⟩
    · intro k zone i core runs inside p slot reserved pkg owner current
      refine ⟨_, lzrel_performs compute waiting (releaseRequest_home home member core runs inside), ?_⟩
      obtain ⟨pairs, target, own, frame⟩ := modPair_answered s k zone
        (fun p => p.release i s.pkg s.core.id ((s.sy 8).toNat / 2 ^ 36 % 256)) rfl
      rw [release_owned reserved pkg owner current] at pairs
      exact ⟨pairs, target, own, frame⟩
    · exact lzrel_performs compute waiting (releaseRequest_nowhere nowhere)
  · rw [sy_eq]
    intro k sy finds
    refine ⟨fun e r signals waiting fresh found => ?_, fun n arrival => ?_, fun publish => ?_, fun waiting older => ?_, ?_⟩
    · subst signals
      have core : ((s.signal e.toNat).finds .ok).core = { s.core with accepted := some .ok, relOut := [], askDue := none } :=
        congrArg (fun c : Core => { c with accepted := some .ok, relOut := [], askDue := none }) (signal_core s e.toNat)
      refine ⟨_, accepted_signals asks word waiting fresh, core, ?_, signal_fires found e⟩
      rw [core]
      exact congrArg (State.finds · .ok) (signal_frame s e.toNat)
    · subst arrival
      exact ⟨_, markersLate_arrival asks word, rfl⟩
    · exact ⟨_, markersLate_publish asks (publish.imp (fun e => e ▸ word) (fun e => e ▸ word)), rfl⟩
    · exact ⟨_, accepted_waits asks waiting older, rfl⟩
    · have core : (((s.resolves i).foldl State.learn s).onCore (Core.resolvesAll · (s.resolves i))).core =
          s.core.resolvesAll (s.resolves i) := congrArg (Core.resolvesAll · (s.resolves i)) (learnAll_core s (s.resolves i))
      refine ⟨_, resolution_completes asks word, core, ?_, fun home => ?_⟩
      · rw [core]
        exact congrArg (State.onCore · (Core.resolvesAll · (s.resolves i))) (learnAll_frame s (s.resolves i))
      · show ((s.resolves i).foldl State.learn s).far = s.far
        rw [learnAll_home home]
  · intro c later
    refine ⟨_, valueArrives_eq later, ?_⟩
    beta_reduce
    rw [coreOf_arrived]
    refine ⟨rfl, (getX_arrive _ d v d).trans (if_pos rfl), ?_, fun r other => ⟨?_, ?_⟩, rfl, rfl, arriveX_frame _ d v⟩
    · exact (fullX_arrive _ d v d).trans ((if_pos rfl).trans (Bool.or_true _))
    · exact (getX_arrive _ d v r).trans (if_neg other)
    · exact (fullX_arrive _ d v r).trans (if_neg other)
  · intro c later
    refine ⟨_, valueArrives_eq later, ?_⟩
    beta_reduce
    rw [coreOf_arrived]
    exact ⟨rfl, (getV_arrive _ v g real d).trans (if_pos rfl), fun r other => (getV_arrive _ v g real r).trans (if_neg other),
      arriveV_frame _ v g real⟩

end Sys2Proof.Machine
end

section
/-! PROOFS. A core's channels (R222, R229), and steps that are only scheduled. -/

namespace Sys2Proof.Machine

open Sys2Proof

/-! ### Fixed-size tables -/

section
variable {α : Type} {n : Nat} (v : Vector α n) {i : Nat}

theorem vget_vset_same (inside : i < n) (a d : α) : vget (vset v i a) i d = a := by
  rw [vget, vset, Vector.getElem?_setIfInBounds_self_of_lt inside, Option.getD_some]

theorem vset_vset (a b : α) : vset (vset v i a) i b = vset v i b := Vector.setIfInBounds_setIfInBounds ..

end

/-! ### One channel -/

section
variable (c : Core) (copy : Bool) {n : Nat}

theorem chan_modChan (inside : n < 16) (f : Chan → Chan) : (c.modChan copy n f).chan copy n = f (c.chan copy n) := by
  cases copy <;> exact vget_vset_same _ inside _ _

theorem modChan_modChan (inside : n < 16) (f g : Chan → Chan) :
    (c.modChan copy n f).modChan copy n g = c.modChan copy n fun x => g (f x) := by
  have read := chan_modChan c copy inside f
  cases copy
  · exact congrArg (fun v => ({ c with fe := v } : Core)) ((vset_vset ..).trans (congrArg (fun x => vset c.fe n (g x)) read))
  · exact congrArg (fun v => ({ c with cp := v } : Core)) ((vset_vset ..).trans (congrArg (fun x => vset c.cp n (g x)) read))

/-- An update of a channel depends on the channel alone. -/
theorem modChan_congr {f g : Chan → Chan} (same : f (c.chan copy n) = g (c.chan copy n)) : c.modChan copy n f = c.modChan copy n g := by
  cases copy
  · exact congrArg (fun x => ({ c with fe := vset c.fe n x } : Core)) same
  · exact congrArg (fun x => ({ c with cp := vset c.cp n x } : Core)) same

theorem modChan_frame (f : Chan → Chan) :
    c.modChan copy n f = { c with fe := (c.modChan copy n f).fe, cp := (c.modChan copy n f).cp } := by
  cases copy <;> rfl

theorem modChan_id (f : Chan → Chan) : (c.modChan copy n f).id = c.id := by rw [modChan_frame]

end

/-! ### Commands that leave (R229) -/

theorem retire_queue (x : Chan) (q : ChanCmd) (obj : List Nat) : (x.retire q obj).queue = x.queue.filter fun y => y.seq ≠ q.seq := by
  unfold Chan.retire; cases q.err <;> rfl

theorem retire_clean (x : Chan) {q : ChanCmd} (obj : List Nat) (clean : q.err = none) :
    x.retire q obj = { x with queue := (x.retire q obj).queue } := by
  unfold Chan.retire; rw [clean]

theorem retire_failed (x : Chan) {q : ChanCmd} (obj : List Nat) {e : BitVec 8} (failed : q.err = some e) :
    (x.retire q obj).err = true ∧ (x.retire q obj).cause = (if x.err then x.cause else e) ∧
      (x.retire q obj).nerr = min 255 (x.nerr + 1) := by
  unfold Chan.retire; rw [failed]; exact ⟨rfl, rfl, rfl⟩

theorem retire_err (x : Chan) (q : ChanCmd) (obj : List Nat) : (x.retire q obj).err = (x.err || q.err.isSome) := by
  cases result : q.err with
  | none => rw [retire_clean x obj result]; exact (Bool.or_false _).symm
  | some e => rw [(retire_failed x obj result).1]; exact (Bool.or_true _).symm

/-! ### Steps scheduled -/

/-- Only steps have been scheduled, at free times. -/
def Schedules (s t : State) : Prop := t = { s with agenda := t.agenda, fresh := t.fresh } ∧ ∀ e ∈ s.agenda, e ∈ t.agenda

theorem Schedules.refl (s : State) : Schedules s s := ⟨rfl, fun _ mem => mem⟩

theorem Schedules.trans {s t u : State} (h : Schedules s t) (k : Schedules t u) : Schedules s u :=
  ⟨by rw [k.1, h.1], fun e mem => k.2 e (h.2 e mem)⟩

theorem Schedules.cycle_eq {s t : State} (h : Schedules s t) : t.cycle = s.cycle := by rw [h.1]; rfl

theorem Schedules.coreOf_eq {s t : State} (h : Schedules s t) (k : Nat) : t.coreOf k = s.coreOf k := by rw [h.1]; rfl

theorem sched_schedules (s : State) (cyc pt : Nat) (i : Instr) : Schedules s (s.sched cyc pt i) :=
  ⟨rfl, fun _ mem => (agendaPut_mem ..).mpr (.inr mem)⟩

theorem schedFree_schedules (s : State) (d : Config.Delay) (least pt : Nat) (i : Instr) : Schedules s (s.schedFree d least pt i) :=
  ⟨rfl, fun _ mem => (agendaPut_mem ..).mpr (.inr mem)⟩

theorem Schedules.ite {s t u : State} (p : Prop) [Decidable p] (h : Schedules s t) (k : Schedules s u) :
    Schedules s (if p then t else u) := by
  split
  · exact h
  · exact k

/-- A step scheduled at a free time stands in the agenda. -/
theorem schedFree_stands (s : State) (d : Config.Delay) (least pt : Nat) (i : Instr) :
    ∃ due, s.cycle + least ≤ due ∧ (due * 16 + pt, i) ∈ (s.schedFree d least pt i).agenda :=
  ⟨_, Nat.le_add_right .., (agendaPut_mem ..).mpr (.inl rfl)⟩

/-- A core that has been replaced, and steps scheduled: no other core differs, nor anything else. -/
theorem coreAlone_of_schedules {s t : State} {c : Core} {k : Nat} (later : Schedules (s.putCore c) t) (named : c.id = k) :
    CoreAlone s t k ∧ t.coreOf k = c := by
  have core : t.coreOf k = c := (later.coreOf_eq k).trans ((coreOf_putCore ..).trans (if_pos named.symm))
  exact ⟨by rw [CoreAlone, core]; exact later.1, core⟩

end Sys2Proof.Machine
end

section
/-! PROOFS. The words of the fetch and copy channels (R223..R239): what they queue, cancel and report. -/

namespace Sys2Proof.Machine

open Sys2Proof

/-! ### Commands queued (R222, R223) -/

theorem pushCmd_queued (s : State) (copy : Bool) (ch : Nat) (kind : ChanKind) (total : Nat) :
    CommandQueued s (s.pushCmd copy ch kind total) copy ch kind total :=
  ⟨_, Nat.lt_of_lt_of_le (Nat.lt_succ_self s.cycle) (Nat.le_add_right ..), rfl⟩

section
variable {s : State} {n : BitVec 4} (compute : s.core.isSys = false)
include compute

theorem exec_fget {c : Bool} (wf : (Instr.fget n c).wf = true) : exec (.fget n c) s = .next (s.fetchWord n.toNat c) :=
  State.computeWord_next s _ (fun s => s.fetchWord n.toNat c) compute wf

theorem exec_fpref (wf : (Instr.fpref n).wf = true) : exec (.fpref n) s = .next (s.pushCmd false n.toNat .fpref 1) :=
  State.computeWord_next s _ (fun s => s.pushCmd false n.toNat .fpref 1) compute wf

theorem exec_fcancel (wf : (Instr.fcancel n).wf = true) : exec (.fcancel n) s = .next
    (s.onCore fun c => c.modChan false n.toNat fun q => { q with queue := q.queue.filter (·.started) }) :=
  (State.computeWord_next s _ _ compute wf : execFcancel n s = _)

theorem exec_cput {c : Bool} (wf : (Instr.cput n c).wf = true) : exec (.cput n c) s = .next (s.putWord n.toNat c) :=
  State.computeWord_next s _ (fun s => s.putWord n.toNat c) compute wf

theorem exec_cmov (wf : (Instr.cmov n).wf = true) : exec (.cmov n) s = .next (s.cmovWord n.toNat) :=
  State.computeWord_next s _ (fun s => s.cmovWord n.toNat) compute wf

theorem exec_cdrain {t f : Bool} {d : XReg} (wf : (Instr.cdrain n t f d).wf = true) :
    exec (.cdrain n t f d) s = .next (s.drainChan n.toNat t f d) :=
  State.computeWord_next s _ (fun s => s.drainChan n.toNat t f d) compute wf

end

/-- A pattern word whose checks pass queues its command, and takes the fault of its resolution otherwise. -/
theorem patternWord_resolves {s t : State} {w : Instr} {k : ReqKind} {copy bad : Bool} {ch first count total : Nat}
    {qs : List PatReq} {kind : ChanKind} (run : exec w s = .next t)
    (does : t = s.withPattern k bad first count qs fun s => s.pushCmd copy ch kind total) (good : bad = false)
    (inside : first + count ≤ s.core.tk.rows) :
    (s.resolvePat s.core k qs = none → Completes w s (CommandQueued s · copy ch kind total)) ∧
    (∀ q f, s.resolvePat s.core k qs = some (q, f) → exec w s = .next (s.hFault k q.h q.origin f)) := by
  unfold State.withPattern at does
  rw [does, good, if_neg Bool.false_ne_true, rowsIn_inside inside] at run
  constructor
  · intro resolved
    rw [resolved] at run
    exact ⟨_, run, pushCmd_queued ..⟩
  · intro q f stops
    rw [stops] at run
    exact run

theorem ruleBroken_of_known {s : State} {h : Word} {ok : Desc → Bool} (kept : ∀ d, s.known h = some d → ok d = true) :
    s.ruleBroken h ok = false := by
  unfold State.ruleBroken
  cases found : s.known h with
  | none => rfl
  | some d => exact congrArg not (kept d found)

/-! ### What each word asks of its objects, homed here (R223..R228, R235, R236) -/

section
variable {s : State} (ch : Nat) (home : hHome (vget (s.core.staged 0) 0 0) = s.pkg)
include home

theorem fetchWord_walk :
    let r := s.core.staged 0
    let h := vget r 0 0
    let p := patternAt r 8 (baseOf r (s.desc h))
    s.fetchWord ch false = s.withPattern .fetch (feReserved r || s.ruleBroken h p.fmtOk) (rowNum (vget r 7 0)) p.runs
      [walkReq s s.core h false (originOf r (s.desc h).rank) p] fun s => s.pushCmd false ch .fget p.runs := by
  intro r h p
  unfold State.fetchWord
  dsimp only
  rw [learn_of_home home, if_neg Bool.false_ne_true]

theorem fetchWord_tile {d : Desc} (known : s.known (vget (s.core.staged 0) 0 0) = some d) :
    let r := s.core.staged 0
    let h := vget r 0 0
    s.fetchWord ch true = s.withPattern .fetch false (rowNum (vget r 7 0)) (d.npos + 1)
      [tileReq s s.core h false (originOf r (s.desc h).rank)] fun s => s.pushCmd false ch .fgetc 1 := by
  intro r h
  unfold State.fetchWord
  dsimp only
  rw [learn_of_home home, if_pos rfl, known]

end

section
variable {s : State} (ch : Nat) (home : hHome (vget (s.core.staged 1) 0 0) = s.pkg)
include home

theorem putWord_walk :
    let r := s.core.staged 1
    let h := vget r 0 0
    let p := patternAt r 9 (baseOf r (s.desc h))
    s.putWord ch false = s.withPattern .copy (cpReserved r || s.ruleBroken h p.fmtOk) (rowNum (vget r 7 0)) p.runs
      [walkReq s s.core h true (originOf r (s.desc h).rank) p] fun s => s.pushCmd true ch .cput p.runs := by
  intro r h p
  unfold State.putWord
  dsimp only
  rw [learn_of_home home, if_neg Bool.false_ne_true]

theorem putWord_tile {d : Desc} (known : s.known (vget (s.core.staged 1) 0 0) = some d) :
    let r := s.core.staged 1
    let h := vget r 0 0
    s.putWord ch true = s.withPattern .copy false (rowNum (vget r 7 0)) (d.npos + 1)
      [tileReq s s.core h true (originOf r (s.desc h).rank)] fun s => s.pushCmd true ch .cputc 1 := by
  intro r h
  unfold State.putWord
  dsimp only
  rw [learn_of_home home, if_pos rfl, known]

/-- `cmov` between two known objects (R226, R236). -/
theorem cmovWord_known (homeSrc : hHome (vget (s.core.staged 1) 7 0) = s.pkg) {a b : Desc}
    (known : s.known (vget (s.core.staged 1) 0 0) = some a) (knownSrc : s.known (vget (s.core.staged 1) 7 0) = some b) :
    let r := s.core.staged 1
    let h := vget r 0 0
    let src := vget r 7 0
    let p := patternAt r 9 (baseOf r (s.desc h))
    let ok := fun d : Desc => p.fmtOk d && fmtWidth d.fmt != 4
    s.cmovWord ch = s.withPattern .copy (cpReserved r || s.ruleBroken h ok || s.ruleBroken src ok || a.fmt != b.fmt) 0 0
      [walkReq s s.core h true (originOf r (s.desc h).rank) p,
        walkReq s s.core src false (coordsOf (s.desc src).dims (vget r 8 0).toNat) (patternAt r 9 (wrap64 (vget r 8 0).toInt))]
      fun s => s.pushCmd true ch .cmov p.runs := by
  intro r h src p ok
  unfold State.cmovWord
  dsimp only
  rw [learn_of_home home, learn_of_home homeSrc, known, knownSrc]

end

/-! ### Status words (R230, R238, R239) -/

theorem word_eq (c : Chan) : c.word = BitVec.ofNat 64
    ((if c.err then 1 else 0) + c.queue.length % 16 * 2 ^ 8 + c.nerr % 256 * 2 ^ 24 + c.cause.toNat * 2 ^ 32) := by
  have cause : c.cause.toNat % 2 ^ 8 = c.cause.toNat := Nat.mod_eq_of_lt c.cause.isLt
  unfold Chan.word place
  rw [cause]
  congr 1
  omega

theorem word_err (c : Chan) : c.word.getLsbD 0 = c.err := by
  have high : (c.queue.length % 16 * 2 ^ 8 + c.nerr % 256 * 2 ^ 24 + c.cause.toNat * 2 ^ 32) % 2 = 0 := by omega
  rw [word_eq, BitVec.getLsbD_ofNat, Nat.testBit_zero]
  cases c.err
  · simp only [Bool.false_eq_true, if_false]; simp; omega
  · simp only [if_true]; simp; omega

/-- The status word of a channel has been reported. -/
def State.reportChan (s : State) (copy : Bool) (n : Nat) : State := s.onCore fun k => k.modChan copy n Chan.reported

theorem drainChan_eq (s : State) (n : Nat) (t f : Bool) (d : XReg) :
    let c := s.core.chan (!f) n
    let r := s.reportChan (!f) n
    s.drainChan n t f d = if t && c.err then r.fault 0x1B c.word (BitVec.ofNat 64 n) else r.writeX d c.word 1 := by
  intro c r
  rw [← word_err c]
  rfl

theorem logIssue_modChan (c : Core) (copy : Bool) (n : Nat) (f : Chan → Chan) (reg cyc : Nat) :
    (c.modChan copy n f).logIssue reg cyc = (c.logIssue reg cyc).modChan copy n f := by
  have same : (c.modChan copy n f).recover = c.recover := by rw [modChan_frame]
  rw [Core.logIssue, Core.logIssue, same]
  by_cases again : c.recover.isSome = true
  · rw [if_pos again, if_pos again]
  · rw [if_neg again, if_neg again]
    cases copy <;> rfl

/-- A channel's report stands apart from a register that waits for its value. -/
theorem produceX_reportChan (s : State) (copy : Bool) (n : Nat) (d : XReg) (v : Word) (due : Nat) :
    (s.produceX d v due).reportChan copy n = (s.reportChan copy n).produceX d v due := by
  unfold State.reportChan State.produceX
  simp only [State.onCore, logIssue_modChan]
  cases copy <;> rfl

theorem exec_cstat {s : State} {n : BitVec 4} {f : Bool} {d : XReg} (compute : s.core.isSys = false)
    (wf : (Instr.cstat n f d).wf = true) : exec (.cstat n f d) s = .next
      ((s.reportChan (!f) n.toNat).produceX d (s.core.chan (!f) n.toNat).word (s.cycle + 2)) := by
  rw [← produceX_reportChan]
  exact (State.computeWord_next s _ _ compute wf : execCstat n f d s = _)

/-- Settles O28: each pattern word passes its checks to one resolution, which queues the command or faults; reports read and clear one
channel. -/
theorem channelWords : Obligations.ChannelWords := by
  unfold Obligations.ChannelWords
  constructor
  · intro s n compute ch rows fe cp H C M fp cpp mp row fget fgetc cput cputc cmov resolves
    refine ⟨fun legal format inside wf home => ?_, fun d known inside wf home => ?_,
      fun wf => ⟨_, exec_fpref compute wf, pushCmd_queued ..⟩, fun wf => ⟨_, exec_fcancel compute wf, rfl⟩,
      fun legal format inside wf home => ?_, fun d known inside wf home => ?_,
      fun legal a b known knownSrc same wide formatA formatB wf home => ?_⟩
    · have here := List.forall_mem_singleton.mp home
      exact patternWord_resolves (exec_fget compute wf) (fetchWord_walk ch here)
        (Bool.or_eq_false_iff.mpr ⟨legal, ruleBroken_of_known format⟩) inside
    · have here := List.forall_mem_singleton.mp home
      exact patternWord_resolves (exec_fget compute wf) (fetchWord_tile ch here known) rfl inside
    · have here := List.forall_mem_singleton.mp home
      exact patternWord_resolves (exec_cput compute wf) (putWord_walk ch here)
        (Bool.or_eq_false_iff.mpr ⟨legal, ruleBroken_of_known format⟩) inside
    · have here := List.forall_mem_singleton.mp home
      exact patternWord_resolves (exec_cput compute wf) (putWord_tile ch here known) rfl inside
    · obtain ⟨homeC, homeM⟩ := List.forall_mem_cons.mp home
      have hereM := List.forall_mem_singleton.mp homeM
      have ok {d : Desc} {h : Word} (found : s.known h = some d) (format : cpp.fmtOk d = true) (wide : fmtWidth d.fmt ≠ 4) :
          s.ruleBroken h (fun d => cpp.fmtOk d && fmtWidth d.fmt != 4) = false :=
        ruleBroken_of_known fun e other => by
          obtain rfl : d = e := Option.some.inj (found.symm.trans other)
          simp [format, wide]
      refine patternWord_resolves (exec_cmov compute wf) (cmovWord_known ch homeC hereM known knownSrc) ?_ (Nat.zero_le _)
      simp only [Bool.or_eq_false_iff]
      exact ⟨⟨⟨legal, ok known formatA wide⟩, ok knownSrc formatB (same ▸ wide)⟩, by simp [same]⟩
  · intro s n t f d compute c w r
    have status : c.word = w := word_eq c
    refine ⟨fun wf quiet => ⟨r.writeX d w 1, (exec_cdrain compute wf).trans ?_, writeX_result r d w 1⟩, fun wf failed => ?_,
      fun wf => ⟨_, exec_cstat compute wf, ?_⟩⟩
    · have none_ : (t && c.err) = false := by rcases quiet with h | h <;> simp [h]
      rw [drainChan_eq, if_neg (by simp [c] at none_ ⊢; exact none_), ← status]
      rfl
    · rw [exec_cdrain compute wf, drainChan_eq, if_pos (by simp [c] at failed ⊢; exact failed), ← status]
      rfl
    · rw [← status]
      exact produceX_arrives ..

end Sys2Proof.Machine
end

section
/-! PROOFS. Reads and writes of objects by a core's engines (R184, R227, R235, R268): what they leave alone. -/

namespace Sys2Proof.Machine

open Sys2Proof

theorem ObjectMoves.coreOf {s t : State} (h : ObjectMoves s t) (k : Nat) : CoreMoves (s.coreOf k) (t.coreOf k) := by
  obtain ⟨m, ⟨-, -, cores, -⟩, rest⟩ := h
  have same : t.coreOf k = m.coreOf k := by rw [rest]; rfl
  rw [same]; exact cores k

/-- A sector that another package serves, asked for and read (R184). -/
theorem askedFar_moves (s : State) (q : Requester) (h : Word) (d : Desc) (o : Nat) (cs : List Nat) (ver : Option Nat) (part core : Nat)
    (a : FarAt) : ObjectMoves s ((s.askFar q h d o cs 4 0 ver).readFar part core a).2 :=
  (askFar_moves ..).trans (below_readFar ..).objectFar

/-- An engine reads sectors (R227): stored ones below the handle unit, and those of other packages over the fabric. -/
theorem readSectors_moves (core : Nat) (h : Word) (d : Desc) (ver : Option Nat) (l : List Nat) (s : State) :
    ObjectMoves s (s.readSectors core h d ver l).2 := by
  induction l generalizing s with
  | nil => exact .refl s
  | cons n l ih =>
    unfold State.readSectors
    split
    rename_i r s1 read
    have first : ObjectMoves s s1 := by
      split at read
      · rename_i x _ _
        have moved := below_readSector s core x false (classOf false false x.line)
        split at read <;> rename_i one <;> cases read <;> exact (moved.of_eq one).object
      · exact (congrArg (fun p => ObjectMoves s p.2) read).mp (askedFar_moves ..)
      · cases read; exact .refl s
    split
    · exact first
    · have rest := ih s1
      split
      · rename_i later
        rw [later] at rest
        exact first.trans rest
      · exact first.trans rest

theorem writeFar_moves (s : State) (a : FarAt) (f : Mask → Mask) : ObjectMoves s (s.writeFar a f) :=
  ⟨_, (below_fresh s (s.fresh + 1)).moves, rfl⟩

theorem forwardBits_moves (s : State) (q : Requester) (h : Word) (d : Desc) (ps : List (Nat × Nat × Nat)) :
    ObjectMoves s (s.forwardBits q h d ps) :=
  ObjectMoves.fold _ _ (fun _ _ => (toPackage_moves ..).trans (ObjectMoves.fold _ _ (fun _ _ => writeFar_moves ..) _)) s

/-- An engine writes pieces of an object (R235): here after the copies that versions need, elsewhere over the fabric. -/
theorem writePieces_moves (s : State) (q : Requester) (h : Word) (d : Desc) (ps : List (Piece × Nat)) :
    ObjectMoves s (s.writePieces q h d ps) := by
  refine ObjectMoves.trans (ObjectMoves.fold _ _ (fun s n => ?_) s) (forwardBits_moves ..)
  split
  · exact ((below_cow ..).trans (below_writeSector ..)).object
  · exact .refl s

/-- A step that makes a request while the die's L2 takes requests, and no package is being left. -/
theorem memoryEvent_now {s : State} {k : Nat} (takes : s.l2Holds k = false) (settled : s.leaving = []) (i : Instr) (f : State → State) :
    s.memoryEvent k i f = .next (f s) := by
  have within : s.leaving.isEmpty = true := by rw [settled]; rfl
  rw [State.memoryEvent, takes, if_neg Bool.false_ne_true, State.underWay, if_pos within]

end Sys2Proof.Machine
end

section
/-! PROOFS. Streams (R241..R244): binding, freeing, and the walker's next vector. -/

namespace Sys2Proof.Machine

open Sys2Proof

/-! ### Walkers -/

/-- The fetch of the next vector of stream n of core k. -/
def Instr.walks (k n : Nat) : Instr → Bool
  | .streamVectorFetched c q => c == k && q == n
  | _ => false

theorem walks_eq_false_iff (k n : Nat) (i : Instr) :
    Instr.walks k n i = false ↔ ∀ c q, i = .streamVectorFetched c q → ¬ (c = k ∧ q = n) := by
  constructor
  · rintro other c q rfl ⟨rfl, rfl⟩
    simp [Instr.walks] at other
  · intro other
    unfold Instr.walks
    split
    next c q => simpa using other c q rfl
    next => rfl

/-- A core with one of its streams replaced. -/
def Core.setStream (c : Core) (n : Nat) (st : VStream) : Core := { c with streams := vset c.streams n st }

/-! ### `sbind` and `sfree` -/

section
variable {s : State} {n : BitVec 4} (compute : s.core.isSys = false)
include compute

theorem exec_sbind (wf : (Instr.sbind n).wf = true) : exec (.sbind n) s = .next (s.bindStream n.toNat) :=
  State.computeWord_next s _ (fun s => s.bindStream n.toNat) compute wf

theorem exec_sfree (wf : (Instr.sfree n).wf = true) : exec (.sfree n) s = .next
    ((s.unsched (Instr.walks s.core.id n.toNat)).onCore fun c => c.setStream n.toNat {}) :=
  (State.computeWord_next s _ _ compute wf : execSfree n s = _)

end

/-- The stream that `sbind` binds: the staged pattern, and the pins in force (R218, R241). -/
def State.boundStream (s : State) (p : Pattern) : VStream :=
  { bound := true, stg := s.core.staged 0, ftz := vfFtz s.core.arch.vfmt, total := p.runs,
    pins := s.core.pins.map fun p => (p.home * 2 ^ 23 + p.slot, p.ver) }

/-- `sbind` with its checks passed and its object resolved, homed here. -/
theorem bindStream_resolved {s : State} (n : Nat) :
    let r := s.core.staged 0
    let h := vget r 0 0
    let x := vget r 13 0
    let p := patternAt r 8 (baseOf r (s.desc h))
    hHome h = s.pkg → feReserved r = false → x.toNat < 2 ^ 9 → chainOk x p.n0 = true →
    (∀ d, s.known h = some d → p.fmtOk d = true ∧ (x.getLsbD 4 = true ∨ (d.fmt = fieldN x 0 4 ∧ d.fmt ≤ 10))) →
    s.resolvePat s.core .fetch [walkReq s s.core h false (originOf r (s.desc h).rank) p] = none →
    s.bindStream n = ((s.unsched (Instr.walks s.core.id n)).onCore fun c => c.setStream n (s.boundStream p)).schedFree .stream 1 ptPush
      (.streamVectorFetched s.core.id n) := by
  intro r h x p home legal small chain format resolved
  have high : x.toNat / 2 ^ 9 = 0 := Nat.div_eq_of_lt small
  have kept : s.ruleBroken h (fun d => p.fmtOk d && (x.getLsbD 4 || (d.fmt == fieldN x 0 4 && decide (d.fmt ≤ 10)))) = false :=
    ruleBroken_of_known fun d known => by
      obtain ⟨ok, fits⟩ := format d known
      rcases fits with converts | ⟨same, plain⟩
      · simp [ok, converts]
      · simp [ok, ← same, plain]
  have good : (feReserved r || decide (x.toNat / 2 ^ 9 ≠ 0) || !chainOk x p.n0 ||
      s.ruleBroken h fun d => p.fmtOk d && (x.getLsbD 4 || (d.fmt == fieldN x 0 4 && decide (d.fmt ≤ 10)))) = false := by
    rw [legal, high, chain, kept]; rfl
  unfold State.bindStream State.withPattern
  dsimp only
  rw [learn_of_home home, rowsIn_inside (Nat.zero_le _), resolved, if_neg fun bad => Bool.false_ne_true (good.symm.trans bad)]
  rfl

/-! ### The walker (R241) -/

section
variable {s : State} {k q : Nat}

/-- The stream q of core k, its object and its pattern there. -/
def State.stream (s : State) (k q : Nat) : VStream := vget (s.coreOf k).streams q {}
def State.walkPattern (s : State) (st : VStream) : Pattern := patternAt st.stg 8 (baseOf st.stg (s.desc (vget st.stg 0 0)))

/-- A free stream, a full buffer, a finished pattern or an error: the walker rests. -/
def VStream.rests (st : VStream) : Bool := !st.bound || decide (4 ≤ st.buf.length) || decide (st.total ≤ st.next) || st.err.isSome

theorem rests_of {st : VStream} (h : st.bound = false ∨ 4 ≤ st.buf.length ∨ st.total ≤ st.next) : st.rests = true := by
  unfold VStream.rests
  rcases h with free | full | ended
  · simp [free]
  · simp [full]
  · simp [ended]

theorem not_rests {st : VStream} (bound : st.bound = true) (room : st.buf.length < 4) (more : st.next < st.total) (clean : st.err = none) :
    ¬ st.rests = true := by
  unfold VStream.rests
  simp [bound, room, more, clean]

variable (takes : s.l2Holds k = false) (settled : s.leaving = [])
include takes settled

theorem streamFetch_rests (rests : (s.stream k q).rests = true) : exec (.streamVectorFetched k q) s = .next s :=
  (memoryEvent_now takes settled (.streamVectorFetched k q) _).trans (congrArg Host.Outcome.next (if_pos rests))

variable (goes : ¬ (s.stream k q).rests = true)
include goes

/-- A run past EXTENT is an error of the next vector (R225, R243). -/
theorem streamFetch_outside :
    let st := s.stream k q
    let h := vget st.stg 0 0
    let p := s.walkPattern st
    p.run (s.desc h) st.next = none →
    ∃ aux, exec (.streamVectorFetched k q) s = .next
      (s.putCore ((s.coreOf k).setStream q { st with err := some ⟨0x0A, h, aux⟩ })) := by
  intro st h p out
  let first := ((List.range p.n0).find? fun j => ((s.desc h).bitAt (p.idx st.next j)).isNone).getD 0
  refine ⟨BitVec.ofInt 64 (p.idx st.next first * (s.desc h).w / 8), (memoryEvent_now takes settled (.streamVectorFetched k q) _).trans
    (congrArg Host.Outcome.next ((if_neg goes).trans ?_))⟩
  dsimp only [st, h, p, State.walkPattern, State.stream] at out
  dsimp only
  rw [out]
  rfl

/-- The next run joins the buffer, and the walker goes on while there is room and more to come (R241). -/
theorem streamFetch_joins {rb : RunBits} {m : List (Nat × Nat)} {t : State} :
    let st := s.stream k q
    let h := vget st.stg 0 0
    let d := s.desc h
    let ver := mget st.pins (hKey h)
    let v := chainVec st d.fmt (rb.data.map (pieceBits m)) (rb.scale.map (pieceBits m)) (rb.sup.map (pieceBits m))
    let joined := t.putCore ((t.coreOf k).setStream q { st with buf := st.buf ++ [⟨v.1, st.tag, v.2⟩], next := st.next + 1 })
    (s.walkPattern st).run d st.next = some rb → (∀ n ∈ sectorsOf rb.all, s.locate h d ver (64 * n) ≠ .missing) →
    s.readSectors k h d ver (sectorsOf rb.all) = (.ok m, t) →
    ∃ u, exec (.streamVectorFetched k q) s = .next u ∧ Schedules joined u := by
  intro st h d ver v joined run there read
  have present : ¬ ((sectorsOf rb.all).any fun n => s.locate h d ver (64 * n) == .missing) = true := by
    simpa using there
  have same : vget (t.coreOf k).streams q {} = st := by
    have moved : ObjectMoves s t := (congrArg (fun r => ObjectMoves s r.2) read).mp (readSectors_moves ..)
    rw [(moved.coreOf k).1]; rfl
  refine ⟨if decide (st.buf.length + 1 < 4) && decide (st.next + 1 < st.total) then
      joined.schedFree .stream 1 ptPush (.streamVectorFetched k q) else joined, ?_, .ite _ (schedFree_schedules ..) (.refl _)⟩
  refine (memoryEvent_now takes settled (.streamVectorFetched k q) _).trans (congrArg Host.Outcome.next ((if_neg goes).trans ?_))
  dsimp only [st, h, d, ver, State.walkPattern, State.stream] at run present read
  dsimp only
  rw [run]
  dsimp only
  rw [if_neg present, read]
  dsimp only [State.modCore]
  rw [same]
  rfl

end

/-- Settles O29: the walker's step rests, joins a run to the buffer, or records a run past EXTENT. -/
theorem streamWords : Obligations.StreamWords := by
  unfold Obligations.StreamWords
  constructor
  · intro s n compute r H x p gone
    refine ⟨fun wf legal small chain format home resolved => ⟨_, exec_sbind compute wf, ?_⟩,
      fun wf => ⟨_, exec_sfree compute wf, rfl, ?_⟩⟩
    · have binds := bindStream_resolved n.toNat home legal small chain format resolved
      have due := schedFree_stands ((s.unsched (Instr.walks s.core.id n.toNat)).onCore fun c => c.setStream n.toNat (s.boundStream p))
        .stream 1 ptPush (.streamVectorFetched s.core.id n.toNat)
      rw [binds]
      exact ⟨rfl, rfl, due⟩
    · intro e
      rw [State.onCore_agenda, State.unsched, List.mem_filter, Bool.not_eq_true']
      exact and_congr_right fun _ => walks_eq_false_iff ..
  · intro s k q inside st H d p ver takes settled
    refine ⟨fun rests => streamFetch_rests takes settled (rests_of rests), fun bound room more clean home => ?_⟩
    have goes : ¬ (s.stream k q).rests = true := not_rests bound room more clean
    constructor
    · intro rb m s' run there read v
      have moved : ObjectMoves s s' := (congrArg (fun r => ObjectMoves s r.2) read).mp (readSectors_moves ..)
      have streams : (s'.coreOf k).streams = (s.coreOf k).streams := by rw [(moved.coreOf k).1]
      obtain ⟨u, run, joined⟩ := streamFetch_joins takes settled goes run there read
      obtain ⟨alone, core⟩ := coreAlone_of_schedules joined (coreOf_id s' k)
      refine ⟨u, run, moved, alone, ?_⟩
      rw [← streams]
      exact core
    · intro out
      obtain ⟨aux, run⟩ := streamFetch_outside takes settled goes out
      have done := Schedules.refl (s.putCore ((s.coreOf k).setStream q { st with err := some ⟨0x0A, H, aux⟩ }))
      obtain ⟨alone, core⟩ := coreAlone_of_schedules done (coreOf_id s k)
      exact ⟨_, run, alone, _, rfl, rfl, core⟩

end Sys2Proof.Machine
end

section
/-! PROOFS. Channel commands start (R222): what they wait for, and the core that they leave. -/

namespace Sys2Proof.Machine

open Sys2Proof

section
variable {s : State} {k ch : Nat} {q : ChanCmd}

/-! ### What is only scheduled -/

theorem armHead_schedules (s : State) (k ch : Nat) : Schedules s (s.armHead k ch) := by
  unfold State.armHead
  split
  · exact .ite _ (.refl s) (.ite _ (.ite _ (sched_schedules ..) (.refl s)) (schedFree_schedules ..))
  · exact .refl s

theorem pokeFetch_schedules (s : State) (k ch : Nat) : Schedules s (s.pokeFetch k ch) := by
  unfold State.pokeFetch
  split
  · exact .ite _ (sched_schedules ..) (.refl s)
  · exact .refl s

/-- The oldest command of a copy channel, once started, is performed at a read point (R235). -/
theorem armHead_started {l : List ChanCmd} (head : ((s.coreOf k).chan true ch).queue = q :: l) (started : q.started = true)
    (plain : q.kind ≠ .clz) : s.armHead k ch = s.schedFree .copy 0 ptRead (.copyCommandComplete k ch) := by
  unfold State.armHead
  rw [head]
  dsimp only
  rw [started, if_neg (by decide), if_neg plain]

/-! ### Starts -/

/-- A core with a command of one of its channels started. -/
def Core.starts (c : Core) (copy : Bool) (ch seq : Nat) : Core :=
  c.modChan copy ch fun x => x.mod seq fun y => { y with started := true }

theorem exec_channelCommandStart {copy : Bool} (first : ((s.coreOf k).chan copy ch).queue.find? (fun q => !q.started) = some q)
    (plain : q.kind ≠ .clz) (later : q.issue < s.cycle) :
    exec (.channelCommandStart k copy ch) s = .next (s.startCmd k copy ch q) := by
  have due : ¬ (decide (s.cycle ≤ q.issue) && !q.again) = true := by simp [later]
  show execChannelCommandStart k copy ch s = _
  unfold execChannelCommandStart State.event
  dsimp only
  rw [first]
  dsimp only
  rw [if_neg due, if_neg plain]

/-- A fetch that starts has every row to come (R222). -/
theorem startCmd_fetch (new : q.again = false) : s.startCmd k false ch q =
    (List.range q.total).foldl (fun s r => s.schedFree .fetchRow 0 ptFill (.fetchRowWritten k ch q.seq r))
      (s.putCore ((s.coreOf k).starts false ch q.seq)) := by
  unfold State.startCmd
  dsimp only
  rw [new, if_neg Bool.false_ne_true]
  rfl

theorem startCmd_copy (new : q.again = false) {l : List ChanCmd} (head : ((s.coreOf k).chan true ch).queue = q :: l) :
    s.startCmd k true ch q = (s.putCore ((s.coreOf k).starts true ch q.seq)).armHead k ch := by
  unfold State.startCmd
  dsimp only
  rw [new, if_neg Bool.false_ne_true, head]
  dsimp only
  rw [if_pos rfl, if_pos rfl]
  rfl

theorem fetchRows_schedules (s : State) (k ch seq total : Nat) : Schedules s
    ((List.range total).foldl (fun s r => s.schedFree .fetchRow 0 ptFill (.fetchRowWritten k ch seq r)) s) :=
  foldl_related (r := Schedules) .refl .trans (fun _ _ _ => schedFree_schedules ..) s

theorem fetchRows_stand (s : State) (k ch seq : Nat) {total r : Nat} (inside : r < total) :
    ∃ due, s.cycle ≤ due ∧ (due * 16 + ptFill, Instr.fetchRowWritten k ch seq r) ∈
      ((List.range total).foldl (fun s r => s.schedFree .fetchRow 0 ptFill (.fetchRowWritten k ch seq r)) s).agenda := by
  refine foldl_reaches (r := Schedules)
    (p := fun t => ∃ due, s.cycle ≤ due ∧ (due * 16 + ptFill, Instr.fetchRowWritten k ch seq r) ∈ t.agenda)
    .refl .trans (fun _ _ _ => schedFree_schedules ..) ?_ (List.mem_range.mpr inside) ?_
  · rintro t u later ⟨due, cyc, mem⟩
    exact ⟨due, cyc, later.2 _ mem⟩
  · intro t later
    rw [← later.cycle_eq]
    exact schedFree_stands t .fetchRow 0 ptFill _

/-- The oldest command of a channel, once started, is the oldest still. -/
theorem starts_head (inside : ch < 16) {l : List ChanCmd} (head : ((s.coreOf k).chan true ch).queue = q :: l) :
    ∃ l', (((s.putCore ((s.coreOf k).starts true ch q.seq)).coreOf k).chan true ch).queue = { q with started := true } :: l' := by
  have core : (s.putCore ((s.coreOf k).starts true ch q.seq)).coreOf k = (s.coreOf k).starts true ch q.seq :=
    (coreOf_putCore ..).trans (if_pos ((modChan_id ..).trans (coreOf_id s k)).symm)
  rw [core, Core.starts, chan_modChan _ _ inside, Chan.mod, head, List.map_cons, if_pos rfl]
  exact ⟨_, rfl⟩

end

end Sys2Proof.Machine
end

section
/-! PROOFS. Rows of a fetch as they are written (R227), and the completion of fetches and copies (R229, R235). -/

namespace Sys2Proof.Machine

open Sys2Proof

/-! ### What moves below the handle unit leaves of a core -/

section
variable {c d : Core} (h : CoreMoves c d)
include h

theorem CoreMoves.tk_eq : d.tk = c.tk := by rw [h.1]; rfl
theorem CoreMoves.arch_eq : d.arch = c.arch := by rw [h.1]
theorem CoreMoves.fills_eq : d.fills = c.fills := by rw [h.1]
theorem CoreMoves.chan_eq (copy : Bool) (n : Nat) : d.chan copy n = c.chan copy n := by rw [h.1]; rfl

end

/-! ### A row of a fetch (R227) -/

/-- A core with a run of a fetch written to a row. -/
def Core.rowWritten (c : Core) (ch seq run row : Nat) (r : Row) : Core :=
  (c.modChan false ch fun x => x.mod seq fun q => { q with runs := run :: q.runs }).fill ch seq row r

section
variable {c : Core} {ch seq row : Nat} (run : Nat) (r : Row)

/-- No later command has filled the row, in this cycle or on this channel (R121, R222): the fill writes it. -/
theorem rowWritten_eq (inside : ch < 16) (fills : ∀ f ∈ c.fills, f.1 = row → f.2 ≤ seq)
    (newest : ∀ y ∈ (c.chan false ch).queue, y.seq ≤ seq) :
    let b := c.modChan false ch fun x => x.mod seq fun q => { q with runs := run :: q.runs }
    c.rowWritten ch seq run row r = { b.writeRow .fetch (c.tk.base + row) r with fills := (row, seq) :: c.fills } := by
  intro b
  have cycle : (b.fills.any fun f => f.1 = row && decide (seq < f.2)) = false := by
    refine List.any_eq_false.mpr fun f mem => ?_
    have := fills f mem
    simp only [Bool.and_eq_true, decide_eq_true_eq, not_and, Nat.not_lt]
    exact this
  have chan : ((b.chan false ch).queue.any fun q => decide (seq < q.seq) && (q.kind == .fget || q.kind == .fgetc) &&
      q.runs.any fun i => rowNum (vget q.stg 7 0) + i = row) = false := by
    refine List.any_eq_false.mpr fun y mem => ?_
    rw [chan_modChan _ _ inside] at mem
    obtain ⟨x, listed, rfl⟩ := List.mem_map.mp mem
    have old := newest x listed
    have seqs : (if x.seq = seq then { x with runs := run :: x.runs } else x).seq = x.seq := by split <;> rfl
    simp only [Bool.and_eq_true, decide_eq_true_eq, seqs]
    rintro ⟨⟨lt, -⟩, -⟩
    omega
  unfold Core.rowWritten Core.fill
  dsimp only
  rw [cycle, chan, Bool.or_self, if_neg Bool.false_ne_true]
  rfl

theorem rowWritten_id (c : Core) : (c.rowWritten ch seq run row r).id = c.id := by
  have id := modChan_id c false (n := ch) fun x => x.mod seq fun q => { q with runs := run :: q.runs }
  unfold Core.rowWritten Core.fill
  dsimp only
  split
  · exact id
  · rw [writeRow_frame]; exact id

theorem physRow_rowWritten (inside : ch < 16) (fills : ∀ f ∈ c.fills, f.1 = row → f.2 ≤ seq)
    (newest : ∀ y ∈ (c.chan false ch).queue, y.seq ≤ seq) (p : Nat) :
    (c.rowWritten ch seq run row r).physRow p = if p = c.tk.base + row then r else c.physRow p := by
  rw [rowWritten_eq run r inside fills newest]
  refine (physRow_writeRow ..).trans ?_
  rw [modChan_frame]
  rfl

theorem rowWritten_keeps (inside : ch < 16) (fills : ∀ f ∈ c.fills, f.1 = row → f.2 ≤ seq)
    (newest : ∀ y ∈ (c.chan false ch).queue, y.seq ≤ seq) :
    (c.rowWritten ch seq run row r).arch = c.arch ∧ (c.rowWritten ch seq run row r).chan false ch =
      (c.chan false ch).mod seq fun q => { q with runs := run :: q.runs } := by
  rw [rowWritten_eq run r inside fills newest, writeRow_frame]
  exact ⟨by rw [modChan_frame], chan_modChan c false inside fun x => x.mod seq fun q => { q with runs := run :: q.runs }⟩

end

/-! ### The step that writes it -/

section
variable {s : State} {k ch : Nat} {q : ChanCmd}

/-- A run within EXTENT, of sectors that are there, is read and written as one row. -/
theorem fetchRow_writes {run : Nat} {rb : RunBits} {m : List (Nat × Nat)} {t : State} :
    let h := vget q.stg 0 0
    let d := s.desc h
    let ver := mget q.pins (hKey h)
    let row : Row := ⟨rowOf d.w (rb.data.map (pieceBits m)) (rb.scale.map (pieceBits m)) (rb.sup.map (pieceBits m)),
      if (vget q.stg 9 0).getLsbD 12 then tagC else tagS⟩
    (patternAt q.stg 8 (baseOf q.stg d)).run d run = some rb → (∀ n ∈ sectorsOf rb.all, s.locate h d ver (64 * n) ≠ .missing) →
    s.readSectors k h d ver (sectorsOf rb.all) = (.ok m, t) →
    s.fetchRow k ch q run = t.putCore ((t.coreOf k).rowWritten ch q.seq run (rowNum (vget q.stg 7 0) + run) row) := by
  intro h d ver row found there read
  have present : ¬ ((sectorsOf rb.all).any fun n => s.locate h d ver (64 * n) == .missing) = true := by
    simpa using there
  unfold State.fetchRow
  dsimp only
  rw [found]
  dsimp only
  rw [if_neg present, read]
  exact modCore_modCore _ _ _ _ ((modChan_id ..).trans (coreOf_id t k)) ((rowWritten_id ..).trans (coreOf_id t k))

theorem exec_fetchRowWritten {run seq : Nat} (takes : s.l2Holds k = false) (settled : s.leaving = [])
    (found : ((s.coreOf k).chan false ch).queue.find? (fun q => q.seq = seq) = some q) (kind : q.kind = .fget)
    (new : q.runs.contains run = false) (clean : q.spoiled.contains run = false) (more : q.done = false) :
    exec (.fetchRowWritten k ch seq run) s = .next ((s.fetchRow k ch q run).pokeFetch k ch) := by
  have goes : ¬ (q.runs.contains run || q.spoiled.contains run || q.done) = true := by rw [new, clean, more]; decide
  refine (memoryEvent_now takes settled (.fetchRowWritten k ch seq run) _).trans (congrArg Host.Outcome.next ?_)
  unfold Chan.find
  rw [found]
  dsimp only
  rw [if_neg goes, kind]

/-! ### Completions -/

theorem exec_fetchCommandComplete {l : List ChanCmd} (head : ((s.coreOf k).chan false ch).queue = q :: l) (done : q.done = true) :
    exec (.fetchCommandComplete k ch) s = .next
      ((s.putCore ((s.coreOf k).modChan false ch fun x => x.retire q [])).pokeFetch k ch) := by
  show execFetchCommandComplete k ch s = _
  unfold execFetchCommandComplete State.event
  dsimp only
  rw [head]
  dsimp only
  rw [if_pos done]
  rfl

/-- One run of `cput`, whose row is spatial and whose object is not watched here, is written (R235). -/
theorem putRun_writes {rb : RunBits} :
    let c := s.coreOf k
    let h := vget q.stg 0 0
    let d := s.desc h
    let row := c.row (rowNum (vget q.stg 7 0))
    (patternAt q.stg 9 (baseOf q.stg d)).run d 0 = some rb → c.pinOf h = none → d.watch = false →
    Tag.isH row.tag = false → Tag.isX row.tag = false →
    s.putRun k q 0 = (none, s.writePieces (c.requester s.pkg .copy) h d
      ((rb.data.zipIdx.map fun p => (p.1, elem d.w row.data p.2)) ++
        (rb.scale.zipIdx.map fun p => (p.1, elem 8 row.data (256 + p.2))) ++ rb.sup.map fun p => (p, elem 32 row.data 66))) := by
  intro c h d row found free unwatched noH noX
  have tags : ¬ (Tag.isH (c.row (rowNum (vget q.stg 7 0) + 0)).tag || Tag.isX (c.row (rowNum (vget q.stg 7 0) + 0)).tag) = true := by
    rw [Nat.add_zero, noH, noX]; decide
  have pins : ¬ (c.pinOf h).isSome = true := by rw [free]; decide
  have quiet : s.watchPieces (c.requester s.pkg .copy) h d rb.data = s := by
    have none_ : (rb.data.find? fun p => d.watch && (s.holder h d (p.1 / 8)).isNone && (s.watchHit h d p.1 1).isSome) = none := by
      simp [unwatched]
    rw [State.watchPieces, none_]
  unfold State.putRun
  dsimp only
  rw [if_neg tags, if_neg pins, found]
  dsimp only
  rw [quiet]
  rfl

section
variable (takes : s.l2Holds k = false) (settled : s.leaving = []) {l : List ChanCmd}
  (head : ((s.coreOf k).chan true ch).queue = q :: l) (started : q.started = true) (plain : q.kind ≠ .clz)
include takes settled head started plain

/-- A copy that has failed leaves without being performed. -/
theorem copyCommandComplete_failed {e : BitVec 8} (failed : q.err = some e) :
    exec (.copyCommandComplete k ch) s = .next
      ((s.putCore ((s.coreOf k).modChan true ch fun x => x.retire q [hKey (vget q.stg 0 0)])).armHead k ch) := by
  have goes : ¬ (!q.started || q.kind == .clz) = true := by simp [started, plain]
  have ready : ¬ (q.err.isNone && q.waits s (s.coreOf k)) = true := by simp [failed]
  refine (memoryEvent_now takes settled (.copyCommandComplete k ch) _).trans (congrArg Host.Outcome.next ?_)
  rw [head]
  dsimp only
  rw [if_neg goes, if_neg ready]
  have some_ : q.err.isSome = true := by rw [failed]; rfl
  simp only [some_, if_true]
  cases q.kind <;> rfl

theorem copyCommandComplete_one (clean : q.err = none) (kind : q.kind = .cput) (ready : q.waits s (s.coreOf k) = false)
    (one : (patternAt q.stg 9 0).runs = 1) {t : State} (put : s.putRun k q 0 = (none, t)) :
    exec (.copyCommandComplete k ch) s = .next
      ((t.putCore ((t.coreOf k).modChan true ch fun x => x.retire q [hKey (vget q.stg 0 0)])).armHead k ch) := by
  have goes : ¬ (!q.started || q.kind == .clz) = true := by simp [started, plain]
  have waits : ¬ (q.err.isNone && q.waits s (s.coreOf k)) = true := by simp [ready]
  refine (memoryEvent_now takes settled (.copyCommandComplete k ch) _).trans (congrArg Host.Outcome.next ?_)
  rw [head]
  dsimp only
  rw [if_neg goes, if_neg waits, clean, kind, one]
  simp only [Option.isSome_none, Bool.false_eq_true, if_false, List.range_one, List.foldl_cons, List.foldl_nil, put]
  rfl

end

end

/-- A command has left a channel that stood as x, and its error is in the channel's status (R229). -/
def Leaves (b : Core) (copy : Bool) (ch : Nat) (x : Chan) (q : ChanCmd) (d : Core) : Prop :=
  d = b.modChan copy ch (fun _ => d.chan copy ch) ∧
  (d.chan copy ch).queue = x.queue.filter (fun y => y.seq ≠ q.seq) ∧
  (q.err = none → (d.chan copy ch).err = x.err ∧ (d.chan copy ch).cause = x.cause ∧ (d.chan copy ch).nerr = x.nerr) ∧
  (∀ e, q.err = some e → (d.chan copy ch).err = true ∧ (d.chan copy ch).cause = (if x.err then x.cause else e) ∧
    (d.chan copy ch).nerr = min 255 (x.nerr + 1))

theorem leaves_retire (b : Core) (copy : Bool) {ch : Nat} (inside : ch < 16) (q : ChanCmd) (obj : List Nat) :
    Leaves b copy ch (b.chan copy ch) q (b.modChan copy ch fun x => x.retire q obj) := by
  unfold Leaves
  rw [chan_modChan b copy inside]
  refine ⟨modChan_congr _ _ rfl, retire_queue .., fun clean => ?_, fun e failed => retire_failed _ _ failed⟩
  rw [retire_clean _ _ clean]
  exact ⟨rfl, rfl, rfl⟩

/-- Settles O30: each event replaces one core, in which one channel and, for a fetch, one row differ. -/
theorem channelEvents : Obligations.ChannelEvents := by
  unfold Obligations.ChannelEvents
  intro s k ch inside takes settled c leaves started
  have named (f : Chan → Chan) (copy : Bool) : (c.modChan copy ch f).id = k := (modChan_id ..).trans (coreOf_id s k)
  refine ⟨fun q first plain new later => ?_, fun q l head waits plain new later => ?_, ?_,
    fun q l head begun all => ?_, fun q l head begun plain => ⟨fun e failed => ?_, ?_⟩⟩
  · have rows := fetchRows_schedules (s.putCore (c.starts false ch q.seq)) k ch q.seq q.total
    obtain ⟨alone, core⟩ := coreAlone_of_schedules rows (named _ _)
    refine ⟨_, (exec_channelCommandStart first plain later).trans (congrArg _ (startCmd_fetch new)), alone, core, fun r few => ?_⟩
    have due := fetchRows_stand (s.putCore (c.starts false ch q.seq)) k ch q.seq few
    rwa [State.cycle, putCore_clock] at due
  · have first : (c.chan true ch).queue.find? (fun q => !q.started) = some q := by
      rw [head, List.find?_cons_of_pos (by simp [waits])]
    obtain ⟨l', oldest⟩ := starts_head inside head
    have arms := armHead_started oldest rfl plain
    obtain ⟨alone, core⟩ := coreAlone_of_schedules (schedFree_schedules (s.putCore (c.starts true ch q.seq)) .copy 0 ptRead
      (.copyCommandComplete k ch)) (named _ _)
    refine ⟨_, (exec_channelCommandStart first plain later).trans (congrArg _ ((startCmd_copy new head).trans arms)), alone, core, ?_⟩
    have due := schedFree_stands (s.putCore (c.starts true ch q.seq)) .copy 0 ptRead (.copyCommandComplete k ch)
    rwa [State.cycle, putCore_clock] at due
  · intro seq r q rb m s' H d ver row found kind new clean more home run there read fills newest
    obtain rfl : q.seq = seq := by simpa using List.find?_some found
    have moved : ObjectMoves s s' := (congrArg (fun r => ObjectMoves s r.2) read).mp (readSectors_moves ..)
    have moves := moved.coreOf k
    have chan := moves.chan_eq false ch
    have base : (s'.coreOf k).tk.base = c.tk.base := congrArg Task.base moves.tk_eq
    rw [← moves.fills_eq] at fills
    rw [← chan] at newest
    let data : Row := ⟨rowOf d.w (rb.data.map (pieceBits m)) (rb.scale.map (pieceBits m)) (rb.sup.map (pieceBits m)),
      if (vget q.stg 9 0).getLsbD 12 then tagC else tagS⟩
    have step := exec_fetchRowWritten takes settled found kind new clean more
    rw [fetchRow_writes (ch := ch) run there read] at step
    obtain ⟨alone, core⟩ := coreAlone_of_schedules
      (pokeFetch_schedules (s'.putCore ((s'.coreOf k).rowWritten ch q.seq r (rowNum (vget q.stg 7 0) + r) data)) k ch)
      ((rowWritten_id ..).trans (coreOf_id s' k))
    obtain ⟨arch, queue⟩ := rowWritten_keeps r data inside fills newest
    have rows := physRow_rowWritten r data inside fills newest
    refine ⟨_, step, moved, alone, ?_⟩
    rw [core, ← base, ← chan, ← moves.arch_eq]
    exact ⟨(rows _).trans (if_pos rfl), fun p other => (rows p).trans (if_neg other), arch, congrArg Chan.queue queue⟩
  · have done : q.done = true := by simp [ChanCmd.done, begun, all]
    obtain ⟨alone, core⟩ := coreAlone_of_schedules (pokeFetch_schedules (s.putCore (c.modChan false ch fun x => x.retire q [])) k ch)
      (named _ _)
    refine ⟨_, exec_fetchCommandComplete head done, alone, ?_⟩
    rw [core]
    rintro x rfl
    exact leaves_retire c false inside q []
  · obtain ⟨alone, core⟩ := coreAlone_of_schedules
      (armHead_schedules (s.putCore (c.modChan true ch fun x => x.retire q [hKey (vget q.stg 0 0)])) k ch) (named _ _)
    refine ⟨_, copyCommandComplete_failed takes settled head begun plain failed, alone, ?_⟩
    rw [core]
    rintro x rfl
    exact leaves_retire c true inside q _
  · intro rb clean kind H d p row ready one run home free unwatched noH noX s'
    have moved : ObjectMoves s s' := writePieces_moves ..
    have put := putRun_writes run free unwatched noH noX
    let left := s'.putCore ((s'.coreOf k).modChan true ch fun x => x.retire q [hKey H])
    obtain ⟨alone, core⟩ := coreAlone_of_schedules (armHead_schedules left k ch) ((modChan_id ..).trans (coreOf_id s' k))
    refine ⟨left.armHead k ch, copyCommandComplete_one takes settled head begun plain clean kind ready one put, moved, alone, ?_⟩
    rw [core]
    rintro x rfl
    have same := (moved.coreOf k).chan_eq true ch
    rw [← same]
    exact leaves_retire (s'.coreOf k) true inside q _

end Sys2Proof.Machine
end

section
/-! PROOFS. The sending side of the landing zones (R237, R258, R266): what `clz` queues, and how its rows leave and are answered. -/

namespace Sys2Proof.Machine

open Sys2Proof

/-! ### The word (R237) -/

theorem exec_clzCopy {s : State} {n : BitVec 4} (compute : s.core.isSys = false) (wf : (Instr.clzCopy n).wf = true) :
    exec (.clzCopy n) s = .next (s.landWord n.toNat) :=
  State.computeWord_next s _ (fun s => s.landWord n.toNat) compute wf

/-- The core with a `clz` behind the commands of its channel. -/
def Core.landQueued (c : Core) (ch : Nat) (cmd : ChanCmd) : Core :=
  { c.modChan true ch fun q => { q with queue := q.queue ++ [cmd] } with seq := c.seq + 1 }

theorem fieldN_low (w : Word) (n : Nat) : fieldN w 0 n = w.toNat % 2 ^ n := by rw [fieldN, Nat.pow_zero, Nat.div_one]

/-- A `clz` without reserved bits goes on to the checks of its rows and of its target. -/
theorem landWord_legal {s : State} (ch : Nat) :
    let r := s.core.staged 1
    let t := vget r 14 0
    let x := vget r 15 0
    let n := x.toNat % 2 ^ 13 + 1
    let cmd : ChanCmd := { kind := .clz, seq := s.core.seq, issue := s.cycle, stg := r, phase := s.core.phase, total := n }
    t.toNat < 2 ^ 44 → t.toNat / 2 ^ 19 % 2 ^ 10 = 0 → x.toNat < 2 ^ 29 → x.toNat / 2 ^ 13 % 8 = 0 →
    s.landWord ch = s.rowsIn ((vget r 7 0).toNat / 512) n
      (if !s.members.contains (t.toNat / 2 ^ 10 % 512) ∨ 768 ≤ t.toNat % 1024 then s.fault 0x0F t
        else (s.onCore fun c => c.landQueued ch cmd).schedFree .channel 1 ptRead (.channelCommandStart s.core.id true ch)) := by
  intro r t x n cmd short gapT shortX gapX
  have good : ¬ (t.toNat / 2 ^ 44 ≠ 0 ∨ fieldN t 19 10 ≠ 0 ∨ x.toNat / 2 ^ 29 ≠ 0 ∨ fieldN x 13 3 ≠ 0) := by
    simp only [fieldN, Nat.div_eq_of_lt short, Nat.div_eq_of_lt shortX, gapT, ne_eq, not_true_eq_false, false_or]
    exact not_not_intro gapX
  unfold State.landWord
  dsimp only
  rw [if_neg good, fieldN_low, fieldN_low]
  rfl

/-! ### Rows that leave (R237, R258) -/

/-- Row i of a `clz` of a package, as it stands. -/
def landingRow (pkg k ch : Nat) (q : ChanCmd) (i : Nat) (r : Row) : LandingRow :=
  let t := vget q.stg 14 0
  { fromPkg := pkg, fromCore := k, fromCh := ch, cmd := q.seq, zone := fieldN t 29 4, slot := fieldN t 33 3,
    off := fieldN (vget q.stg 15 0) 16 13 + i, gen := BitVec.ofNat 8 (fieldN t 36 8), data := r.data, tag := r.tag }

theorem landingRow_gen (pkg k ch : Nat) (q : ChanCmd) (i : Nat) (r : Row) :
    landingRow pkg k ch q i r = { landingRow pkg k ch q i r with gen := BitVec.ofNat 8 ((vget q.stg 14 0).toNat / 2 ^ 36) } := by
  have gen : BitVec.ofNat 8 (fieldN (vget q.stg 14 0) 36 8) = BitVec.ofNat 8 ((vget q.stg 14 0).toNat / 2 ^ 36) :=
    BitVec.eq_of_toNat_eq (by simp [fieldN])
  rw [← gen]
  rfl

/-- A row leaves for a core of this package. -/
def State.rowLeaves (s : State) (target : Nat) (r : LandingRow) : State :=
  (s.draw .landing).2.sched (s.cycle + 1 + (s.draw .landing).1 % 65535) ptArrive (.landingRowArrival target r)

theorem rowLeaves_schedules (s : State) (target : Nat) (r : LandingRow) : Schedules s (s.rowLeaves target r) :=
  ⟨rfl, fun _ mem => (agendaPut_mem ..).mpr (.inr mem)⟩

theorem rowLeaves_arrives (s : State) (target : Nat) (r : LandingRow) : ∃ due, s.cycle < due ∧ due ≤ s.cycle + 65535 ∧
    (due * 16 + ptArrive, Instr.landingRowArrival target r) ∈ (s.rowLeaves target r).agenda := by
  have short : (s.draw .landing).1 % 65535 < 65535 := Nat.mod_lt _ (by decide)
  exact ⟨_, by omega, by omega, (agendaPut_mem ..).mpr (.inl rfl)⟩

/-- The rows of a `clz` leave for a core of this package. -/
def State.rowsLeave (s : State) (target total : Nat) (row : Nat → LandingRow) : State :=
  (List.range total).foldl (fun s i => s.rowLeaves target (row i)) s

theorem rowsLeave_schedules (s : State) (target total : Nat) (row : Nat → LandingRow) : Schedules s (s.rowsLeave target total row) :=
  foldl_related (r := Schedules) .refl .trans (fun _ _ _ => rowLeaves_schedules ..) s

theorem rowsLeave_arrive (s : State) (target : Nat) (row : Nat → LandingRow) {total i : Nat} (inside : i < total) :
    ∃ due, s.cycle < due ∧ due ≤ s.cycle + 65535 ∧
      (due * 16 + ptArrive, Instr.landingRowArrival target (row i)) ∈ (s.rowsLeave target total row).agenda := by
  refine foldl_reaches (r := Schedules) (p := fun t => ∃ due, s.cycle < due ∧ due ≤ s.cycle + 65535 ∧
      (due * 16 + ptArrive, Instr.landingRowArrival target (row i)) ∈ t.agenda)
    .refl .trans (fun _ _ _ => rowLeaves_schedules ..) ?_ (List.mem_range.mpr inside) ?_
  · rintro t u later ⟨due, after, before, mem⟩
    exact ⟨due, after, before, later.2 _ mem⟩
  · intro t later
    rw [← later.cycle_eq]
    exact rowLeaves_arrives ..

theorem putCore_pkg (s : State) (c : Core) : (s.putCore c).pkg = s.pkg := by rw [putCore_frame]

/-- A choice by the package is the same at every step of a fold that keeps the package. -/
theorem foldl_here {α : Type} {pkg : Nat} (here there : State → α → State) (keeps : ∀ s a, (here s a).pkg = s.pkg) (l : List α) :
    ∀ s : State, pkg = s.pkg → l.foldl (fun s a => if pkg = s.pkg then here s a else there s a) s = l.foldl here s := by
  induction l with
  | nil => exact fun _ _ => rfl
  | cons a l ih =>
    intro s same
    rw [List.foldl_cons, if_pos same, List.foldl_cons]
    exact ih _ (same.trans (keeps s a).symm)

section
variable {s : State} {k ch : Nat} {q : ChanCmd}

/-- A core with a `clz` under way since a cycle. -/
def Core.sends (c : Core) (ch seq cyc : Nat) : Core :=
  c.modChan true ch fun x => x.mod seq fun q => { q with started := true, sent := cyc }

theorem sends_id (ch seq cyc : Nat) : ((s.coreOf k).sends ch seq cyc).id = k := (modChan_id ..).trans (coreOf_id s k)

/-- What the rows of a `clz` are, by the row of the task's window that each is read from. -/
def State.clzRow (s : State) (k ch : Nat) (q : ChanCmd) (i : Nat) : LandingRow :=
  landingRow s.pkg k ch q i ((s.coreOf k).row (rowNum (vget q.stg 7 0) + i))

/-- A `clz` under way whose rows have left for a core of this package. -/
def State.clzSent (s : State) (k ch : Nat) (q : ChanCmd) : State :=
  (s.putCore ((s.coreOf k).sends ch q.seq s.cycle)).rowsLeave (fieldN (vget q.stg 14 0) 0 10) q.total (s.clzRow k ch q)

theorem clzSent_schedules (s : State) (k ch : Nat) (q : ChanCmd) :
    Schedules (s.putCore ((s.coreOf k).sends ch q.seq s.cycle)) (s.clzSent k ch q) := rowsLeave_schedules ..

theorem clzSent_cycle (s : State) (k ch : Nat) (q : ChanCmd) : (s.clzSent k ch q).cycle = s.cycle :=
  (clzSent_schedules ..).cycle_eq.trans (congrArg (· / 16) (putCore_clock ..))

theorem clzSent_arrive (s : State) (k ch : Nat) (q : ChanCmd) {i : Nat} (inside : i < q.total) :
    ∃ due, s.cycle < due ∧ due ≤ s.cycle + 65535 ∧ (due * 16 + ptArrive,
      Instr.landingRowArrival (fieldN (vget q.stg 14 0) 0 10) (s.clzRow k ch q i)) ∈ (s.clzSent k ch q).agenda := by
  have rows := rowsLeave_arrive (s.putCore ((s.coreOf k).sends ch q.seq s.cycle)) (fieldN (vget q.stg 14 0) 0 10)
    (s.clzRow k ch q) inside
  rwa [State.cycle, putCore_clock] at rows

/-- Rows that have left become undelivered after 65,536 cycles (R258), and the channel's next command may start. -/
def State.clzAwaits (s : State) (k ch : Nat) : State :=
  let late := s.sched (s.cycle + 65536) ptEnd (.rowUndelivered k ch)
  if ((late.coreOf k).chan true ch).queue.any fun x => !x.started then
    late.schedFree .channel 0 ptRead (.channelCommandStart k true ch)
  else late

theorem clzAwaits_schedules (s : State) (k ch : Nat) : Schedules s (s.clzAwaits k ch) :=
  (sched_schedules ..).trans (.ite _ (schedFree_schedules ..) (.refl _))

theorem clzAwaits_undelivered (s : State) (k ch : Nat) :
    ((s.cycle + 65536) * 16 + ptEnd, Instr.rowUndelivered k ch) ∈ (s.clzAwaits k ch).agenda :=
  (Schedules.ite _ (schedFree_schedules ..) (.refl _)).2 _ ((agendaPut_mem ..).mpr (.inl rfl))

/-- Rows for this package leave within it. -/
theorem sendRows_here (here : (vget q.stg 14 0).toNat / 2 ^ 10 % 512 = s.pkg) :
    s.sendRows k ch q = (s.clzSent k ch q).clzAwaits k ch := by
  let start := s.putCore ((s.coreOf k).sends ch q.seq s.cycle)
  have own : start.pkg = s.pkg := putCore_pkg ..
  let row (i : Nat) : LandingRow := landingRow start.pkg k ch q i ((s.coreOf k).row (rowNum (vget q.stg 7 0) + i))
  have leave := foldl_here (fun u i => u.rowLeaves (fieldN (vget q.stg 14 0) 0 10) (row i))
    (fun u i => (u.send (fieldN (vget q.stg 14 0) 10 9) k (.landing (fieldN (vget q.stg 14 0) 0 10) (row i))).sched u.cycle ptEnd
      (.meterAdd (s.coreOf k).tk.part (s.coreOf k).tk.rid 9 512)) (fun _ _ => rfl) (List.range q.total) start (here.trans own.symm)
  have same : row = s.clzRow k ch q := by simp only [row, own]; rfl
  refine (congrArg (State.clzAwaits · k ch) leave).trans ?_
  rw [same]
  rfl

/-! ### The steps of a `clz` (R222, R258, R266) -/

theorem exec_channelCommandStart_clz (first : ((s.coreOf k).chan true ch).queue.find? (fun q => !q.started) = some q)
    (kind : q.kind = .clz) (later : q.issue < s.cycle) (read : s.clock % 16 = ptRead)
    (alone : ∀ y ∈ ((s.coreOf k).chan true ch).queue, y.kind = .clz → y.started = false) :
    exec (.channelCommandStart k true ch) s = .next (s.sendRows k ch q) := by
  have due : ¬ (decide (s.cycle ≤ q.issue) && !q.again) = true := by simp [later]
  have free : ¬ (((s.coreOf k).chan true ch).queue.any fun x => x.kind == .clz && x.started) = true := by
    simp only [List.any_eq_true, Bool.and_eq_true, beq_iff_eq, not_exists, not_and, Bool.not_eq_true]
    exact alone
  show execChannelCommandStart k true ch s = _
  unfold execChannelCommandStart State.event
  dsimp only
  rw [first]
  dsimp only
  rw [if_neg due, if_pos kind, if_neg (not_not_intro read), if_neg free]

theorem nextClz_schedules (s : State) (k ch : Nat) : Schedules s (s.nextClz k ch) := by
  unfold State.nextClz
  split
  · exact .ite _ (.refl s) (schedFree_schedules ..)
  · exact .refl s

theorem exec_clzComplete {l : List ChanCmd} (head : ((s.coreOf k).chan true ch).queue = q :: l) (kind : q.kind = .clz)
    (started : q.started = true) (answered : q.runs.length = q.total) :
    exec (.clzComplete k ch) s = .next
      (((s.putCore ((s.coreOf k).modChan true ch fun x => x.retire q [])).armHead k ch).nextClz k ch) := by
  show execClzComplete k ch s = _
  unfold execClzComplete State.event
  dsimp only
  rw [head]
  dsimp only
  rw [if_pos ⟨kind, started, answered⟩]
  rfl

/-- A core with a `clz` whose rows without an answer are undelivered (R258). -/
def Core.undelivered (c : Core) (ch seq : Nat) : Core :=
  c.modChan true ch fun x => x.mod seq fun y => { y.fail 0x0F with runs := List.range y.total }

theorem exec_rowUndelivered (sent : ((s.coreOf k).chan true ch).queue.find? (fun q => q.kind == .clz && q.started) = some q)
    (late : q.sent + 65536 ≤ s.cycle) (missing : q.runs.length < q.total) :
    exec (.rowUndelivered k ch) s = .next
      ((s.putCore ((s.coreOf k).undelivered ch q.seq)).sched s.cycle ptEnd (.clzComplete k ch)) := by
  have overdue : ¬ (s.cycle < q.sent + 65536 ∨ q.total ≤ q.runs.length) := by omega
  show execRowUndelivered k ch s = _
  unfold execRowUndelivered State.event State.modCore
  dsimp only
  rw [sent]
  dsimp only
  rw [if_neg overdue]
  rfl

end

/-- Settles O31: a `clz` passes its checks in the model's order; each of its steps replaces one core, in which one channel differs. -/
theorem landingSends : Obligations.LandingSends := by
  unfold Obligations.LandingSends
  constructor
  · intro s n compute wf r t x rows src cmd short gapT shortX gapX
    have step := (exec_clzCopy compute wf).trans (congrArg _ (landWord_legal n.toNat short gapT shortX gapX))
    refine ⟨fun outside => ?_, fun inside => ⟨fun stranger => ?_, fun member core => ?_⟩⟩
    · exact step.trans (congrArg _ (if_neg (Nat.not_le_of_lt outside)))
    · rw [rowsIn_inside inside] at step
      exact step.trans (congrArg _ (if_pos (stranger.imp_left fun h => by rw [h]; rfl)))
    · rw [rowsIn_inside inside] at step
      refine ⟨_, step.trans (congrArg _ (if_neg ?_)), _, ?_, rfl⟩
      · rw [member]; exact not_or_intro Bool.false_ne_true (Nat.not_le_of_lt core)
      · exact Nat.lt_of_lt_of_le (Nat.lt_succ_self s.cycle) (Nat.le_add_right ..)
  · intro s k ch inside c
    have named (f : Chan → Chan) : (c.modChan true ch f).id = k := (modChan_id ..).trans (coreOf_id s k)
    refine ⟨fun q first kind later read alone => ?_, fun q l head kind started answered => ?_,
      fun q sent late missing => ?_⟩
    · intro t src here
      obtain ⟨others, core⟩ := coreAlone_of_schedules ((clzSent_schedules s k ch q).trans (clzAwaits_schedules _ k ch)) (named _)
      refine ⟨_, (exec_channelCommandStart_clz first kind later read alone).trans (congrArg _ (sendRows_here here)), others, core,
        fun i few => ?_, ?_⟩
      · obtain ⟨due, after, before, mem⟩ := clzSent_arrive s k ch q few
        rw [State.clzRow, landingRow_gen, fieldN_low] at mem
        exact ⟨due, after, before, (clzAwaits_schedules ..).2 _ mem⟩
      · have due := clzAwaits_undelivered (s.clzSent k ch q) k ch
        rwa [clzSent_cycle] at due
    · obtain ⟨others, core⟩ := coreAlone_of_schedules ((armHead_schedules (s.putCore (c.modChan true ch fun x => x.retire q [])) k ch).trans
        (nextClz_schedules _ k ch)) (named _)
      refine ⟨_, exec_clzComplete head kind started answered, others, ?_⟩
      rw [core, chan_modChan _ _ inside, retire_queue, head, List.filter_cons_of_neg (by simp)]
      exact ⟨rfl, retire_err ..⟩
    · obtain ⟨others, core⟩ := coreAlone_of_schedules (sched_schedules (s.putCore (c.undelivered ch q.seq)) s.cycle ptEnd
        (.clzComplete k ch)) (named _)
      exact ⟨_, exec_rowUndelivered sent late missing, others, core, (agendaPut_mem ..).mpr (.inl rfl)⟩

end Sys2Proof.Machine
end
